-- ==== Sys2Proof/Word.lean ====
section
/-! DEFINITION. Word.lean: the word types of the machine, and their plainest reading (R14: bytes, little-endian).
-/
namespace Sys2Proof

/-- One byte of memory. -/
abbrev Byte := BitVec 8
/-- A vector register of one lane (R18). -/
abbrev W32 := BitVec 32
/-- A scalar or commons register, an address, an instruction word. -/
abbrev W64 := BitVec 64
/-- A set of lanes of one gang: bit j is lane j (R147). -/
abbrev LaneMask := BitVec 32

/-- Lane `j` is in the set. -/
def LaneMask.has (m : LaneMask) (j : Nat) : Bool := BitVec.getLsbD m j

end Sys2Proof
end

