-- ==== Sys2Proof/Machine/Bits.lean ====
section
/-! DEFINITION. Machine/Bits.lean: bit fields, sign extension, byte order (R14) and the sparse table that holds
registers and memory.
-/
namespace Sys2Proof.Machine

/-- R87 `Bits(x, hi, lo)`. -/
def bitsOf (x hi lo : Nat) : Nat := (x >>> lo) % 2 ^ (hi + 1 - lo)

/-- R87 `Wrap(x, w)`. -/
def wrapInt (x : Int) (w : Nat) : Nat := (x % (2 ^ w : Nat)).toNat

/-- R87 `ZeroExt(x, w)`. -/
def zeroExt (x w : Nat) : Nat := x % 2 ^ w

/-- R87 `SignExt(x, w)`. -/
def signExt (x w : Nat) : Int :=
  let y := x % 2 ^ w
  if w = 0 then 0 else if y < 2 ^ (w - 1) then (y : Int) else (y : Int) - (2 ^ w : Nat)

/-- The number of bits of `n` up to and with its highest one. -/
def bitLen (n : Nat) : Nat := if n = 0 then 0 else Nat.log2 n + 1

/-- R14: the little-endian value of a list of bytes. -/
def leValue : List Byte → Nat
  | [] => 0
  | b :: bs => b.toNat + 256 * leValue bs

/-- R14: `n` bytes of `x`, least significant first. -/
def leBytes (n : Nat) (x : Nat) : List Byte :=
  match n with
  | 0 => []
  | n + 1 => BitVec.ofNat 8 x :: leBytes n (x / 256)

/-- Bit `i` of the set. -/
def maskHas (m : LaneMask) (i : Nat) : Bool := m.getLsbD i

/-- The set with lane `i` only. -/
def laneBit (i : Nat) : LaneMask := 1#32 <<< i

/-- The lanes of a set, ascending (R16). -/
def lanesOf (m : LaneMask) : List Nat := (List.range 32).filter (fun i => maskHas m i)

/-- The set of the lanes that satisfy `p`. -/
def laneSet (p : Nat → Bool) : LaneMask :=
  (List.range 32).foldl (fun m i => if p i then m ||| laneBit i else m) 0#32

/-- The lowest lane of a set, or 32. -/
def lowestLane (m : LaneMask) : Nat := ((lanesOf m).head?).getD 32

/-- Ceiling of a quotient. -/
def ceilDiv (a b : Nat) : Nat := (a + b - 1) / b

/-- The smallest power of two that is at least `n` (0 for 0). -/
def ceilPow2 (n : Nat) : Nat := if n ≤ 1 then n else 2 ^ bitLen (n - 1)

/-! ### Sparse tables: sorted pairs, no entry equal to the value of an unlisted key. -/

/-- The value of key `k`; `d` where the table lists none. -/
def tabGet {β : Type} (d : β) (t : List (Nat × β)) (k : Nat) : β :=
  match t with
  | [] => d
  | p :: t => if p.1 = k then p.2 else tabGet d t k

/-- The table without key `k`. -/
def tabDel {β : Type} (t : List (Nat × β)) (k : Nat) : List (Nat × β) :=
  t.filter (fun p => p.1 ≠ k)

/-- Insertion in key order. -/
def tabIns {β : Type} (k : Nat) (x : β) (t : List (Nat × β)) : List (Nat × β) :=
  match t with
  | [] => [(k, x)]
  | p :: t => if k < p.1 then (k, x) :: p :: t else p :: tabIns k x t

/-- Writing `x` at key `k`; writing the default removes the entry. -/
def tabPut {β : Type} [DecidableEq β] (d : β) (t : List (Nat × β)) (k : Nat) (x : β) : List (Nat × β) :=
  if x = d then tabDel t k else tabIns k x (tabDel t k)

/-- The canonical form: keys strictly rising, no entry equal to the default. -/
def tabWf {β : Type} [DecidableEq β] (d : β) (t : List (Nat × β)) : Bool :=
  match t with
  | [] => true
  | p :: t => (p.2 ≠ d) && (match t with | [] => true | q :: _ => decide (p.1 < q.1)) && tabWf d t

end Sys2Proof.Machine
end

