-- ==== Sys2Proof/Syntax.lean ====
section
/-! DEFINITION. Syntax.lean: the operations and events of spec/opcode_table.json, one constructor of `Instr` per row.

An instruction's constructor carries its decoded fields. The guard, the seam and the pairing belong to the WORD
(R64, R65, R75): they stand in `DWord`. A device event's constructor names which unit acts and on what, and carries
what arrives from outside the package (the host, another package, a sensor).
-/
namespace Sys2Proof

/-- R69: the operand types. -/
inductive Ty where
  | i32 | n32 | i64 | n64 | i16 | n16 | i8 | n8
  | f32 | f64 | f16 | bf16 | e4m3 | e5m2 | e3m2 | e2m3 | e2m1 | ds8
  deriving DecidableEq, Repr

/-- R46: the rounding modes. -/
inductive Rnd where
  | rne | rtz | rup | rdn | rna
  deriving DecidableEq, Repr

/-- R41, R70: the special registers a source operand can name. -/
inductive Special where
  | lane | gang | block | core | quad | die | pkg | accel | clock | mr | fsr | sfsr
  deriving DecidableEq, Repr

/-- R70: a decoded 10-bit operand specifier. `bad` keeps a reserved value, which no operand may name. -/
inductive Opd where
  | v (n : Fin 256)
  | s (n : Fin 512)
  | c (n : Fin 32)
  | rport (n : Fin 4)
  | wport (n : Fin 4)
  | m (n : Fin 8)
  | k (n : Fin 4)
  | zero
  | ones
  | sp (r : Special)
  | bad (raw : BitVec 10)
  | none
  deriving DecidableEq, Repr

/-- R68: the fields of an RRR word. `rnd = none` is code 0, the governing register's mode (R53). -/
structure RRR where
  d : Opd
  a : Opd
  b : Opd
  ty : Ty
  rnd : Option Rnd
  sat : Bool
  cce : Bool
  ccd : Fin 4
  deriving DecidableEq, Repr

/-- R67: the fields of an RI word. -/
structure RI where
  d : Opd
  a : Opd
  imm : BitVec 28
  deriving DecidableEq, Repr

/-- R73: the fields of a J word (JMOD is fixed by the instruction, but for TRAP's code). -/
structure JF where
  offset : BitVec 32
  aux : Opd
  jmod : BitVec 6
  deriving DecidableEq, Repr

/-- R163: access sizes. -/
inductive MSize where
  | n8 | i8 | n16 | i16 | b32 | b64 | b128
  deriving DecidableEq, Repr

/-- R73, R163: the fields of a plain memory word. -/
structure MF where
  d : Opd
  base : Opd
  index : Opd
  off : BitVec 12
  size : MSize
  sc : Bool
  svc : Fin 4
  deriving DecidableEq, Repr

/-- R165: the register types of an element access. -/
inductive ElemTy where
  | f32 | f16 | bf16 | i32 | n32
  deriving DecidableEq, Repr

/-- R165: the fields of an element access (SC chooses the constructor). -/
structure MEF where
  d : Opd
  base : Opd
  index : Opd
  off : BitVec 12
  rt : ElemTy
  svc : Fin 4
  deriving DecidableEq, Repr

/-- R168: atomic operations. -/
inductive Aop where
  | xchg | cas | add | smin | smax | umin | umax | and | or | xor | fadd | fmin | fmax | incw | ld | st
  deriving DecidableEq, Repr

/-- R168: the fields of an atomic. -/
structure AF where
  d : Opd
  base : Opd
  data : Opd
  aop : Aop
  acq : Bool
  rel : Bool
  size : MSize
  svc : Fin 4
  deriving DecidableEq, Repr

/-- R73: the operand fields of an E word. Its CMD fields stand in each constructor. -/
structure EF where
  d : Opd
  a : Opd
  b : Opd
  deriving DecidableEq, Repr

/-- R173: the fields of SBIND. -/
structure SbindF where
  d : Opd
  a : Opd
  b : Opd
  sgn : Bool
  esz : Fin 4
  port : Fin 8
  deriving DecidableEq, Repr

/-- R75: the destination of a short instruction. -/
inductive SDst where
  | v (n : Fin 128)
  | s (n : Fin 128)
  | port (n : Fin 4)
  deriving DecidableEq, Repr

/-- R75: the source of a short instruction. -/
inductive SSrc where
  | v (n : Fin 128)
  | s (n : Fin 128)
  | imm (x : BitVec 8)
  | port (n : Fin 4)
  deriving DecidableEq, Repr

/-- R75: a short instruction's fields, but for its guard. -/
structure Slot where
  d : SDst
  s : SSrc
  qual : Fin 4
  deriving DecidableEq, Repr

/-- R157: the operators of SCAN and REDUCE. -/
inductive ScanOp where
  | add | min | max | and | or | xor
  deriving DecidableEq, Repr

/-- R200: the specials RDSP reads, in the order of their index. -/
inductive CoreSpecial where
  | gang | block | core | quad | die | pkg | accel | clock | part | vregs | sregs | replays | fenced
  | blkcores | blkpos | nblocks | bthreads
  deriving DecidableEq, Repr

/-- R225: the classes of outstanding operations. -/
inductive OpClass where
  | copy | matrix | gather | join
  deriving DecidableEq, Repr

/-- R340: what a patrol read of a sector found. -/
inductive PatrolResult where
  | clean | corrected | uncorrectable
  deriving DecidableEq, Repr

/-- R359, R360: what a copy unit of a page motion met. -/
inductive CopyErr where
  | ok | source | destination
  deriving DecidableEq, Repr

/-- R350: the kinds of invalidation. -/
inductive InvKind where
  | page | asid | all
  deriving DecidableEq, Repr

/-- R392: what the boot sequence meets: the step that fails, 0 for none, beside the version's own check; the signed
configuration record with the Chorus signature of each unit class (R204); the channels that training finds unusable; the
anti-rollback counter and the leaf index as replay-protected flash gives them. Board flash lies outside the package. -/
structure BootConfig where
  failStep : Fin 6
  version : BitVec 32
  rollback : BitVec 32
  digest : BitVec 256
  disabledCores : List Nat
  disabledParts : List (Nat × Nat)
  channels : Nat
  offStations : List Nat
  powerLimit : Nat
  cxlBytes : List Nat
  leaf : Nat
  signatures : List (BitVec 64)
  badChannels : Nat
  deriving DecidableEq, Repr

/-- R400, R404: what a remote request asks of its target. A part of a tile names the tile, by the source's block and unit,
how many parts of it the target gets, and its version words (R216); an atomic carries data and compare value of every lane
that names the location, in ascending order (R253). -/
inductive RemoteBody where
  | read (n : Nat)
  | write (bytes masks : List (BitVec 8))
  | tile (block unit parts : Nat) (vers : List Nat) (bytes masks : List (BitVec 8))
  | atomic (aop : Aop) (size : MSize) (lanes : List (BitVec 128 × BitVec 128))
  | arrive (block gang : Nat)
  | wait (block gang : Nat) (phase : BitVec 32)
  | withdraw (block : Nat)
  | status (gang : Nat)
  | init (gang : Nat) (operand : BitVec 64)
  deriving DecidableEq, Repr

/-- R401: a remote request as it arrives at its target. -/
structure RemoteReq where
  src : Nat
  sasid : Nat
  tag : Nat
  age : Nat
  station : Nat
  va : Nat
  body : RemoteBody
  deriving DecidableEq, Repr

/-- The exact value of an encoding: a NaN, an infinity, or (-1)^neg · m · 2^e. -/
inductive FVal where
  | nan (signalling : Bool)
  | inf (neg : Bool)
  | fin (neg : Bool) (m : Nat) (e : Int)
  deriving DecidableEq, Repr

/-- R414: what a reply carries for one entry or pooled segment: its first position, its segment, its cause, and the
row's bytes and scale codes (POOL 0) or its exact partials (POOL 1 and 2), each with its class: whether +∞ and whether −∞ is
among its terms. -/
structure RowReply where
  pos : Nat
  seg : Nat
  cause : Nat
  raw : List (BitVec 8)
  codes : List (BitVec 8)
  vals : List FVal
  flags : BitVec 5
  infs : List (Bool × Bool)
  deriving DecidableEq, Repr

/-- R398, R401 to R403: a response as it arrives at the source. -/
inductive RemoteResp where
  | data (bytes : List (BitVec 8))
  | poison
  | ack
  | old (xs : List (BitVec 128 × BitVec 5))
  | busy
  | staleTag
  | fault (cause : Nat)
  | leaf (frame fmt blk : Nat) (r w x : Bool)
  | status (x : BitVec 64)
  | rows (l : List RowReply)
  | released (asid va : Nat) (phase : BitVec 32)
  | expired (asid va : Nat)
  deriving DecidableEq, Repr

/-- R412: one entry of a sub-request, with the source rows that follow it in a SCAD (R411). -/
structure SubEntry where
  row : Nat
  pos : Nat
  mult : Nat
  segx : Nat
  rows : List (List (BitVec 8))
  deriving DecidableEq, Repr

/-- R412: a sub-request. `sfmt` is the format of the source rows that a SCAD sub-request carries, `station` the one it
arrives at, `flat` that its record has DIST 0 (only in a package's own). -/
structure SubRequest where
  station : Nat
  flat : Bool
  tag : Nat
  sacc : Nat
  sasid : Nat
  age : Nat
  scad : Bool
  dbase0 : Nat
  dbase1 : Nat
  stride1 : BitVec 64
  scales : Nat
  chunk : Nat
  width : Nat
  efmt : Nat
  eblk : Nat
  sfmt : Nat
  pool : Nat
  npkg : Nat
  entries : List SubEntry
  deriving DecidableEq, Repr

/-- The operations and events of spec/opcode_table.json, in the table's order. -/
inductive Instr where
  | iadd (f : RRR)
  | iaddc (f : RRR)
  | iadds (f : RRR)
  | isub (f : RRR)
  | isubb (f : RRR)
  | isubs (f : RRR)
  | ineg (f : RRR)
  | iabs (f : RRR)
  | imin (f : RRR)
  | imax (f : RRR)
  | imul (f : RRR)
  | imulh (f : RRR)
  | imad (f : RRR)
  | imadw (f : RRR)
  | idiv (f : RRR)
  | irem (f : RRR)
  | and (f : RRR)
  | or (f : RRR)
  | xor (f : RRR)
  | andn (f : RRR)
  | orn (f : RRR)
  | shl (f : RRR)
  | shr (f : RRR)
  | sar (f : RRR)
  | rol (f : RRR)
  | fshl (f : RRR)
  | fshr (f : RRR)
  | bfx (f : RRR)
  | bfxImm (f : RI)
  | bfi (f : RRR)
  | brev (f : RRR)
  | popc (f : RRR)
  | clz (f : RRR)
  | ctz (f : RRR)
  | permb (f : RRR)
  | sext (f : RRR)
  | zext (f : RRR)
  | mov (f : RRR)
  | movi (f : RI)
  | movh (f : RI)
  | sel (f : RRR)
  | cmp (f : RRR)
  | cmpImm (f : RI)
  | tst (f : RRR)
  | setk (f : RRR)
  | getk (f : RRR)
  | iaddImm (f : RI)
  | andImm (f : RI)
  | orImm (f : RI)
  | xorImm (f : RI)
  | shlImm (f : RI)
  | shrImm (f : RI)
  | sarImm (f : RI)
  | imulImm (f : RI)
  | bra (f : JF)
  | jmpr (f : JF)
  | call (f : JF)
  | ret (f : JF)
  | meet (f : JF)
  | meetR (f : JF)
  | exit (f : JF)
  | trap (f : JF)
  | nop (f : JF)
  | yield (f : JF)
  | fadd (f : RRR)
  | fsub (f : RRR)
  | fmul (f : RRR)
  | ffma (f : RRR)
  | ffma2 (f : RRR)
  | fmin (f : RRR)
  | fmax (f : RRR)
  | fminm (f : RRR)
  | fmaxm (f : RRR)
  | fabs (f : RRR)
  | fneg (f : RRR)
  | fcpys (f : RRR)
  | fcmp (f : RRR)
  | fclass (f : RRR)
  | fdiv (f : RRR)
  | fsqrt (f : RRR)
  | frcp (f : RRR)
  | frsq (f : RRR)
  | fex2 (f : RRR)
  | flg2 (f : RRR)
  | fsin (f : RRR)
  | fcos (f : RRR)
  | frint (f : RRR)
  | fscale (f : RRR)
  | fcvt (f : RRR) (src : Ty)
  | ftoi (f : RRR) (src : Ty)
  | itof (f : RRR) (src : Ty)
  | fdot4 (f : RRR)
  | qds8 (f : RRR)
  | fgsr (f : RRR)
  | fssr (f : RRR)
  | shflIdx (f : RRR)
  | shflUp (f : RRR)
  | shflDown (f : RRR)
  | shflXor (f : RRR)
  | ballot (f : RRR)
  | voteEvery (f : RRR)
  | voteSome (f : RRR)
  | voteAgree (f : RRR)
  | voteCount (f : RRR)
  | bcast (f : RRR)
  | elect (f : RRR)
  | matchL (f : RRR)
  | qmx (f : RRR)
  | scan (f : RRR) (op : ScanOp) (excl : Bool)
  | reduce (f : RRR) (op : ScanOp)
  | gatheringDelivery (gang : Nat) (gix : Nat)
  | ld (f : MF)
  | pref (f : MF)
  | st (f : MF)
  | lde (f : MEF)
  | ldeSc (f : MEF)
  | ste (f : MEF)
  | steSc (f : MEF)
  | ldl (f : MF)
  | stl (f : MF)
  | atom (f : AF)
  | atoml (f : AF)
  | sbind (f : SbindF)
  | spos (f : EF) (port : Fin 8)
  | pairedNop (f : Slot)
  | pairedIadd (f : Slot)
  | pairedIsub (f : Slot)
  | pairedImul (f : Slot)
  | pairedImin (f : Slot)
  | pairedImax (f : Slot)
  | pairedAnd (f : Slot)
  | pairedOr (f : Slot)
  | pairedXor (f : Slot)
  | pairedAndn (f : Slot)
  | pairedShl (f : Slot)
  | pairedShr (f : Slot)
  | pairedSar (f : Slot)
  | pairedMov (f : Slot)
  | pairedCmp (f : Slot)
  | pairedTst (f : Slot)
  | pairedFadd (f : Slot)
  | pairedFsub (f : Slot)
  | pairedFmul (f : Slot)
  | pairedFmin (f : Slot)
  | pairedFmax (f : Slot)
  | pairedFcmp (f : Slot)
  | rgive (f : EF) (n8 : Nat)
  | rtake (f : EF) (n8 : Nat)
  | rdsp (f : EF) (sp : CoreSpecial)
  | kick (f : EF) (count : Nat)
  | cati (f : EF) (n : Nat)
  | catw (f : EF)
  | waitc (f : EF) (cls : OpClass) (n : Nat)
  | recf (f : EF)
  | recp (f : EF)
  | pub (f : EF)
  | acq (f : EF)
  | phase (f : EF)
  | fence (f : EF)
  | mma (f : EF) (pair : Bool)
  | mmax (f : EF) (pair : Bool)
  | mmas (f : EF) (pair : Bool)
  | mzero (f : EF)
  | mlda (f : EF)
  | mdrain (f : EF)
  | spcomp (f : EF)
  | bari (f : EF)
  | bara (f : EF)
  | barw (f : EF)
  | bart (f : EF)
  | launch (f : EF)
  | prog (f : EF)
  | migr (f : EF)
  | pgq (f : EF)
  | jarr (f : EF)
  | jwait (f : EF)
  | killpt (f : EF)
  | jstat (f : EF)
  | gath (f : EF)
  | scad (f : EF)
  | runBoundary (core : Nat) (part : Nat)
  | tlbWalk (core : Nat) (asid : Nat) (va : Nat)
  | variableResultReturn (gang : Nat) (i : Nat)
  | parkSeamComplete (gang : Nat)
  | quarantineExit (gang : Nat)
  | strikeReport (core : Nat)
  | commonsArbitration (core : Nat)
  | commonsOverlayRetire (core : Nat)
  | donationTakeEffect (gang : Nat)
  | chorusCheck (core : Nat) (part : Nat) (cls : Nat) (results : List (BitVec 64))
  | chorusCheckDue (core : Nat) (part : Nat)
  | faultRecordWrite (asid : Nat)
  | spillwayFetch (core : Nat)
  | walkAheadTranslate (op : Nat)
  | copyGranuleTransfer (op : Nat) (granule : Nat)
  | tileLoadAttempt (op : Nat)
  | copyRequestComplete (op : Nat)
  | commandAccept (core : Nat) (i : Nat)
  | commandComplete (op : Nat)
  | pairTimeout (op : Nat)
  | storeBufferAccept (gang : Nat)
  | homeWrite (block : Nat) (i : Nat)
  | commitComplete (block : Nat)
  | loadHomeRead (gang : Nat) (i : Nat) (keep : Bool)
  | l1Evict (core : Nat) (line : Nat)
  | atomPerform (gang : Nat) (lane : Nat)
  | gangEnd (gang : Nat)
  | barrierNetworkInit (i : Nat)
  | barrierNetworkArrival (i : Nat)
  | barrierWaitTest (gang : Nat)
  | barrierStatusRead (i : Nat)
  | barrierWatchdogExpiry (obj : Nat)
  | qtailWrite (q : Nat) (tail : BitVec 32)
  | launchEnqueue (q : Nat) (dev : Bool)
  | dispatchBlock (dom : Nat)
  | launchComplete (id : Nat)
  | timeLimitExpiry (id : Nat)
  | uncorrectableConsumption (block : Nat)
  | freplyRetry (asid : Nat) (slot : Nat) (seq : BitVec 32)
  | freplyResumeAfter (asid : Nat) (slot : Nat) (seq : BitVec 32)
  | freplyKill (asid : Nat) (slot : Nat) (seq : BitVec 32)
  | freplyFree (asid : Nat) (slot : Nat) (seq : BitVec 32)
  | memoryChannelServe (stack : Nat) (chan : Nat)
  | subarrayRefresh (stack : Nat) (chan : Nat) (sub : Nat) (on : Bool)
  | geckoPatrol (sector : Nat) (res : PatrolResult)
  | correctedWriteback (sector : Nat)
  | hbmThermalSelfRefresh (stack : Nat) (thbm : Nat)
  | hotnessHalving (dom : Nat)
  | promotionStart (dom : Nat)
  | migrationStart (i : Nat)
  | migrationCopyUnit (src : Nat) (err : CopyErr)
  | migrationEnd (src : Nat)
  | invalidatePage (asid : Nat) (va : Nat)
  | invalidateAsid (asid : Nat)
  | invalidateAll
  | invalidationComplete
  | keyInstall (asid : Nat) (keys : BitVec 512)
  | keyDestroy (asid : Nat)
  | mcmdPreemptContext (asid : Nat) (bound : Nat)
  | mcmdResumeContext (asid : Nat)
  | mcmdResetCore (core : Nat)
  | mcmdDone
  | noticeClear (bits : BitVec 64)
  | attestationRequest
  | attestationReportDone
  | bootSequence (cfg : BootConfig)
  | clockStep (power : Nat) (tdie : Nat) (thbm : Nat)
  | thermalShutdown (tdie : Nat)
  | hostMemoryWrite (pa : Nat) (bytes : List (BitVec 8))
  | hostMemoryRead (pa : Nat) (n : Nat)
  | cxlLinkDown (port : Nat)
  | fabidWrite (v : BitVec 64)
  | registerWrite (off : Nat) (bytes : List (BitVec 8))
  | remoteTranslationRequest (acc : Nat) (sasid : Nat) (va : Nat)
  | remoteInvalidation (acc : Nat) (kind : InvKind) (asid : Nat) (va : Nat)
  | remoteReadArrival (req : RemoteReq)
  | remoteWriteArrival (req : RemoteReq)
  | remoteResponse (tag : Nat) (resp : RemoteResp)
  | remoteRetransmit (tag : Nat) (station : Nat)
  | remoteTimeout (tag : Nat)
  | podBarrierReleaseNotice (acc : Nat) (asid : Nat) (va : Nat) (phase : BitVec 32)
  | podExpiryNotice (acc : Nat) (asid : Nat) (va : Nat)
  | gatherAccept (core : Nat) (i : Nat)
  | sluiceFold (op : Nat)
  | subrequestReceive (sub : SubRequest)
  | rillRowRead (sub : Nat) (i : Nat)
  | rillRowUpdate (sub : Nat) (row : Nat)
  | gatherMerge (op : Nat) (i : Nat)
  | gatherComplete (op : Nat)
  | joinArrival (i : Nat)
  | joinRelease (launch : Nat)
  | stragglerGraceExpiry (block : Nat)
  | hbmSelfRefreshExit (stack : Nat)
  | remoteBusyRetry (tag : Nat)
  deriving DecidableEq, Repr

/-- R64, R83: the seam of a word. -/
inductive Seam where
  | cont | endRun | park
  deriving DecidableEq, Repr

/-- R65: a guard: the condition-code register and the condition code 0..14. -/
structure Guard where
  ksel : Fin 4
  cond : Fin 15
  deriving DecidableEq, Repr

/-- R64: a decoded word: one full instruction, or two short ones (slot 0 first). -/
inductive DWord where
  | full (seam : Seam) (g : Guard) (i : Instr)
  | pair (seam : Seam) (g0 : Guard) (i0 : Instr) (g1 : Guard) (i1 : Instr)
  deriving DecidableEq, Repr

/-- The seam of a word. -/
def DWord.seam : DWord → Seam
  | .full s _ _ => s
  | .pair s _ _ _ _ => s

end Sys2Proof
end

