-- ==== Sys2Proof/Machine/Float.lean ====
section
/-! DEFINITION. Machine/Float.lean: number formats, exact values, rounding and the flags (R43 to R50, R126 to R143).
-/
namespace Sys2Proof.Machine

/-- R50: a set of status flags, in the order of R51: IX[4] UF[3] OF[2] DZ[1] IV[0]. -/
abbrev FFlags := BitVec 5

/-- No flag. -/
def flNone : FFlags := 0#5
/-- R50 IV. -/
def flIV : FFlags := 1#5
/-- R50 DZ. -/
def flDZ : FFlags := 2#5
/-- R50 OF. -/
def flOF : FFlags := 4#5
/-- R50 UF. -/
def flUF : FFlags := 8#5
/-- R50 IX. -/
def flIX : FFlags := 16#5

/-- R43: how a format spells NaN. -/
inductive NanKind where
  | ieee | quiet | top | absent
  deriving DecidableEq, Repr

/-- R43: the parameters of a floating-point format. `nan` is `ieee` (all-ones exponent, signalling by the top
mantissa bit), `quiet` (the same encodings, all quiet: E5M2), `top` (E4M3) or `absent`. -/
structure FFmt where
  ebits : Nat
  mbits : Nat
  bias : Int
  nan : NanKind
  deriving DecidableEq, Repr

/-- R43: the format of a floating TYPE. -/
def fmtOf : Ty → FFmt
  | .f64 => ⟨11, 52, 1023, .ieee⟩
  | .f16 => ⟨5, 10, 15, .ieee⟩
  | .bf16 => ⟨8, 7, 127, .ieee⟩
  | .e5m2 => ⟨5, 2, 15, .quiet⟩
  | .e4m3 => ⟨4, 3, 7, .top⟩
  | .e3m2 => ⟨3, 2, 3, .absent⟩
  | .e2m3 => ⟨2, 3, 1, .absent⟩
  | .e2m1 => ⟨2, 1, 1, .absent⟩
  | _ => ⟨8, 23, 127, .ieee⟩

/-- The width of a format in bits. -/
def fmtWidth (f : FFmt) : Nat := 1 + f.ebits + f.mbits

/-- R43: infinities exist in the formats of the first two kinds. -/
def fmtHasInf (f : FFmt) : Bool := f.nan == .ieee || f.nan == .quiet

/-- R49: FTZ and DAZ act on binary64, binary32, binary16 and bfloat16 alone. -/
def fmtFlushes (f : FFmt) : Bool := f.nan == .ieee

/-- R45: the canonical NaN; +0 where the format has no NaN (R48). -/
def canonNan (f : FFmt) : Nat :=
  match f.nan with
  | .ieee | .quiet => (2 ^ f.ebits - 1) * 2 ^ f.mbits + 2 ^ (f.mbits - 1)
  | .top => (2 ^ f.ebits - 1) * 2 ^ f.mbits + (2 ^ f.mbits - 1)
  | .absent => 0

/-- R44, R45: the exact value of an encoding. -/
def fdecode (f : FFmt) (b : Nat) : FVal :=
  let neg := bitsOf b (f.ebits + f.mbits) (f.ebits + f.mbits) == 1
  let ex := bitsOf b (f.ebits + f.mbits - 1) f.mbits
  let m := b % 2 ^ f.mbits
  let topE := ex == 2 ^ f.ebits - 1
  if topE && f.nan == .ieee then
    if m = 0 then .inf neg else .nan (decide (m < 2 ^ (f.mbits - 1)))
  else if topE && f.nan == .quiet then
    if m = 0 then .inf neg else .nan false
  else if topE && f.nan == .top && m == 2 ^ f.mbits - 1 then .nan false
  else if ex = 0 then .fin neg m (1 - f.bias - f.mbits)
  else .fin neg (2 ^ f.mbits + m) ((ex : Int) - f.bias - f.mbits)

/-- R49: whether an encoding is a subnormal. -/
def fIsSubnormal (f : FFmt) (b : Nat) : Bool :=
  bitsOf b (f.ebits + f.mbits - 1) f.mbits == 0 && b % 2 ^ f.mbits != 0

/-- R87 `Value(b, fmt)`, with DAZ as given. -/
def fvalue (f : FFmt) (daz : Bool) (b : Nat) : FVal :=
  match fdecode f b with
  | .fin neg m e => if daz && fmtFlushes f && fIsSubnormal f b then .fin neg 0 e else .fin neg m e
  | x => x

/-- The exponent of the least normal number. -/
def fmtEmin (f : FFmt) : Int := 1 - f.bias

/-- R43: the greatest finite value as significand and exponent. -/
def fmtMax (f : FFmt) : Nat × Int :=
  let top : Int := (2 ^ f.ebits - 1 : Nat) - f.bias
  match f.nan with
  | .ieee | .quiet => (2 ^ (f.mbits + 1) - 1, top - 1 - f.mbits)
  | .top => (2 ^ (f.mbits + 1) - 2, top - f.mbits)
  | .absent => (2 ^ (f.mbits + 1) - 1, top - f.mbits)

/-- The sign bit of the format. -/
def fsignBit (f : FFmt) (neg : Bool) : Nat := if neg then 2 ^ (f.ebits + f.mbits) else 0

/-- R43: the encoding of the greatest finite value. -/
def fmaxEnc (f : FFmt) (neg : Bool) : Nat :=
  fsignBit f neg + (match f.nan with
    | .ieee | .quiet => (2 ^ f.ebits - 1) * 2 ^ f.mbits - 1
    | .top => (2 ^ f.ebits - 1) * 2 ^ f.mbits + (2 ^ f.mbits - 2)
    | .absent => 2 ^ (f.ebits + f.mbits) - 1)

/-- The encoding of an infinity (where there is none, the caller takes R48). -/
def finfEnc (f : FFmt) (neg : Bool) : Nat := fsignBit f neg + (2 ^ f.ebits - 1) * 2 ^ f.mbits

/-- `m` shifted left by a signed amount (right shifts drop bits). -/
def shiftInt (m : Nat) (k : Int) : Nat := if k ≥ 0 then m <<< k.toNat else m >>> (-k).toNat

/-- R46: whether a magnitude with remainder `rem` of `2^s` beyond the quotient `q` is rounded up. -/
def roundsUp (mode : Rnd) (neg : Bool) (q rem s : Nat) : Bool :=
  match mode with
  | .rtz => false
  | .rup => !neg && rem != 0
  | .rdn => neg && rem != 0
  | .rne => decide (2 * rem > 2 ^ s) || (2 * rem == 2 ^ s && q % 2 == 1)
  | .rna => decide (2 * rem ≥ 2 ^ s)

/-- m · 2^e as a multiple of 2^qe, rounded; the second part says whether it is exact. -/
def roundAt (mode : Rnd) (neg : Bool) (m : Nat) (e qe : Int) : Nat × Bool :=
  if qe ≤ e then (m <<< (e - qe).toNat, true)
  else
    let s := (qe - e).toNat
    let q := m >>> s
    let rem := m % 2 ^ s
    (if roundsUp mode neg q rem s then q + 1 else q, rem == 0)

/-- m · 2^e < m' · 2^e'. -/
def magLt (m : Nat) (e : Int) (m' : Nat) (e' : Int) : Bool :=
  let lo := min e e'
  decide (m <<< (e - lo).toNat < m' <<< (e' - lo).toNat)

/-- R47: what an overflow delivers. -/
def overflowEnc (f : FFmt) (mode : Rnd) (neg : Bool) : Nat :=
  if fmtHasInf f then
    match mode with
    | .rne | .rna => finfEnc f neg
    | .rtz => fmaxEnc f neg
    | .rup => if neg then fmaxEnc f true else finfEnc f false
    | .rdn => if neg then finfEnc f true else fmaxEnc f false
  else fmaxEnc f neg

/-- Encoding of q · 2^qe, where q has at most mbits + 1 bits and qe is not below the least quantum. -/
def packFin (f : FFmt) (neg : Bool) (q : Nat) (qe : Int) : Nat :=
  let q' := if q = 2 ^ (f.mbits + 1) then 2 ^ f.mbits else q
  let qe' := if q = 2 ^ (f.mbits + 1) then qe + 1 else qe
  fsignBit f neg + (if q' < 2 ^ f.mbits then q' else (qe' + f.mbits + f.bias).toNat * 2 ^ f.mbits + (q' - 2 ^ f.mbits))

/-- R46 to R49: `RoundTo` of a finite exact value, with FTZ as given, and its flags. -/
def roundFin (f : FFmt) (mode : Rnd) (ftz : Bool) (neg : Bool) (m : Nat) (e : Int) : Nat × FFlags :=
  if m = 0 then (fsignBit f neg, flNone)
  else
    let ex : Int := (bitLen m : Int) - 1 + e
    let u := roundAt mode neg m e (ex - f.mbits)
    let mx := fmtMax f
    if magLt mx.1 mx.2 u.1 (ex - f.mbits) then (overflowEnc f mode neg, flOF ||| flIX)
    else
      let tiny := magLt u.1 (ex - f.mbits) 1 (fmtEmin f)
      if tiny && ftz && fmtFlushes f then (fsignBit f neg, flUF ||| flIX)
      else
        let qe := max (ex - f.mbits) (fmtEmin f - f.mbits)
        let r := roundAt mode neg m e qe
        (packFin f neg r.1 qe,
          if r.2 then flNone else if tiny then flUF ||| flIX else flIX)

/-- R45 to R49: `RoundTo` of any value. Into a format without NaN or infinity R48 applies. -/
def roundVal (f : FFmt) (mode : Rnd) (ftz : Bool) (x : FVal) : Nat × FFlags :=
  match x with
  | .nan _ => (canonNan f, if fmtHasInf f then flNone else flIV)
  | .inf neg =>
    if fmtHasInf f then (finfEnc f neg, flNone)
    else if f.nan == .top then (canonNan f, flIV) else (fmaxEnc f neg, flIV)
  | .fin neg m e => roundFin f mode ftz neg m e

/-- R45: IV for a signalling NaN operand. -/
def nanFlags : FVal → FFlags
  | .nan true => flIV
  | _ => flNone

/-- Whether the value is a NaN. -/
def isNan : FVal → Bool
  | .nan _ => true
  | _ => false

/-- A signed exact integer times a power of two, as a value; `zneg` is the sign of a zero. -/
def ofSigned (zneg : Bool) (x : Int) (e : Int) : FVal :=
  if x = 0 then .fin zneg 0 e else .fin (decide (x < 0)) x.natAbs e

/-- The signed significand of a finite value. -/
def signedM (neg : Bool) (m : Nat) : Int := if neg then -(m : Int) else m

/-- R46: the sign of an exact zero sum. -/
def zeroSumNeg (mode : Rnd) (na nb : Bool) : Bool := if na == nb then na else mode == .rdn

/-- R126, R128: the exact sum of two values, with IV for ∞ − ∞ and signalling NaNs. -/
def faddV (mode : Rnd) (a b : FVal) : FVal × FFlags :=
  match a, b with
  | .nan _, _ => (.nan false, nanFlags a ||| nanFlags b)
  | _, .nan _ => (.nan false, nanFlags b)
  | .inf na, .inf nb => if na == nb then (.inf na, flNone) else (.nan false, flIV)
  | .inf na, .fin .. => (.inf na, flNone)
  | .fin .., .inf nb => (.inf nb, flNone)
  | .fin na ma ea, .fin nb mb eb =>
    let lo := min ea eb
    let x := signedM na (ma <<< (ea - lo).toNat) + signedM nb (mb <<< (eb - lo).toNat)
    let zneg := if ma = 0 ∧ mb = 0 then zeroSumNeg mode na nb else mode == .rdn
    (ofSigned zneg x lo, flNone)

/-- The value with its sign inverted. -/
def fnegV : FVal → FVal
  | .nan s => .nan s
  | .inf n => .inf !n
  | .fin n m e => .fin (!n) m e

/-- R126, R128: the exact product. -/
def fmulV (a b : FVal) : FVal × FFlags :=
  match a, b with
  | .nan _, _ => (.nan false, nanFlags a ||| nanFlags b)
  | _, .nan _ => (.nan false, nanFlags b)
  | .inf na, .inf nb => (.inf (na != nb), flNone)
  | .inf na, .fin nb mb _ => if mb = 0 then (.nan false, flIV) else (.inf (na != nb), flNone)
  | .fin na ma _, .inf nb => if ma = 0 then (.nan false, flIV) else (.inf (na != nb), flNone)
  | .fin na ma ea, .fin nb mb eb => (.fin (na != nb) (ma * mb) (ea + eb), flNone)

/-- R126, R128: a · b + c with no rounding between; 0 · ∞ raises IV even with a quiet NaN addend. -/
def ffmaV (mode : Rnd) (a b c : FVal) : FVal × FFlags :=
  let p := fmulV a b
  let s := faddV mode p.1 c
  (s.1, p.2 ||| s.2)

/-- R136: the exact quotient; the remainder is jammed into the last bit, far below any rounding position. -/
def fdivV (a b : FVal) : FVal × FFlags :=
  match a, b with
  | .nan _, _ => (.nan false, nanFlags a ||| nanFlags b)
  | _, .nan _ => (.nan false, nanFlags b)
  | .inf _, .inf _ => (.nan false, flIV)
  | .inf na, .fin nb _ _ => (.inf (na != nb), flNone)
  | .fin na _ _, .inf nb => (.fin (na != nb) 0 0, flNone)
  | .fin na ma ea, .fin nb mb eb =>
    if mb = 0 then (if ma = 0 then (.nan false, flIV) else (.inf (na != nb), flDZ))
    else
      let n := ma <<< 128
      (.fin (na != nb) (2 * (n / mb) + (if n % mb = 0 then 0 else 1)) (ea - eb - 129), flNone)

/-- The integer square root, bit by bit from bit `k` down. -/
def isqrtGo (n : Nat) (k : Nat) (r : Nat) : Nat :=
  match k with
  | 0 => r
  | k + 1 =>
    let c := r + 2 ^ k
    isqrtGo n k (if c * c ≤ n then c else r)

/-- The integer square root. -/
def isqrt (n : Nat) : Nat := isqrtGo n (bitLen n / 2 + 1) 0

/-- R136: the exact square root, the remainder jammed. -/
def fsqrtV (a : FVal) : FVal × FFlags :=
  match a with
  | .nan _ => (.nan false, nanFlags a)
  | .inf neg => if neg then (.nan false, flIV) else (.inf false, flNone)
  | .fin neg m e =>
    if m = 0 then (.fin neg 0 e, flNone)
    else if neg then (.nan false, flIV)
    else
      -- make the exponent even, then take the root of m · 2^256
      let m' := if e % 2 = 0 then m else 2 * m
      let e' := if e % 2 = 0 then e else e - 1
      let n := m' <<< 256
      let r := isqrt n
      (.fin false (2 * r + (if r * r = n then 0 else 1)) (e' / 2 - 129), flNone)

/-- R130: order of two values that are not NaN; −0 is below +0. -/
def fltV (a b : FVal) : Bool :=
  match a, b with
  | .inf na, .inf nb => na && !nb
  | .inf na, .fin .. => na
  | .fin .., .inf nb => !nb
  | .fin na ma ea, .fin nb mb eb =>
    if na != nb then na
    else if na then magLt mb eb ma ea else magLt ma ea mb eb
  | _, _ => false

/-- R134: the relation of two values: less, equal, greater or unordered, with −0 equal to +0. -/
inductive FRel where
  | lt | eq | gt | un
  deriving DecidableEq, Repr

/-- R134. -/
def frel (a b : FVal) : FRel :=
  match a, b with
  | .nan _, _ => .un
  | _, .nan _ => .un
  | .fin na ma ea, .fin nb mb eb =>
    if ma = 0 ∧ mb = 0 then .eq
    else if fltV (.fin na ma ea) (.fin nb mb eb) then .lt
    else if fltV (.fin nb mb eb) (.fin na ma ea) then .gt else .eq
  | _, _ => if fltV a b then .lt else if fltV b a then .gt else .eq

/-- R130: an encoding as read, after DAZ. -/
def dazEnc (f : FFmt) (daz : Bool) (b : Nat) : Nat :=
  if daz && fmtFlushes f && fIsSubnormal f b then fsignBit f (bitsOf b (f.ebits + f.mbits) (f.ebits + f.mbits) == 1)
  else b % 2 ^ fmtWidth f

/-- R130: minimum (`isMax = false`) or maximum of two encodings; `number` selects the minimumNumber and
maximumNumber forms. -/
def fminmax (f : FFmt) (daz number isMax : Bool) (a b : Nat) : Nat × FFlags :=
  let va := fvalue f daz a
  let vb := fvalue f daz b
  let fl := nanFlags va ||| nanFlags vb
  let ra := dazEnc f daz a
  let rb := dazEnc f daz b
  match isNan va, isNan vb with
  | true, true => (canonNan f, fl)
  | true, false => (if number then rb else canonNan f, fl)
  | false, true => (if number then ra else canonNan f, fl)
  | false, false =>
    let pickB := if isMax then fltV va vb else fltV vb va
    (if pickB then rb else ra, fl)

/-- R131: FABS, FNEG and FCPYS on an encoding: the sign bit replaced, a NaN made canonical. -/
def fsetSign (f : FFmt) (b : Nat) (neg : Bool) : Nat :=
  if isNan (fdecode f b) then canonNan f
  else b % 2 ^ (f.ebits + f.mbits) + fsignBit f neg

/-- The sign bit of an encoding. -/
def fsign (f : FFmt) (b : Nat) : Bool := bitsOf b (f.ebits + f.mbits) (f.ebits + f.mbits) == 1

/-- R135: the one-hot class. -/
def fclass (f : FFmt) (b : Nat) : Nat :=
  let neg := fsign f b
  match fdecode f b with
  | .nan true => 256
  | .nan false => 512
  | .inf _ => if neg then 1 else 128
  | .fin _ m _ =>
    if m = 0 then (if neg then 8 else 16)
    else if fIsSubnormal f b then (if neg then 4 else 32)
    else if neg then 2 else 64

/-- R132. -/
def fscaleV (a : FVal) (n : Int) : FVal × FFlags :=
  match a with
  | .nan _ => (.nan false, nanFlags a)
  | .inf neg => (.inf neg, flNone)
  | .fin neg m e => (.fin neg m (if m = 0 then e else e + n), flNone)

/-- R133: rounding to an integral value; the sign is kept and nothing but IV of a NaN is raised. -/
def frint (f : FFmt) (mode : Rnd) (a : FVal) : Nat × FFlags :=
  match a with
  | .nan _ => (canonNan f, nanFlags a)
  | .inf neg => (finfEnc f neg, flNone)
  | .fin neg m e =>
    if e ≥ 0 then ((roundFin f mode false neg m e).1, flNone)
    else ((roundFin f mode false neg (roundAt mode neg m e 0).1 0).1, flNone)

/-- R42: the range of an integer type. -/
def intMin : Ty → Int
  | .i32 => -2147483648
  | .i64 => -9223372036854775808
  | .i16 => -32768
  | .i8 => -128
  | _ => 0

/-- R42. -/
def intMax : Ty → Int
  | .i32 => 2147483647
  | .n32 => 4294967295
  | .i64 => 9223372036854775807
  | .n64 => 18446744073709551615
  | .i16 => 32767
  | .n16 => 65535
  | .i8 => 127
  | .n8 => 255
  | _ => 0

/-- R87 `Sat(x, t)`. -/
def satInt (x : Int) (t : Ty) : Int := if x < intMin t then intMin t else if x > intMax t then intMax t else x

/-- R140: FTOI of a value into an integer type. -/
def ftoiV (t : Ty) (mode : Rnd) (a : FVal) : Int × FFlags :=
  match a with
  | .nan _ => (0, flIV)
  | .inf neg => (if neg then intMin t else intMax t, flIV)
  | .fin neg m e =>
    let r := roundAt mode neg m e 0
    let n := signedM neg r.1
    if n < intMin t ∨ n > intMax t then (satInt n t, flIV)
    else (n, if r.2 then flNone else flIX)

/-- R141: an integer as an exact value; zero is +0. -/
def ofIntV (x : Int) : FVal := ofSigned false x 0

/-- R142, R269: the exact sum of a list of terms and the flags of its special cases. `zneg` is the sign that an
exact zero takes. -/
def sumV (zneg : Bool) (ts : List FVal) : FVal × FFlags :=
  let pos := ts.any (fun t => t == .inf false)
  let neg := ts.any (fun t => t == .inf true)
  if ts.any isNan then (.nan false, if pos && neg then flIV else flNone)
  else
    if pos && neg then (.nan false, flIV)
    else if pos then (.inf false, flNone)
    else if neg then (.inf true, flNone)
    else
      let lo := ts.foldl (fun a t => match t with | .fin _ m e => if m = 0 then a else min a e | _ => a) 0
      let x := ts.foldl (fun a t => match t with | .fin n m e => if m = 0 then a else a + signedM n (m <<< (e - lo).toNat) | _ => a) (0 : Int)
      (ofSigned zneg x lo, flNone)

/-- R46: the sign of an exact zero sum of several terms: that of the terms where all agree, otherwise by mode. -/
def zeroNegOf (mode : Rnd) (ts : List FVal) : Bool :=
  let signs := ts.filterMap (fun t => match t with | .fin n m _ => if m = 0 then some n else none | _ => none)
  if signs.length = ts.length ∧ signs ≠ [] ∧ signs.all (· == true) then true
  else if signs.length = ts.length ∧ signs.all (· == false) then false
  else mode == .rdn

/-! ### DS8 (R54 to R56) -/

/-- R54: one term of a DS8 byte, in 64ths. -/
def ds8Term (neg : Bool) (ex : Nat) : Int := if ex = 7 then 0 else signedM neg (2 ^ (6 - ex))

/-- R54: the value of a DS8 byte in 64ths. -/
def ds8Int (b : Nat) : Int :=
  ds8Term (bitsOf b 7 7 == 1) (bitsOf b 6 4) + ds8Term (bitsOf b 3 3 == 1) (bitsOf b 2 0)

/-- R54: the value of a DS8 byte; DS8 has no −0. -/
def ds8Value (b : Nat) : FVal := ofSigned false (ds8Int b) (-6)

/-- R55: the non-zero magnitudes in 64ths, each with its canonical positive encoding. -/
def ds8Table : List (Nat × Nat) :=
  [(1, 0x67), (2, 0x57), (3, 0x56), (4, 0x47), (5, 0x46), (6, 0x45), (7, 0x3E), (8, 0x37), (9, 0x36), (10, 0x35),
   (12, 0x34), (14, 0x2D), (15, 0x2E), (16, 0x27), (17, 0x26), (18, 0x25), (20, 0x24), (24, 0x23), (28, 0x1C),
   (30, 0x1D), (31, 0x1E), (32, 0x17), (33, 0x16), (34, 0x15), (36, 0x14), (40, 0x13)] ++
  [(48, 0x12), (56, 0x0B), (60, 0x0C), (62, 0x0D), (63, 0x0E), (64, 0x07), (65, 0x06), (66, 0x05), (68, 0x04),
   (72, 0x03), (80, 0x02), (96, 0x01), (128, 0x00)]

/-- R55: the number of present terms of a canonical encoding. -/
def ds8Terms (n enc : Nat) : Nat := if n = 0 then 0 else if enc % 8 = 7 then 1 else 2

/-- R55: the encoding of the negative of a positive canonical encoding. -/
def ds8Neg (enc : Nat) : Nat := if enc % 8 = 7 then enc ^^^ 0x80 else enc ^^^ 0x88

/-- The distance between two naturals. -/
def natDist (a b : Nat) : Nat := (a - b) + (b - a)

/-- R56 step 4, 5: the better of two candidates (magnitude in 64ths, encoding) for `y` scaled by `2^sh`. -/
def ds8Better (y sh : Nat) (c d : Nat × Nat) : Nat × Nat :=
  let dc := natDist y (c.1 <<< sh)
  let dd := natDist y (d.1 <<< sh)
  if dd < dc then d
  else if dc < dd then c
  else if ds8Terms d.1 d.2 < ds8Terms c.1 c.2 then d
  else if ds8Terms c.1 c.2 < ds8Terms d.1 d.2 then c
  else if d.1 < c.1 then d else c

/-- R56: the DS8 quantiser. -/
def ds8Quantise (y : FVal) : Nat × FFlags :=
  match y with
  | .nan _ => (0x77, flIV)
  | .inf neg => (if neg then 0x88 else 0x00, flIV)
  | .fin neg m e =>
    if m = 0 then (0x77, flNone)
    else
      let sh := if e + 6 ≥ 0 then 0 else (-(e + 6)).toNat
      let ys := m <<< (e + 6 + sh).toNat
      if ys > 128 <<< sh then (if neg then 0x88 else 0x00, flOF ||| flIX)
      else
        let best := ds8Table.foldl (ds8Better ys sh) (0, 0x77)
        let exact := ys == best.1 <<< sh
        let fl := if exact then flNone else if ys < 1 <<< sh then flIX ||| flUF else flIX
        (if best.1 = 0 then 0x77 else if neg then ds8Neg best.2 else best.2, fl)

/-! ### Conversions (R139) and dot products (R142) -/

/-- The width in bits of a TYPE (R42, R43). -/
def tyWidth : Ty → Nat
  | .i64 | .n64 | .f64 => 64
  | .i32 | .n32 | .f32 => 32
  | .i16 | .n16 | .f16 | .bf16 => 16
  | .i8 | .n8 | .e4m3 | .e5m2 | .ds8 => 8
  | .e3m2 | .e2m3 => 6
  | .e2m1 => 4

/-- R42: the signed integer types. -/
def tySigned : Ty → Bool
  | .i8 | .i16 | .i32 | .i64 => true
  | _ => false

/-- Integer types. -/
def tyInt : Ty → Bool
  | .i8 | .i16 | .i32 | .i64 | .n8 | .n16 | .n32 | .n64 => true
  | _ => false

/-- Whether a rounded finite value would overflow the format (R47). -/
def overflows (f : FFmt) (mode : Rnd) (neg : Bool) (m : Nat) (e : Int) : Bool :=
  if m = 0 then false
  else
    let ex : Int := (bitLen m : Int) - 1 + e
    let u := roundAt mode neg m e (ex - f.mbits)
    let mx := fmtMax f
    magLt mx.1 mx.2 u.1 (ex - f.mbits)

/-- R139 from a value on: `sat`, the destination `dt`, and FTZ of the governing register. Any NaN converted to E4M3
raises IV, as R48 has it, where R139 alone would take a signalling one (DESIGN CHOICE, log 70). -/
def fcvtV (dt : Ty) (mode : Rnd) (sat ftz : Bool) (x : FVal) : Nat × FFlags :=
  if dt = .ds8 then ds8Quantise x
  else
    let f := fmtOf dt
    match x with
    | .nan s =>
      if f.nan == .top || f.nan == .absent then (canonNan f, flIV) else (canonNan f, if s then flIV else flNone)
    | .inf neg => roundVal f mode ftz (.inf neg)
    | .fin neg m e =>
      if sat && overflows f mode neg m e then (fmaxEnc f neg, flOF ||| flIX)
      else roundFin f mode ftz neg m e

/-- R42, R49: the types on which DAZ and FTZ act. -/
def tyFlushes (t : Ty) : Bool := t == .f64 || t == .f32 || t == .f16 || t == .bf16

/-- R139: the value of a source element of type `st` that is converted to `dt`. A conversion into an 8-bit or narrower
format or DS8 keeps a subnormal operand whatever DAZ says, as R49 and R56 state; R139 names the source type alone, and is
read as a condition that must also hold (DEDUCED, log 101). -/
def fcvtSrc (st dt : Ty) (daz : Bool) (a : Nat) : FVal :=
  if st = .ds8 then ds8Value (a % 256) else fvalue (fmtOf st) (daz && tyFlushes dt) (a % 2 ^ tyWidth st)

/-- R142: FDOT4. -/
def fdot4 (t : Ty) (mode : Rnd) (daz ftz : Bool) (a b acc : Nat) : Nat × FFlags :=
  let ps := (List.range 4).map (fun i =>
    fmulV (fdecode (fmtOf t) (bitsOf a (8 * i + 7) (8 * i))) (fdecode (fmtOf t) (bitsOf b (8 * i + 7) (8 * i))))
  let c := fvalue (fmtOf .f32) daz (acc % 2 ^ 32)
  let terms := ps.map (·.1) ++ [c]
  let fl := ps.foldl (fun x p => x ||| p.2) (nanFlags c)
  let s := sumV (zeroNegOf mode terms) terms
  let r := roundVal (fmtOf .f32) mode ftz s.1
  (r.1, fl ||| s.2 ||| r.2)

/-- R143: QDS8 of a binary32 value under a scale code. -/
def qds8 (a c : Nat) : Nat × FFlags :=
  if c = 0xFF then (0x77, flIV)
  else ds8Quantise (match fdecode (fmtOf .f32) (a % 2 ^ 32) with
    | .fin n m e => .fin n m (e - ((c : Int) - 127))
    | x => x)

end Sys2Proof.Machine
end

