-- ==== Sys2Proof/Machine/IntAlu.lean ====
section
/-! DEFINITION. Machine/IntAlu.lean: what each integer operation computes (R91 to R114), on bit patterns of its
width. A result carries its flags; which of them an instruction writes is its meaning's affair.
-/
namespace Sys2Proof.Machine

/-- R20: one condition-code register. -/
structure Flags where
  s : Bool
  z : Bool
  c : Bool
  v : Bool
  deriving DecidableEq, Repr

/-- R20: all clear. -/
def Flags.zero : Flags := ⟨false, false, false, false⟩

/-- R20: as four bits, S in bit 3 down to V in bit 0. -/
def Flags.toNat (f : Flags) : Nat :=
  (if f.s then 8 else 0) + (if f.z then 4 else 0) + (if f.c then 2 else 0) + (if f.v then 1 else 0)

/-- R113: from the low four bits of a value. -/
def Flags.ofNat (x : Nat) : Flags :=
  ⟨bitsOf x 3 3 == 1, bitsOf x 2 2 == 1, bitsOf x 1 1 == 1, bitsOf x 0 0 == 1⟩

/-- R65: whether a guard's condition holds of a condition-code register. -/
def condHolds (cond : Fin 15) (f : Flags) : Bool :=
  match cond with
  | 0 => true
  | 1 => f.z
  | 2 => !f.z
  | 3 => f.c
  | 4 => !f.c
  | 5 => f.s
  | 6 => !f.s
  | 7 => f.v
  | 8 => !f.v
  | 9 => f.c && !f.z
  | 10 => !(f.c && !f.z)
  | 11 => f.s == f.v
  | 12 => f.s != f.v
  | 13 => !f.z && f.s == f.v
  | 14 => !(!f.z && f.s == f.v)

/-- A result and the four flags its entry defines (R93: 0 where it defines none). -/
structure IRes where
  r : Nat
  k : Flags
  deriving DecidableEq, Repr

/-- R93: S and Z of the delivered result, with C and V as given. -/
def iresOf (w r : Nat) (c v : Bool) : IRes := ⟨r, ⟨bitsOf r (w - 1) (w - 1) == 1, r == 0, c, v⟩⟩

/-- R91: an operand's low w bits extended by the type. -/
def extOf (t : Ty) (x : Nat) : Int := if tySigned t then signExt x (tyWidth t) else (x % 2 ^ tyWidth t : Nat)

/-- R91: an operand's low w bits. -/
def lowOf (t : Ty) (x : Nat) : Nat := x % 2 ^ tyWidth t

/-- Whether an exact value lies outside the range of an integer type. -/
def outOf (t : Ty) (x : Int) : Bool := decide (x < intMin t) || decide (x > intMax t)

/-- R95 IADD and IADDC; `zin` is the incoming Z (true where Z is not chained). -/
def aluAdd (t : Ty) (a b : Nat) (cin zin : Bool) : IRes :=
  let w := tyWidth t
  let ci := if cin then 1 else 0
  let x := lowOf t a + lowOf t b + ci
  let sx := signExt a w + signExt b w + (ci : Int)
  let r := x % 2 ^ w
  ⟨r, ⟨bitsOf r (w - 1) (w - 1) == 1, r == 0 && zin, decide (x ≥ 2 ^ w),
    decide (sx < -((2 ^ (w - 1) : Nat) : Int)) || decide (sx > ((2 ^ (w - 1) : Nat) : Int) - 1)⟩⟩

/-- R95 ISUB and ISUBB; `cin` is the not-borrow in. -/
def aluSub (t : Ty) (a b : Nat) (cin zin : Bool) : IRes :=
  let w := tyWidth t
  let bo : Int := if cin then 0 else 1
  let x : Int := (lowOf t a : Int) - (lowOf t b : Int) - bo
  let sx := signExt a w - signExt b w - bo
  let r := wrapInt x w
  ⟨r, ⟨bitsOf r (w - 1) (w - 1) == 1, r == 0 && zin, decide (x ≥ 0),
    decide (sx < -((2 ^ (w - 1) : Nat) : Int)) || decide (sx > ((2 ^ (w - 1) : Nat) : Int) - 1)⟩⟩

/-- A saturated exact result, V marking that it lay outside the range (R96). -/
def aluSat (t : Ty) (x : Int) : IRes := iresOf (tyWidth t) (wrapInt (satInt x t) (tyWidth t)) false (outOf t x)

/-- R96 IADDS. -/
def aluAdds (t : Ty) (a b : Nat) : IRes := aluSat t (extOf t a + extOf t b)
/-- R96 ISUBS. -/
def aluSubs (t : Ty) (a b : Nat) : IRes := aluSat t (extOf t a - extOf t b)

/-- An exact result wrapped, or saturated under SAT. -/
def fitted (t : Ty) (sat : Bool) (x : Int) : Nat := wrapInt (if sat then satInt x t else x) (tyWidth t)

/-- R97 INEG. -/
def aluNeg (t : Ty) (sat : Bool) (a : Nat) : IRes :=
  iresOf (tyWidth t) (fitted t sat (-(extOf t a))) (lowOf t a == 0) (outOf t (-(extOf t a)))

/-- R97 IABS. -/
def aluAbs (t : Ty) (sat : Bool) (a : Nat) : IRes :=
  iresOf (tyWidth t) (fitted t sat ((extOf t a).natAbs : Int)) false (extOf t a == intMin t)

/-- R97 IMIN. -/
def aluMin (t : Ty) (a b : Nat) : IRes :=
  iresOf (tyWidth t) (lowOf t (if extOf t b < extOf t a then b else a)) false false
/-- R97 IMAX. -/
def aluMax (t : Ty) (a b : Nat) : IRes :=
  iresOf (tyWidth t) (lowOf t (if extOf t a < extOf t b then b else a)) false false

/-- R98 IMUL. -/
def aluMul (t : Ty) (sat : Bool) (a b : Nat) : IRes :=
  let x := extOf t a * extOf t b
  iresOf (tyWidth t) (fitted t sat x) false (outOf t x)

/-- R98 IMULH. -/
def aluMulh (t : Ty) (a b : Nat) : IRes :=
  iresOf (tyWidth t) (wrapInt (extOf t a * extOf t b / ((2 ^ tyWidth t : Nat) : Int)) (tyWidth t)) false false

/-- R98 IMAD. -/
def aluMad (t : Ty) (sat : Bool) (a b d : Nat) : IRes :=
  let x := extOf t a * extOf t b + extOf t d
  iresOf (tyWidth t) (fitted t sat x) false (outOf t x)

/-- R99 IMADW: the 64-bit sum. -/
def aluMadw (t : Ty) (a b acc : Nat) : Nat :=
  wrapInt (extOf t a * extOf t b + (if tySigned t then signExt acc 64 else (acc % 2 ^ 64 : Nat))) 64

/-- R100: the signed overflow case of a division. -/
def divOverflow (t : Ty) (a b : Nat) : Bool := tySigned t && extOf t a == intMin t && extOf t b == -1

/-- R100 IDIV. -/
def aluDiv (t : Ty) (a b : Nat) : IRes :=
  if lowOf t b = 0 then iresOf (tyWidth t) (2 ^ tyWidth t - 1) false true
  else iresOf (tyWidth t) (wrapInt (Int.tdiv (extOf t a) (extOf t b)) (tyWidth t)) false (divOverflow t a b)

/-- R100 IREM. -/
def aluRem (t : Ty) (a b : Nat) : IRes :=
  if lowOf t b = 0 then iresOf (tyWidth t) (lowOf t a) false true
  else iresOf (tyWidth t) (wrapInt (Int.tmod (extOf t a) (extOf t b)) (tyWidth t)) false (divOverflow t a b)

/-- The bitwise complement on w bits. -/
def notOf (t : Ty) (x : Nat) : Nat := 2 ^ tyWidth t - 1 - lowOf t x

/-- R101: the logic forms. -/
inductive Logic where
  | and | or | xor | andn | orn
  deriving DecidableEq, Repr

/-- R101. -/
def aluLogic (op : Logic) (t : Ty) (a b : Nat) : IRes :=
  let r := match op with
    | .and => lowOf t a &&& lowOf t b
    | .or => lowOf t a ||| lowOf t b
    | .xor => lowOf t a ^^^ lowOf t b
    | .andn => lowOf t a &&& notOf t b
    | .orn => lowOf t a ||| notOf t b
  iresOf (tyWidth t) r false false

/-- R102: the shift forms. -/
inductive Shift where
  | shl | shr | sar | rol
  deriving DecidableEq, Repr

/-- R102. -/
def aluShift (op : Shift) (t : Ty) (a b : Nat) : IRes :=
  let w := tyWidth t
  let n := b % w
  let ua := lowOf t a
  match op with
  | .shl => iresOf w (ua * 2 ^ n % 2 ^ w) (n != 0 && bitsOf (ua * 2 ^ n) w w == 1) false
  | .shr => iresOf w (ua / 2 ^ n) (n != 0 && bitsOf ua (n - 1) (n - 1) == 1) false
  | .sar => iresOf w (wrapInt (signExt ua w / ((2 ^ n : Nat) : Int)) w) (n != 0 && bitsOf ua (n - 1) (n - 1) == 1) false
  | .rol =>
    let r := (ua * 2 ^ n + ua / 2 ^ (w - n)) % 2 ^ w
    iresOf w r (n != 0 && r % 2 == 1) false

/-- R103 FSHL. -/
def aluFshl (t : Ty) (a b d : Nat) : Nat :=
  let w := tyWidth t
  ((lowOf t a * 2 ^ w + lowOf t d) * 2 ^ (lowOf t b % w)) / 2 ^ w % 2 ^ w

/-- R103 FSHR. -/
def aluFshr (t : Ty) (a b d : Nat) : Nat :=
  let w := tyWidth t
  (lowOf t a * 2 ^ w + lowOf t d) / 2 ^ (lowOf t b % w) % 2 ^ w

/-- R104: position and length of a bit field, from B as read whole. -/
def fieldPos (b : Nat) : Nat := bitsOf b 5 0
/-- R104. -/
def fieldLen (b : Nat) : Nat := bitsOf b 11 6

/-- R104 BFX. -/
def aluBfx (t : Ty) (a b : Nat) : IRes :=
  let w := tyWidth t
  let len := fieldLen b
  let f := lowOf t a / 2 ^ fieldPos b % 2 ^ len
  iresOf w (if len = 0 then 0 else if tySigned t then wrapInt (signExt f len) w else f) false false

/-- R105 BFI. -/
def aluBfi (t : Ty) (a b d : Nat) : Nat :=
  let w := tyWidth t
  let m := (2 ^ fieldLen b - 1) * 2 ^ fieldPos b % 2 ^ w
  (lowOf t d &&& (2 ^ w - 1 - m)) ||| (lowOf t a * 2 ^ fieldPos b % 2 ^ w &&& m)

/-- Bit by bit reversal of the low `w` bits. -/
def revBits (w x : Nat) : Nat := (List.range w).foldl (fun r i => 2 * r + bitsOf x i i) 0

/-- The number of ones among the low `w` bits. -/
def popBits (w x : Nat) : Nat := (List.range w).foldl (fun r i => r + bitsOf x i i) 0

/-- The number of zeros below the lowest one of the low `w` bits; `w` for 0. -/
def ctzBits (w x : Nat) : Nat := (((List.range w).filter (fun i => bitsOf x i i == 1)).head?).getD w

/-- R106 BREV. -/
def aluBrev (t : Ty) (a : Nat) : IRes := iresOf (tyWidth t) (revBits (tyWidth t) a) false false
/-- R106 POPC. -/
def aluPopc (t : Ty) (a : Nat) : IRes := iresOf (tyWidth t) (popBits (tyWidth t) a) false false
/-- R106 CLZ. -/
def aluClz (t : Ty) (a : Nat) : IRes := iresOf (tyWidth t) (tyWidth t - bitLen (lowOf t a)) false false
/-- R106 CTZ. -/
def aluCtz (t : Ty) (a : Nat) : IRes := iresOf (tyWidth t) (ctzBits (tyWidth t) a) false false

/-- R107: byte `i` of PERMB's result. -/
def permByte (nb a b i : Nat) : Nat :=
  let s := bitsOf b (4 * i + 3) (4 * i)
  if s ≥ 8 ∨ s % 8 ≥ nb then 0 else bitsOf a (8 * (s % 8) + 7) (8 * (s % 8))

/-- R107 PERMB. -/
def aluPermb (t : Ty) (a b : Nat) : Nat :=
  (List.range (tyWidth t / 8)).foldl (fun r i => r + permByte (tyWidth t / 8) a b i * 2 ^ (8 * i)) 0

/-- R108 SEXT. -/
def aluSext (t : Ty) (a b : Nat) : IRes :=
  let n := lowOf t b
  iresOf (tyWidth t)
    (if n = 0 then 0 else if n < tyWidth t then wrapInt (signExt a n) (tyWidth t) else lowOf t a) false false

/-- R108 ZEXT. -/
def aluZext (t : Ty) (a b : Nat) : IRes :=
  let n := lowOf t b
  iresOf (tyWidth t) (if n = 0 then 0 else if n < tyWidth t then a % 2 ^ n else lowOf t a) false false

/-- R111 SEL. -/
def aluSel (t : Ty) (a b d : Nat) : Nat := (lowOf t a &&& lowOf t d) ||| (lowOf t b &&& notOf t d)

/-- R112 TST: the flags of the bitwise and. -/
def aluTst (t : Ty) (a b : Nat) : IRes := aluLogic .and t a b

end Sys2Proof.Machine
end

