-- ==== Sys2Proof/Machine/Legality.lean ====
section
/-! DEFINITION. Machine/Legality.lean: the static operand checks (R70, R71, R76, and each form's own table), the
allocation check (R71), and which registers a word reads and writes for the run rules (R84, R127).
-/
namespace Sys2Proof.Machine

/-! ### Operand kinds (R70) -/

/-- A vector register. -/
def opdV : Opd → Bool
  | .v _ => true
  | _ => false

/-- A stream port. -/
def opdPortish : Opd → Bool
  | .rport _ | .wport _ => true
  | _ => false

/-- One value per lane: a vector register or a stream port (log 10). -/
def opdLanes (o : Opd) : Bool := opdV o || opdPortish o

/-- A scalar or commons register. -/
def opdSC : Opd → Bool
  | .s _ | .c _ => true
  | _ => false

/-- A special. -/
def opdSp : Opd → Bool
  | .zero | .ones | .sp _ => true
  | _ => false

/-- R70: legal as a source. -/
def srcOk (o : Opd) : Bool :=
  match o with
  | .v _ | .s _ | .c _ | .rport _ | .zero | .ones | .sp _ => true
  | _ => false

/-- R70: legal as a destination. -/
def dstOk (o : Opd) : Bool :=
  match o with
  | .v _ | .s _ | .c _ | .wport _ | .none => true
  | _ => false

/-- A scalar, commons or special operand, as the words of a gang take. -/
def gangSrcOk (o : Opd) : Bool := opdSC o || opdSp o

/-- An even vector register, where the operand is a vector one (R71). -/
def evenOk : Opd → Bool
  | .v n => n.val % 2 == 0
  | _ => true

/-! ### Uses -/

/-- One operand of a word: its role, the vector and scalar registers it spans, and whether it is legal there. -/
structure Use where
  o : Opd
  rd : Bool
  wr : Bool
  vspan : Nat
  sspan : Nat
  ok : Bool

/-- A source of 32 bits, or of 64 where `wide`. -/
def useSrc (o : Opd) (wide : Bool) : Use := ⟨o, true, false, if wide then 2 else 1, 1, srcOk o && (!wide || evenOk o)⟩

/-- A source that may be none. -/
def useOpt (o : Opd) (wide : Bool) : Use := { useSrc o wide with ok := o == .none || (srcOk o && (!wide || evenOk o)) }

/-- A destination. -/
def useDst (o : Opd) (wide : Bool) : Use := ⟨o, false, true, if wide then 2 else 1, 1, dstOk o && (!wide || evenOk o)⟩

/-- A destination that is also the third source (R72): a write port cannot be read (R70). None is taken, and reads 0
as a source (DESIGN CHOICE, log 68). -/
def useThird (o : Opd) (wide : Bool) : Use :=
  { useDst o wide with rd := true, ok := dstOk o && !opdPortish o && (!wide || evenOk o) }

/-- A field that must be none. -/
def useNone (o : Opd) : Use := ⟨o, false, false, 1, 1, o == .none⟩

/-- A source of a gang's word. -/
def useGang (o : Opd) : Use := ⟨o, true, false, 1, 1, gangSrcOk o⟩

/-- A source of a gang's word that may be none. -/
def useGangOpt (o : Opd) : Use := ⟨o, true, false, 1, 1, gangSrcOk o || o == .none⟩

/-- R145: a scalar destination, or none. -/
def useScalarDstOpt (o : Opd) : Use := ⟨o, false, true, 1, 1, match o with | .s _ | .none => true | _ => false⟩

/-- A scalar or commons destination. -/
def useGangDst (o : Opd) : Use := ⟨o, false, true, 1, 1, opdSC o⟩

/-- A scalar or commons destination, or none. -/
def useGangDstOpt (o : Opd) : Use := ⟨o, false, true, 1, 1, opdSC o || o == .none⟩

/-- Whether a type is 64 bits wide. -/
def tyWide (t : Ty) : Bool := tyWidth t == 64

/-- R71: no scalar destination beside a source per lane. -/
def noMix (d : Opd) (srcs : List Opd) : Bool := !(opdSC d && srcs.any opdLanes)

/-- The uses of a word with their own condition on the operands together. -/
structure Shape where
  uses : List Use
  joint : Bool

/-- Two sources and a destination of the word's TYPE. -/
def shape2 (f : RRR) : Shape :=
  let w := tyWide f.ty
  ⟨[useDst f.d w, useSrc f.a w, useSrc f.b w], noMix f.d [f.a, f.b]⟩

/-- One source, B none. -/
def shape1 (f : RRR) : Shape :=
  let w := tyWide f.ty
  ⟨[useDst f.d w, useSrc f.a w, useNone f.b], noMix f.d [f.a]⟩

/-- Three sources, the third in D. -/
def shape3 (f : RRR) : Shape :=
  let w := tyWide f.ty
  ⟨[useThird f.d w, useSrc f.a w, useSrc f.b w], noMix f.d [f.a, f.b]⟩

/-- A compare: D none. -/
def shapeCmp (f : RRR) : Shape :=
  let w := tyWide f.ty
  ⟨[useNone f.d, useSrc f.a w, useSrc f.b w], true⟩

/-- R109 MOV, with its condition-code form. -/
def shapeMov (f : RRR) : Shape :=
  match f.d, f.a with
  | .k _, .k _ => ⟨[⟨f.d, false, true, 1, 1, f.ty == .n32⟩, ⟨f.a, true, false, 1, 1, true⟩, useNone f.b], true⟩
  | _, _ => shape1 f

/-- An RI word. -/
def shapeRI (f : RI) : Shape :=
  let w := opdSC f.d
  ⟨[useDst f.d false, useSrc f.a w], noMix f.d [f.a]⟩

/-- A conversion: the source has its own type. -/
def shapeCvt (f : RRR) (src : Ty) : Shape :=
  ⟨[useDst f.d (tyWide f.ty), useSrc f.a (tyWide src), useNone f.b], noMix f.d [f.a]⟩

/-- R153: a cross-lane word; `sc` says whether D may be scalar, `wd` the width of D. -/
def shapeLane (f : RRR) (sc : Bool) (wd wa : Bool) (maskOpt : Bool) : Shape :=
  ⟨[{ useDst f.d wd with ok := dstOk f.d && !opdPortish f.d && (sc || !opdSC f.d) && (!wd || evenOk f.d) },
    useSrc f.a wa, if maskOpt then useOpt f.b false else useSrc f.b false],
    !(opdSC f.d && opdLanes f.b)⟩

/-- A 64-bit register named by AUX: a scalar or an even vector register (R117). -/
def auxReg (o : Opd) : Bool :=
  match o with
  | .s _ => true
  | .v n => n.val % 2 == 0
  | _ => false

/-- A use of AUX. -/
def useAux (o : Opd) (wr : Bool) (ok : Bool) : Use := ⟨o, !wr, wr, 2, 1, ok⟩

/-- R163: the vector registers of an access size. -/
def sizeV : MSize → Nat
  | .b64 => 2
  | .b128 => 4
  | _ => 1

/-- R163: the scalar registers of an access size. -/
def sizeS : MSize → Nat
  | .b128 => 2
  | _ => 1

/-- R163: whether an operand can hold a value of the size: an aligned group. -/
def groupOk (o : Opd) (z : MSize) : Bool :=
  match z, o with
  | .b128, .v n => n.val % 4 == 0
  | .b128, .s n => n.val % 2 == 0
  | .b128, _ => false
  | .b64, .v n => n.val % 2 == 0
  | _, _ => true

/-- R160: a legal base; `wide` for a global address. -/
def baseOk (o : Opd) (wide : Bool) : Bool :=
  match o with
  | .v n => !wide || n.val % 2 == 0
  | o => gangSrcOk o

/-- R160: a legal index. -/
def indexOk (o : Opd) : Bool :=
  match o with
  | .v _ | .none => true
  | o => gangSrcOk o

/-- Base and index. -/
def useAddr (base index : Opd) (wide : Bool) : List Use :=
  [⟨base, true, false, if wide then 2 else 1, 1, baseOk base wide⟩, ⟨index, true, false, 1, 1, indexOk index⟩]

/-- A load into D. -/
def shapeLoad (f : MF) (wide : Bool) : Shape :=
  ⟨⟨f.d, false, true, sizeV f.size, sizeS f.size, dstOk f.d && (f.d == .none || groupOk f.d f.size)⟩ ::
    useAddr f.base f.index wide, noMix f.d [f.base, f.index]⟩

/-- A store of D. -/
def shapeStore (f : MF) (wide : Bool) : Shape :=
  ⟨⟨f.d, true, false, sizeV f.size, sizeS f.size, srcOk f.d && groupOk f.d f.size⟩ :: useAddr f.base f.index wide, true⟩

/-- R165, R166: LDE or STE. -/
def shapeElem (f : MEF) (store sc : Bool) : Shape :=
  ⟨⟨f.d, store, !store, 1, 1, if store then srcOk f.d else dstOk f.d⟩ :: useAddr f.base f.index true,
    (store || noMix f.d [f.base, f.index]) && (!sc || opdSC f.base)⟩

/-- The register that follows an atomic's data (R168). -/
def nextGroup (o : Opd) (z : MSize) : Opd :=
  match o with
  | .v n => if h : n.val + sizeV z < 256 then .v ⟨n.val + sizeV z, h⟩ else .bad 0x3EF
  | .s n => if h : n.val + sizeS z < 512 then .s ⟨n.val + sizeS z, h⟩ else .bad 0x3EF
  | .c n => if h : n.val + 1 < 32 then .c ⟨n.val + 1, h⟩ else .bad 0x3EF
  | _ => .bad 0x3EF

/-- R168: the operands of an atomic. -/
def shapeAtom (f : AF) (wide : Bool) : Shape :=
  let data : Use := ⟨f.data, true, false, sizeV f.size, sizeS f.size,
    if f.aop = .ld then f.data == .none else indexOk f.data && f.data != .none && groupOk f.data f.size⟩
  let cmp : List Use :=
    if f.aop = .cas then
      let o := nextGroup f.data f.size
      [⟨o, true, false, sizeV f.size, sizeS f.size, (opdV o || opdSC o) && groupOk o f.size⟩]
    else []
  let dst : Use := ⟨f.d, false, true, sizeV f.size, sizeS f.size,
    if f.aop = .st then f.d == .none else dstOk f.d && (f.d == .none || groupOk f.d f.size)⟩
  ⟨[dst, ⟨f.base, true, false, if wide then 2 else 1, 1, baseOk f.base wide⟩, data] ++ cmp, noMix f.d [f.base, f.data]⟩

/-- R173: a start or a stride: vector, or scalar for all lanes. -/
def useBind (o : Opd) : Use := ⟨o, true, false, 1, 1, opdV o || gangSrcOk o⟩

/-- R265: a tile. -/
def useTile (o : Opd) : Use :=
  ⟨o, false, false, 1, 1, match o with | .m _ => true | _ => false⟩

/-- R265: the six metadata registers of MMAS. -/
def useMeta (o : Opd) : Use :=
  ⟨o, true, false, 6, 1, match o with | .v n => decide (n.val + 6 ≤ 256) | _ => false⟩

/-! ### Short instructions (R75, R76) -/

/-- The operand that a slot's D names. -/
def sdstOpd : SDst → Opd
  | .v n => .v ⟨n.val, by omega⟩
  | .s n => .s ⟨n.val, by omega⟩
  | .port n => .wport n

/-- The operand that a slot's S names, if it is not an immediate. -/
def ssrcOpd : SSrc → Opd
  | .v n => .v ⟨n.val, by omega⟩
  | .s n => .s ⟨n.val, by omega⟩
  | .imm _ => .none
  | .port n => .rport n

/-- R77: which of a slot's operands are read and written: D read, D written. -/
def slotUses (f : Slot) (rdD wrD : Bool) : Shape :=
  let d := sdstOpd f.d
  let s := ssrcOpd f.s
  ⟨[⟨d, rdD, wrD, 1, 1, true⟩, ⟨s, true, false, 1, 1, true⟩], !(wrD && opdSC d && opdLanes s)⟩

/-- A slot that computes D = D op S. -/
def slotOp (f : Slot) : Shape := slotUses f true true

/-- A compare slot. -/
def slotCmp (f : Slot) : Shape := slotUses f true false

/-- No operands. -/
def shape0 : Shape := ⟨[], true⟩

/-- The operand fields of an E word, each with its role. -/
def shapeE (d a b : Use) : Shape := ⟨[d, a, b], true⟩

/-- R70, R71 and each form's own table: the operands of an instruction. Where the rules are silent: FGSR.n64 takes a
commons D or none, and FGSR.n32 none (DESIGN CHOICE, log 72); the mask B of FCLASS.f64 is 32 bits (DESIGN CHOICE, log
73). -/
def shapeOf : Instr → Shape
  | .iadd f | .iaddc f | .iadds f | .isub f | .isubb f | .isubs f | .imin f | .imax f | .imul f | .imulh f
  | .idiv f | .irem f | .and f | .or f | .xor f | .andn f | .orn f | .shl f | .shr f | .sar f | .rol f
  | .bfx f | .permb f | .sext f | .zext f | .fadd f | .fsub f | .fmul f | .fmin f | .fmax f | .fminm f | .fmaxm f
  | .fcpys f | .fdiv f => shape2 f
  | .ineg f | .iabs f | .brev f | .popc f | .clz f | .ctz f | .fabs f | .fneg f | .fsqrt f | .frcp f | .frsq f
  | .fex2 f | .flg2 f | .fsin f | .fcos f | .frint f => shape1 f
  | .imad f | .fshl f | .fshr f | .bfi f | .sel f | .ffma f | .ffma2 f | .fdot4 f => shape3 f
  | .imadw f => ⟨[useThird f.d true, useSrc f.a false, useSrc f.b false], noMix f.d [f.a, f.b]⟩
  | .mov f => shapeMov f
  | .cmp f | .tst f | .fcmp f => shapeCmp f
  | .setk f => ⟨[useNone f.d, useSrc f.a false, useNone f.b], true⟩
  | .getk f => ⟨[{ useDst f.d false with ok := opdV f.d }, useNone f.a, useNone f.b], true⟩
  | .bfxImm f | .movh f | .iaddImm f | .andImm f | .orImm f | .xorImm f | .shlImm f | .shrImm f | .sarImm f
  | .imulImm f => shapeRI f
  | .movi f => ⟨[useDst f.d false, useNone f.a], true⟩
  | .cmpImm f => ⟨[useNone f.d, useSrc f.a false], true⟩
  | .bra f | .exit f | .nop f | .yield f => ⟨[useNone f.aux], true⟩
  | .jmpr f | .ret f => ⟨[useAux f.aux false (auxReg f.aux)], true⟩
  | .call f => ⟨[useAux f.aux true (auxReg f.aux || f.aux == .none)], true⟩
  | .meet f => ⟨[useAux f.aux true ((opdV f.aux && evenOk f.aux) || f.aux == .none)], true⟩
  | .meetR f => ⟨[useAux f.aux false (auxReg f.aux || f.aux == .none)], true⟩
  -- a read port is no register of R121's AUX (DEDUCED, log 104); a `k` register is for MOV alone (R70)
  | .trap f => ⟨[⟨f.aux, true, false, 1, 1, opdV f.aux || gangSrcOk f.aux || f.aux == .none⟩], true⟩
  | .fclass f => ⟨[useDst f.d false, useSrc f.a (tyWide f.ty), useOpt f.b false], noMix f.d [f.a, f.b]⟩
  | .fscale f => ⟨[useDst f.d (tyWide f.ty), useSrc f.a (tyWide f.ty), useSrc f.b false], noMix f.d [f.a, f.b]⟩
  | .fcvt f src | .ftoi f src | .itof f src => shapeCvt f src
  | .qds8 f => ⟨[useDst f.d false, useSrc f.a false, useOpt f.b false], noMix f.d [f.a, f.b]⟩
  | .fgsr f =>
    ⟨[{ useDst f.d (tyWide f.ty) with
        ok := if f.ty = .n32 then opdV f.d || f.d == .none else (opdV f.d && evenOk f.d) || opdSC f.d || f.d == .none },
      useNone f.a, useNone f.b], true⟩
  | .fssr f =>
    if f.ty = .n32 then
      ⟨[{ useDst f.d false with ok := opdV f.d || f.d == .none }, useSrc f.a false, useOpt f.b false], true⟩
    else ⟨[useScalarDstOpt f.d, useGangOpt f.a, useGangOpt f.b], true⟩
  | .shflIdx f | .shflUp f | .shflDown f | .shflXor f =>
    let s := shapeLane f false (tyWide f.ty) (tyWide f.ty) false
    s
  | .ballot f | .voteEvery f | .voteSome f | .voteAgree f | .voteCount f => shapeLane f true false false true
  | .bcast f => shapeLane f true (tyWide f.ty) (tyWide f.ty) true
  | .elect f =>
    let s := shapeLane f true false false true
    ⟨s.uses.take 1 ++ [useNone f.a] ++ s.uses.drop 2, s.joint⟩
  | .matchL f => shapeLane f true (tyWide f.ty) (tyWide f.ty) true
  | .qmx f => shapeLane f false false false true
  | .scan f _ _ => shapeLane f false (tyWide f.ty) (tyWide f.ty) true
  | .reduce f _ => shapeLane f true (tyWide f.ty) (tyWide f.ty) true
  | .ld f => shapeLoad f true
  | .pref f => ⟨useNone f.d :: useAddr f.base f.index true, true⟩
  | .st f => shapeStore f true
  | .lde f => shapeElem f false false
  | .ldeSc f => shapeElem f false true
  | .ste f => shapeElem f true false
  | .steSc f => shapeElem f true true
  | .ldl f => shapeLoad f false
  | .stl f => shapeStore f false
  | .atom f => shapeAtom f true
  | .atoml f => shapeAtom f false
  | .sbind f => ⟨[useNone f.d, useBind f.a, useBind f.b], true⟩
  | .spos f _ =>
    ⟨[{ useDst f.d false with ok := opdV f.d || f.d == .none }, useOpt f.a false, useNone f.b], true⟩
  | .pairedNop _ => shape0
  | .pairedMov f => slotUses f false true
  | .pairedCmp f | .pairedTst f | .pairedFcmp f => slotCmp f
  | .pairedIadd f | .pairedIsub f | .pairedImul f | .pairedImin f | .pairedImax f | .pairedAnd f | .pairedOr f
  | .pairedXor f | .pairedAndn f | .pairedShl f | .pairedShr f | .pairedSar f | .pairedFadd f | .pairedFsub f
  | .pairedFmul f | .pairedFmin f | .pairedFmax f => slotOp f
  | .rgive f _ | .rtake f _ => shapeE (useNone f.d) (useGang f.a) (useNone f.b)
  | .rdsp f _ => shapeE (useGangDst f.d) (useNone f.a) (useNone f.b)
  | .kick f _ => shapeE (useNone f.d) (useGang f.a) (useGangOpt f.b)
  | .cati f _ => shapeE (useNone f.d) (useGang f.a) (useGangOpt f.b)
  | .catw f => shapeE (useGangDstOpt f.d) (useGang f.a) (useNone f.b)
  | .waitc f _ _ => shapeE (useNone f.d) (useGangOpt f.a) (useNone f.b)
  | .recf f => shapeE (useNone f.d) (useGangOpt f.a) (useNone f.b)
  | .recp f => shapeE (useNone f.d) (useGang f.a) (useNone f.b)
  | .pub f | .acq f | .phase f | .fence f | .killpt f => shapeE (useNone f.d) (useNone f.a) (useNone f.b)
  | .mma f _ | .mmax f _ | .mlda f | .mdrain f => shapeE (useTile f.d) (useGang f.a) (useNone f.b)
  | .mmas f _ => shapeE (useTile f.d) (useGang f.a) (useMeta f.b)
  | .mzero f => shapeE (useTile f.d) (useNone f.a) (useNone f.b)
  | .spcomp f | .prog f | .gath f | .scad f => shapeE (useNone f.d) (useGang f.a) (useNone f.b)
  | .bari f => shapeE (useNone f.d) (useGang f.a) (useGang f.b)
  | .bara f | .jwait f => shapeE (useGangDstOpt f.d) (useGang f.a) (useNone f.b)
  | .barw f | .launch f | .migr f | .jarr f => shapeE (useGangDstOpt f.d) (useGang f.a) (useGang f.b)
  | .bart f | .pgq f | .jstat f => shapeE (useGangDst f.d) (useGang f.a) (useNone f.b)
  | _ => shape0

/-- R71, R78: whether every operand of the instruction is legal, allocations apart. -/
def operandsOk (i : Instr) : Bool := (shapeOf i).joint && (shapeOf i).uses.all (fun u => u.ok)

/-! ### Allocation (R71) -/

/-- Whether a register with the span of its use lies within V vector, Q scalar registers and T tiles. -/
def Use.fits (u : Use) (V Q T : Nat) : Bool :=
  match u.o with
  | .v n => decide (n.val + u.vspan ≤ V)
  | .s n => decide (n.val + u.sspan ≤ Q)
  | .m n => decide (n.val < T)
  | _ => true

/-- R71: whether every register of the instruction lies within the allocation. -/
def allocOk (V Q T : Nat) (i : Instr) : Bool := (shapeOf i).uses.all (fun u => u.fits V Q T)

/-! ### Registers read and written, for the run rules (R84) -/

/-- A register for rule 4 of R84. -/
inductive RReg where
  | v (n : Nat)
  | s (n : Nat)
  | c (n : Nat)
  | k (n : Nat)
  | fsr
  | sfsr
  deriving DecidableEq, Repr

/-- The registers a use spans. -/
def Use.regs (u : Use) : List RReg :=
  match u.o with
  | .v n => (List.range u.vspan).map (fun i => .v (n.val + i))
  | .s n => (List.range u.sspan).map (fun i => .s (n.val + i))
  | .c n => [.c n.val]
  | .k n => [.k n.val]
  | .sp .fsr => [.fsr]
  | .sp .sfsr => [.sfsr]
  | _ => []

/-- R127: the status register that a floating-point word reads. -/
def govReg (d : Opd) : RReg := if opdSC d then .sfsr else .fsr

/-- The status register that a floating-point slot reads (R77): a compare acts once only with no source per lane. -/
def govSlot (f : Slot) (cmp : Bool) : RReg :=
  if opdSC (sdstOpd f.d) && !(cmp && opdLanes (ssrcOpd f.s)) then .sfsr else .fsr

/-- R134: the operand that says which status register governs FCMP, whose D is none, and whether it acts once: a scalar
operand where both are scalar or commons registers, so that every active lane gets the same flags (the choice of `%sfsr`
for such a pair: DESIGN CHOICE, log 71). -/
def fcmpGov (f : RRR) : Opd := if opdSC f.a && opdSC f.b then f.a else f.d

/-- Registers that an instruction reads beside its operands. With D none a floating-point word reads `%fsr` (DESIGN
CHOICE, log 71); FGSR.n64 reads `%sfsr` alone, whatever its D (DESIGN CHOICE, log 72). -/
def extraReads : Instr → List RReg
  | .iaddc f | .isubb f | .getk f => [.k f.ccd.val]
  | .fadd f | .fsub f | .fmul f | .ffma f | .ffma2 f | .fmin f | .fmax f | .fminm f | .fmaxm f | .fclass f
  | .fdiv f | .fsqrt f | .frcp f | .frsq f | .fex2 f | .flg2 f | .fsin f | .fcos f | .frint f | .fscale f
  | .fcvt f _ | .ftoi f _ | .itof f _ | .fdot4 f | .qds8 f => [govReg f.d]
  | .fcmp f => [govReg (fcmpGov f)]
  | .fgsr f | .fssr f => [if f.ty = .n32 then .fsr else .sfsr]
  | .pairedFadd f | .pairedFsub f | .pairedFmul f | .pairedFmin f | .pairedFmax f => [govSlot f false]
  | .pairedFcmp f => [govSlot f true]
  | _ => []

/-- Registers that an instruction writes beside its destination. -/
def extraWrites : Instr → List RReg
  | .iadd f | .iaddc f | .iadds f | .isub f | .isubb f | .isubs f | .ineg f | .iabs f | .imin f | .imax f | .imul f
  | .imad f | .idiv f | .irem f | .and f | .or f | .xor f | .andn f | .orn f | .shl f | .shr f | .sar f | .rol f
  | .bfx f | .brev f | .popc f | .clz f | .ctz f | .sext f | .zext f
  | .shflIdx f | .shflUp f | .shflDown f | .shflXor f | .ballot f | .voteEvery f | .voteSome f | .voteAgree f
  | .voteCount f | .bcast f | .elect f | .matchL f | .qmx f | .scan f _ _ | .reduce f _ =>
    if f.cce then [.k f.ccd.val] else []
  | .cmp f | .tst f | .setk f | .fcmp f => [.k f.ccd.val]
  | .cmpImm f => [.k (f.imm.toNat / 2 ^ 26 % 4)]
  | .fssr f => [if f.ty = .n32 then .fsr else .sfsr]
  | .pairedCmp f | .pairedTst f | .pairedFcmp f => [.k f.qual.val]
  | _ => []

/-- What an instruction reads. -/
def readsOf (i : Instr) : List RReg :=
  ((shapeOf i).uses.filter (fun u => u.rd)).flatMap Use.regs ++ extraReads i

/-- What an instruction writes. -/
def writesOf (i : Instr) : List RReg :=
  ((shapeOf i).uses.filter (fun u => u.wr)).flatMap Use.regs ++ extraWrites i

/-- What a guard reads: nothing for AL. -/
def guardReads (g : Guard) : List RReg := if g.cond.val = 0 then [] else [.k g.ksel.val]

/-- What a word reads. -/
def dwordReads : DWord → List RReg
  | .full _ g i => guardReads g ++ readsOf i
  | .pair _ g0 i0 g1 i1 => guardReads g0 ++ readsOf i0 ++ guardReads g1 ++ readsOf i1

/-- What a word writes. -/
def dwordWrites : DWord → List RReg
  | .full _ _ i => writesOf i
  | .pair _ _ i0 _ i1 => writesOf i0 ++ writesOf i1

/-- R74: control flow, which stands only last in a run. -/
def isControl : Instr → Bool
  | .bra _ | .jmpr _ | .call _ | .ret _ | .exit _ | .trap _ | .yield _ => true
  | _ => false

/-- R74: the irrevocable instructions (dagger). -/
def isIrrevocable : Instr → Bool
  | .exit _ | .trap _ | .atom _ | .atoml _ | .rgive _ _ | .rtake _ _ | .kick _ _ | .bara _ | .launch _ | .jarr _
  | .gath _ | .scad _ => true
  | _ => false

/-- Whether a word holds an instruction with the property. -/
def dwordHas (p : Instr → Bool) : DWord → Bool
  | .full _ _ i => p i
  | .pair _ _ i0 _ i1 => p i0 || p i1

/-! ### Paired words (R76) -/

/-- R75: STR. -/
def slotPort (f : Slot) : Bool := opdPortish (sdstOpd f.d) || opdPortish (ssrcOpd f.s)

/-- The fields of a short instruction that has operands. -/
def slotOf : Instr → Option Slot
  | .pairedIadd f | .pairedIsub f | .pairedImul f | .pairedImin f | .pairedImax f | .pairedAnd f | .pairedOr f
  | .pairedXor f | .pairedAndn f | .pairedShl f | .pairedShr f | .pairedSar f | .pairedMov f | .pairedCmp f
  | .pairedTst f | .pairedFadd f | .pairedFsub f | .pairedFmul f | .pairedFmin f | .pairedFmax f | .pairedFcmp f => some f
  | _ => none

/-- R77: whether a short instruction writes its D. -/
def slotWrites : Instr → Bool
  | .pairedCmp _ | .pairedTst _ | .pairedFcmp _ => false
  | _ => true

/-- R76, R77: the class of a short instruction: 1 M, 2 C, 3 L, 0 none. A slot with STR = 1 counts as L alone, whatever
its own class (DESIGN CHOICE, log 67). -/
def slotClass (i : Instr) : Nat :=
  match slotOf i with
  | none => 0
  | some f =>
    if slotPort f then 3
    else match i with
      | .pairedImul _ | .pairedFmul _ => 1
      | .pairedCmp _ | .pairedTst _ | .pairedFcmp _ => 2
      | _ => 0

/-- The vector registers of a slot that count as sources for the bank rule: its D among them. -/
def slotBanks (i : Instr) : List Nat :=
  match slotOf i with
  | none => []
  | some f => [sdstOpd f.d, ssrcOpd f.s].filterMap (fun o => match o with | .v n => some n.val | _ => none)

/-- The scalar registers that a slot reads. -/
def slotScalars (i : Instr) : List Nat :=
  match slotOf i with
  | none => []
  | some f =>
    ((match i with | .pairedMov _ => [] | _ => [sdstOpd f.d]) ++ [ssrcOpd f.s]).filterMap
      (fun o => match o with | .s n => some n.val | _ => none)

/-- The destination of a slot that writes one. -/
def slotDest (i : Instr) : Opd :=
  match slotOf i with
  | none => .none
  | some f => if slotWrites i then sdstOpd f.d else .none

/-- R76: the rules of a pair. -/
def pairOk (i0 i1 : Instr) : Bool :=
  let banks := slotBanks i0 ++ slotBanks i1
  let scalars := slotScalars i0 ++ slotScalars i1
  (match slotDest i0, slotDest i1 with
    | .v a, .v b => a.val % 4 != b.val % 4
    | .s a, .s b => a != b
    | _, _ => true) &&
  banks.all (fun x => banks.all (fun y => x == y || x % 4 != y % 4)) &&
  scalars.all (fun x => scalars.all (fun y => x == y)) &&
  (slotClass i0 == 0 || slotClass i0 != slotClass i1)

/-! ### Fields that an instruction does not accept (R68, R73, R74, R94, R115, R124, R153): illegal-instruction -/

/-- A 32- or 64-bit integer type. -/
def tyWord : Ty → Bool
  | .i32 | .n32 | .i64 | .n64 => true
  | _ => false

/-- A signed integer type. -/
def tySignedInt : Ty → Bool
  | .i32 | .i64 | .i16 | .i8 => true
  | _ => false

/-- One of the four arithmetic float types. -/
def tyFour : Ty → Bool
  | .f64 | .f32 | .f16 | .bf16 => true
  | _ => false

/-- R153: the types of SHFL, BCAST and MATCH. -/
def tyShfl : Ty → Bool
  | .i32 | .n32 | .f32 | .i64 | .n64 | .f64 => true
  | _ => false

/-- R153: the types of QMX. -/
def tyQmx : Ty → Bool
  | .e4m3 | .e5m2 | .e3m2 | .e2m3 | .e2m1 | .ds8 => true
  | _ => false

/-- R157: the types of an operator. -/
def tyScan (op : ScanOp) (t : Ty) : Bool :=
  match op with
  | .add | .min | .max => tyWord t || tyFour t
  | _ => tyWord t

/-- R94: an integer form: its types, whether SAT is legal, and CCE (`none`: free; else its value). RND must be 0. -/
def intForm (f : RRR) (tys : Ty → Bool) (sat : Bool) (cce : Option Bool) : Bool :=
  tys f.ty && (sat || !f.sat) && (match cce with | none => true | some b => f.cce == b) && f.rnd.isNone

/-- R124: a floating-point form. -/
def fpForm (f : RRR) (tys : Ty → Bool) (sat : Bool) : Bool := tys f.ty && (sat || !f.sat) && !f.cce

/-- R153: a cross-lane form. -/
def laneForm (f : RRR) (tys : Ty → Bool) : Bool := tys f.ty && !f.sat

/-- R168: the sizes of an atomic operation. -/
def aopSize (op : Aop) (z : MSize) : Bool :=
  match z with
  | .b32 | .b64 => true
  | .b128 => match op with
    | .xchg | .cas | .ld | .st => true
    | _ => false
  | _ => false

/-- R77: whether a qualifier is below a bound, and the slot's stream port stands where R75 allows it. -/
def slotForm (f : Slot) (quals : Nat) (mov : Bool) : Bool :=
  decide (f.qual.val < quals) &&
  (match f.d, f.s with
    | .port _, .imm _ => false
    | .port _, .port _ => false
    | .port _, _ => mov
    | _, .port _ => !mov
    | _, _ => true)

/-- R122: the fields of a short NOP are zero. -/
def slotNop : Slot := ⟨.v 0, .v 0, 0⟩

/-- A J word's unused fields (R115). -/
def jForm (f : JF) (offset aux : Bool) (jmod : Option Nat) : Bool :=
  (offset || f.offset == 0) && (aux || f.aux == .none) && (match jmod with | none => true | some n => f.jmod.toNat == n)

/-- Whether the fields of an instruction are ones it accepts; a device event has no encoding. -/
def formOk : Instr → Bool
  | .iadd f | .isub f => intForm f tyInt false none
  | .iaddc f | .isubb f => intForm f tyInt false (some true)
  | .iadds f | .isubs f | .imin f | .imax f => intForm f tyInt false none
  | .ineg f | .imul f | .imad f => intForm f tyInt true none
  | .iabs f => intForm f tySignedInt true none
  | .imulh f | .bfi f | .sel f => intForm f tyInt false (some false)
  | .imadw f => intForm f (fun t => t == .i32 || t == .n32) false (some false)
  | .idiv f | .irem f | .and f | .or f | .xor f | .andn f | .orn f | .shl f | .shr f | .sar f | .rol f | .bfx f
  | .brev f | .popc f | .clz f | .ctz f | .sext f | .zext f => intForm f tyInt false none
  | .fshl f | .fshr f | .permb f => intForm f tyWord false (some false)
  | .mov f => intForm f (fun _ => true) false (some false)
  | .cmp f | .tst f => intForm f tyInt false (some false)
  | .setk f | .getk f => intForm f (fun t => t == .n32) false (some false)
  | .movi f => f.a == .none
  | .bfxImm f => f.imm.toNat / 2 ^ 12 == 0
  | .movh _ | .cmpImm _ | .iaddImm _ | .andImm _ | .orImm _ | .xorImm _ | .shlImm _ | .shrImm _ | .sarImm _
  | .imulImm _ => true
  | .bra f => jForm f true false (some 0)
  | .jmpr f | .ret f => jForm f false true (some 0)
  | .call f => jForm f true true (some 0)
  | .meet f => jForm f true true (some 0)
  | .meetR f => jForm f false true (some 1)
  | .exit f => jForm f false false (some 0)
  | .trap f => jForm f false true none
  | .nop f => jForm f false false (some 0)
  | .yield f => jForm f false false (some 1)
  | .fadd f | .fsub f | .fmul f | .ffma f | .fmin f | .fmax f | .fminm f | .fmaxm f | .fabs f | .fneg f | .fcpys f
  | .fcmp f | .fclass f | .fdiv f | .fsqrt f | .frcp f | .frsq f | .fex2 f | .flg2 f | .fsin f | .fcos f | .frint f
  | .fscale f => fpForm f tyFour false
  | .ffma2 f => fpForm f (fun t => t == .f16 || t == .bf16) false
  | .fcvt f src => fpForm f (fun t => !tyInt t) true && !tyInt src
  | .ftoi f src => fpForm f tyInt false && tyFour src
  | .itof f src => fpForm f tyFour false && tyInt src
  | .fdot4 f => fpForm f (fun t => t == .e4m3 || t == .e5m2) false
  | .qds8 f => fpForm f (fun t => t == .ds8) false
  | .fgsr f | .fssr f => fpForm f (fun t => t == .n32 || t == .n64) false
  | .shflIdx f | .shflUp f | .shflDown f | .shflXor f | .bcast f | .matchL f => laneForm f tyShfl
  | .ballot f | .voteEvery f | .voteSome f | .voteAgree f | .voteCount f | .elect f => laneForm f (fun t => t == .n32)
  | .qmx f => laneForm f tyQmx
  | .scan f op _ | .reduce f op => laneForm f (tyScan op)
  | .ld f => f.d != .none
  | .pref f => f.d == .none
  | .st _ | .lde _ | .ldeSc _ | .ste _ | .steSc _ => true
  | .ldl f | .stl f => f.svc == 0
  | .atom f => aopSize f.aop f.size
  | .atoml f => aopSize f.aop f.size && !f.acq && !f.rel && f.svc == 0
  | .sbind f => f.port.val < 4 || !f.sgn
  | .spos _ _ => true
  | .pairedNop f => f == slotNop
  | .pairedMov f => slotForm f 1 true
  | .pairedIadd f | .pairedIsub f | .pairedImul f | .pairedAnd f | .pairedOr f | .pairedXor f | .pairedAndn f
  | .pairedShl f | .pairedShr f | .pairedSar f | .pairedFmin f | .pairedFmax f => slotForm f 1 false
  | .pairedImin f | .pairedImax f => slotForm f 2 false
  | .pairedCmp f | .pairedTst f | .pairedFcmp f => slotForm f 4 false
  | .pairedFadd f | .pairedFsub f | .pairedFmul f => slotForm f 3 false
  | .rgive _ n | .rtake _ n => decide (1 ≤ n ∧ n ≤ 31)
  | .rdsp _ _ => true
  | .kick f n => decide (n < 4096) && (f.b == .none || n == 0)
  | .cati _ n => decide (n < 4096)
  | .waitc f _ n => decide (n < 1024) && (f.a == .none || n == 0)
  | .catw _ | .recf _ | .recp _ | .pub _ | .acq _ | .phase _ | .fence _ | .mma _ _ | .mmax _ _ | .mmas _ _ | .mzero _
  | .mlda _ | .mdrain _ | .spcomp _ | .bari _ | .bara _ | .barw _ | .bart _ | .launch _ | .prog _ | .migr _ | .pgq _
  | .jarr _ | .jwait _ | .killpt _ | .jstat _ | .gath _ | .scad _ => true
  | _ => false

end Sys2Proof.Machine
end

