-- ==== Sys2Proof/WellFormed.lean ====
section
/-! DEFINITION. WellFormed.lean: the instructions that a word can hold and that no static check refuses (R78),
allocations and run rules apart.
-/
namespace Sys2Proof

/-- A short instruction (R77). -/
def isShort (i : Instr) : Bool :=
  match i with
  | .pairedNop _ => true
  | i => (Machine.slotOf i).isSome

/-- A full instruction of the opcode map (R74). -/
def isFull (i : Instr) : Bool := Machine.formOk i && !isShort i

/-- R68, R70, R71: the instruction's fields and operands are ones it accepts. -/
def Instr.wf (i : Instr) : Bool := Machine.formOk i && Machine.operandsOk i

/-- R75: the conditions that a short instruction's guard can name. -/
def slotCond (c : Fin 15) : Bool := c.val == 0 || c.val == 1 || c.val == 2 || c.val == 12

/-- R64 to R77: a word that no static check of its own refuses. -/
def DWord.wf : DWord → Bool
  | .full _ _ i => i.wf && !isShort i
  | .pair _ g0 i0 g1 i1 =>
    i0.wf && i1.wf && isShort i0 && isShort i1 && slotCond g0.cond && slotCond g1.cond && Machine.pairOk i0 i1

end Sys2Proof
end

