-- ==== Sys2Proof/Decode.lean ====
section
/-! DEFINITION. Decode.lean: the decoder, total on any 64-bit word (R64 to R77), and after it the encoder, both from the
encoding tables of the manual.
-/
namespace Sys2Proof

/-! ### Fields -/

/-- R67: the fields of a full word's bits [60:0] that its guard does not take. -/
structure Fields where
  opc : BitVec 7
  d : BitVec 10
  a : BitVec 10
  b : BitVec 10
  md : BitVec 18
  deriving DecidableEq, Repr

/-- R64, R65, R67: a full word in fields. -/
structure RawFull where
  seam : BitVec 2
  ksel : BitVec 2
  cond : BitVec 4
  f : Fields
  deriving DecidableEq, Repr

/-- R75: a short instruction in fields. -/
structure RawSlot where
  sop : BitVec 6
  d : BitVec 8
  s : BitVec 8
  ksel : BitVec 2
  conds : BitVec 2
  imm : BitVec 1
  str : BitVec 1
  qual : BitVec 2
  deriving DecidableEq, Repr

/-- R67: the fields of a full word. -/
def unpackFull (w : W64) : RawFull :=
  ⟨w.extractLsb' 61 2, w.extractLsb' 59 2, w.extractLsb' 55 4,
    ⟨w.extractLsb' 48 7, w.extractLsb' 38 10, w.extractLsb' 28 10, w.extractLsb' 18 10, w.extractLsb' 0 18⟩⟩

/-- R67: a full word from its fields. -/
def packFull (r : RawFull) : W64 :=
  0#1 ++ (r.seam ++ (r.ksel ++ (r.cond ++ (r.f.opc ++ (r.f.d ++ (r.f.a ++ (r.f.b ++ r.f.md)))))))

/-- R75: the fields of a slot. -/
def unpackSlot (x : BitVec 30) : RawSlot :=
  ⟨x.extractLsb' 24 6, x.extractLsb' 16 8, x.extractLsb' 8 8, x.extractLsb' 6 2, x.extractLsb' 4 2, x.extractLsb' 3 1,
    x.extractLsb' 2 1, x.extractLsb' 0 2⟩

/-- R75: a slot from its fields. -/
def packSlot (r : RawSlot) : BitVec 30 :=
  r.sop ++ (r.d ++ (r.s ++ (r.ksel ++ (r.conds ++ (r.imm ++ (r.str ++ r.qual))))))

/-! ### Operand specifiers (R70) -/

/-- R70: the specials 0x3F1 to 0x3FC, in order. -/
def specialOf (n : Nat) : Option Special :=
  match n with
  | 0x3F1 => some .lane
  | 0x3F2 => some .gang
  | 0x3F3 => some .block
  | 0x3F4 => some .core
  | 0x3F5 => some .quad
  | 0x3F6 => some .die
  | 0x3F7 => some .pkg
  | 0x3F8 => some .accel
  | 0x3F9 => some .clock
  | 0x3FA => some .mr
  | 0x3FB => some .fsr
  | 0x3FC => some .sfsr
  | _ => none

/-- R70: the code of a special. -/
def specialCode : Special → Nat
  | .lane => 0x3F1 | .gang => 0x3F2 | .block => 0x3F3 | .core => 0x3F4 | .quad => 0x3F5 | .die => 0x3F6
  | .pkg => 0x3F7 | .accel => 0x3F8 | .clock => 0x3F9 | .mr => 0x3FA | .fsr => 0x3FB | .sfsr => 0x3FC

/-- R70: the operand that a specifier names. -/
def opdOf (x : BitVec 10) : Opd :=
  let n := x.toNat
  if h : n < 0x100 then .v ⟨n, by omega⟩
  else if h : n < 0x300 then .s ⟨n - 0x100, by omega⟩
  else if h : n < 0x320 then .c ⟨n - 0x300, by omega⟩
  else if h : n < 0x324 then .rport ⟨n - 0x320, by omega⟩
  else if h : n < 0x328 then .wport ⟨n - 0x324, by omega⟩
  else if h : n < 0x330 then .m ⟨n - 0x328, by omega⟩
  else if h : n < 0x334 then .k ⟨n - 0x330, by omega⟩
  else if n = 0x3F0 then .zero
  else if n = 0x3FD then .ones
  else if n = 0x3FF then .none
  else match specialOf n with
    | some r => .sp r
    | none => .bad x

/-- R70: the specifier of an operand. -/
def opdBits : Opd → BitVec 10
  | .v n => BitVec.ofNat 10 n.val
  | .s n => BitVec.ofNat 10 (0x100 + n.val)
  | .c n => BitVec.ofNat 10 (0x300 + n.val)
  | .rport n => BitVec.ofNat 10 (0x320 + n.val)
  | .wport n => BitVec.ofNat 10 (0x324 + n.val)
  | .m n => BitVec.ofNat 10 (0x328 + n.val)
  | .k n => BitVec.ofNat 10 (0x330 + n.val)
  | .zero => 0x3F0#10
  | .ones => 0x3FD#10
  | .sp r => BitVec.ofNat 10 (specialCode r)
  | .bad raw => raw
  | .none => 0x3FF#10

/-! ### Codes -/

/-- R69: the TYPE of a code. -/
def tyOf (n : Nat) : Option Ty :=
  match n with
  | 0x00 => some .i32 | 0x01 => some .n32 | 0x02 => some .i64 | 0x03 => some .n64 | 0x04 => some .i16
  | 0x05 => some .n16 | 0x06 => some .i8 | 0x07 => some .n8 | 0x08 => some .f32 | 0x09 => some .f64
  | 0x0A => some .f16 | 0x0B => some .bf16 | 0x0C => some .e4m3 | 0x0D => some .e5m2 | 0x0E => some .e3m2
  | 0x0F => some .e2m3 | 0x10 => some .e2m1 | 0x11 => some .ds8
  | _ => none

/-- R69: the code of a TYPE. -/
def tyCode : Ty → Nat
  | .i32 => 0x00 | .n32 => 0x01 | .i64 => 0x02 | .n64 => 0x03 | .i16 => 0x04 | .n16 => 0x05 | .i8 => 0x06
  | .n8 => 0x07 | .f32 => 0x08 | .f64 => 0x09 | .f16 => 0x0A | .bf16 => 0x0B | .e4m3 => 0x0C | .e5m2 => 0x0D
  | .e3m2 => 0x0E | .e2m3 => 0x0F | .e2m1 => 0x10 | .ds8 => 0x11

/-- R68: RND of a code; 6 and 7 are illegal. -/
def rndField (n : Nat) : Option (Option Rnd) :=
  match n with
  | 0 => some none
  | 1 => some (some .rne)
  | 2 => some (some .rtz)
  | 3 => some (some .rup)
  | 4 => some (some .rdn)
  | 5 => some (some .rna)
  | _ => none

/-- R68: the code of RND. -/
def rndBits : Option Rnd → Nat
  | none => 0
  | some .rne => 1
  | some .rtz => 2
  | some .rup => 3
  | some .rdn => 4
  | some .rna => 5

/-- R163: SIZE of a code. -/
def sizeOf (n : Nat) : Option MSize :=
  match n with
  | 0 => some .n8 | 1 => some .i8 | 2 => some .n16 | 3 => some .i16 | 4 => some .b32 | 5 => some .b64 | 6 => some .b128
  | _ => none

/-- R163: the code of SIZE. -/
def sizeCode : MSize → Nat
  | .n8 => 0 | .i8 => 1 | .n16 => 2 | .i16 => 3 | .b32 => 4 | .b64 => 5 | .b128 => 6

/-- R165: the register type of a code. -/
def elemTyOf (n : Nat) : Option ElemTy :=
  match n with
  | 0 => some .f32 | 1 => some .f16 | 2 => some .bf16 | 3 => some .i32 | 4 => some .n32
  | _ => none

/-- R165: the code of a register type. -/
def elemTyCode : ElemTy → Nat
  | .f32 => 0 | .f16 => 1 | .bf16 => 2 | .i32 => 3 | .n32 => 4

/-- R168: AOP of a code. -/
def aopOf (n : Nat) : Option Aop :=
  match n with
  | 0x0 => some .xchg | 0x1 => some .cas | 0x2 => some .add | 0x3 => some .smin | 0x4 => some .smax | 0x5 => some .umin
  | 0x6 => some .umax | 0x7 => some .and | 0x8 => some .or | 0x9 => some .xor | 0xA => some .fadd | 0xB => some .fmin
  | 0xC => some .fmax | 0xD => some .incw | 0xE => some .ld | 0xF => some .st
  | _ => none

/-- R168: the code of AOP. -/
def aopCode : Aop → Nat
  | .xchg => 0x0 | .cas => 0x1 | .add => 0x2 | .smin => 0x3 | .smax => 0x4 | .umin => 0x5 | .umax => 0x6 | .and => 0x7
  | .or => 0x8 | .xor => 0x9 | .fadd => 0xA | .fmin => 0xB | .fmax => 0xC | .incw => 0xD | .ld => 0xE | .st => 0xF

/-- R157: the operator of a code. -/
def scanOf (n : Nat) : Option ScanOp :=
  match n with
  | 0 => some .add | 1 => some .min | 2 => some .max | 3 => some .and | 4 => some .or | 5 => some .xor
  | _ => none

/-- R157: the code of an operator. -/
def scanCode : ScanOp → Nat
  | .add => 0 | .min => 1 | .max => 2 | .and => 3 | .or => 4 | .xor => 5

/-- R200: the special of an index. -/
def coreSpOf (n : Nat) : Option CoreSpecial :=
  match n with
  | 0 => some .gang | 1 => some .block | 2 => some .core | 3 => some .quad | 4 => some .die | 5 => some .pkg
  | 6 => some .accel | 7 => some .clock | 8 => some .part | 9 => some .vregs | 10 => some .sregs | 11 => some .replays
  | 12 => some .fenced | 13 => some .blkcores | 14 => some .blkpos | 15 => some .nblocks | 16 => some .bthreads
  | _ => none

/-- R200: the index of a special. -/
def coreSpCode : CoreSpecial → Nat
  | .gang => 0 | .block => 1 | .core => 2 | .quad => 3 | .die => 4 | .pkg => 5 | .accel => 6 | .clock => 7 | .part => 8
  | .vregs => 9 | .sregs => 10 | .replays => 11 | .fenced => 12 | .blkcores => 13 | .blkpos => 14 | .nblocks => 15
  | .bthreads => 16

/-- R226: the class of a code. -/
def classOf (n : Nat) : OpClass :=
  match n with
  | 0 => .copy | 1 => .matrix | 2 => .gather | _ => .join

/-- R226: the code of a class. -/
def classCode : OpClass → Nat
  | .copy => 0 | .matrix => 1 | .gather => 2 | .join => 3

/-! ### The decoder -/

/-- Why a word is no instruction: by name, as R78 names the causes. SEAM 11 is a breach of the run rules (R84). -/
inductive DecodeError where
  | illegalInstruction
  | illegalPair
  | illegalSeam
  deriving DecidableEq, Repr

/-- R64: a seam's code; 11 is none. -/
def seamOf (n : Nat) : Option Seam :=
  match n with
  | 0 => some .cont | 1 => some .endRun | 2 => some .park
  | _ => none

/-- R64: the code of a seam. -/
def seamCode : Seam → Nat
  | .cont => 0 | .endRun => 1 | .park => 2

/-- A two-bit field as an index. -/
def fin4 (x : BitVec 2) : Fin 4 := ⟨x.toNat, x.isLt⟩

/-- R68: the fields of an RRR word. -/
def rrrOf (f : Fields) : Option RRR :=
  match tyOf (f.md.extractLsb' 7 5).toNat, rndField (f.md.extractLsb' 4 3).toNat with
  | some t, some r =>
    some ⟨opdOf f.d, opdOf f.a, opdOf f.b, t, r, f.md.getLsbD 3, f.md.getLsbD 2, fin4 (f.md.extractLsb' 0 2)⟩
  | _, _ => none

/-- R67: the fields of an RI word. -/
def riOf (f : Fields) : RI := ⟨opdOf f.d, opdOf f.a, f.b ++ f.md⟩

/-- R73: the fields of a J word. -/
def jOf (f : Fields) : JF :=
  ⟨f.d ++ (f.a ++ (f.b ++ f.md.extractLsb' 16 2)), opdOf (f.md.extractLsb' 6 10), f.md.extractLsb' 0 6⟩

/-- R73: the fields of a plain memory word. -/
def mOf (f : Fields) : Option MF :=
  (sizeOf (f.md.extractLsb' 3 3).toNat).map (fun z =>
    ⟨opdOf f.d, opdOf f.a, opdOf f.b, f.md.extractLsb' 6 12, z, f.md.getLsbD 2, fin4 (f.md.extractLsb' 0 2)⟩)

/-- R165: the fields of an element access. -/
def meOf (f : Fields) : Option MEF :=
  (elemTyOf (f.md.extractLsb' 3 3).toNat).map (fun z =>
    ⟨opdOf f.d, opdOf f.a, opdOf f.b, f.md.extractLsb' 6 12, z, fin4 (f.md.extractLsb' 0 2)⟩)

/-- R168: the fields of an atomic; its reserved bits are zero. -/
def aOf (f : Fields) : Option AF :=
  match aopOf (f.md.extractLsb' 12 6).toNat, sizeOf (f.md.extractLsb' 3 3).toNat with
  | some op, some z =>
    if f.md.extractLsb' 6 4 = 0 ∧ f.md.getLsbD 2 = false then
      some ⟨opdOf f.d, opdOf f.a, opdOf f.b, op, f.md.getLsbD 10, f.md.getLsbD 11, z, fin4 (f.md.extractLsb' 0 2)⟩
    else none
  | _, _ => none

/-- The operand fields of an E word. -/
def eOf (f : Fields) : EF := ⟨opdOf f.d, opdOf f.a, opdOf f.b⟩

/-- R74: SUB. -/
def Fields.sub (f : Fields) : Nat := (f.md.extractLsb' 12 6).toNat

/-- R73: CMD [11:0]. -/
def Fields.cmd (f : Fields) : BitVec 12 := f.md.extractLsb' 0 12

/-- R74: the RRR instructions with a plain SUB. -/
def rrrInstr (opc sub : Nat) (f : RRR) : Option Instr :=
  match opc with
  | 0x00 => match sub with
    | 0 => some (.iadd f)
    | 1 => some (.iaddc f)
    | 2 => some (.iadds f)
    | _ => none
  | 0x01 => match sub with
    | 0 => some (.isub f)
    | 1 => some (.isubb f)
    | 2 => some (.isubs f)
    | _ => none
  | 0x02 => match sub with
    | 0 => some (.ineg f)
    | 1 => some (.iabs f)
    | _ => none
  | 0x03 => match sub with
    | 0 => some (.imin f)
    | 1 => some (.imax f)
    | _ => none
  | 0x04 => match sub with
    | 0 => some (.imul f)
    | 1 => some (.imulh f)
    | _ => none
  | 0x05 => match sub with
    | 0 => some (.imad f)
    | 1 => some (.imadw f)
    | _ => none
  | 0x06 => match sub with
    | 0 => some (.idiv f)
    | 1 => some (.irem f)
    | _ => none
  | 0x07 => match sub with
    | 0 => some (.and f)
    | 1 => some (.or f)
    | 2 => some (.xor f)
    | 3 => some (.andn f)
    | 4 => some (.orn f)
    | _ => none
  | 0x08 => match sub with
    | 0 => some (.shl f)
    | 1 => some (.shr f)
    | 2 => some (.sar f)
    | 3 => some (.rol f)
    | _ => none
  | 0x09 => match sub with
    | 0 => some (.fshl f)
    | 1 => some (.fshr f)
    | _ => none
  | 0x0A => match sub with
    | 0 => some (.bfx f)
    | 1 => some (.bfi f)
    | _ => none
  | 0x0B => match sub with
    | 0 => some (.brev f)
    | 1 => some (.popc f)
    | 2 => some (.clz f)
    | 3 => some (.ctz f)
    | _ => none
  | 0x0C => match sub with
    | 0 => some (.permb f)
    | _ => none
  | 0x0D => match sub with
    | 0 => some (.sext f)
    | 1 => some (.zext f)
    | _ => none
  | 0x0E => match sub with
    | 0 => some (.mov f)
    | _ => none
  | 0x11 => match sub with
    | 0 => some (.sel f)
    | _ => none
  | 0x12 => match sub with
    | 0 => some (.cmp f)
    | 1 => some (.tst f)
    | _ => none
  | 0x13 => match sub with
    | 0 => some (.setk f)
    | 1 => some (.getk f)
    | _ => none
  | 0x30 => match sub with
    | 0 => some (.fadd f)
    | 1 => some (.fsub f)
    | _ => none
  | 0x31 => match sub with
    | 0 => some (.fmul f)
    | _ => none
  | 0x32 => match sub with
    | 0 => some (.ffma f)
    | 1 => some (.ffma2 f)
    | _ => none
  | 0x33 => match sub with
    | 0 => some (.fmin f)
    | 1 => some (.fmax f)
    | 2 => some (.fminm f)
    | 3 => some (.fmaxm f)
    | _ => none
  | 0x34 => match sub with
    | 0 => some (.fabs f)
    | 1 => some (.fneg f)
    | 2 => some (.fcpys f)
    | _ => none
  | 0x35 => match sub with
    | 0 => some (.fcmp f)
    | _ => none
  | 0x36 => match sub with
    | 0 => some (.fclass f)
    | _ => none
  | 0x37 => match sub with
    | 0 => some (.fdiv f)
    | 1 => some (.fsqrt f)
    | 2 => some (.frcp f)
    | 3 => some (.frsq f)
    | _ => none
  | 0x38 => match sub with
    | 0 => some (.fex2 f)
    | 1 => some (.flg2 f)
    | 2 => some (.fsin f)
    | 3 => some (.fcos f)
    | _ => none
  | 0x39 => match sub with
    | 0 => some (.frint f)
    | _ => none
  | 0x3A => match sub with
    | 0 => some (.fscale f)
    | _ => none
  | 0x3E => match sub with
    | 0 => some (.fdot4 f)
    | _ => none
  | 0x3F => match sub with
    | 0 => some (.qds8 f)
    | _ => none
  | 0x40 => match sub with
    | 0 => some (.fgsr f)
    | 1 => some (.fssr f)
    | _ => none
  | 0x50 => match sub with
    | 0 => some (.shflIdx f)
    | 1 => some (.shflUp f)
    | 2 => some (.shflDown f)
    | 3 => some (.shflXor f)
    | _ => none
  | 0x51 => match sub with
    | 0 => some (.ballot f)
    | _ => none
  | 0x52 => match sub with
    | 0 => some (.voteEvery f)
    | 1 => some (.voteSome f)
    | 2 => some (.voteAgree f)
    | 3 => some (.voteCount f)
    | _ => none
  | 0x53 => match sub with
    | 0 => some (.bcast f)
    | 1 => some (.elect f)
    | _ => none
  | 0x54 => match sub with
    | 0 => some (.matchL f)
    | _ => none
  | 0x55 => match sub with
    | 0 => some (.qmx f)
    | _ => none
  | _ => none

/-- R74: the conversions, whose SUB is the source TYPE, and the scans. -/
def convInstr (opc sub : Nat) (f : RRR) : Option Instr :=
  match opc with
  | 0x3B => (tyOf sub).map (fun t => .fcvt f t)
  | 0x3C => (tyOf sub).map (fun t => .ftoi f t)
  | 0x3D => (tyOf sub).map (fun t => .itof f t)
  | 0x56 => if sub < 16 then (scanOf (sub % 8)).map (fun op => .scan f op (decide (8 ≤ sub))) else none
  | 0x57 => (scanOf sub).map (fun op => .reduce f op)
  | _ => none

/-- R74: the RI instructions. -/
def riInstr (opc : Nat) (f : RI) : Option Instr :=
  match opc with
  | 0x0F => some (.movi f)
  | 0x10 => some (.movh f)
  | 0x14 => some (.iaddImm f)
  | 0x15 => some (.andImm f)
  | 0x16 => some (.orImm f)
  | 0x17 => some (.xorImm f)
  | 0x18 => some (.shlImm f)
  | 0x19 => some (.shrImm f)
  | 0x1A => some (.sarImm f)
  | 0x1B => some (.cmpImm f)
  | 0x1C => some (.imulImm f)
  | 0x1D => some (.bfxImm f)
  | _ => none

/-- R74: the J instructions; MEET, NOP and YIELD are told apart by JMOD. -/
def jInstr (opc : Nat) (f : JF) : Option Instr :=
  match opc with
  | 0x28 => some (.bra f)
  | 0x29 => some (.jmpr f)
  | 0x2A => some (.call f)
  | 0x2B => some (.ret f)
  | 0x2C => if f.jmod = 1 then some (.meetR f) else some (.meet f)
  | 0x2D => some (.exit f)
  | 0x2E => some (.trap f)
  | 0x2F => if f.jmod = 1 then some (.yield f) else some (.nop f)
  | _ => none

/-- R74: the memory instructions. -/
def mInstr (opc : Nat) (f : Fields) : Option Instr :=
  match opc with
  | 0x58 => (mOf f).map (fun m => if m.d = .none then .pref m else .ld m)
  | 0x59 => (mOf f).map .st
  | 0x5A => (meOf f).map (fun m => if f.md.getLsbD 2 then .ldeSc m else .lde m)
  | 0x5B => (meOf f).map (fun m => if f.md.getLsbD 2 then .steSc m else .ste m)
  | 0x5C => (mOf f).map .ldl
  | 0x5D => (mOf f).map .stl
  | 0x5E => (aOf f).map .atom
  | 0x5F => (aOf f).map .atoml
  | _ => none

/-- R173: the fields of SBIND. -/
def sbindOf (f : Fields) : Option Instr :=
  let c := f.cmd
  if c.extractLsb' 7 5 = 0 ∧ c.getLsbD 5 = false then
    some (.sbind ⟨opdOf f.d, opdOf f.a, opdOf f.b, c.getLsbD 6, ⟨(c.extractLsb' 3 2).toNat, (c.extractLsb' 3 2).isLt⟩,
      ⟨(c.extractLsb' 0 3).toNat, (c.extractLsb' 0 3).isLt⟩⟩)
  else none

/-- R74: the E instructions that carry fields in CMD [11:0]. -/
def eField (opc sub : Nat) (f : Fields) : Option Instr :=
  let c := f.cmd
  match opc with
  | 0x60 =>
    if c.extractLsb' 0 7 = 0 then
      match sub with
      | 0 => some (.rgive (eOf f) (c.extractLsb' 7 5).toNat)
      | 1 => some (.rtake (eOf f) (c.extractLsb' 7 5).toNat)
      | _ => none
    else none
  | 0x61 =>
    match sub with
    | 0 => sbindOf f
    | 1 => if c.extractLsb' 3 9 = 0 then
        some (.spos (eOf f) ⟨(c.extractLsb' 0 3).toNat, (c.extractLsb' 0 3).isLt⟩) else none
    | _ => none
  | 0x62 => if sub = 0 then (coreSpOf c.toNat).map (fun r => .rdsp (eOf f) r) else none
  | 0x63 => if sub = 0 then some (.kick (eOf f) c.toNat) else none
  | 0x64 => if sub = 0 then some (.cati (eOf f) c.toNat) else none
  | 0x65 =>
    if sub = 0 then some (.waitc (eOf f) (classOf (c.extractLsb' 10 2).toNat) (c.extractLsb' 0 10).toNat) else none
  | 0x70 => if sub = 0 ∧ c.extractLsb' 0 11 = 0 then some (.mma (eOf f) (c.getLsbD 11)) else none
  | 0x71 => if sub = 0 ∧ c.extractLsb' 0 11 = 0 then some (.mmax (eOf f) (c.getLsbD 11)) else none
  | 0x72 => if sub = 0 ∧ c.extractLsb' 0 11 = 0 then some (.mmas (eOf f) (c.getLsbD 11)) else none
  | _ => none

/-- R74: the E instructions whose CMD [11:0] is zero. -/
def ePlain (opc sub : Nat) (f : EF) : Option Instr :=
  match opc with
  | 0x64 => match sub with
    | 1 => some (.catw f)
    | _ => none
  | 0x66 => match sub with
    | 0 => some (.recf f)
    | 1 => some (.recp f)
    | _ => none
  | 0x67 => match sub with
    | 0 => some (.pub f)
    | 1 => some (.acq f)
    | 2 => some (.phase f)
    | 3 => some (.fence f)
    | _ => none
  | 0x73 => match sub with
    | 0 => some (.mzero f)
    | _ => none
  | 0x74 => match sub with
    | 0 => some (.mlda f)
    | _ => none
  | 0x75 => match sub with
    | 0 => some (.mdrain f)
    | _ => none
  | 0x76 => match sub with
    | 0 => some (.spcomp f)
    | _ => none
  | 0x78 => match sub with
    | 0 => some (.bari f)
    | _ => none
  | 0x79 => match sub with
    | 0 => some (.bara f)
    | _ => none
  | 0x7A => match sub with
    | 0 => some (.barw f)
    | _ => none
  | 0x7B => match sub with
    | 0 => some (.bart f)
    | _ => none
  | 0x7C => match sub with
    | 0 => some (.launch f)
    | 1 => some (.prog f)
    | 2 => some (.migr f)
    | 3 => some (.pgq f)
    | _ => none
  | 0x7D => match sub with
    | 0 => some (.jarr f)
    | 1 => some (.jwait f)
    | 2 => some (.killpt f)
    | 3 => some (.jstat f)
    | _ => none
  | 0x7E => match sub with
    | 0 => some (.gath f)
    | 1 => some (.scad f)
    | _ => none
  | _ => none

/-- R74: the instruction that the fields of a full word name, its accepted field values aside. -/
def instrOf (f : Fields) : Option Instr :=
  let opc := f.opc.toNat
  let sub := f.sub
  if opc = 0x3B ∨ opc = 0x3C ∨ opc = 0x3D ∨ opc = 0x56 ∨ opc = 0x57 then (rrrOf f).bind (convInstr opc sub)
  else if opc = 0x0F ∨ opc = 0x10 ∨ (0x14 ≤ opc ∧ opc ≤ 0x1D) then riInstr opc (riOf f)
  else if 0x28 ≤ opc ∧ opc ≤ 0x2F then jInstr opc (jOf f)
  else if opc < 0x58 then (rrrOf f).bind (rrrInstr opc sub)
  else if opc < 0x60 then mInstr opc f
  else if (0x60 ≤ opc ∧ opc ≤ 0x63) ∨ (opc = 0x64 ∧ sub = 0) ∨ opc = 0x65 ∨ (0x70 ≤ opc ∧ opc ≤ 0x72) then eField opc sub f
  else if f.cmd = 0 then ePlain opc sub (eOf f)
  else none

/-- R65: the guard of a full word; COND 15 is none. -/
def guardOf (ksel : BitVec 2) (cond : BitVec 4) : Option Guard :=
  if h : cond.toNat < 15 then some ⟨fin4 ksel, ⟨cond.toNat, h⟩⟩ else none

/-- R78: a full word decoded. -/
def decodeFull (r : RawFull) : Except DecodeError DWord :=
  match seamOf r.seam.toNat with
  | none => .error .illegalSeam
  | some seam =>
    match guardOf r.ksel r.cond, instrOf r.f with
    | some g, some i => if Machine.formOk i then .ok (.full seam g i) else .error .illegalInstruction
    | _, _ => .error .illegalInstruction

/-- R77: the short instruction of an opcode. -/
def shortOf (sop : Nat) (f : Slot) : Option Instr :=
  match sop with
  | 0x00 => some (.pairedNop f)
  | 0x01 => some (.pairedIadd f)
  | 0x02 => some (.pairedIsub f)
  | 0x03 => some (.pairedImul f)
  | 0x04 => some (.pairedImin f)
  | 0x05 => some (.pairedImax f)
  | 0x06 => some (.pairedAnd f)
  | 0x07 => some (.pairedOr f)
  | 0x08 => some (.pairedXor f)
  | 0x09 => some (.pairedAndn f)
  | 0x0A => some (.pairedShl f)
  | 0x0B => some (.pairedShr f)
  | 0x0C => some (.pairedSar f)
  | 0x0D => some (.pairedMov f)
  | 0x0E => some (.pairedCmp f)
  | 0x0F => some (.pairedTst f)
  | 0x10 => some (.pairedFadd f)
  | 0x11 => some (.pairedFsub f)
  | 0x12 => some (.pairedFmul f)
  | 0x13 => some (.pairedFmin f)
  | 0x14 => some (.pairedFmax f)
  | 0x15 => some (.pairedFcmp f)
  | _ => none

/-- R75: D of a slot; with STR a `MOV` names a write port. -/
def sdstOf (x : BitVec 8) (port : Bool) : Option SDst :=
  let n := x.toNat
  if port then
    if h : n < 4 then some (.port ⟨n, h⟩) else none
  else if h : n < 128 then some (.v ⟨n, h⟩)
  else some (.s ⟨n - 128, by have := x.isLt; omega⟩)

/-- R75: S of a slot: an immediate, a read port or a register. -/
def ssrcOf (x : BitVec 8) (imm port : Bool) : Option SSrc :=
  let n := x.toNat
  if imm then some (.imm x)
  else if port then
    if h : n < 4 then some (.port ⟨n, h⟩) else none
  else if h : n < 128 then some (.v ⟨n, h⟩)
  else some (.s ⟨n - 128, by have := x.isLt; omega⟩)

/-- R75: the condition of a code. -/
def condsOf (x : BitVec 2) : Fin 15 :=
  match x.toNat with
  | 0 => 0
  | 1 => 1
  | 2 => 2
  | _ => 12

/-- R75, R77: a slot decoded: its guard and its instruction. -/
def slotInstr (r : RawSlot) : Option (Guard × Instr) :=
  let mov := r.sop.toNat = 0x0D
  let str := r.str = 1
  let nopBad := r.sop = 0 ∧ ¬ (r.d = 0 ∧ r.s = 0 ∧ r.imm = 0 ∧ r.str = 0 ∧ r.qual = 0)
  if nopBad ∨ (r.imm = 1 ∧ str) then none
  else match sdstOf r.d (decide (str ∧ mov)), ssrcOf r.s (decide (r.imm = 1)) (decide (str ∧ ¬ mov)) with
    | some d, some s =>
      match shortOf r.sop.toNat ⟨d, s, fin4 r.qual⟩ with
      | some i => if Machine.formOk i then some (⟨fin4 r.ksel, condsOf r.conds⟩, i) else none
      | none => none
    | _, _ => none

/-- R75, R76: a paired word decoded. -/
def decodePair (w : W64) : Except DecodeError DWord :=
  match seamOf (w.extractLsb' 61 2).toNat with
  | none => .error .illegalSeam
  | some seam =>
    match slotInstr (unpackSlot (w.extractLsb' 31 30)), slotInstr (unpackSlot (w.extractLsb' 1 30)) with
    | some (g0, i0), some (g1, i1) =>
      if w.getLsbD 0 = false ∧ Machine.pairOk i0 i1 then .ok (.pair seam g0 i0 g1 i1) else .error .illegalPair
    | _, _ => .error .illegalPair

/-- R64: A WORD DECODED: what it holds, or why it is no instruction. Operands are checked apart (R78). -/
def decode (w : W64) : Except DecodeError DWord :=
  if w.getLsbD 63 then decodePair w else decodeFull (unpackFull w)

/-! ### The encoder -/

/-- R68: MOD of an RRR word. -/
def rrrMd (sub : Nat) (f : RRR) : BitVec 18 :=
  BitVec.ofNat 6 sub ++ (BitVec.ofNat 5 (tyCode f.ty) ++ (BitVec.ofNat 3 (rndBits f.rnd) ++
    (BitVec.ofBool f.sat ++ (BitVec.ofBool f.cce ++ BitVec.ofNat 2 f.ccd.val))))

/-- An RRR word's fields. -/
def encRRR (opc sub : Nat) (f : RRR) : Fields :=
  ⟨BitVec.ofNat 7 opc, opdBits f.d, opdBits f.a, opdBits f.b, rrrMd sub f⟩

/-- An RI word's fields. -/
def encRI (opc : Nat) (f : RI) : Fields :=
  ⟨BitVec.ofNat 7 opc, opdBits f.d, opdBits f.a, f.imm.extractLsb' 18 10, f.imm.extractLsb' 0 18⟩

/-- A J word's fields. -/
def encJ (opc : Nat) (f : JF) : Fields :=
  ⟨BitVec.ofNat 7 opc, f.offset.extractLsb' 22 10, f.offset.extractLsb' 12 10, f.offset.extractLsb' 2 10,
    f.offset.extractLsb' 0 2 ++ (opdBits f.aux ++ f.jmod)⟩

/-- A plain memory word's fields. -/
def encM (opc : Nat) (f : MF) : Fields :=
  ⟨BitVec.ofNat 7 opc, opdBits f.d, opdBits f.base, opdBits f.index,
    f.off ++ (BitVec.ofNat 3 (sizeCode f.size) ++ (BitVec.ofBool f.sc ++ BitVec.ofNat 2 f.svc.val))⟩

/-- An element access's fields. -/
def encME (opc : Nat) (sc : Bool) (f : MEF) : Fields :=
  ⟨BitVec.ofNat 7 opc, opdBits f.d, opdBits f.base, opdBits f.index,
    f.off ++ (BitVec.ofNat 3 (elemTyCode f.rt) ++ (BitVec.ofBool sc ++ BitVec.ofNat 2 f.svc.val))⟩

/-- An atomic's fields. -/
def encA (opc : Nat) (f : AF) : Fields :=
  ⟨BitVec.ofNat 7 opc, opdBits f.d, opdBits f.base, opdBits f.data,
    BitVec.ofNat 6 (aopCode f.aop) ++ (BitVec.ofBool f.rel ++ (BitVec.ofBool f.acq ++ (0#4 ++
      (BitVec.ofNat 3 (sizeCode f.size) ++ (0#1 ++ BitVec.ofNat 2 f.svc.val)))))⟩

/-- An E word's fields. -/
def encE (opc sub : Nat) (cmd : BitVec 12) (f : EF) : Fields :=
  ⟨BitVec.ofNat 7 opc, opdBits f.d, opdBits f.a, opdBits f.b, BitVec.ofNat 6 sub ++ cmd⟩

/-- SBIND's fields. -/
def encSbind (f : SbindF) : Fields :=
  ⟨0x61#7, opdBits f.d, opdBits f.a, opdBits f.b,
    0#6 ++ (0#5 ++ (BitVec.ofBool f.sgn ++ (0#1 ++ (BitVec.ofNat 2 f.esz.val ++ BitVec.ofNat 3 f.port.val))))⟩

/-- The fields of a full instruction's word; short instructions and device events have none. -/
def fieldsOf : Instr → Option Fields
  | .iadd f => some (encRRR 0x00 0 f)
  | .iaddc f => some (encRRR 0x00 1 f)
  | .iadds f => some (encRRR 0x00 2 f)
  | .isub f => some (encRRR 0x01 0 f)
  | .isubb f => some (encRRR 0x01 1 f)
  | .isubs f => some (encRRR 0x01 2 f)
  | .ineg f => some (encRRR 0x02 0 f)
  | .iabs f => some (encRRR 0x02 1 f)
  | .imin f => some (encRRR 0x03 0 f)
  | .imax f => some (encRRR 0x03 1 f)
  | .imul f => some (encRRR 0x04 0 f)
  | .imulh f => some (encRRR 0x04 1 f)
  | .imad f => some (encRRR 0x05 0 f)
  | .imadw f => some (encRRR 0x05 1 f)
  | .idiv f => some (encRRR 0x06 0 f)
  | .irem f => some (encRRR 0x06 1 f)
  | .and f => some (encRRR 0x07 0 f)
  | .or f => some (encRRR 0x07 1 f)
  | .xor f => some (encRRR 0x07 2 f)
  | .andn f => some (encRRR 0x07 3 f)
  | .orn f => some (encRRR 0x07 4 f)
  | .shl f => some (encRRR 0x08 0 f)
  | .shr f => some (encRRR 0x08 1 f)
  | .sar f => some (encRRR 0x08 2 f)
  | .rol f => some (encRRR 0x08 3 f)
  | .fshl f => some (encRRR 0x09 0 f)
  | .fshr f => some (encRRR 0x09 1 f)
  | .bfx f => some (encRRR 0x0A 0 f)
  | .bfi f => some (encRRR 0x0A 1 f)
  | .brev f => some (encRRR 0x0B 0 f)
  | .popc f => some (encRRR 0x0B 1 f)
  | .clz f => some (encRRR 0x0B 2 f)
  | .ctz f => some (encRRR 0x0B 3 f)
  | .permb f => some (encRRR 0x0C 0 f)
  | .sext f => some (encRRR 0x0D 0 f)
  | .zext f => some (encRRR 0x0D 1 f)
  | .mov f => some (encRRR 0x0E 0 f)
  | .sel f => some (encRRR 0x11 0 f)
  | .cmp f => some (encRRR 0x12 0 f)
  | .tst f => some (encRRR 0x12 1 f)
  | .setk f => some (encRRR 0x13 0 f)
  | .getk f => some (encRRR 0x13 1 f)
  | .fadd f => some (encRRR 0x30 0 f)
  | .fsub f => some (encRRR 0x30 1 f)
  | .fmul f => some (encRRR 0x31 0 f)
  | .ffma f => some (encRRR 0x32 0 f)
  | .ffma2 f => some (encRRR 0x32 1 f)
  | .fmin f => some (encRRR 0x33 0 f)
  | .fmax f => some (encRRR 0x33 1 f)
  | .fminm f => some (encRRR 0x33 2 f)
  | .fmaxm f => some (encRRR 0x33 3 f)
  | .fabs f => some (encRRR 0x34 0 f)
  | .fneg f => some (encRRR 0x34 1 f)
  | .fcpys f => some (encRRR 0x34 2 f)
  | .fcmp f => some (encRRR 0x35 0 f)
  | .fclass f => some (encRRR 0x36 0 f)
  | .fdiv f => some (encRRR 0x37 0 f)
  | .fsqrt f => some (encRRR 0x37 1 f)
  | .frcp f => some (encRRR 0x37 2 f)
  | .frsq f => some (encRRR 0x37 3 f)
  | .fex2 f => some (encRRR 0x38 0 f)
  | .flg2 f => some (encRRR 0x38 1 f)
  | .fsin f => some (encRRR 0x38 2 f)
  | .fcos f => some (encRRR 0x38 3 f)
  | .frint f => some (encRRR 0x39 0 f)
  | .fscale f => some (encRRR 0x3A 0 f)
  | .fdot4 f => some (encRRR 0x3E 0 f)
  | .qds8 f => some (encRRR 0x3F 0 f)
  | .fgsr f => some (encRRR 0x40 0 f)
  | .fssr f => some (encRRR 0x40 1 f)
  | .shflIdx f => some (encRRR 0x50 0 f)
  | .shflUp f => some (encRRR 0x50 1 f)
  | .shflDown f => some (encRRR 0x50 2 f)
  | .shflXor f => some (encRRR 0x50 3 f)
  | .ballot f => some (encRRR 0x51 0 f)
  | .voteEvery f => some (encRRR 0x52 0 f)
  | .voteSome f => some (encRRR 0x52 1 f)
  | .voteAgree f => some (encRRR 0x52 2 f)
  | .voteCount f => some (encRRR 0x52 3 f)
  | .bcast f => some (encRRR 0x53 0 f)
  | .elect f => some (encRRR 0x53 1 f)
  | .matchL f => some (encRRR 0x54 0 f)
  | .qmx f => some (encRRR 0x55 0 f)
  | .fcvt f t => some (encRRR 0x3B (tyCode t) f)
  | .ftoi f t => some (encRRR 0x3C (tyCode t) f)
  | .itof f t => some (encRRR 0x3D (tyCode t) f)
  | .scan f op x => some (encRRR 0x56 (scanCode op + (if x then 8 else 0)) f)
  | .reduce f op => some (encRRR 0x57 (scanCode op) f)
  | .movi f => some (encRI 0x0F f)
  | .movh f => some (encRI 0x10 f)
  | .iaddImm f => some (encRI 0x14 f)
  | .andImm f => some (encRI 0x15 f)
  | .orImm f => some (encRI 0x16 f)
  | .xorImm f => some (encRI 0x17 f)
  | .shlImm f => some (encRI 0x18 f)
  | .shrImm f => some (encRI 0x19 f)
  | .sarImm f => some (encRI 0x1A f)
  | .cmpImm f => some (encRI 0x1B f)
  | .imulImm f => some (encRI 0x1C f)
  | .bfxImm f => some (encRI 0x1D f)
  | .bra f => some (encJ 0x28 f)
  | .jmpr f => some (encJ 0x29 f)
  | .call f => some (encJ 0x2A f)
  | .ret f => some (encJ 0x2B f)
  | .meet f => some (encJ 0x2C f)
  | .meetR f => some (encJ 0x2C f)
  | .exit f => some (encJ 0x2D f)
  | .trap f => some (encJ 0x2E f)
  | .nop f => some (encJ 0x2F f)
  | .yield f => some (encJ 0x2F f)
  | .ld f => some (encM 0x58 f)
  | .pref f => some (encM 0x58 f)
  | .st f => some (encM 0x59 f)
  | .lde f => some (encME 0x5A false f)
  | .ldeSc f => some (encME 0x5A true f)
  | .ste f => some (encME 0x5B false f)
  | .steSc f => some (encME 0x5B true f)
  | .ldl f => some (encM 0x5C f)
  | .stl f => some (encM 0x5D f)
  | .atom f => some (encA 0x5E f)
  | .atoml f => some (encA 0x5F f)
  | .rgive f n => some (encE 0x60 0 (BitVec.ofNat 5 n ++ 0#7) f)
  | .rtake f n => some (encE 0x60 1 (BitVec.ofNat 5 n ++ 0#7) f)
  | .sbind f => some (encSbind f)
  | .spos f p => some (encE 0x61 1 (0#9 ++ BitVec.ofNat 3 p.val) f)
  | .rdsp f r => some (encE 0x62 0 (BitVec.ofNat 12 (coreSpCode r)) f)
  | .kick f n => some (encE 0x63 0 (BitVec.ofNat 12 n) f)
  | .cati f n => some (encE 0x64 0 (BitVec.ofNat 12 n) f)
  | .waitc f c n => some (encE 0x65 0 (BitVec.ofNat 2 (classCode c) ++ BitVec.ofNat 10 n) f)
  | .mma f p => some (encE 0x70 0 (BitVec.ofBool p ++ 0#11) f)
  | .mmax f p => some (encE 0x71 0 (BitVec.ofBool p ++ 0#11) f)
  | .mmas f p => some (encE 0x72 0 (BitVec.ofBool p ++ 0#11) f)
  | .catw f => some (encE 0x64 1 0#12 f)
  | .recf f => some (encE 0x66 0 0#12 f)
  | .recp f => some (encE 0x66 1 0#12 f)
  | .pub f => some (encE 0x67 0 0#12 f)
  | .acq f => some (encE 0x67 1 0#12 f)
  | .phase f => some (encE 0x67 2 0#12 f)
  | .fence f => some (encE 0x67 3 0#12 f)
  | .mzero f => some (encE 0x73 0 0#12 f)
  | .mlda f => some (encE 0x74 0 0#12 f)
  | .mdrain f => some (encE 0x75 0 0#12 f)
  | .spcomp f => some (encE 0x76 0 0#12 f)
  | .bari f => some (encE 0x78 0 0#12 f)
  | .bara f => some (encE 0x79 0 0#12 f)
  | .barw f => some (encE 0x7A 0 0#12 f)
  | .bart f => some (encE 0x7B 0 0#12 f)
  | .launch f => some (encE 0x7C 0 0#12 f)
  | .prog f => some (encE 0x7C 1 0#12 f)
  | .migr f => some (encE 0x7C 2 0#12 f)
  | .pgq f => some (encE 0x7C 3 0#12 f)
  | .jarr f => some (encE 0x7D 0 0#12 f)
  | .jwait f => some (encE 0x7D 1 0#12 f)
  | .killpt f => some (encE 0x7D 2 0#12 f)
  | .jstat f => some (encE 0x7D 3 0#12 f)
  | .gath f => some (encE 0x7E 0 0#12 f)
  | .scad f => some (encE 0x7E 1 0#12 f)
  | _ => none

/-- R77: the opcode of a short instruction and its fields. -/
def sopOf : Instr → Option (Nat × Slot)
  | .pairedNop f => some (0x00, f)
  | .pairedIadd f => some (0x01, f)
  | .pairedIsub f => some (0x02, f)
  | .pairedImul f => some (0x03, f)
  | .pairedImin f => some (0x04, f)
  | .pairedImax f => some (0x05, f)
  | .pairedAnd f => some (0x06, f)
  | .pairedOr f => some (0x07, f)
  | .pairedXor f => some (0x08, f)
  | .pairedAndn f => some (0x09, f)
  | .pairedShl f => some (0x0A, f)
  | .pairedShr f => some (0x0B, f)
  | .pairedSar f => some (0x0C, f)
  | .pairedMov f => some (0x0D, f)
  | .pairedCmp f => some (0x0E, f)
  | .pairedTst f => some (0x0F, f)
  | .pairedFadd f => some (0x10, f)
  | .pairedFsub f => some (0x11, f)
  | .pairedFmul f => some (0x12, f)
  | .pairedFmin f => some (0x13, f)
  | .pairedFmax f => some (0x14, f)
  | .pairedFcmp f => some (0x15, f)
  | _ => none

/-- R75: the code of a slot's condition. -/
def condsBits (c : Fin 15) : BitVec 2 :=
  match c.val with
  | 0 => 0
  | 1 => 1
  | 2 => 2
  | _ => 3

/-- R75: D of a slot. -/
def sdstBits : SDst → BitVec 8
  | .v n => BitVec.ofNat 8 n.val
  | .s n => BitVec.ofNat 8 (128 + n.val)
  | .port n => BitVec.ofNat 8 n.val

/-- R75: S of a slot. -/
def ssrcBits : SSrc → BitVec 8
  | .v n => BitVec.ofNat 8 n.val
  | .s n => BitVec.ofNat 8 (128 + n.val)
  | .imm x => x
  | .port n => BitVec.ofNat 8 n.val

/-- R75: a slot encoded. -/
def rawSlot (g : Guard) (sop : Nat) (f : Slot) : RawSlot :=
  { sop := BitVec.ofNat 6 sop, d := sdstBits f.d, s := ssrcBits f.s, ksel := BitVec.ofNat 2 g.ksel.val,
    conds := condsBits g.cond, imm := match f.s with | .imm _ => 1 | _ => 0,
    str := BitVec.ofBool (Machine.slotPort f), qual := BitVec.ofNat 2 f.qual.val }

/-- A slot's bits; none where the instruction is no short one. -/
def encodeSlot (g : Guard) (i : Instr) : Option (BitVec 30) :=
  (sopOf i).map (fun p => packSlot (rawSlot g p.1 p.2))

/-- A WORD ENCODED, from the tables of R64 to R77; `none` where its instructions have no encoding. -/
def encode : DWord → Option W64
  | .full seam g i =>
    (fieldsOf i).map (fun f =>
      packFull ⟨BitVec.ofNat 2 (seamCode seam), BitVec.ofNat 2 g.ksel.val, BitVec.ofNat 4 g.cond.val, f⟩)
  | .pair seam g0 i0 g1 i1 =>
    match encodeSlot g0 i0, encodeSlot g1 i1 with
    | some x, some y => some (1#1 ++ (BitVec.ofNat 2 (seamCode seam) ++ (x ++ (y ++ 0#1))))
    | _, _ => none

/-! ### Words by the numbering of the opcode table -/

/-- The instruction that a word holds; of a pair, that of slot 0. -/
def DWord.instr : DWord → Instr
  | .full _ _ i => i
  | .pair _ _ i _ _ => i

/-- The instruction that the decoder reads from a word whose low bits are `w` and whose bits from `nbits` on are zero. -/
def decodeTableWord (nbits w : Nat) : Option Instr :=
  match decode (BitVec.ofNat 64 (w % 2 ^ nbits)) with
  | .ok d => some d.instr
  | .error _ => none

end Sys2Proof
end

