-- ==== Sys2Proof/Config.lean ====
section
/-! DEFINITION. Config.lean: the values that the manual leaves open to an implementation. Each is a
constant with no body, so that nothing can be proved of its value (assumption log 1 to 6).
-/
namespace Sys2Proof.Config

/-- R137: where a special function is not correctly rounded the device may deliver any value within the
bound. The signed number of steps (in units of the last place) from the correctly rounded value that the
device prefers, for a form, a type, a rounding mode and an operand. It is a function of these alone, as
R137 states, and the model keeps it only where the bound allows it (log 1). -/
opaque specialOffset (form ty rnd : Nat) (operand : W64) : Int

/-- R82, R252, R228 and every other place where the manual allows one of two values: `freeChoice n` is the
n-th free choice (log 2). -/
opaque freeChoice (n : Nat) : Bool

/-- R367: AES-256-XTS under a 512-bit key: the permutation of the 16-byte block at position `block` of the data unit
whose tweak is `tweak`; its inverse decrypts. Which permutation it is, is open here (log 3). -/
opaque xts (key : BitVec 512) (tweak block : Nat) : Equiv.Perm (BitVec 128)

/-- R393, R394: the seed from which the device generates its XMSS key pair, open here (log 5). -/
opaque deviceSeed : BitVec 768

/-- R392 to R394: SHAKE256 with 256 bits of output, open here (log 5). -/
opaque shake256 (msg : List Byte) : BitVec 256

/-- R393: what key generation derives from a seed for a chain of a leaf's one-time key (log 5). -/
opaque wotsSecret (seed : BitVec 768) (leaf chain : Nat) : BitVec 256

/-- R393: the public seed of a seed's key pair (log 5). -/
opaque xmssPubSeed (seed : BitVec 768) : BitVec 256

/-- R393: the key of the randomizer of a seed's key pair (log 5). -/
opaque xmssPrfKey (seed : BitVec 768) : BitVec 256

/-- R385, R345: a byte that a read of poisoned or absent data delivers on a path where the manual gives the
consumer no value (log 6). -/
opaque poisonByte (n : Nat) (addr : Nat) : Byte

/-- R255, R400: the byte at `addr` of a page that another package holds, as a read by this package that no request of
the thread's own carries finds it; the other package's memory is outside the model (log 7). -/
opaque remoteByte (n : Nat) (addr : Nat) : Byte

/-- R329, R331: the byte at `addr` of a save area once a block has been saved there; the manual states no layout for the
area (log 9). -/
opaque saveByte (n : Nat) (addr : Nat) : Byte

/-- R377: QUORUM of a status word built from an image whose quorum the manual does not define (log 36). -/
opaque openQuorum (num den tasks : Nat) : BitVec 13

/-- R338: the subarray of a local address; the manual states no layout (log 40). -/
opaque subarrayOf (pa : Nat) : Nat

/-- R338: whether two subarrays share sense amplifiers (log 40). -/
opaque sharesAmps (a b : Nat) : Bool

/-- R340: the row of a local address; the manual states no layout (log 40). -/
opaque rowOf (pa : Nat) : Nat

/-- R391: channel, bank, row and sector of a sector of a stack, packed; the manual states no layout (log 40). -/
opaque packPlace (pa : Nat) : BitVec 61

end Sys2Proof.Config
end

