-- ==== Sys2Proof/Machine/State.lean ====
section
/-! DEFINITION. Machine/State.lean: everything the manual gives the machine, as plain data, and the machine after
reset. One package is modelled whole; the host, the other packages of the pod and the sensors are outside it.

Conventions: a `Nat` key names an agent (a core 0..63, a gang or block by the unique number given at its placement).
A local physical address is a byte address below 2^46 (R348). An address of 2^80 and above is a byte of a remote page
(R398): `remoteAddr` builds it. A `view` is 0 for plain text, otherwise the number of an installed key (R367).
-/
namespace Sys2Proof.Machine

/-! ### Threads -/

/-- R27: the status of a thread. Waiting for an operation of the whole gang stands in the gang. -/
inductive LaneStatus where
  | runnable | held | waiting | parked | exited
  deriving DecidableEq, Repr

/-- R173, R174: one bound stream port of a lane. -/
structure Port where
  start : W64
  stride : BitVec 32
  esz : Fin 4
  sgn : Bool
  pos : BitVec 32
  deriving DecidableEq, Repr

/-- R18: the state of one thread. `v` and `ports` are sparse; a register not listed holds 0 (R36). -/
structure Lane where
  pc : W64
  mr : W64
  met : Bool
  v : List (Nat × W32)
  k0 : Flags
  k1 : Flags
  k2 : Flags
  k3 : Flags
  fsr : W32
  ports : List (Nat × Port)
  status : LaneStatus
  stamp : Nat
  deriving DecidableEq, Repr

/-- R195: a commons write that its gang sees before the arbiter's order does. -/
structure Overlay where
  reg : Nat
  val : W64
  ord : Nat
  deriving DecidableEq, Repr

/-- R203: the state of a gang that a strike report restores: its lanes, scalars, `%sfsr`, the commons overlay and the
counts of issued operations (R225: copy, matrix, gather). -/
structure GangRegs where
  lanes : List Lane
  s : List (Nat × W64)
  sfsr : W32
  overlay : List Overlay
  issuedCopy : Nat
  issuedMat : Nat
  issuedGath : Nat
  deriving DecidableEq, Repr

/-! ### Effects in flight -/

/-- The destination of a result. -/
inductive Dst where
  | v (lane reg : Nat)
  | s (reg : Nat)
  | c (reg : Nat)
  | k (lane : Nat) (n : Fin 4)
  | other
  deriving DecidableEq, Repr

/-- R80, R82: one effect on the gang's own state, applied when it becomes visible. -/
inductive Eff where
  | v (lane reg : Nat) (x : W32)
  | s (reg : Nat) (x : W64)
  | c (reg : Nat) (x : W64) (ord : Nat)
  | k (lane : Nat) (n : Fin 4) (f : Flags)
  | fsrOr (lane : Nat) (fl : BitVec 5)
  | sfsrOr (fl : BitVec 5)
  | fsrSet (lane : Nat) (x : W32)
  | sfsrSet (x : W32)
  | mr (lane : Nat) (x : W64)
  | port (lane n : Nat) (p : Port)
  | loc (lane : Option Nat) (off : List (Nat × Byte))
  deriving DecidableEq, Repr

/-- R80: a fixed-latency effect and the position in the run from which it is visible. -/
structure Pend where
  due : Nat
  eff : Eff
  deriving DecidableEq, Repr

/-- A byte of memory as an access names it: its address, the view of its page (R367), whether `ACQ` drops it (R239:
SCOPE other than core), whether the page is poisoned (R360), the address of the page's leaf entry, if it has one, its
context, the byte's virtual address, the requester (R339), class and deadline stamp of the access (R171, R336), and the
base-2 logarithm of the page's size (R344). -/
structure Cell where
  pa : Nat
  view : Nat
  drop : Bool
  poi : Bool
  leaf : Option Nat
  asid : Nat
  va : Nat
  who : Nat
  cls : Nat
  stamp : Nat
  lg : Nat
  deriving DecidableEq, Repr

/-- A byte to store: the place, the value and the mask of its bits (R63). -/
structure StCell where
  cell : Cell
  val : Byte
  mask : Byte
  deriving DecidableEq, Repr

/-- R163, R165: how the bytes of a load become a result. -/
inductive LoadFmt where
  | raw (size : MSize)
  | elem (bit fmt : Nat) (rt : ElemTy)
  | scaled (bit fmt : Nat) (rt : ElemTy)
  deriving DecidableEq, Repr

/-- R238: a load in flight, of one lane or of the gang (`lane = none`). `got` holds the bytes once they were read;
`noKeep` marks a fill that an `ACQ` overtook (R239). The first cell of a `scaled` load is its scale byte.
`lanes` are those that a fault of it parks, `part` the bytes that other packages have given it so far; with `redo` the
request under way may bring bytes older than what its thread has seen, and is made again (R240). -/
structure LoadReq where
  lane : Option Nat
  cells : List Cell
  fmt : LoadFmt
  dst : Opd
  got : Option (List Byte)
  poison : Bool
  noKeep : Bool
  stamp : Nat
  cls : Nat
  lanes : LaneMask
  part : List (Nat × Byte)
  redo : Bool
  deriving DecidableEq, Repr

/-- R167: a scratchpad load in flight. -/
structure LdlReq where
  lane : Option Nat
  off : Nat
  size : MSize
  dst : Opd
  ord : Nat
  deriving DecidableEq, Repr

/-- What an outstanding result waits for: nothing (its value was fixed at issue), a load, a scratchpad load, a page query, the end of
its run's quarantine (flags of STE, R165), or the unit that performs the operation. -/
inductive OKind where
  | value
  | load (r : LoadReq)
  | ldl (r : LdlReq)
  | pgq (va : Nat) (dst : Opd)
  | afterQuar
  | unit
  deriving DecidableEq, Repr

/-- R82: a variable-latency operation of a gang whose result is not yet visible. `blocks` says that a park seam waits
for it; `clob` lists destinations that a fixed-latency write named meanwhile. `applied` is the run counter at which a
park seam made it visible, kept while a strike report could still return it (R203). `ports` are the elements that write
ports were given at issue: lane, offset, size (R173). `sent` says that the commons arbiter has its write (R195). -/
structure Outst where
  id : Nat
  run : Nat
  pc : W64
  ord : Nat
  kind : OKind
  dsts : List Dst
  effs : List Eff
  arrived : Bool
  blocks : Bool
  clob : List Dst
  applied : Nat
  ports : List (Nat × Nat × Nat)
  sent : Bool
  deriving DecidableEq, Repr

/-- R178: a fault record as the detecting unit requests it. -/
structure FaultReq where
  asid : Nat
  cause : Nat
  detail : Nat
  pc : W64
  addr : W64
  last : W64
  time : Nat
  lanes : LaneMask
  commits : Nat
  block : Nat
  launch : Nat
  gang : Nat
  core : Nat
  deferred : Bool
  replayable : Bool
  forced : Bool
  waited : Bool
  guid : Option Nat
  buid : Option Nat
  op : Option Nat
  inert : Bool
  host : Bool
  deriving DecidableEq, Repr

/-- R168: the request of one lane (or of the gang) of an atomic; `core` says that the core's atomic unit performs it
(R169). -/
structure AtomLane where
  lane : Option Nat
  cells : List Cell
  off : Nat
  data : BitVec 128
  cmp : BitVec 128
  core : Bool
  done : Bool
  deriving DecidableEq, Repr

/-- R168, R169: an atomic word held or in flight. `left` says that it has left the core (R241); `ahead` are the loads of
the core that were in flight then: gang and number of the result (R239). -/
structure AtomReq where
  aop : Aop
  size : MSize
  acq : Bool
  rel : Bool
  dst : Opd
  lanes : List AtomLane
  left : Bool
  commit : Nat
  oid : Nat
  ahead : List (Nat × Nat)
  deriving DecidableEq, Repr

/-- R265: a Cascade command as its word gives it; `meta` holds the six registers of MMAS for each lane. -/
structure MatCmd where
  op : Nat
  tile : Option Nat
  desc : Nat
  pair : Bool
  metaRegs : List (List W32)
  pc : W64
  oid : Nat
  run : Nat
  follow : Option Nat
  deriving DecidableEq, Repr

/-- R202: an effect of a run that its partition holds through quarantine. A MIGR names its context and core; its page is
known once it has been translated: its leaf entry, its first address and its size. -/
inductive Held where
  | store (cells : List StCell) (lane : Option Nat) (contribLanes : LaneMask)
  | loc (bytes : List (Nat × Byte)) (due : Nat)
  | atom (a : AtomReq)
  | atoml (a : AtomReq)
  | commons (reg : Nat) (x : W64)
  | kick (first count : Nat)
  | cmd (c : MatCmd)
  | gath (scad : Bool) (off : Nat) (oid : Nat)
  | bari (va : Nat) (cell : Cell) (scope : Nat) (arg : W64) (oid : Nat)
  | bara (va : Nat) (cell : Cell) (scope : Nat) (dst : Opd) (oid : Nat)
  | barw (va : Nat) (cell : Cell) (scope : Nat) (phase : BitVec 32) (dst : Opd) (oid : Nat)
  | bart (va : Nat) (cell : Cell) (scope : Nat) (dst : Opd) (oid : Nat)
  | launch (va q : Nat) (dst : Opd) (oid : Nat)
  | prog (p : Nat)
  | migr (asid core va : Nat) (ctl : W64) (page : Option (Nat × Nat × Nat)) (dst : Opd) (oid : Nat)
  | jarr (va : Nat) (weight : BitVec 32) (dst : Opd) (oid : Nat)
  | jwait (va : Nat) (cell : Cell) (dst : Opd) (oid : Nat)
  | killpt (oid : Nat)
  | jstat (va : Nat) (cell : Cell) (dst : Opd) (oid : Nat)
  | pub (oid : Nat) (sent : Option Nat)
  | phase (oid : Nat) (sent : Option Nat)
  | fence (oid : Nat)
  | donate (give : Bool) (partner n : Nat)
  | fault (r : FaultReq)
  | exit (lanes : LaneMask)
  deriving DecidableEq, Repr

/-- A held or released effect, with its place in the gang's program order and the lanes of the clutch that issued it. -/
structure HeldItem where
  ord : Nat
  run : Nat
  pc : W64
  eff : Held
  lanes : LaneMask
  deriving DecidableEq, Repr

/-! ### Gangs -/

/-- R148: one participant of a gathering: its guard, its operand, its mask and control operand and its governing status
register, all read at issue. -/
structure Participant where
  lane : Nat
  guard : Bool
  opnd : W64
  mask : LaneMask
  ctl : Nat
  fsr : W32
  run : Nat
  oid : Nat
  deriving DecidableEq, Repr

/-- R148: a gathering: the word, its participants, whether it has closed and which lanes had exited by then. -/
structure Gathering where
  id : Nat
  pc : W64
  op : Instr
  parts : List Participant
  closed : Bool
  absent : LaneMask
  deriving DecidableEq, Repr

/-- R221, R226, R298, R377: what a whole gang waits for before its next run. -/
inductive Wait where
  | catw (off : Nat) (dst : Opd) (oid : Nat) (run : Nat)
  | waitc (cls : Fin 4) (n : Nat) (run : Nat)
  | barw (oid : Nat) (run : Nat)
  | jwait (oid : Nat) (run : Nat)
  deriving DecidableEq, Repr

/-- R197: a pending register donation. `placed` is false until its run has left quarantine. -/
structure Donation where
  give : Bool
  partner : Nat
  n : Nat
  pc : W64
  lanes : LaneMask
  run : Nat
  placed : Bool
  deriving DecidableEq, Repr

/-- R225: one operation of an outstanding-operation class, oldest first in the gang's list, with the run that issued
it; `fl` are the flags of a completed command, kept until its counter falls (R52). -/
structure ClassOp where
  cls : Fin 4
  id : Nat
  done : Bool
  run : Nat
  fl : BitVec 5
  deriving DecidableEq, Repr

/-- R83: a run in issue: the words it was fetched as (R85), the word to issue next, the clutch, the lanes that take no
further effect, the fixed-latency results due, the effects held so far, the next PCs of lanes that a control-flow
word sent elsewhere, what the gang waits for after the run and the lanes that issued such a wait (R27). -/
structure RunIssue where
  start : W64
  words : List W64
  idx : Nat
  clutch : LaneMask
  gone : LaneMask
  pends : List Pend
  held : List HeldItem
  snapshot : GangRegs
  targets : List (Nat × W64)
  exits : LaneMask
  waits : List Wait
  waiters : LaneMask
  yielded : Bool
  deriving DecidableEq, Repr

/-- R202: a run in quarantine: when its last word issued, what it holds and what a strike report restores. -/
structure RunRec where
  seq : Nat
  start : W64
  clutch : LaneMask
  endCycle : Nat
  held : List HeldItem
  snapshot : GangRegs
  exits : LaneMask
  deriving DecidableEq, Repr

/-- R177: a deferred fault, whose lanes park at the gang's next park seam: its record, the run that met it, and the run
counter at which a seam parked them (0: not yet), kept while a strike report could undo that (R203). `raised` says that
its record has been asked for; that of a command is asked for as its lanes park (R283, R288). -/
structure DeferredFault where
  req : FaultReq
  lanes : LaneMask
  run : Nat
  taken : Nat
  raised : Bool
  deriving DecidableEq, Repr

/-- R166: the scale byte of another package that a word of the gang has fetched, or how its request ended (R403). -/
structure ScaleByte where
  pa : Nat
  val : Byte
  cause : Nat
  detail : Nat
  deriving DecidableEq, Repr

/-- R187: one resident gang. `pairSent` counts its paired commands, `pairLost` names those whose partner has given up
(R281). `ageBase` is the partition's boundary count from which its age
runs (R191); `yielded` that its last run held a YIELD (R122). `core0`, `pkgtag` and `accel` are what its threads read
of their place all their life (R41); `scales` are the scale bytes that the word being issued has fetched (R166). -/
structure Gang where
  uid : Nat
  block : Nat
  idx : Nat
  core : Nat
  core0 : Nat
  pkgtag : Nat
  accel : Nat
  part : Nat
  slot : Nat
  vregs : Nat
  sregs : Nat
  regs : GangRegs
  run : Nat
  replays : Nat
  inActive : Bool
  ageBase : Nat
  wasReady : Bool
  yielded : Bool
  seam : Bool
  waits : List Wait
  donation : Option Donation
  out : List Outst
  applied : List Outst
  relq : List HeldItem
  runs : List RunRec
  gath : List Gathering
  issue : Option RunIssue
  replayQ : List (W64 × LaneMask)
  ops : List ClassOp
  doneCopy : Nat
  doneMat : Nat
  doneGath : Nat
  follow : Nat
  ord : Nat
  nextId : Nat
  deferred : List DeferredFault
  scales : List ScaleByte
  pairSent : Nat
  pairLost : List Nat
  deriving DecidableEq, Repr

/-! ### Blocks, store buffers, commits -/

/-- R237: bits of one byte in a block's store buffer: their value and mask, the block-local number of the core they came
from, the unit they become visible with (R254, R256), and whether they are a contribution (R374). A byte stands in
several entries where elements, or cores, share it. -/
structure SbCell where
  cell : Cell
  val : Byte
  mask : Byte
  core : Nat
  unit : Nat
  contrib : Bool
  deriving DecidableEq, Repr

/-- R216: an all-or-nothing tile of the buffer: its unit, and its version word. -/
structure SbTile where
  unit : Nat
  ver : Cell
  deriving DecidableEq, Repr

/-- R242: what becomes visible in one step: bytes, in the order of their acceptance, with the version words of tiles. -/
structure CommitUnit where
  cells : List SbCell
  vers : List Cell
  deriving DecidableEq, Repr

/-- R242: who waits for a commit. -/
inductive CommitFor where
  | pub (gang oid : Nat)
  | phase (gang oid : Nat)
  | atom (gang oid : Nat)
  | arrival
  | blockEnd
  | forcedBy
  deriving DecidableEq, Repr

/-- R242: a commit in progress; `sent` are its remote writes not yet answered, by tag, with what they carry (R400), `scads` its scatter-adds not yet
acknowledged (R417), `sectors` the 32-byte sectors that it writes whole (R360), `pc` the word that caused it; `begun`
says that a unit of it is visible. -/
structure Commit where
  id : Nat
  pc : W64
  begun : Bool
  units : List CommitUnit
  sectors : List Nat
  who : CommitFor
  sent : List (Nat × List SbCell)
  scads : List Nat
  deriving DecidableEq, Repr

/-- R328 to R331: where a block stands. `draining` still runs; `saved` and `unplaced` hold no core. -/
inductive BlockPhase where
  | running | preempting | saved | unplaced | ending | ended
  deriving DecidableEq, Repr

/-- R241: the block's EXIT that left quarantine last, for the PC its end commit records. -/
structure LastExit where
  cycle : Nat
  core : Nat
  part : Nat
  pc : W64
  deriving DecidableEq, Repr

/-- R376: a task's standing in its join. -/
inductive TaskState where
  | pending | arrived | failed | marked
  deriving DecidableEq, Repr

/-- R334: an uncorrectable error that the block has met and that is not yet acted upon: the lanes (none for an engine),
the gang's index, the word and the faulting address; and the gang whose run met it, by its number, with that run (0, 0 for
an engine), which a strike report could still discard (R34). -/
structure Consumption where
  lanes : LaneMask
  gang : Nat
  pc : W64
  addr : W64
  guid : Nat
  run : Nat
  deriving DecidableEq, Repr

/-- A block of a grid: its placement, the die domain whose `pool` reserves its store buffer (R333), its private storage
on each of its cores (scratchpad, commons, tiles; keyed by block-local core number and offset), its store buffer and its
commits. `lastQuad` is the quad that it was placed on last (R334); `upset` are the
scratchpad bytes, by key, that have become uncorrectable (R227). -/
structure Block where
  uid : Nat
  launch : Nat
  asid : Nat
  idx : Nat
  nblocks : Nat
  threads : Nat
  cores : List Nat
  span : Nat
  localLen : Nat
  tilesT : Nat
  vregs0 : Nat
  sregs0 : Nat
  phase : BlockPhase
  commits : Nat
  lastPc : W64
  forced : Bool
  limit : Nat
  sb : List SbCell
  sbTiles : List SbTile
  scads : List Nat
  pipeline : List Commit
  progress : Nat
  consumed : Nat
  consumption : List Consumption
  lastExit : Option LastExit
  avoidQuad : Option Nat
  lastQuad : Option Nat
  startedNs : Nat
  pool : Nat
  scratch : List (Nat × Byte)
  upset : List Nat
  commons : List (Nat × W64)
  tiles : List (Nat × Byte)
  nextUnit : Nat
  savedGangs : List Gang
  savedBytes : Nat
  drain : Bool
  replies : List (FaultReq × Nat)
  deriving DecidableEq, Repr

/-! ### Cores -/

/-- R239: one clean byte of a core's L1, which holds aligned 16-byte units whole (R254). `owner` is 0, or the block that alone its line serves, because the line holds
bytes that the block has not published (R211). -/
structure L1Cell where
  pa : Nat
  view : Nat
  val : Byte
  drop : Bool
  owner : Nat
  deriving DecidableEq, Repr

/-- R175: one TLB entry: the leaf as read, and where it was read. -/
structure TlbEntry where
  asid : Nat
  base : Nat
  size : Nat
  leafPa : Nat
  entry : BitVec 128
  deriving DecidableEq, Repr

/-- R232: one entry of the record cache. -/
structure RecEntry where
  asid : Nat
  addr : Nat
  bytes : List Byte
  deriving DecidableEq, Repr

/-- R223: one entry of the kick register queue, with the slots already fetched. -/
structure KickEntry where
  gang : Nat
  first : Nat
  count : Nat
  taken : Nat
  pc : W64
  ord : Nat
  deriving DecidableEq, Repr

/-- R195: a commons write accepted by the arbiter in `cycle`. -/
structure ArbWrite where
  cycle : Nat
  gang : Nat
  block : Nat
  blkpos : Nat
  reg : Nat
  val : W64
  ord : Nat
  deriving DecidableEq, Repr

/-- R186, R189: one issue partition: its boundary count, the cycle in which it last issued a word, the cycle of the
latest check of each Chorus class (R204), the cycle of its latest mismatch (R205) and whether its next boundary is
left empty. -/
structure Part where
  bounds : Nat
  busy : Nat
  chorus : List Nat
  mismatch : Option Nat
  leaveEmpty : Bool
  deriving DecidableEq, Repr

/-- R186: one core. `off` are the partitions that the configuration record disables (R207). `l1size` is the L1 split in MiB, 0 while the core is empty (R210). `arbDone` are the
commons writes that the arbiter has accepted. -/
structure CoreSt where
  fenced : BitVec 16
  off : BitVec 16
  disabled : Bool
  l1size : Nat
  l1 : List L1Cell
  tlb : List TlbEntry
  recs : List RecEntry
  kickQ : List KickEntry
  matQ : List (Nat × HeldItem)
  gathQ : List (Nat × HeldItem)
  arbDone : List ArbWrite
  parts : List Part
  deriving DecidableEq, Repr

/-! ### Engines -/

/-- R212: a copy request as fetched, field by field. -/
structure CopyReq where
  cmd : List Byte
  global : Nat
  loc : Nat
  start : Nat
  len : Nat
  ccat : Option Nat
  retry : Nat
  sfmt : Nat
  svc : Nat
  grec : Bool
  dir : Bool
  follow : Bool
  kind : Nat
  rsvBad : Option Nat
  deriving DecidableEq, Repr

/-- The place of a stored element: the scale byte if there is one, the cells that hold it, its first bit within them, and
its format. -/
structure ElemPlace where
  scale : Option Cell
  cells : List Cell
  bit : Nat
  fmt : Nat
  deriving DecidableEq, Repr

/-- R214: one piece of a transfer: of a load, the bytes of the scratchpad side that it writes (`n` from `off`); of a store, the
aligned 16-byte unit of global memory that it writes, if it is not a whole tile; the global elements that it moves, with
their numbers in the request, the bytes that it counts (R219), and the units of it that were not entered (R227). -/
structure Granule where
  off : Nat
  n : Nat
  unit : Option Nat
  idx : List Nat
  elems : List ElemPlace
  count : Nat
  done : Bool
  lost : List Nat
  deriving DecidableEq, Repr

/-- Where a request of the copy engine stands; `gone` is complete, kept while an older request of its gang may still
deliver bytes under its own (R224). -/
inductive CopyPhase where
  | fetched | waitReply | moving | landed | failed | following | gone
  deriving DecidableEq, Repr

/-- R224: a copy request in flight. `shape` is its record as read at walk-ahead (R232), `ver` the version word of a tile
(R216), `span` the length of a scratchpad element in bits, `staged` what the attempt under way has read: the version, and
the bytes so far; `got` are the bytes that its granules have read at home, with those that were uncorrectable. -/
structure CopyOp where
  id : Nat
  gang : Nat
  block : Nat
  core : Nat
  blkpos : Nat
  asid : Nat
  pc : W64
  cls : Nat
  req : CopyReq
  shape : List Byte
  span : Nat
  ver : List Cell
  phase : CopyPhase
  granules : List Granule
  counted : Nat
  count : Nat
  pins : List Nat
  attempts : Nat
  flags : BitVec 5
  cause : Nat
  staged : Option (Nat × List Byte)
  got : List (Cell × Byte × Bool)
  deriving DecidableEq, Repr

/-- R266: a Cascade command accepted by the array, with its descriptor. `walked` and `places` are its walk-ahead (R278),
`latch` the rows of A once they are read apart from the command (R272, R280). A paired command is `settled` once what
its partner decides for it is known (R280, R281). -/
structure MatOp where
  id : Nat
  gang : Nat
  block : Nat
  core : Nat
  blkpos : Nat
  cmd : MatCmd
  desc : BitVec 256
  walked : Bool
  places : List ElemPlace
  pins : List Nat
  accepted : Nat
  pairSeq : Option Nat
  settled : Bool
  cause : Nat
  detail : Nat
  waitReply : Bool
  latch : Option (List (List Byte))
  deriving DecidableEq, Repr

/-- R411: one fold entry of an index-vector request, and what has come back for it. -/
structure FoldEntry where
  row : Nat
  seg : Nat
  positions : List Nat
  pkg : Nat
  cause : Nat
  answered : Bool
  reply : Option RowReply
  deriving DecidableEq, Repr

/-- Where an index-vector request stands. -/
inductive GathPhase where
  | accepted | waitReply | folded
  deriving DecidableEq, Repr

/-- R407: an index-vector request in flight. `sent` says that a SCAD has been committed (R417), `told` that the record of
its walk's fault has been answered (R409). -/
structure GathOp where
  id : Nat
  oid : Nat
  run : Nat
  gang : Nat
  block : Nat
  core : Nat
  blkpos : Nat
  asid : Nat
  pc : W64
  cls : Nat
  scad : Bool
  desc : BitVec 512
  idxs : List Nat
  segs : List Nat
  rows : List (List Byte)
  shape : List Byte
  phase : GathPhase
  entries : List FoldEntry
  flags : BitVec 5
  cause : Nat
  detail : Nat
  told : Bool
  sent : Bool
  deriving DecidableEq, Repr

/-- R413: a sub-request at this package: from a request of this package (`own`) or of another (`peer` is its context
here); `left` are the entries not yet served, `done` what they gave. -/
structure SubOp where
  id : Nat
  own : Option Nat
  peer : Nat
  req : SubRequest
  left : List Nat
  done : List RowReply
  deriving DecidableEq, Repr

/-! ### Dispatch -/

/-- R318: a launch record's fields as copied at enqueue, with the launch's standing (R320, R323). `savedSince` is the time
since which all its placed blocks have been saved (R327), `skipped` the tasks that are never placed (R378). -/
structure Launch where
  id : Nat
  asid : Nat
  queue : Nat
  prio : Nat
  seq : Nat
  entry : W64
  compl : Nat
  join : Nat
  depid : Nat
  blocks : Nat
  wait : Nat
  expdur : Nat
  tlimit : Nat
  pbound : Nat
  threads : Nat
  vregs : Nat
  sregs : Nat
  tiles : Nat
  l1 : Nat
  sbuf : Nat
  localLen : Nat
  dies : Nat
  coop : Bool
  params : List W64
  next : Nat
  ended : Nat
  killed : Nat
  provisional : Option Nat
  byCore : Option Nat
  startNs : Option Nat
  pausedNs : Nat
  savedSince : Option Nat
  skipped : List Nat
  deriving DecidableEq, Repr

/-- R85: what one commit or atomic has changed of pages that hold instruction words: the launches live then, the
bytes as they were before, and the block and number of the commit that the change is part of, if it is of one. -/
structure CodeVer where
  launches : List Nat
  bytes : List (Nat × Byte)
  commit : Option (Nat × Nat)
  deriving DecidableEq, Repr

/-- R178, R316: an occupied fault slot, with what its reply acts on. -/
structure FaultSlot where
  asid : Nat
  slot : Nat
  seq : Nat
  req : FaultReq
  deriving DecidableEq, Repr

/-! ### Barriers and joins -/

/-- R404: a block of another package that waits on a phase of an object homed here: the package, the ASID and the address
that it named, its number for the block, and the phase. -/
structure PeerWait where
  src : Nat
  sasid : Nat
  va : Nat
  block : Nat
  phase : BitVec 32
  deriving DecidableEq, Repr

/-- R293, R294: a barrier object as its network holds it while it is live; one of another package stands here for the
gangs that arrive and wait on it (R404). `arrivals` lists each arrival of the present phase: 0 or the package it came from
plus 1, the block, the gang's index; `waiters` each waiting gang with its result's number and phase, `remote` the waits of
other packages, `senders` who sent an arrival or a wait in the present phase: package, ASID, address; `last` the block of
the latest arrival. -/
structure BarObj where
  cell : Cell
  va : Nat
  asid : Nat
  scope : Nat
  bound : Nat
  expect : Nat
  count : Nat
  phase : BitVec 32
  timeout : Nat
  start : Nat
  valid : Bool
  expired : Bool
  arrivals : List (Nat × Nat × Nat)
  waiters : List (Nat × Nat × BitVec 32)
  remote : List PeerWait
  senders : List (Nat × Nat × Nat)
  last : Nat
  deriving DecidableEq, Repr

/-- R294: an operation on its way to the network's input arbiter, from a gang of this package. -/
structure UnitOp where
  gang : Nat
  item : HeldItem
  tested : Bool
  deriving DecidableEq, Repr

/-- R373: a join as the Cistern holds it while it is armed or released: its record's image as last written, its shape
record, the tasks that are spoiled (R374), and the pages it names, pinned and translated when it was armed (by page number, the cell of the first byte). -/
structure Join where
  launch : Nat
  va : Nat
  asid : Nat
  image : BitVec 1024
  shape : List Byte
  tasks : List (Nat × TaskState)
  spoiled : List Nat
  weights : List (Nat × BitVec 32)
  arrived : Nat
  killed : Nat
  warr : BitVec 32
  flags : BitVec 5
  short : Bool
  poison : Bool
  released : Bool
  visible : Bool
  releaseNs : Nat
  pages : List (Nat × Cell)
  pins : List Nat
  deriving DecidableEq, Repr

/-! ### Memory, pages, keys -/

/-- R354, R356: a page in motion. `recopy` are units below the watermark with a second copy pending. `stage` is 0 while
it is copied, 1 from the swap of its leaf until the invalidation is complete, 2 while the frame that it gives up waits for
the released ring; `status` is then its outcome (R364) and `bad` the mark of that frame (R362), set at stage 0 once a
forwarded write has met an error there (R359). -/
structure Motion where
  src : Nat
  dst : Nat
  big : Bool
  mark : Nat
  recopy : List Nat
  leafPa : Nat
  leaf : BitVec 128
  asid : Nat
  va : Nat
  tier : Nat
  dom : Nat
  stage : Nat
  status : Nat
  bad : Bool
  requester : Option (Nat × Nat)
  abandoned : Bool
  deriving DecidableEq, Repr

/-- R361: a candidate of the promotion policy, for its domain's HBM4E. -/
structure Promo where
  asid : Nat
  va : Nat
  dom : Nat
  deriving DecidableEq, Repr

/-- R368: a context's key: KST (3 while a destroy goes on, which reads as 1, or 0 where there was no key), the number of the installed key and
KEYS as last written. -/
structure KeySt where
  kst : Nat
  num : Nat
  key : BitVec 512
  deriving DecidableEq, Repr

/-- R350, R351: a requested invalidation, the first in the list being in progress: the packages that have yet to
acknowledge and the engine requests that must complete. `motion` is the source frame of a motion that asked for it
(R357), `sys` says that INVCTL did, `key` that a key destroy did (R369). -/
structure Inval where
  kind : InvKind
  asid : Nat
  va : Nat
  holders : List Nat
  ops : List Nat
  motion : Option Nat
  sys : Bool
  key : Bool
  deriving DecidableEq, Repr

/-- R336: a request accepted by a memory channel and not yet served: its class, its stamp (0: infinite), its
requester (R339), its subarray. -/
structure ChanReq where
  stack : Nat
  chan : Nat
  cls : Nat
  stamp : Nat
  who : Nat
  sub : Nat
  deriving DecidableEq, Repr

/-- R341: a corrected write-back that the patrol scheduled; `stale` once a write reached the sector. -/
structure Patrol where
  sector : Nat
  stale : Bool
  deriving DecidableEq, Repr

/-! ### The fabric -/

/-- R401: what an outstanding remote request is for; a sub-request with its bytes (R412). One that was withdrawn with its
block (R305) is not sent again and keeps its tag until it is over. -/
inductive RemKind where
  | load (gang oid : Nat)
  | scale (gang replays : Nat) (cell : Cell)
  | write (block commit : Nat) (vers : List Cell) (parts : Nat) (cells : List SbCell)
  | atom (gang oid lane : Nat)
  | trans (core asid va target : Nat)
  | barrier (gang oid : Nat) (wait : Bool) (lanes : LaneMask) (pc : W64) (va : Nat)
  | withdraw (block va : Nat)
  | sub (op pkg : Nat) (packet : List Byte)
  | inval (acc : Nat)
  | compl (launch : Nat) (cells : List Cell) (bytes : List Byte)
  | cancelled
  deriving DecidableEq, Repr

/-- R401: an outstanding remote request of this package. -/
structure RemOut where
  tag : Nat
  kind : RemKind
  target : Nat
  asid : Nat
  station : Nat
  firstNs : Nat
  lastNs : Nat
  busy : Bool
  deriving DecidableEq, Repr

/-- R399: an entry of the remote translation cache; `cause` is not 0 where the translation ended badly (R403), until
the access that asked for it has issued. -/
structure RtcEntry where
  asid : Nat
  page : Nat
  target : Nat
  fmt : Nat
  blk : Nat
  r : Bool
  w : Bool
  x : Bool
  cause : Nat
  detail : Nat
  deriving DecidableEq, Repr

/-- R216, R400: an all-or-nothing tile of another package, of which some parts have come: the source with the context that
it named, the context here, the tile as the source names it, and the parts, each with the time of its first attempt. -/
structure PeerTile where
  src : Nat
  sasid : Nat
  asid : Nat
  block : Nat
  unit : Nat
  parts : List (RemoteReq × Nat)
  deriving DecidableEq, Repr

/-- R402: a reply-cache entry of a target. -/
structure ReplyEntry where
  src : Nat
  tag : Nat
  station : Nat
  atNs : Nat
  resp : RemoteResp
  deriving DecidableEq, Repr

/-! ### Issue and schedule -/

/-- The word being issued: whose it is, its address, its position in the run, the clutch's lanes that still take
effect, and those whose guard is true (R65). `stall` says that the word could not issue yet; `parked` collects the
lanes that a fault parks at the word (R176). -/
structure Cx where
  gang : Nat
  pc : W64
  pos : Nat
  clutch : LaneMask
  act : LaneMask
  stall : Bool
  parked : LaneMask
  ctlDone : Bool
  deriving DecidableEq, Repr

/-- What happens next: time passes, a partition issues (or has a run boundary), a unit of the device or the outside
acts, the SRAM port arbiter takes one released scratchpad access of a gang, or a byte of scratchpad becomes
uncorrectable (log 100). -/
inductive Turn where
  | tick (cycles ns : Nat)
  | issue (core part : Nat)
  | event (i : Instr)
  | sram (gang idx : Nat)
  | upset (block pos off : Nat)
  deriving DecidableEq, Repr

/-! ### The package -/

/-- R391: the error log's counters. -/
structure ElogSt where
  ctl : W64
  head : BitVec 32
  tail : BitVec 32
  ovf : Nat
  deriving DecidableEq, Repr

/-- R394, R392: attestation and boot; `pend` is the outcome that the report under way will have. `leaf` and `rollback`
stand in replay-protected flash. -/
structure AttSt where
  leaf : Nat
  rollback : BitVec 32
  status : Nat
  go : Bool
  pend : Nat
  nonce : List Byte
  captured : List Byte
  pub : List Byte
  report : List Byte
  digest : BitVec 256
  units : W64
  deriving DecidableEq, Repr

/-- R395: power and temperature as last sampled. -/
structure ThermSt where
  power : Nat
  tdie : Nat
  thbm : Nat
  clockMHz : Nat
  limit : Nat
  shutdown : Bool
  deriving DecidableEq, Repr

/-- Everything the package holds. -/
structure State where
  -- time (R3)
  cycle : Nat
  now : Nat
  sched : List Turn
  focus : Nat × Nat
  cx : Cx
  free : Nat
  -- threads, blocks, cores
  gangs : List Gang
  blocks : List Block
  cores : List (Nat × CoreSt)
  nextUid : Nat
  -- memory behind the Basin (R236, R348)
  mem : List (Nat × Byte)
  lineKey : List (Nat × Nat)
  poison : List (Nat × Bool)
  dirty : List (Nat × List (List Byte))
  cxlBytes : List Nat
  cxlDown : List Nat
  regQ : List (Nat × List (Byte × Byte))
  -- pages (R343 to R369)
  roots : List (Nat × W64)
  keys : List (Nat × KeySt)
  keyBits : List (Nat × BitVec 512)
  nextKey : Nat
  pins : List (Nat × Nat)
  hot : List (Nat × Nat)
  motions : List Motion
  promos : List Promo
  skpol : List (Nat × W64)
  rings : List (Nat × W64)
  invAddr : W64
  invCtl : W64
  invals : List Inval
  -- engines
  copies : List CopyOp
  mats : List MatOp
  gaths : List GathOp
  subs : List SubOp
  nextOp : Nat
  -- the Cistern (R313 to R335)
  ctxs : List (Nat × BitVec 512)
  dead : List (Nat × Bool)
  paused : List (Nat × Bool)
  qctl : List (Nat × W64)
  qctx : List (Nat × W64)
  qtail : List (Nat × BitVec 32)
  qhead : List (Nat × BitVec 32)
  qnotices : List (Nat × Nat)
  launches : List Launch
  nextLaunch : Nat
  codeLog : List CodeVer
  nextSeq : Nat
  cisQ : List UnitOp
  slots : List FaultSlot
  faultQ : List FaultReq
  faultSeq : List (Nat × Nat)
  diagQ : List (Nat × List Byte)
  freply : W64
  saveUsed : List (Nat × Nat)
  -- memory service (R336 to R342)
  chanQ : List ChanReq
  refreshing : List (Nat × Bool)
  selfRefresh : List (Nat × Bool)
  misses : List (Nat × BitVec 32)
  regions : List (Nat × BitVec 128)
  patrols : List Patrol
  scrubs : List Patrol
  covered : List (Nat × Nat)
  corrections : List (Nat × Nat)
  -- barriers and joins
  bars : List BarObj
  barQ : List UnitOp
  joins : List Join
  joinQ : List UnitOp
  -- management (R385 to R395)
  notice : BitVec 5
  msix : List Nat
  mcmd : W64
  elog : ElogSt
  att : AttSt
  therm : ThermSt
  bootstat : W64
  chans : Nat
  stations : BitVec 16
  chorusSigs : List W64
  -- the fabric (R396 to R418)
  fabid : W64
  peers : List (Nat × W64)
  remOut : List RemOut
  nextTag : Nat
  rtc : List RtcEntry
  holders : List (Nat × Nat)
  replies : List ReplyEntry
  peerTiles : List PeerTile
  outbox : List (Nat × RemoteResp)
  hostRead : List Byte
  deriving DecidableEq, Repr

/-- No step of this machine stops with a fault: what the manual calls a fault is a record and a parked lane (R176). -/
inductive Fault where
  deriving DecidableEq, Repr

/-- Why a step has no meaning. -/
inductive Refusal where
  /-- Raised by the dispatcher for an instruction without a meaning. Safe: nothing is claimed of it. -/
  | notModelled (mnemonic : String)
  deriving DecidableEq, Repr

/-! ### Reset -/

/-- R36: `%fsr` at entry: round to nearest even, everything else clear. -/
def fsrDefault : W32 := 0x20

/-- R21: no meeting address. -/
def mrNone : W64 := 0xFFFFFFFFFFFFFFFF

/-- R23: a lane that holds no thread. -/
def Lane.empty : Lane :=
  ⟨0, mrNone, false, [], Flags.zero, Flags.zero, Flags.zero, Flags.zero, fsrDefault, [], .exited, 0⟩

/-- A partition after reset. -/
def Part.reset : Part := ⟨0, 0, List.replicate 8 0, none, false⟩

/-- A core after reset: empty, nothing fenced. -/
def CoreSt.reset : CoreSt := ⟨0, 0, false, 0, [], [], [], [], [], [], [], List.replicate 16 Part.reset⟩

/-- No key. -/
def KeySt.reset : KeySt := ⟨0, 0, 0⟩

/-- R314: a context record as reset leaves it: SUPQ all ones, MAXPRI 7, VALID 0. -/
def ctxReset : BitVec 512 := BitVec.ofNat 512 (0xFFF * 2 ^ 180 + 7 * 2 ^ 164)

/-- R317: QCTL after reset: PRIO 7. -/
def qctlReset : W64 := 0xE0

/-- The package right after reset, before its boot sequence (R392). Registers for which the manual states no reset
value are named in the assumption log. -/
def State.reset : State where
  cycle := 0
  now := 0
  sched := []
  focus := (0, 0)
  cx := ⟨0, 0, 0, 0, 0, false, 0, false⟩
  free := 0
  gangs := []
  blocks := []
  cores := []
  nextUid := 1
  mem := []
  lineKey := []
  poison := []
  dirty := []
  cxlBytes := [0, 0]
  cxlDown := []
  regQ := []
  roots := []
  keys := []
  keyBits := []
  nextKey := 1
  pins := []
  hot := []
  motions := []
  promos := []
  skpol := []
  rings := []
  invAddr := 0
  invCtl := 0
  invals := []
  copies := []
  mats := []
  gaths := []
  subs := []
  nextOp := 1
  ctxs := []
  dead := []
  paused := []
  qctl := []
  qctx := []
  qtail := []
  qhead := []
  qnotices := []
  launches := []
  nextLaunch := 1
  codeLog := []
  nextSeq := 0
  cisQ := []
  slots := []
  faultQ := []
  faultSeq := []
  diagQ := []
  freply := 0
  saveUsed := []
  chanQ := []
  refreshing := []
  selfRefresh := []
  misses := []
  regions := []
  patrols := []
  scrubs := []
  covered := []
  corrections := []
  bars := []
  barQ := []
  joins := []
  joinQ := []
  notice := 0
  msix := []
  mcmd := 0
  elog := ⟨0, 0, 0, 0⟩
  att := ⟨0, 0, 0, false, 0, List.replicate 32 0, [], List.replicate 68 0, [], 0, 0⟩
  therm := ⟨0, 0, 0, 2000, 3400, false⟩
  bootstat := 0
  chans := 256
  stations := 0xFFFF
  chorusSigs := List.replicate 8 0
  fabid := 0
  peers := []
  remOut := []
  nextTag := 0
  rtc := []
  holders := []
  replies := []
  peerTiles := []
  outbox := []
  hostRead := []

end Sys2Proof.Machine
end

