-- ==== Sys2Proof/Machine/Ops.lean ====
section
/-! DEFINITION. Machine/Ops.lean: the named operations over gangs, blocks and cores, and the effects of an instruction:
results due at a later position (R80), results outstanding (R82), effects held through quarantine (R202), and taking a
fault at the word being issued (R176).
-/
namespace Sys2Proof.Machine

/-! ### Agents -/

/-- The gang with this number, if it is resident. -/
def State.gang? (s : State) (u : Nat) : Option Gang := s.gangs.find? (fun g => g.uid == u)

/-- Change of one gang. -/
def State.modGang (s : State) (u : Nat) (f : Gang → Gang) : State :=
  { s with gangs := s.gangs.map (fun g => if g.uid = u then f g else g) }

/-- The block with this number. -/
def State.block? (s : State) (u : Nat) : Option Block := s.blocks.find? (fun b => b.uid == u)

/-- Change of one block. -/
def State.modBlock (s : State) (u : Nat) (f : Block → Block) : State :=
  { s with blocks := s.blocks.map (fun b => if b.uid = u then f b else b) }

/-- One core. -/
def State.core (s : State) (c : Nat) : CoreSt := tabGet CoreSt.reset s.cores c

/-- Change of one core. -/
def State.modCore (s : State) (c : Nat) (f : CoreSt → CoreSt) : State :=
  { s with cores := tabPut CoreSt.reset s.cores c (f (s.core c)) }

/-- One partition of a core. -/
def CoreSt.part (c : CoreSt) (p : Nat) : Part := c.parts.getD p Part.reset

/-- Change of one partition. -/
def CoreSt.modPart (c : CoreSt) (p : Nat) (f : Part → Part) : CoreSt :=
  { c with parts := c.parts.modify p f }

/-- The launch with this identifier. -/
def State.launch? (s : State) (id : Nat) : Option Launch := s.launches.find? (fun l => l.id == id)

/-- Change of one launch. -/
def State.modLaunch (s : State) (id : Nat) (f : Launch → Launch) : State :=
  { s with launches := s.launches.map (fun l => if l.id = id then f l else l) }

/-- The next free choice (log 2) and the state that has used it. -/
def State.choose (s : State) : Bool × State := (Config.freeChoice s.free, { s with free := s.free + 1 })

/-- The block of a gang. -/
def State.blockOf (s : State) (g : Gang) : Option Block := s.block? g.block

/-- R24: the block-local number of a core of the block. -/
def Block.posOf (b : Block) (core : Nat) : Nat := (b.cores.findIdx? (· == core)).getD 0

/-! ### Lanes -/

/-- Lane `i` of the gang. -/
def GangRegs.lane (r : GangRegs) (i : Nat) : Lane := r.lanes.getD i Lane.empty

/-- Change of one lane. -/
def GangRegs.modLane (r : GangRegs) (i : Nat) (f : Lane → Lane) : GangRegs :=
  { r with lanes := r.lanes.modify i f }

/-- A vector register. -/
def Lane.getV (l : Lane) (n : Nat) : W32 := tabGet 0 l.v n

/-- Writing a vector register. -/
def Lane.setV (l : Lane) (n : Nat) (x : W32) : Lane := { l with v := tabPut 0 l.v n x }

/-- A condition-code register (R20). -/
def Lane.getK (l : Lane) (n : Fin 4) : Flags :=
  match n with
  | 0 => l.k0
  | 1 => l.k1
  | 2 => l.k2
  | 3 => l.k3

/-- Writing a condition-code register whole (R20). -/
def Lane.setK (l : Lane) (n : Fin 4) (f : Flags) : Lane :=
  match n with
  | 0 => { l with k0 := f }
  | 1 => { l with k1 := f }
  | 2 => { l with k2 := f }
  | 3 => { l with k3 := f }

/-- A bound stream port, if it is bound (R36). -/
def Lane.port? (l : Lane) (n : Nat) : Option Port := (l.ports.find? (fun p => p.1 == n)).map (·.2)

/-- Binding or moving a stream port. -/
def Lane.setPort (l : Lane) (n : Nat) (p : Port) : Lane := { l with ports := tabIns n p (tabDel l.ports n) }

/-- A scalar register. -/
def GangRegs.getS (r : GangRegs) (n : Nat) : W64 := tabGet 0 r.s n

/-- Writing a scalar register. -/
def GangRegs.setS (r : GangRegs) (n : Nat) (x : W64) : GangRegs := { r with s := tabPut 0 r.s n x }

/-- R51: a status register with flags ORed in. -/
def fsrOr (x : W32) (fl : BitVec 5) : W32 := x ||| fl.setWidth 32

/-- The lanes of a gang with a property of their status. -/
def GangRegs.lanesWith (r : GangRegs) (p : Lane → Bool) : LaneMask := laneSet (fun i => p (r.lane i))

/-- The lanes that hold a thread which has not exited. -/
def GangRegs.alive (r : GangRegs) : LaneMask := r.lanesWith (fun l => l.status != .exited)

/-! ### Effects becoming visible (R80) -/

/-- The destination of an effect. -/
def Eff.dst : Eff → Dst
  | .v l r _ => .v l r
  | .s r _ => .s r
  | .c r _ _ => .c r
  | .k l n _ => .k l n
  | _ => .other

/-- An effect on the gang's registers. -/
def GangRegs.apply (r : GangRegs) (e : Eff) : GangRegs :=
  match e with
  | .v l n x => r.modLane l (fun t => t.setV n x)
  | .s n x => r.setS n x
  | .c n x o => { r with overlay := r.overlay ++ [⟨n, x, o⟩] }
  | .k l n f => r.modLane l (fun t => t.setK n f)
  | .fsrOr l fl => r.modLane l (fun t => { t with fsr := fsrOr t.fsr fl })
  | .sfsrOr fl => { r with sfsr := fsrOr r.sfsr fl }
  | .fsrSet l x => r.modLane l (fun t => { t with fsr := x })
  | .sfsrSet x => { r with sfsr := x }
  | .mr l x => r.modLane l (fun t => { t with mr := x, met := false })
  | .port l n p => r.modLane l (fun t => t.setPort n p)
  | .loc .. => r

/-- The lane to whose own registers an effect goes, or whose write port it goes through. -/
def Eff.lane? : Eff → Option Nat
  | .v l _ _ | .k l _ _ | .fsrOr l _ | .fsrSet l _ | .mr l _ | .port l _ _ => some l
  | .loc l _ => l
  | _ => none

/-- R82: a fixed-latency write to a destination that an outstanding result also names is marked on that result; what is
no register's whole value (a flag OR, a port's position) marks none (R127). A fixed-latency word that issued before the
variable-latency one, and whose result is due after it, counts as such a write too: R82 does not say (DESIGN CHOICE,
log 87). -/
def Outst.clobber (d : Dst) (o : Outst) : Outst :=
  if d ≠ .other ∧ o.dsts.contains d then { o with clob := d :: o.clob } else o

/-- A fixed-latency effect becomes visible. -/
def Gang.applyFixed (g : Gang) (e : Eff) : Gang :=
  { g with regs := g.regs.apply e, out := g.out.map (Outst.clobber e.dst) }

/-- R80: the effects due at positions up to `n` in order of position, then of program order. -/
def pendsUpTo (n : Nat) (ps : List Pend) : List Pend :=
  (List.range (n + 1)).flatMap (fun d => ps.filter (fun p => p.due == d))

/-- The effects not due by position `n`. -/
def pendsAfter (n : Nat) (ps : List Pend) : List Pend := ps.filter (fun p => p.due > n)

/-- R80: what is due at position `n` of the run in issue becomes visible. -/
def Gang.settle (g : Gang) (n : Nat) : Gang :=
  match g.issue with
  | none => g
  | some r =>
    let g' := (pendsUpTo n r.pends).foldl (fun g p => g.applyFixed p.eff) g
    { g' with issue := some { r with pends := pendsAfter n r.pends } }

/-- The greatest position at which an effect of a run can be due: 24 words and a latency of 8. -/
def lastDue : Nat := 40

/-! ### What an instruction leaves behind -/

/-- Change of the run in issue of a gang. -/
def Gang.modIssue (g : Gang) (f : RunIssue → RunIssue) : Gang :=
  match g.issue with
  | none => g
  | some r => { g with issue := some (f r) }

/-- R27: what the gang waits for after its run, and the lanes that issued the wait. -/
def Gang.waitAfter (g : Gang) (lanes : LaneMask) (ws : List Wait) : Gang :=
  g.modIssue (fun r => { r with waits := r.waits ++ ws, waiters := r.waiters ||| lanes })

/-- R19: the address of the word `n` words after one: bits [63:57] stay zero, so that the word after the last one of the
address space is the first (log 76). -/
def wordAfter (pc : W64) (n : Nat) : W64 := (pc + BitVec.ofNat 64 (8 * n)) &&& 0x01FFFFFFFFFFFFFF#64

/-- The address of the next word. -/
def nextPc (pc : W64) : W64 := wordAfter pc 1

/-- R80: effects visible `lat` positions after the present word. -/
def Gang.emit (g : Gang) (due : Nat) (es : List Eff) : Gang :=
  g.modIssue (fun r => { r with pends := r.pends ++ es.map (fun e => ⟨due, e⟩) })

/-- R202: an effect held through quarantine, at the next place of the program order. -/
def Gang.hold (g : Gang) (pc : W64) (e : Held) : Gang :=
  { g.modIssue (fun r => { r with held := r.held ++ [⟨g.ord, g.run, pc, e, r.clutch &&& ~~~r.gone⟩] }) with ord := g.ord + 1 }

/-- R82: an outstanding operation; its number is the gang's next one. -/
def Gang.await (g : Gang) (pc : W64) (kind : OKind) (dsts : List Dst) (effs : List Eff) (arrived blocks : Bool) : Gang :=
  { g with
    out := g.out ++ [⟨g.nextId, g.run, pc, g.ord, kind, dsts, effs, arrived, blocks, [], 0, [], false⟩]
    nextId := g.nextId + 1
    ord := g.ord + 1 }

/-- The elements that write ports were given for the newest outstanding result (R173). -/
def Gang.withPorts (g : Gang) (ports : List (Nat × Nat × Nat)) : Gang :=
  { g with out := g.out.map (fun o => if o.id + 1 = g.nextId then { o with ports := ports } else o) }

/-- The result of an outstanding operation has come: its effects, and that a park seam may apply them. -/
def Gang.arrive (g : Gang) (oid : Nat) (es : List Eff) : Gang :=
  { g with out := g.out.map (fun o => if o.id = oid then { o with effs := o.effs ++ es, arrived := true } else o) }

/-- A change of the gang that issues the present word. -/
def State.onIssuer (s : State) (f : Gang → Gang) : State := s.modGang s.cx.gang f

/-- The position from which a result of latency `lat` of the present word is visible. -/
def State.dueAt (s : State) (lat : Nat) : Nat := s.cx.pos + lat

/-- R52: the flags of completed commands whose counter falls now: due at the next park seam. -/
def Gang.countFlags (g : Gang) (os : List ClassOp) : Gang :=
  (os.filter (fun o => o.fl != 0#5)).foldl (fun g o =>
    { g with
      out := g.out ++ [⟨g.nextId, o.run, 0, g.ord, .value, [], [.sfsrOr o.fl], true, false, [], 0, [], false⟩]
      nextId := g.nextId + 1
      ord := g.ord + 1 }) g

/-- R225: an operation of a class has completed, with the flags it raises; the counter falls in issue order. -/
def Gang.completeOp (g : Gang) (cls : Fin 4) (id : Nat) (fl : BitVec 5) : Gang :=
  let ops := g.ops.map (fun o => if o.cls = cls ∧ o.id = id then { o with done := true, fl := fl } else o)
  let mine := ops.filter (fun o => o.cls == cls)
  let n := (mine.takeWhile (fun o => o.done)).length
  let keep := mine.drop n
  let g' := Gang.countFlags { g with ops := ops.filter (fun o => o.cls != cls) ++ keep } (mine.take n)
  match cls with
  | 0 => { g' with doneCopy := g.doneCopy + n }
  | 1 => { g' with doneMat := g.doneMat + n }
  | 2 => { g' with doneGath := g.doneGath + n }
  | 3 => g'

/-- R225: the value of an outstanding-operation counter. No instruction issues an operation of class 3. -/
def Gang.counter (g : Gang) (cls : Fin 4) : Nat :=
  match cls with
  | 0 => g.regs.issuedCopy - g.doneCopy
  | 1 => g.regs.issuedMat + g.follow - g.doneMat
  | 2 => g.regs.issuedGath - g.doneGath
  | 3 => 0

/-! ### Commons registers (R194, R195) -/

/-- The key of a commons register in a block's table. -/
def commonsKey (pos reg : Nat) : Nat := 32 * pos + reg

/-- R195: the arbitrated value that a read issued now returns. -/
def commonsBase (s : State) (b : Block) (core reg : Nat) : W64 :=
  ((s.core core).arbDone.filter (fun w =>
      w.block == b.uid && w.blkpos == b.posOf core && w.reg == reg && decide (w.cycle + 2 ≤ s.cycle))).foldl
    (fun _ w => w.val) (tabGet 0 b.commons (commonsKey (b.posOf core) reg))

/-- R195: overlay entries that the arbiter's order has not yet replaced. -/
def liveOverlay (s : State) (g : Gang) : List Overlay :=
  g.regs.overlay.filter (fun o =>
    !((s.core g.core).arbDone.any (fun w => w.gang == g.uid && w.ord == o.ord && decide (w.cycle + 2 ≤ s.cycle))))

/-- R195: a commons register as the gang reads it. -/
def commonsRead (s : State) (g : Gang) (reg : Nat) : W64 :=
  let base := match s.blockOf g with
    | none => 0
    | some b => commonsBase s b g.core reg
  ((liveOverlay s g).filter (fun o => o.reg == reg)).foldl (fun _ o => o.val) base

/-! ### Scratchpad (R167) -/

/-- The key of a scratchpad byte in a block's table. -/
def scratchKey (pos off : Nat) : Nat := 2 ^ 24 * pos + off

/-- R167: an offset modulo P, as accesses of a gang's block name it. -/
def scratchMod (b : Option Block) (o : Nat) : Nat :=
  match b with
  | none => o
  | some b => if b.localLen = 0 then o else o % ceilPow2 b.localLen

/-- R167: the offset modulo P; `none` beyond the allocation. Each byte of an access wider than P goes modulo P by itself,
and of a store's bytes that meet so the later one stays, which R167 leaves open (DESIGN CHOICE, log 90). -/
def scratchAddr (b : Block) (o : Nat) : Option Nat :=
  if b.localLen = 0 then none
  else
    let a := o % ceilPow2 b.localLen
    if a < b.localLen then some a else none

/-- A byte of a core's scratchpad as the SRAM holds it. -/
def scratchByte (b : Block) (pos o : Nat) : Byte :=
  match scratchAddr b o with
  | none => 0
  | some a => tabGet 0 b.scratch (scratchKey pos a)

/-- `n` bytes from an offset. -/
def scratchBytes (b : Block) (pos o n : Nat) : List Byte := (List.range n).map (fun i => scratchByte b pos (o + i))

/-- Writing bytes at absolute offsets; those beyond the allocation are discarded. A byte written is good again (R227). -/
def scratchPut (b : Block) (pos : Nat) (bs : List (Nat × Byte)) : Block :=
  { b with
    scratch := bs.foldl (fun t p =>
      match scratchAddr b p.1 with
      | none => t
      | some a => tabPut 0 t (scratchKey pos a) p.2) b.scratch
    upset := b.upset.filter (fun k => !(bs.any (fun p => (scratchAddr b p.1).any (fun a => scratchKey pos a == k)))) }

/-- R227: a byte of a core's scratchpad becomes uncorrectable, until it is written; it now reads as `y`. No scratchpad access
of a program faults for it (R167, R170). -/
def Block.upsetAt (b : Block) (pos off : Nat) (y : Byte) : Block :=
  match scratchAddr b off with
  | none => b
  | some a => { b with
      scratch := tabPut 0 b.scratch (scratchKey pos a) y
      upset := scratchKey pos a :: b.upset.filter (· != scratchKey pos a) }

/-- R227: whether a byte of some from an offset is uncorrectable. -/
def scratchUpset (b : Block) (pos off n : Nat) : Bool :=
  !b.upset.isEmpty && (List.range n).any (fun i => (scratchAddr b (off + i)).any (fun a => b.upset.contains (scratchKey pos a)))

/-- Consecutive bytes as a list of places. -/
def placed (o : Nat) (bs : List Byte) : List (Nat × Byte) := bs.mapIdx (fun i b => (o + i, b))

/-- The scratchpad writes a gang has made and that have not reached the SRAM, oldest first: released, in quarantine,
and in the run in issue up to position `pos`; `before` limits them to an earlier place in the program order. -/
def Gang.localWrites (g : Gang) (before pos : Nat) : List (List (Nat × Byte)) :=
  let items := g.relq ++ g.runs.flatMap (fun r => r.held) ++
    (match g.issue with
      | none => []
      | some r => r.held)
  items.filterMap (fun h =>
    match h.eff with
    | .loc bs due => if h.ord < before ∧ (due ≤ pos ∨ h.run < g.run) then some bs else none
    | _ => none)

/-- A scratchpad byte as the gang sees it: its own latest earlier write, else the SRAM's byte (R167). -/
def gangByte (b : Block) (pos : Nat) (ws : List (List (Nat × Byte))) (o : Nat) : Byte :=
  match scratchAddr b o with
  | none => 0
  | some a =>
    ws.foldl (fun x bs => bs.foldl (fun x p => if scratchAddr b p.1 = some a then p.2 else x) x)
      (tabGet 0 b.scratch (scratchKey pos a))

/-- `n` bytes as the gang sees them. -/
def gangBytes (b : Block) (pos : Nat) (ws : List (List (Nat × Byte))) (o n : Nat) : List Byte :=
  (List.range n).map (fun i => gangByte b pos ws (o + i))

/-! ### Fault records (R176, R178) -/

/-- The fields of a record that describe a gang's block, filled from the block as it stands. -/
def faultFor (s : State) (g : Gang) (cause detail : Nat) (pc addr : W64) (lanes : LaneMask) : FaultReq :=
  let base : FaultReq :=
    { asid := 0, cause := cause, detail := detail, pc := pc, addr := addr, last := 0, time := s.now, lanes := lanes,
      commits := 0, block := 0, launch := 0, gang := g.idx, core := g.core, deferred := false, replayable := true,
      forced := false, waited := false, guid := some g.uid, buid := some g.block, op := none, inert := false,
      host := false }
  match s.blockOf g with
  | none => base
  | some b =>
    { base with
      asid := b.asid, block := b.idx, launch := b.launch, last := b.lastPc, commits := b.commits,
      replayable := b.commits == 0 && b.pipeline.isEmpty, forced := b.forced }

/-- A record asked of its context's allocator (R178). -/
def raiseFault (s : State) (r : FaultReq) : State := { s with faultQ := s.faultQ ++ [r] }

/-- A record that a run of a gang raises: held with the run while it is in issue or in quarantine (R34), else asked for
at once. -/
def raiseFor (s : State) (u run : Nat) (req : FaultReq) : State :=
  match s.gang? u with
  | none => s
  | some g =>
    let item : HeldItem := ⟨g.ord, run, req.pc, .fault req, req.lanes⟩
    if g.issue.isSome && g.run == run then s.modGang u (fun g => g.hold req.pc (.fault req))
    else if g.runs.any (fun r => r.seq == run) then
      s.modGang u (fun g => { g with
        ord := g.ord + 1
        runs := g.runs.map (fun r => if r.seq = run then { r with held := r.held ++ [item] } else r) })
    else raiseFault s req

/-- R177: lanes of a gang that a run's deferred fault parks at the next park seam; `raised` says that its record needs
no further asking. -/
def parkAtSeam (s : State) (u run : Nat) (r : FaultReq) (lanes : LaneMask) (raised : Bool) : State :=
  s.modGang u (fun g => { g with deferred := g.deferred ++ [⟨{ r with deferred := true, lanes := lanes }, lanes, run, 0, raised⟩] })

/-- R177: A DEFERRED FAULT of lanes of a gang, met by a run: its record is asked for, through quarantine if the run is
still there, and the lanes park at the next park seam. -/
def deferFault (s : State) (u run : Nat) (r : FaultReq) (lanes : LaneMask) : State :=
  raiseFor (parkAtSeam s u run r lanes true) u run { r with deferred := true, lanes := lanes }

/-- R283: the deferred fault of a command of a gang: its record is asked for as its lanes park, so that the commands
before that seam are complete (R288); at once where no lane is left. -/
def deferCommand (s : State) (u : Nat) (r : FaultReq) (lanes : LaneMask) : State :=
  if lanes = 0#32 then raiseFault s { r with deferred := true, lanes := 0 } else parkAtSeam s u 0 r lanes false

/-- A fault of one lane at the word being issued. -/
structure LaneFault where
  lane : Nat
  cause : Nat
  detail : Nat
  addr : W64
  deriving DecidableEq, Repr

/-- The set of the faulting lanes. -/
def faultLanes (fs : List LaneFault) : LaneMask := fs.foldl (fun m f => m ||| laneBit f.lane) 0

/-- R176: the fault of the lowest lane. -/
def lowestFault (fs : List LaneFault) : Option LaneFault :=
  fs.foldl (fun a f => match a with | none => some f | some b => if f.lane < b.lane then some f else a) none

/-- TAKING A FAULT at the word being issued (R176): the lanes park there, take no further effect in the run, and one
record, held through quarantine, names the lowest lane's cause and address. -/
def takeFault (s : State) (lanes : LaneMask) (cause detail : Nat) (addr : W64) : State :=
  match s.gang? s.cx.gang with
  | none => s
  | some g =>
    let req := faultFor s g cause detail s.cx.pc addr lanes
    let s1 := s.onIssuer (fun g =>
      let regs := (lanesOf lanes).foldl (fun r i => r.modLane i (fun l => { l with status := .parked, pc := s.cx.pc })) g.regs
      ({ g with regs := regs }).hold s.cx.pc (.fault req))
    { s1 with cx := { s1.cx with parked := s1.cx.parked ||| lanes } }

/-- R176: the faults of the lanes of a word, as one record; with none, nothing happens. -/
def takeFaults (s : State) (fs : List LaneFault) : State :=
  match lowestFault fs with
  | none => s
  | some f => takeFault s (faultLanes fs) f.cause f.detail f.addr

/-- The lanes whose guard is true and which no fault has parked at this word. -/
def State.act (s : State) : LaneMask := s.cx.act &&& ~~~s.cx.parked

/-- Whether the present word acts for its gang (R66): its guard is true in at least one lane. -/
def State.acts (s : State) : Bool := s.act != 0#32

/-- Marks the word as stalled: it issues again, and this time has no effect (R80: stalls change no value). -/
def State.stalled (s : State) : State := { s with cx := { s.cx with stall := true } }

/-- R339, R171: a byte of an access with its requester, class and stamp. -/
def Cell.serve (who : Nat) (sv : Nat × Nat) (c : Cell) : Cell := { c with who := who, cls := sv.1, stamp := sv.2 }

end Sys2Proof.Machine
end

