-- ==== Sys2Proof/Machine/Flags.lean ====
section
/-! DEFINITION. Machine/Flags.lean: the status registers (R51 to R53) and the flags an instruction writes (R93, R125).
-/
namespace Sys2Proof.Machine

/-- R51: FTZ of a status register. -/
def fsrFtz (x : W32) : Bool := x.getLsbD 9

/-- R51: DAZ of a status register. -/
def fsrDaz (x : W32) : Bool := x.getLsbD 10

/-- R46: a mode's code. -/
def rndCode : Rnd → Nat
  | .rne => 1 | .rtz => 2 | .rup => 3 | .rdn => 4 | .rna => 5

/-- R46: the mode of a code; codes outside 1 to 5 give RNE, which the register never holds. -/
def rndOf (n : Nat) : Rnd :=
  match n with
  | 2 => .rtz
  | 3 => .rup
  | 4 => .rdn
  | 5 => .rna
  | _ => .rne

/-- R51: the rounding mode that a status register holds. -/
def fsrRm (x : W32) : Rnd := rndOf (bitsOf x.toNat 7 5)

/-- R53 `Mode(RND)`: the field's mode, or the governing register's. -/
def modeOf (f : Option Rnd) (fsr : W32) : Rnd := f.getD (fsrRm fsr)

/-- R145: what FSSR stores: reserved bits zero, an RM of 0, 6 or 7 stored as 1. -/
def fsrWrite (old mask new : W32) : W32 :=
  let x := ((old &&& ~~~mask) ||| (new &&& mask)) &&& 0x6FF#32
  let rm := bitsOf x.toNat 7 5
  if rm = 0 ∨ rm ≥ 6 then (x &&& ~~~(0xE0#32)) ||| 0x20#32 else x

/-- R134: the flags of a floating-point relation. -/
def relFlags : FRel → Flags
  | .lt => ⟨true, false, false, false⟩
  | .eq => ⟨false, true, true, false⟩
  | .gt => ⟨false, false, true, false⟩
  | .un => ⟨false, false, true, true⟩

/-- R50, R53: flags ORed into the governing register: that of the lane, or `%sfsr` for an operation of the gang. -/
def flagEffs (lane : Option Nat) (fl : FFlags) : List Eff :=
  if fl = 0 then []
  else match lane with
    | some l => [.fsrOr l fl]
    | none => [.sfsrOr fl]

/-- R93: a condition code written in each lane of a set. -/
def kEffs (lanes : List Nat) (n : Fin 4) (f : Flags) : List Eff := lanes.map (fun l => .k l n f)

end Sys2Proof.Machine
end

