-- ==== Sys2Proof/Machine/Operands.lean ====
section
/-! DEFINITION. Machine/Operands.lean: every operand form: reading a source in a lane (R70 to R72, R92), stream ports
(R173), delivering a result (R42, R80, R82), and the shape that lane operations share (R66, R92, R93).
-/
namespace Sys2Proof.Machine

/-! ### Specials (R41, R200) -/

/-- R307: the package's quad of a core. -/
def quadOf (core : Nat) : Nat := core / 4

/-- R313: the die domain of a core. -/
def dieOf (core : Nat) : Nat := core / 32

/-- R314: PKGTAG of a context record. -/
def ctxPkgtag (r : BitVec 512) : Nat := bitsOf r.toNat 163 148

/-- R397: the package's accelerator identifier. -/
def accelId (s : State) : Nat := bitsOf s.fabid.toNat 9 0

/-- R41, R200: the gang-uniform specials, by RDSP's index. Those of R41 are as they were at the thread's entry, wherever
the block goes on after a pre-emption (DEDUCED, log 77). -/
def coreSpecial (s : State) (g : Gang) (b : Option Block) : CoreSpecial → Nat
  | .gang => g.idx
  | .block => (b.map (·.idx)).getD 0
  | .core => g.core0
  | .quad => quadOf g.core0
  | .die => dieOf g.core0
  | .pkg => g.pkgtag
  | .accel => g.accel
  | .clock => s.cycle % 2 ^ 64
  | .part => g.part
  | .vregs => g.vregs
  | .sregs => g.sregs
  | .replays => g.replays % 2 ^ 32
  | .fenced => (s.core g.core).fenced.toNat
  | .blkcores => (b.map (·.span)).getD 1
  | .blkpos => (b.map (fun b => b.posOf g.core)).getD 0
  | .nblocks => (b.map (·.nblocks)).getD 0
  | .bthreads => (b.map (·.threads)).getD 0

/-- R41, R70: a special as a source operand in a lane. -/
def specialVal (s : State) (g : Gang) (b : Option Block) (lane : Nat) : Special → Nat
  | .lane => lane
  | .gang => coreSpecial s g b .gang
  | .block => coreSpecial s g b .block
  | .core => coreSpecial s g b .core
  | .quad => coreSpecial s g b .quad
  | .die => coreSpecial s g b .die
  | .pkg => coreSpecial s g b .pkg
  | .accel => coreSpecial s g b .accel
  | .clock => coreSpecial s g b .clock
  | .mr => (g.regs.lane lane).mr.toNat
  | .fsr => (g.regs.lane lane).fsr.toNat
  | .sfsr => g.regs.sfsr.toNat

/-! ### Stream ports (R173) -/

/-- The size in bytes of a port's elements. -/
def portSize (p : Port) : Nat := 2 ^ p.esz.val

/-- R173, R167: the offset of the port's present element, before it is taken modulo P, its low bits below the size
ignored. -/
def portOff (p : Port) : Nat :=
  let o := wrapInt ((p.start.toNat : Int) + (p.pos.toNat : Int) * p.stride.toInt) 64
  o / portSize p * portSize p

/-- The position advanced by one, modulo 2^32 (R174). -/
def portNext (p : Port) : Port := { p with pos := p.pos + 1 }

/-- R173: the value of an element: extended to 32 bits by SGN, or 64 bits whole. -/
def portVal (p : Port) (wide : Bool) (bs : List Byte) : Nat :=
  let x := leValue bs
  if wide then x
  else if p.sgn && decide (p.esz.val < 2) then wrapInt (signExt x (8 * portSize p)) 32 else x % 2 ^ 32

/-- The number of a port that an operand names. -/
def opdPort : Opd → Option Nat
  | .rport n => some n.val
  | .wport n => some (4 + n.val)
  | _ => none

/-- Whether an operand is one value per lane. -/
def opdPerLane : Opd → Bool
  | .v _ | .rport _ | .wport _ => true
  | _ => false

/-- Whether an operand is a scalar or a commons register: the instruction that writes it acts once (R66). -/
def opdUniform : Opd → Bool
  | .s _ | .c _ => true
  | _ => false

/-- R36, R173: the fault of a port operand in a lane: unbound (DETAIL 1), or too narrow for 64 bits (DETAIL 2). -/
def portFault (l : Lane) (o : Opd) (wide : Bool) : Option Nat :=
  match opdPort o with
  | none => none
  | some n =>
    match l.port? n with
    | none => some 1
    | some p => if wide && p.esz != 3 then some 2 else none

/-! ### Sources -/

/-- What a read needs of the machine, collected once per word. -/
structure Ctx where
  s : State
  g : Gang
  b : Option Block

/-- The block-local number of the gang's core. -/
def Ctx.pos (c : Ctx) : Nat := (c.b.map (fun b => b.posOf c.g.core)).getD 0

/-- The bytes of a port's present element, as the gang sees its scratchpad at this position. -/
def Ctx.portBytes (c : Ctx) (p : Port) : List Byte :=
  match c.b with
  | none => List.replicate (portSize p) 0
  | some b => gangBytes b c.pos (c.g.localWrites c.g.ord c.s.cx.pos) (portOff p) (portSize p)

/-- R87 `Src(op, L)`: the value of a source in a lane; `wide` reads a vector pair or a 64-bit port element. None reads
0 where a word takes it as a source (DESIGN CHOICE, log 68). -/
def Ctx.src (c : Ctx) (lane : Nat) (o : Opd) (wide : Bool) : Nat :=
  let l := c.g.regs.lane lane
  match o with
  | .v n => if wide then (l.getV n).toNat + 2 ^ 32 * (l.getV (n + 1)).toNat else (l.getV n).toNat
  | .s n => (c.g.regs.getS n).toNat
  | .c n => (commonsRead c.s c.g n).toNat
  | .rport n =>
    match l.port? n.val with
    | none => 0
    | some p => portVal p wide (c.portBytes p)
  | .k n => (l.getK n).toNat
  | .ones => 2 ^ 64 - 1
  | .sp r => specialVal c.s c.g c.b lane r
  | _ => 0

/-! ### Destinations -/

/-- R42, R109: a value of type `t` extended to `w` bits; the 6- and 4-bit formats of MOV are cut to their width and
zero-extended (DESIGN CHOICE, log 69). -/
def extendTo (t : Ty) (w x : Nat) : Nat :=
  if tySigned t then wrapInt (signExt x (tyWidth t)) w else x % 2 ^ tyWidth t

/-- R87 `Dst(op, L) = x`: the effects of writing a value of type `t`, at the width of `t` in a lane, extended to 64
bits in a scalar or commons register; through a write port, a store of the low ESZ bytes (R173). -/
def Ctx.dst (c : Ctx) (lane : Nat) (o : Opd) (t : Ty) (x : Nat) : List Eff :=
  match o with
  | .v n =>
    if tyWidth t = 64 then
      [.v lane n (BitVec.ofNat 32 x), .v lane (n + 1) (BitVec.ofNat 32 (x / 2 ^ 32))]
    else [.v lane n (BitVec.ofNat 32 (extendTo t 32 x))]
  | .s n => [.s n (BitVec.ofNat 64 (extendTo t 64 x))]
  | .c n => [.c n (BitVec.ofNat 64 (extendTo t 64 x)) c.g.ord]
  | .wport n =>
    match (c.g.regs.lane lane).port? (4 + n.val) with
    | none => []
    | some p =>
      [.loc (some lane) (placed (scratchMod c.b (portOff p)) (leBytes (portSize p) (extendTo t 64 x)))]
  | .k n => [.k lane n (Flags.ofNat x)]
  | _ => []

/-- Whether an effect is a store through a write port. -/
def Eff.isLoc : Eff → Bool
  | .loc .. => true
  | _ => false

/-- Whether an effect writes a commons register. -/
def Eff.isCommons : Eff → Bool
  | .c .. => true
  | _ => false

/-- Delivering effects: of fixed latency, due `lat` positions on (a store through a write port and a commons write are
also held for their units, R195, R202); of variable latency, an outstanding result (R82). -/
def Gang.deliver (g : Gang) (pc : W64) (pos : Nat) (lat : Option Nat) (es : List Eff) : Gang :=
  match lat with
  | some n =>
    es.foldl (fun g e =>
      match e with
      | .loc _ bs => g.hold pc (.loc bs (pos + n))
      | .c r x _ => (g.emit (pos + n) [.c r x g.ord]).hold pc (.commons r x)
      | e => g.emit (pos + n) [e]) g
  | none => g.await pc .value (es.map Eff.dst) es false true

/-- The ports that a lane has used move on by one element (R173). -/
def Gang.advancePorts (g : Gang) (lane : Nat) (ports : List Nat) : Gang :=
  { g with regs := g.regs.modLane lane (fun l =>
      ports.foldl (fun l n => match l.port? n with | none => l | some p => l.setPort n (portNext p)) l) }

/-! ### The shape of a lane operation -/

/-- What the operation's function is given: the operands, the flags of `k`(CCD) and the governing status register. -/
structure LaneIn where
  a : Nat
  b : Nat
  d : Nat
  k : Flags
  fsr : W32

/-- What it answers: the value for D, the condition code, the floating-point flags. -/
structure LaneOut where
  res : Option Nat
  k : Option Flags
  fl : FFlags

/-- The operands of a lane operation: which are 64 bits wide, whether D is a third source (R72), the type that extends
the result, the latency (`none` is variable) and the condition-code destination. `imm` replaces B (R114). -/
structure OpShape where
  d : Opd
  a : Opd
  b : Opd
  imm : Option Nat
  wa : Bool
  wb : Bool
  wd : Bool
  third : Bool
  t : Ty
  lat : Option Nat
  ccd : Fin 4

/-- The ports named by an operation, each once (R173). -/
def OpShape.ports (sh : OpShape) : List Nat :=
  (([sh.d, sh.a] ++ (if sh.imm.isSome then [] else [sh.b])).filterMap opdPort).eraseDups

/-- The port faults of a lane, first of its operands. -/
def OpShape.laneFault (sh : OpShape) (l : Lane) : Option Nat :=
  ((portFault l sh.a sh.wa).orElse (fun _ => if sh.imm.isSome then none else portFault l sh.b sh.wb)).orElse
    (fun _ => portFault l sh.d sh.wd)

/-- The faults of the lanes whose guard is true. -/
def OpShape.faults (sh : OpShape) (g : Gang) (lanes : List Nat) : List LaneFault :=
  lanes.filterMap (fun i => (sh.laneFault (g.regs.lane i)).map (fun d => ⟨i, 0x03, d, 0⟩))

/-- The operands of one lane. `%sfsr` governs a scalar or commons D, `%fsr` every other, none among them (R125; none, and
FCMP of a scalar pair under `%sfsr`: DESIGN CHOICE, log 71). -/
def OpShape.input (sh : OpShape) (c : Ctx) (lane : Nat) : LaneIn :=
  { a := c.src lane sh.a sh.wa
    b := match sh.imm with
      | some x => x
      | none => c.src lane sh.b sh.wb
    d := if sh.third then c.src lane sh.d sh.wd else 0
    k := (c.g.regs.lane lane).getK sh.ccd
    fsr := if opdUniform sh.d then c.g.regs.sfsr else (c.g.regs.lane lane).fsr }

/-- The effects of one lane's answer; `all` are the lanes whose condition code it writes. -/
def OpShape.effects (sh : OpShape) (c : Ctx) (lane : Nat) (all : List Nat) (o : LaneOut) : List Eff :=
  (match o.res with
    | none => []
    | some x => c.dst lane sh.d sh.t x) ++
  (match o.k with
    | none => []
    | some f => kEffs all sh.ccd f) ++
  flagEffs (if opdUniform sh.d then none else some lane) o.fl

/-- A lane operation (R66, R92, R93): lanes whose ports fault park; the others act, each for itself, or the lowest one
once for the gang where D is a scalar or commons register; then each used port moves on. -/
def runLanes (sh : OpShape) (f : LaneIn → LaneOut) (s : State) : State :=
  match s.gang? s.cx.gang with
  | none => s
  | some g0 =>
    let s1 := takeFaults s (sh.faults g0 (lanesOf s.act))
    match s1.gang? s1.cx.gang with
    | none => s1
    | some g =>
      let c : Ctx := ⟨s1, g, s1.blockOf g⟩
      let lanes := lanesOf s1.act
      let who := if opdUniform sh.d then lanes.take 1 else lanes
      let es := who.flatMap (fun i => sh.effects c i (if opdUniform sh.d then lanes else [i]) (f (sh.input c i)))
      if who.isEmpty then s1
      else s1.onIssuer (fun g =>
        who.foldl (fun g i => g.advancePorts i sh.ports) (g.deliver s1.cx.pc s1.cx.pos sh.lat es))

/-! ### Operands of the gang (E words) -/

/-- The value of a scalar, commons or special operand for the gang: that of the lowest active lane (R66). That this lane's
value is taken of a special which differs from thread to thread (`%lane`, `%mr`, `%fsr`), in FSSR.n64 or beside a scalar
D, is the model's choice: R66 and R145 do not say whose (DESIGN CHOICE, log 88). -/
def gangSrc (s : State) (g : Gang) (o : Opd) : Nat :=
  let c : Ctx := ⟨s, g, s.blockOf g⟩
  c.src (lowestLane s.act) o true

/-- The destinations that a variable-latency 64-bit result of the gang names. -/
def gangDsts : Opd → List Dst
  | .s n => [.s n]
  | .c n => [.c n]
  | _ => []

/-- The effects of writing a 64-bit result of the gang; `ord` is the operation's place in the program order. -/
def gangEffs (ord : Nat) (o : Opd) (x : Nat) : List Eff :=
  match o with
  | .s n => [.s n (BitVec.ofNat 64 x)]
  | .c n => [.c n (BitVec.ofNat 64 x) ord]
  | _ => []

/-- A word that acts once for its gang (R66): nothing where no guard is true. -/
def onceForGang (s : State) (f : Gang → State → State) : State :=
  match s.gang? s.cx.gang with
  | none => s
  | some g => if s.acts then f g s else s

end Sys2Proof.Machine
end

