-- ==== Sys2Proof/Machine/Integer.lean ====
section
/-! DEFINITION. Machine/Integer.lean: the integer, bit-field, move and compare instructions (R91 to R114).
-/
namespace Sys2Proof.Machine

/-- A meaning's outcome: every instruction of this machine goes on. -/
abbrev Res := Host.Outcome State Fault Refusal

/-- Whether a type's values are 64 bits wide. -/
def wideTy (t : Ty) : Bool := tyWidth t == 64

/-- The shape of an RRR word whose operands all have its TYPE. -/
def rrrShape (f : RRR) (third : Bool) (lat : Option Nat) : OpShape :=
  { d := f.d, a := f.a, b := f.b, imm := none, wa := wideTy f.ty, wb := wideTy f.ty, wd := wideTy f.ty,
    third := third, t := f.ty, lat := lat, ccd := f.ccd }

/-- A result with its condition code, written where CCE is set (R93). -/
def intOut (f : RRR) (r : IRes) : LaneOut := ⟨some r.r, if f.cce then some r.k else none, 0⟩

/-- A result without a condition code. -/
def valOut (x : Nat) : LaneOut := ⟨some x, none, 0⟩

/-- A condition code alone (R112, R113). -/
def kOut (k : Flags) : LaneOut := ⟨none, some k, 0⟩

/-- R72, R114: the width of an RI word: 64 for a scalar or commons D. -/
def riTy (d : Opd) : Ty := if opdUniform d then .i64 else .i32

/-- R72: the immediate of an RI word, sign-extended to its width. -/
def riImm (f : RI) : Nat := wrapInt f.imm.toInt 64

/-- The shape of an RI word. -/
def riShape (f : RI) (lat : Nat) : OpShape :=
  { d := f.d, a := f.a, b := .none, imm := some (riImm f), wa := opdUniform f.d, wb := false, wd := opdUniform f.d,
    third := false, t := riTy f.d, lat := some lat, ccd := 0 }

/-- R95 IADD. -/
def execIadd (f : RRR) (s : State) : Res :=
  .next (runLanes (rrrShape f false (some 1)) (fun i => intOut f (aluAdd f.ty i.a i.b false true)) s)

/-- R95 IADDC: carry in and incoming Z from `k`(CCD). -/
def execIaddc (f : RRR) (s : State) : Res :=
  .next (runLanes (rrrShape f false (some 1)) (fun i => intOut f (aluAdd f.ty i.a i.b i.k.c i.k.z)) s)

/-- R96 IADDS. -/
def execIadds (f : RRR) (s : State) : Res :=
  .next (runLanes (rrrShape f false (some 1)) (fun i => intOut f (aluAdds f.ty i.a i.b)) s)

/-- R95 ISUB. -/
def execIsub (f : RRR) (s : State) : Res :=
  .next (runLanes (rrrShape f false (some 1)) (fun i => intOut f (aluSub f.ty i.a i.b true true)) s)

/-- R95 ISUBB: the C flag of `k`(CCD) is the not-borrow in. -/
def execIsubb (f : RRR) (s : State) : Res :=
  .next (runLanes (rrrShape f false (some 1)) (fun i => intOut f (aluSub f.ty i.a i.b i.k.c i.k.z)) s)

/-- R96 ISUBS. -/
def execIsubs (f : RRR) (s : State) : Res :=
  .next (runLanes (rrrShape f false (some 1)) (fun i => intOut f (aluSubs f.ty i.a i.b)) s)

/-- R97 INEG. -/
def execIneg (f : RRR) (s : State) : Res :=
  .next (runLanes (rrrShape f false (some 1)) (fun i => intOut f (aluNeg f.ty f.sat i.a)) s)

/-- R97 IABS. -/
def execIabs (f : RRR) (s : State) : Res :=
  .next (runLanes (rrrShape f false (some 1)) (fun i => intOut f (aluAbs f.ty f.sat i.a)) s)

/-- R97 IMIN. -/
def execImin (f : RRR) (s : State) : Res :=
  .next (runLanes (rrrShape f false (some 1)) (fun i => intOut f (aluMin f.ty i.a i.b)) s)

/-- R97 IMAX. -/
def execImax (f : RRR) (s : State) : Res :=
  .next (runLanes (rrrShape f false (some 1)) (fun i => intOut f (aluMax f.ty i.a i.b)) s)

/-- R98 IMUL. -/
def execImul (f : RRR) (s : State) : Res :=
  .next (runLanes (rrrShape f false (some 3)) (fun i => intOut f (aluMul f.ty f.sat i.a i.b)) s)

/-- R98 IMULH. -/
def execImulh (f : RRR) (s : State) : Res :=
  .next (runLanes (rrrShape f false (some 3)) (fun i => valOut (aluMulh f.ty i.a i.b).r) s)

/-- R98 IMAD: the addend is the old D (R72). -/
def execImad (f : RRR) (s : State) : Res :=
  .next (runLanes (rrrShape f true (some 3)) (fun i => intOut f (aluMad f.ty f.sat i.a i.b i.d)) s)

/-- R99: IMADW reads 32-bit sources and a 64-bit D. -/
def imadwShape (f : RRR) : OpShape :=
  { rrrShape f true (some 3) with wd := true, t := if tySigned f.ty then .i64 else .n64 }

/-- R99 IMADW. -/
def execImadw (f : RRR) (s : State) : Res :=
  .next (runLanes (imadwShape f) (fun i => valOut (aluMadw f.ty i.a i.b i.d)) s)

/-- R100 IDIV: variable latency. -/
def execIdiv (f : RRR) (s : State) : Res :=
  .next (runLanes (rrrShape f false none) (fun i => intOut f (aluDiv f.ty i.a i.b)) s)

/-- R100 IREM: variable latency. -/
def execIrem (f : RRR) (s : State) : Res :=
  .next (runLanes (rrrShape f false none) (fun i => intOut f (aluRem f.ty i.a i.b)) s)

/-- R101 AND. -/
def execAnd (f : RRR) (s : State) : Res :=
  .next (runLanes (rrrShape f false (some 1)) (fun i => intOut f (aluLogic .and f.ty i.a i.b)) s)

/-- R101 OR. -/
def execOr (f : RRR) (s : State) : Res :=
  .next (runLanes (rrrShape f false (some 1)) (fun i => intOut f (aluLogic .or f.ty i.a i.b)) s)

/-- R101 XOR. -/
def execXor (f : RRR) (s : State) : Res :=
  .next (runLanes (rrrShape f false (some 1)) (fun i => intOut f (aluLogic .xor f.ty i.a i.b)) s)

/-- R101 ANDN. -/
def execAndn (f : RRR) (s : State) : Res :=
  .next (runLanes (rrrShape f false (some 1)) (fun i => intOut f (aluLogic .andn f.ty i.a i.b)) s)

/-- R101 ORN. -/
def execOrn (f : RRR) (s : State) : Res :=
  .next (runLanes (rrrShape f false (some 1)) (fun i => intOut f (aluLogic .orn f.ty i.a i.b)) s)

/-- R102 SHL. -/
def execShl (f : RRR) (s : State) : Res :=
  .next (runLanes (rrrShape f false (some 1)) (fun i => intOut f (aluShift .shl f.ty i.a i.b)) s)

/-- R102 SHR. -/
def execShr (f : RRR) (s : State) : Res :=
  .next (runLanes (rrrShape f false (some 1)) (fun i => intOut f (aluShift .shr f.ty i.a i.b)) s)

/-- R102 SAR. -/
def execSar (f : RRR) (s : State) : Res :=
  .next (runLanes (rrrShape f false (some 1)) (fun i => intOut f (aluShift .sar f.ty i.a i.b)) s)

/-- R102 ROL. -/
def execRol (f : RRR) (s : State) : Res :=
  .next (runLanes (rrrShape f false (some 1)) (fun i => intOut f (aluShift .rol f.ty i.a i.b)) s)

/-- R103 FSHL: hi is A, lo the old D. -/
def execFshl (f : RRR) (s : State) : Res :=
  .next (runLanes (rrrShape f true (some 1)) (fun i => valOut (aluFshl f.ty i.a i.b i.d)) s)

/-- R103 FSHR. -/
def execFshr (f : RRR) (s : State) : Res :=
  .next (runLanes (rrrShape f true (some 1)) (fun i => valOut (aluFshr f.ty i.a i.b i.d)) s)

/-- R104 BFX. -/
def execBfx (f : RRR) (s : State) : Res :=
  .next (runLanes (rrrShape f false (some 1)) (fun i => intOut f (aluBfx f.ty i.a i.b)) s)

/-- R104 BFX with position and length in IMM28: read as signed. -/
def execBfxImm (f : RI) (s : State) : Res :=
  .next (runLanes (riShape f 1) (fun i => valOut (aluBfx (riTy f.d) i.a i.b).r) s)

/-- R105 BFI. -/
def execBfi (f : RRR) (s : State) : Res :=
  .next (runLanes (rrrShape f true (some 1)) (fun i => valOut (aluBfi f.ty i.a i.b i.d)) s)

/-- R106 BREV. -/
def execBrev (f : RRR) (s : State) : Res :=
  .next (runLanes (rrrShape f false (some 1)) (fun i => intOut f (aluBrev f.ty i.a)) s)

/-- R106 POPC. -/
def execPopc (f : RRR) (s : State) : Res :=
  .next (runLanes (rrrShape f false (some 1)) (fun i => intOut f (aluPopc f.ty i.a)) s)

/-- R106 CLZ. -/
def execClz (f : RRR) (s : State) : Res :=
  .next (runLanes (rrrShape f false (some 1)) (fun i => intOut f (aluClz f.ty i.a)) s)

/-- R106 CTZ. -/
def execCtz (f : RRR) (s : State) : Res :=
  .next (runLanes (rrrShape f false (some 1)) (fun i => intOut f (aluCtz f.ty i.a)) s)

/-- R107 PERMB. -/
def execPermb (f : RRR) (s : State) : Res :=
  .next (runLanes (rrrShape f false (some 1)) (fun i => valOut (aluPermb f.ty i.a i.b)) s)

/-- R108 SEXT. -/
def execSext (f : RRR) (s : State) : Res :=
  .next (runLanes (rrrShape f false (some 1)) (fun i => intOut f (aluSext f.ty i.a i.b)) s)

/-- R108 ZEXT. -/
def execZext (f : RRR) (s : State) : Res :=
  .next (runLanes (rrrShape f false (some 1)) (fun i => intOut f (aluZext f.ty i.a i.b)) s)

/-- R109 MOV: the low bits of A, extended by the type; between `k` registers whole. -/
def execMov (f : RRR) (s : State) : Res :=
  .next (runLanes (rrrShape f false (some 1)) (fun i => valOut i.a) s)

/-- R110 MOVI. -/
def execMovi (f : RI) (s : State) : Res :=
  .next (runLanes (riShape f 1) (fun i => valOut i.b) s)

/-- R110 MOVH: the immediate is unsigned. -/
def execMovh (f : RI) (s : State) : Res :=
  .next (runLanes (riShape f 1) (fun i =>
    valOut ((lowOf (riTy f.d) i.a * 2 ^ 28 + f.imm.toNat) % 2 ^ tyWidth (riTy f.d))) s)

/-- R111 SEL: the mask is the old D. -/
def execSel (f : RRR) (s : State) : Res :=
  .next (runLanes (rrrShape f true (some 1)) (fun i => valOut (aluSel f.ty i.a i.b i.d)) s)

/-- R112 CMP: the flags that ISUB would write. -/
def execCmp (f : RRR) (s : State) : Res :=
  .next (runLanes (rrrShape f false (some 1)) (fun i => kOut (aluSub f.ty i.a i.b true true).k) s)

/-- R72, R112: the width of the RI form of CMP is fixed by A. -/
def cmpImmTy (a : Opd) : Ty := if opdPerLane a then .i32 else .i64

/-- R112: the signed 26-bit immediate of CMP, and its condition-code register in IMM28 [27:26]. -/
def cmpImmShape (f : RI) : OpShape :=
  { d := f.d, a := f.a, b := .none, imm := some (wrapInt (signExt f.imm.toNat 26) 64), wa := false, wb := false,
    wd := false, third := false, t := cmpImmTy f.a, lat := some 1, ccd := ⟨f.imm.toNat / 2 ^ 26 % 4, by omega⟩ }

/-- R112 CMP with an immediate. -/
def execCmpImm (f : RI) (s : State) : Res :=
  .next (runLanes (cmpImmShape f) (fun i => kOut (aluSub (cmpImmTy f.a) i.a i.b true true).k) s)

/-- R112 TST. -/
def execTst (f : RRR) (s : State) : Res :=
  .next (runLanes (rrrShape f false (some 1)) (fun i => kOut (aluTst f.ty i.a i.b).k) s)

/-- R113 SETK. -/
def execSetk (f : RRR) (s : State) : Res :=
  .next (runLanes (rrrShape f false (some 1)) (fun i => kOut (Flags.ofNat i.a)) s)

/-- R113 GETK. -/
def execGetk (f : RRR) (s : State) : Res :=
  .next (runLanes (rrrShape f false (some 1)) (fun i => valOut i.k.toNat) s)

/-- R114 IADD with an immediate. -/
def execIaddImm (f : RI) (s : State) : Res :=
  .next (runLanes (riShape f 1) (fun i => valOut (aluAdd (riTy f.d) i.a i.b false true).r) s)

/-- R114 AND with an immediate. -/
def execAndImm (f : RI) (s : State) : Res :=
  .next (runLanes (riShape f 1) (fun i => valOut (aluLogic .and (riTy f.d) i.a i.b).r) s)

/-- R114 OR with an immediate. -/
def execOrImm (f : RI) (s : State) : Res :=
  .next (runLanes (riShape f 1) (fun i => valOut (aluLogic .or (riTy f.d) i.a i.b).r) s)

/-- R114 XOR with an immediate. -/
def execXorImm (f : RI) (s : State) : Res :=
  .next (runLanes (riShape f 1) (fun i => valOut (aluLogic .xor (riTy f.d) i.a i.b).r) s)

/-- R114 SHL with an immediate. -/
def execShlImm (f : RI) (s : State) : Res :=
  .next (runLanes (riShape f 1) (fun i => valOut (aluShift .shl (riTy f.d) i.a i.b).r) s)

/-- R114 SHR with an immediate. -/
def execShrImm (f : RI) (s : State) : Res :=
  .next (runLanes (riShape f 1) (fun i => valOut (aluShift .shr (riTy f.d) i.a i.b).r) s)

/-- R114 SAR with an immediate. -/
def execSarImm (f : RI) (s : State) : Res :=
  .next (runLanes (riShape f 1) (fun i => valOut (aluShift .sar (riTy f.d) i.a i.b).r) s)

/-- R114 IMUL with an immediate. -/
def execImulImm (f : RI) (s : State) : Res :=
  .next (runLanes (riShape f 3) (fun i => valOut (aluMul (riTy f.d) false i.a i.b).r) s)

end Sys2Proof.Machine
end

