-- ==== Sys2Proof/Machine/Quant.lean ====
section
/-! DEFINITION. Machine/Quant.lean: quantising a block and decoding stored elements (R57 to R60).
-/
namespace Sys2Proof.Machine

/-- R57: the greatest finite value of an element format, as significand and exponent. -/
def maxnorm (t : Ty) : Nat × Int := if t = .ds8 then (2, 0) else fmtMax (fmtOf t)

/-- R57 step 2: the code of +0 of an element format. -/
def elemZero (t : Ty) : Nat := if t = .ds8 then 0x77 else 0

/-- R57: the larger of two magnitudes. -/
def magMax (a b : Nat × Int) : Nat × Int := if magLt a.1 a.2 b.1 b.2 then b else a

/-- R57 step 3: the clamped exponent of the block scale. -/
def scaleExp (t : Ty) (amax : Nat × Int) : Int :=
  let mx := maxnorm t
  let g : Int := (bitLen amax.1 : Int) + amax.2 - ((bitLen mx.1 : Int) + mx.2)
  let e := if magLt mx.1 (mx.2 + g) amax.1 amax.2 then g + 1 else g
  max (-127) (min 127 e)

/-- R59: one element over its scale, rounded. -/
def quantElem (t : Ty) (e : Int) (x : FVal) : Nat × FFlags :=
  let y := match x with
    | .fin n m ex => FVal.fin n m (ex - e)
    | v => v
  if t = .ds8 then ds8Quantise y else roundVal (fmtOf t) .rne false y

/-- R57 to R59: the scale code, the element codes and the flags of a block. -/
def quantBlock (t : Ty) (xs : List FVal) : Nat × List Nat × FFlags :=
  if xs.any (fun x => match x with | .fin .. => false | _ => true) then
    (0xFF, xs.map (fun _ => elemZero t), flIV)
  else
    let amax := xs.foldl (fun a x => match x with | .fin _ m e => magMax a (m, e) | _ => a) (0, 0)
    if amax.1 = 0 then (0, xs.map (fun _ => elemZero t), flNone)
    else
      let e := scaleExp t amax
      let qs := xs.map (quantElem t e)
      ((e + 127).toNat, qs.map (·.1), qs.foldl (fun f q => f ||| q.2) flNone)

/-- R60: a stored element with its scale code, as an exact value. -/
def scaledElem (t : Ty) (scale bits : Nat) : FVal :=
  if scale = 0xFF then .nan false
  else
    match (if t = .ds8 then ds8Value (bits % 256) else fdecode (fmtOf t) (bits % 2 ^ tyWidth t)) with
    | .fin n m e => .fin n m (e + ((scale : Int) - 127))
    | v => v

end Sys2Proof.Machine
end

