-- ==== Sys2Proof/Machine/CrossLane.lean ====
section
/-! DEFINITION. Machine/CrossLane.lean: the cross-lane instructions (R147 to R159): joining a gathering at issue, its
closing, what each form computes, and the delivery (GATHERING_DELIVERY).
-/
namespace Sys2Proof.Machine

/-! ### What a form is -/

/-- The operand fields of a cross-lane instruction. -/
def laneRRR : Instr → Option RRR
  | .shflIdx f | .shflUp f | .shflDown f | .shflXor f | .ballot f | .voteEvery f | .voteSome f | .voteAgree f
  | .voteCount f | .bcast f | .elect f | .matchL f | .qmx f | .scan f _ _ | .reduce f _ => some f
  | _ => none

/-- Whether a form is a SHFL, whose mask stands in its control operand (R155). -/
def isShfl : Instr → Bool
  | .shflIdx _ | .shflUp _ | .shflDown _ | .shflXor _ => true
  | _ => false

/-- The width of a form's operand A: QMX reads binary32 (R159). -/
def laneOpTy (i : Instr) (f : RRR) : Ty :=
  match i with
  | .qmx _ => .f32
  | _ => f.ty

/-! ### What a reader sees (R149) -/

/-- A closed gathering as one reader sees it: the lanes it names, the participants, the lanes that had exited. -/
structure Reader where
  lane : Nat
  named : LaneMask
  parts : List Participant
  absent : LaneMask
  scalar : Bool

/-- A participant by its lane. -/
def Reader.part? (r : Reader) (j : Nat) : Option Participant := r.parts.find? (fun p => p.lane == j)

/-- Whether the reader names a lane: itself too, for a vector destination (R147). -/
def Reader.names (r : Reader) (j : Nat) : Bool := maskHas r.named j || (!r.scalar && j == r.lane)

/-- R156: the lanes that contribute, guard-false ones included. -/
def Reader.contrib (r : Reader) : List Participant := r.parts.filter (fun p => r.names p.lane)

/-- The guard-true contributors, ascending. -/
def Reader.truths (r : Reader) : List Participant :=
  (List.range 32).filterMap (fun j => (r.contrib.find? (fun p => p.lane == j && p.guard)))

/-- R154: whether a named lane of a range had exited. -/
def Reader.absentIn (r : Reader) (hi : Nat) : Bool := (List.range hi).any (fun j => r.names j && maskHas r.absent j)

/-- R149: what lane j supplies to a SHFL reader, and whether it had exited. -/
def Reader.supply (r : Reader) (own : W64) (j : Nat) : W64 × Bool :=
  if j = r.lane ∨ ¬ r.names j then (own, false)
  else match r.part? j with
    | some p => (p.opnd, false)
    | none => (0, true)

/-! ### What each form computes -/

/-- R155: the selected lane and whether the selector wrapped. -/
def shflLane (i : Instr) (lane ctl : Nat) : Nat × Bool :=
  let wid := bitsOf ctl 7 5
  let W : Nat := if wid ≤ 5 then 2 ^ wid else 32
  let sel : Int := (bitsOf ctl 4 0 : Nat)
  let pos : Int := (lane % W : Nat)
  let p : Int := match i with
    | .shflUp _ => pos - sel
    | .shflDown _ => pos + sel
    | .shflXor _ => (Nat.xor (lane % W) (bitsOf ctl 4 0) : Nat)
    | _ => sel
  (lane / W * W + (p % (W : Int)).toNat, decide (p < 0 ∨ p ≥ (W : Int)))

/-- A result with its flags S Z C V. -/
structure LaneRes where
  r : Nat
  k : Flags
  fl : FFlags

/-- R156: whether a supplied predicate is true. -/
def predTrue (x : W64) : Bool := x.toNat % 2 ^ 32 != 0

/-- R156: the predicates supplied to a reader: those of contributing lanes, and false for each exited named lane. -/
def Reader.preds (r : Reader) : List Bool :=
  r.contrib.map (fun p => predTrue p.opnd) ++
    ((List.range 32).filter (fun j => r.names j && maskHas r.absent j)).map (fun _ => false)

/-- R154: the flags of a 32-bit mask. -/
def maskRes (r : Reader) (x : Nat) : LaneRes := ⟨x, ⟨bitsOf x 31 31 == 1, x == 0, false, r.absentIn 32⟩, 0⟩

/-- R156: a vote's result. -/
def voteRes (r : Reader) (x : Nat) : LaneRes := ⟨x, ⟨false, x == 0, false, r.absentIn 32⟩, 0⟩

/-- The set of lanes among participants. -/
def partMask (ps : List Participant) : Nat := (ps.map (fun p => 2 ^ p.lane)).foldl (· + ·) 0

/-- R156 MATCH: the reference value. -/
def matchRef (r : Reader) (own : W64) : Option W64 :=
  if r.scalar then (r.truths.head?).map (·.opnd) else some own

/-- R157: the identity of an operator. -/
def scanIdent (op : ScanOp) (t : Ty) : Nat :=
  if tyInt t then
    match op with
    | .min => if tySigned t then 2 ^ (tyWidth t - 1) - 1 else 2 ^ tyWidth t - 1
    | .max => if tySigned t then 2 ^ (tyWidth t - 1) else 0
    | .and => 2 ^ tyWidth t - 1
    | _ => 0
  else
    match op with
    | .min => (roundVal (fmtOf t) .rne false (.inf false)).1
    | .max => (roundVal (fmtOf t) .rne false (.inf true)).1
    | _ => 0

/-- R158: one step of an integer fold. -/
def foldInt (op : ScanOp) (t : Ty) (a b : Nat) : Nat :=
  match op with
  | .add => (aluAdd t a b false true).r
  | .min => (aluMin t a b).r
  | .max => (aluMax t a b).r
  | .and => Nat.land a b
  | .or => Nat.lor a b
  | .xor => Nat.xor a b

/-- R158: one step of a floating-point fold, on encodings. -/
def foldFloat (op : ScanOp) (t : Ty) (rnd : Option Rnd) (fsr : W32) (a b : Nat) : Nat × FFlags :=
  let f := fmtOf t
  match op with
  | .min => fminmax f (fsrDaz fsr) true false a b
  | .max => fminmax f (fsrDaz fsr) true true a b
  | _ =>
    let x := faddV (modeOf rnd fsr) (fdecode f a) (fvalue f (fsrDaz fsr) b)
    let y := roundVal f (modeOf rnd fsr) (fsrFtz fsr) x.1
    (y.1, x.2 ||| y.2)

/-- R158: the first term of a fold: DAZ applies, and a NaN is taken as the canonical one. -/
def firstFloat (t : Ty) (fsr : W32) (x : Nat) : Nat × FFlags :=
  let f := fmtOf t
  match fvalue f (fsrDaz fsr) x with
  | .nan s => (canonNan f, if s then flIV else flNone)
  | .fin neg 0 _ => (if neg then 2 ^ (tyWidth t - 1) else 0, flNone)
  | _ => (x, flNone)

/-- R158: the sequential fold of the contributors' operands. -/
def foldTerms (op : ScanOp) (t : Ty) (rnd : Option Rnd) (fsr : W32) (xs : List Nat) : Nat × FFlags :=
  match xs with
  | [] => (scanIdent op t, flNone)
  | x :: rest =>
    if tyInt t then (rest.foldl (foldInt op t) (lowOf t x), flNone)
    else
      let first := firstFloat t fsr x
      match rest with
      | [] =>
        match fdecode (fmtOf t) first.1 with
        | .fin n m e =>
          if m = 0 then first
          else
            let y := roundVal (fmtOf t) (modeOf rnd fsr) (fsrFtz fsr) (.fin n m e)
            (y.1, first.2 ||| y.2)
        | _ => first
      | rest => rest.foldl (fun acc b =>
          let y := foldFloat op t rnd fsr acc.1 b
          (y.1, acc.2 ||| y.2)) first

/-- R158, R154: SCAN and REDUCE for a reader over lanes below `hi`. -/
def foldRes (r : Reader) (f : RRR) (fsr : W32) (op : ScanOp) (hi : Nat) : LaneRes :=
  let xs := (r.truths.filter (fun p => decide (p.lane < hi))).map (fun p => p.opnd.toNat % 2 ^ tyWidth f.ty)
  let y := foldTerms op f.ty f.rnd fsr xs
  let w := tyWidth f.ty
  let zero := if tyInt f.ty then y.1 == 0 else y.1 % 2 ^ (w - 1) == 0
  ⟨y.1, ⟨bitsOf y.1 (w - 1) (w - 1) == 1, zero, false, r.absentIn hi⟩, y.2⟩

/-- R159: QMX for a reader. -/
def qmxRes (r : Reader) (t : Ty) : LaneRes :=
  let xs := (List.range 32).map (fun j =>
    match r.contrib.find? (fun p => p.lane == j) with
    | some p => fdecode (fmtOf .f32) (p.opnd.toNat % 2 ^ 32)
    | none => FVal.fin false 0 0)
  let q := quantBlock t xs
  ⟨q.1 * 256 + q.2.1.getD r.lane 0 % 256, ⟨false, false, false, r.absentIn 32⟩, q.2.2⟩

/-- R155 to R159: what a reader receives. -/
def laneResult (i : Instr) (f : RRR) (r : Reader) (own : Participant) : LaneRes :=
  match i with
  | .ballot _ => maskRes r (partMask (r.truths.filter (fun p => predTrue p.opnd)))
  | .voteEvery _ => voteRes r (if r.preds.all id then 1 else 0)
  | .voteSome _ => voteRes r (if r.preds.any id then 1 else 0)
  | .voteAgree _ => voteRes r (if r.preds.all id || !(r.preds.any id) then 1 else 0)
  | .voteCount _ => voteRes r (r.preds.filter id).length
  | .bcast _ =>
    match r.truths with
    | p :: _ => ⟨p.opnd.toNat % 2 ^ tyWidth f.ty, ⟨false, false, false, r.absentIn 32⟩, 0⟩
    | [] => ⟨0, ⟨false, true, false, r.absentIn 32⟩, 0⟩
  | .elect _ =>
    match r.truths with
    | p :: _ =>
      ⟨if r.scalar then p.lane else if p.lane = r.lane then 1 else 0, ⟨false, false, false, r.absentIn 32⟩, 0⟩
    | [] => ⟨if r.scalar then 2 ^ 64 - 1 else 0, ⟨false, true, false, r.absentIn 32⟩, 0⟩
  | .matchL _ =>
    match matchRef r own.opnd with
    | none => maskRes r 0
    | some x =>
      maskRes r (partMask (r.contrib.filter (fun p => p.opnd.toNat % 2 ^ tyWidth f.ty == x.toNat % 2 ^ tyWidth f.ty)))
  | .qmx _ => qmxRes r f.ty
  | .scan _ op excl => foldRes r f own.fsr op (if excl then r.lane else r.lane + 1)
  | .reduce _ op => foldRes r f own.fsr op 32
  | i =>
    let j := shflLane i r.lane own.ctl
    let x := r.supply own.opnd j.1
    ⟨x.1.toNat % 2 ^ tyWidth f.ty, ⟨false, false, j.2, x.2⟩, 0⟩

/-- The type by which a result is written: masks, votes, elections and QMX are 32 bits, zero-extended (R156, R159); an
election's scalar result is 64 bits, and so is the mask of a MATCH of a 64-bit TYPE, whose vector D is a pair (R153). -/
def laneResTy (i : Instr) (f : RRR) : Ty :=
  match i with
  | .ballot _ | .voteEvery _ | .voteSome _ | .voteAgree _ | .voteCount _ | .qmx _ => .n32
  | .matchL _ => if tyWidth f.ty = 64 then .n64 else .n32
  | .elect _ => if opdUniform f.d then .n64 else .n32
  | _ => f.ty

/-! ### Closing (R148) -/

/-- R148: every lane that a guard-true participant names is a participant or exited. -/
def Gathering.complete (h : Gathering) (exited : LaneMask) (scalar : Bool) : Bool :=
  h.parts.all (fun p => !p.guard || (List.range 32).all (fun j =>
    !(maskHas p.mask j || (!scalar && j == p.lane)) || h.parts.any (fun q => q.lane == j) || maskHas exited j))

/-- The lanes of a gang that have exited. -/
def GangRegs.exited (r : GangRegs) : LaneMask := r.lanesWith (fun l => l.status == .exited)

/-- Whether a gathering's destination is scalar; D none counts as a vector one (DESIGN CHOICE, log 71). -/
def Gathering.scalar (h : Gathering) : Bool := ((laneRRR h.op).map (fun f => opdUniform f.d)).getD false

/-- The outstanding results of a gathering's readers. -/
def Gathering.oids (h : Gathering) : List Nat := (h.parts.filter (fun p => p.guard)).map (·.oid)

/-- R148, R150: A GATHERING CLOSES: its waiting lanes become runnable, and a park seam waits for its results from now on
(log 8). Their ready stamp is the run counter before it counts the run in issue, which R30 leaves open (DESIGN CHOICE,
log 85). -/
def Gang.closeOne (g : Gang) (h : Gathering) : Gang :=
  let exited := g.regs.exited
  let absent := laneSet (fun j => maskHas exited j && !(h.parts.any (fun p => p.lane == j)))
  let waiters := (h.parts.filter (fun p => p.guard)).map (·.lane)
  { g with
    gath := g.gath.map (fun x => if x.id = h.id then { x with closed := true, absent := absent } else x)
    out := g.out.map (fun o => if h.oids.contains o.id then { o with blocks := true } else o)
    regs := waiters.foldl (fun r j => r.modLane j (fun l =>
      if l.status = .waiting then { l with status := .runnable, stamp := g.run } else l)) g.regs }

/-- R148: every open gathering whose condition holds closes. -/
def Gang.closeGatherings (g : Gang) : Gang :=
  (g.gath.filter (fun h => !h.closed && h.complete g.regs.exited h.scalar)).foldl Gang.closeOne g

/-- R152: a gathering whose condition no longer holds opens again. -/
def Gang.reopenGatherings (g : Gang) : Gang :=
  let again := g.gath.filter (fun h => h.closed && !(h.complete g.regs.exited h.scalar))
  { g with
    gath := g.gath.map (fun x => if again.any (fun h => h.id == x.id) then { x with closed := false, absent := 0 } else x)
    out := g.out.map (fun o => if again.any (fun h => h.oids.contains o.id) then { o with blocks := false } else o) }

/-! ### Joining (R148) -/

/-- The destinations that a reader's result names. -/
def laneDsts (f : RRR) (lane : Nat) : List Dst :=
  (match f.d with
    | .v n => if tyWidth f.ty = 64 then [.v lane n, .v lane (n + 1)] else [.v lane n]
    | o => gangDsts o) ++ (if f.cce then [.k lane f.ccd] else [])

/-- R147, R155: the mask and the control operand that a lane supplies. A read port as SHFL's B counts as a vector B
(DEDUCED, log 10). -/
def laneControl (c : Ctx) (i : Instr) (f : RRR) (lane : Nat) : LaneMask × Nat :=
  if isShfl i then
    if opdPerLane f.b then (0xFFFFFFFF, c.src lane f.b false)
    else
      let x := c.src lane f.b true
      (BitVec.ofNat 32 (x / 2 ^ 32), x)
  else if f.b = .none then (0xFFFFFFFF, 0)
  else (BitVec.ofNat 32 (c.src lane f.b false), 0)

/-- One lane joins: the oldest open gathering at the address of which it is no participant, or the one that the clutch
opens now. Where the word at the address has changed meanwhile (R85), the word that opened the gathering is the one that
every participant's result is computed and delivered by (DESIGN CHOICE, log 105). -/
def Gang.joinLane (g : Gang) (c : Ctx) (i : Instr) (f : RRR) (fresh : Nat) (lane : Nat) : Gang :=
  let guard := maskHas c.s.act lane
  let oid := g.nextId
  let g1 := if guard then g.await c.s.cx.pc .unit (laneDsts f lane) [] false false else g
  let ctl := laneControl c i f lane
  let p : Participant :=
    { lane := lane, guard := guard, opnd := BitVec.ofNat 64 (c.src lane f.a (tyWidth (laneOpTy i f) == 64)), mask := ctl.1,
      ctl := ctl.2, fsr := if opdUniform f.d then g.regs.sfsr else (g.regs.lane lane).fsr, run := g.run, oid := oid }
  match g1.gath.find? (fun h => h.pc == c.s.cx.pc && !h.closed && h.id != fresh && !(h.parts.any (fun q => q.lane == lane))) with
  | some h => { g1 with gath := g1.gath.map (fun x => if x.id = h.id then { x with parts := x.parts ++ [p] } else x) }
  | none =>
    if g1.gath.any (fun h => h.id == fresh && h.pc == c.s.cx.pc) then
      { g1 with gath := g1.gath.map (fun x => if x.id = fresh then { x with parts := x.parts ++ [p] } else x) }
    else { g1 with gath := g1.gath ++ [⟨fresh, c.s.cx.pc, i, [p], false, 0⟩] }

/-- The ports that a cross-lane word reads. -/
def lanePorts (f : RRR) : List Nat := ([f.a, f.b].filterMap opdPort).eraseDups

/-- R150: the guard-true lanes whose gathering stays open wait after the word; the others go on. -/
def waitLanes (s : State) (lanes : LaneMask) : State :=
  let s1 := s.onIssuer (fun g => { g with
    regs := (lanesOf lanes).foldl (fun r j =>
      r.modLane j (fun l => { l with status := .waiting, pc := nextPc s.cx.pc })) g.regs })
  { s1 with cx := { s1.cx with parked := s1.cx.parked ||| lanes } }

/-- The lanes that wait in a gathering that is still open. -/
def Gang.openLanes (g : Gang) (among : LaneMask) : LaneMask :=
  laneSet (fun j => maskHas among j && g.gath.any (fun h => !h.closed && h.parts.any (fun p => p.lane == j && p.guard)))

/-- R148 to R150: a clutch issues a cross-lane word. Its one dynamic fault is the unbound port (R152), also where a
64-bit TYPE reads a port of narrower elements (DESIGN CHOICE, log 75). -/
def joinWord (i : Instr) (f : RRR) (s : State) : State :=
  match s.gang? s.cx.gang with
  | none => s
  | some g0 =>
    let bad := (lanesOf s.act).filterMap (fun j =>
      ((portFault (g0.regs.lane j) f.a false).orElse (fun _ => portFault (g0.regs.lane j) f.b false)).map
        (fun d => LaneFault.mk j 0x03 d 0))
    let s1 := takeFaults s bad
    match s1.gang? s1.cx.gang with
    | none => s1
    | some g =>
      let c : Ctx := ⟨s1, g, s1.blockOf g⟩
      let fresh := g.nextId
      let lanes := lanesOf (s1.cx.clutch &&& ~~~s1.cx.parked)
      let s2 := s1.onIssuer (fun g =>
        let g1 := lanes.foldl (fun g j => g.joinLane c i f fresh j) { g with nextId := g.nextId + 1 }
        ((lanesOf s1.act).foldl (fun g j => g.advancePorts j (lanePorts f)) g1).closeGatherings)
      match s2.gang? s2.cx.gang with
      | none => s2
      | some g2 => waitLanes s2 (g2.openLanes s1.act)

/-- R155 SHFL.idx. -/
def execShflIdx (f : RRR) (s : State) : Res := .next (joinWord (.shflIdx f) f s)
/-- R155 SHFL.up. -/
def execShflUp (f : RRR) (s : State) : Res := .next (joinWord (.shflUp f) f s)
/-- R155 SHFL.down. -/
def execShflDown (f : RRR) (s : State) : Res := .next (joinWord (.shflDown f) f s)
/-- R155 SHFL.xor. -/
def execShflXor (f : RRR) (s : State) : Res := .next (joinWord (.shflXor f) f s)
/-- R156 BALLOT. -/
def execBallot (f : RRR) (s : State) : Res := .next (joinWord (.ballot f) f s)
/-- R156 VOTE.every. -/
def execVoteEvery (f : RRR) (s : State) : Res := .next (joinWord (.voteEvery f) f s)
/-- R156 VOTE.some. -/
def execVoteSome (f : RRR) (s : State) : Res := .next (joinWord (.voteSome f) f s)
/-- R156 VOTE.agree. -/
def execVoteAgree (f : RRR) (s : State) : Res := .next (joinWord (.voteAgree f) f s)
/-- R156 VOTE.count. -/
def execVoteCount (f : RRR) (s : State) : Res := .next (joinWord (.voteCount f) f s)
/-- R156 BCAST. -/
def execBcast (f : RRR) (s : State) : Res := .next (joinWord (.bcast f) f s)
/-- R156 ELECT. -/
def execElect (f : RRR) (s : State) : Res := .next (joinWord (.elect f) f s)
/-- R156 MATCH. -/
def execMatch (f : RRR) (s : State) : Res := .next (joinWord (.matchL f) f s)
/-- R159 QMX. -/
def execQmx (f : RRR) (s : State) : Res := .next (joinWord (.qmx f) f s)
/-- R158 SCAN. -/
def execScan (f : RRR) (op : ScanOp) (excl : Bool) (s : State) : Res := .next (joinWord (.scan f op excl) f s)
/-- R158 REDUCE. -/
def execReduce (f : RRR) (op : ScanOp) (s : State) : Res := .next (joinWord (.reduce f op) f s)

/-! ### Delivery (R152) -/

/-- Whether a run of the gang is still in issue or in quarantine. -/
def Gang.runLive (g : Gang) (run : Nat) : Bool :=
  g.runs.any (fun r => r.seq == run) || (g.issue.isSome && g.run == run)

/-- The effects of one reader's result; a scalar destination is written by the first reader alone (R156). -/
def laneEffs (i : Instr) (f : RRR) (ord lane : Nat) (first : Bool) (x : LaneRes) : List Eff :=
  let t := laneResTy i f
  (match f.d with
    | .v n =>
      if tyWidth t = 64 then [.v lane n (BitVec.ofNat 32 x.r), .v lane (n + 1) (BitVec.ofNat 32 (x.r / 2 ^ 32))]
      else [.v lane n (BitVec.ofNat 32 (extendTo t 32 x.r))]
    | o => if first then gangEffs ord o (extendTo t 64 x.r) else []) ++
  (if f.cce then [.k lane f.ccd x.k] else []) ++
  (if opdUniform f.d then (if first then flagEffs none x.fl else []) else flagEffs (some lane) x.fl)

/-- The place in the program order of an outstanding operation. -/
def Gang.outOrd (g : Gang) (oid : Nat) : Nat := ((g.out.find? (fun o => o.id == oid)).map (·.ord)).getD g.ord

/-- What the gang's results become when a gathering delivers. A scalar D takes the mask and the status register of the
lowest-numbered guard-true participant (R156 does not say whose: DESIGN CHOICE, log 74). -/
def Gang.deliverGathering (g : Gang) (h : Gathering) (f : RRR) : Gang :=
  let readers := h.parts.filter (fun p => p.guard)
  let firstLane := readers.foldl (fun m p => min m p.lane) 32
  readers.foldl (fun g p =>
    let r : Reader := ⟨p.lane, p.mask, h.parts, h.absent, h.scalar⟩
    g.arrive p.oid (laneEffs h.op f (g.outOrd p.oid) p.lane (p.lane == firstLane) (laneResult h.op f r p)))
    { g with gath := g.gath.filter (fun x => x.id != h.id) }

/-- R152: whether a gathering rests on a run that a strike report could still discard: of a participant, or one whose
`EXIT` made a lane absent. -/
def Gathering.unsure (h : Gathering) (g : Gang) : Bool :=
  h.parts.any (fun p => g.runLive p.run) || g.runs.any (fun r => r.exits &&& h.absent != 0#32)

/-- R152 GATHERING_DELIVERY: a closed gathering delivers once every run that it rests on has left quarantine. -/
def execGatheringDelivery (gang gix : Nat) (s : State) : Res :=
  .next (s.modGang gang (fun g =>
    match g.gath[gix]? with
    | none => g
    | some h =>
      if !h.closed || h.unsure g then g
      else match laneRRR h.op with
        | none => g
        | some f => g.deliverGathering h f))

end Sys2Proof.Machine
end

