-- ==== Sys2Proof/Machine/Elem.lean ====
section
/-! DEFINITION. Machine/Elem.lean: stored element formats (R61 to R63) and the conversions of element accesses (R165).
-/
namespace Sys2Proof.Machine

/-- R61: what a FMT code names: raw bytes, a floating-point or DS8 element, an integer of a width, or nothing. -/
inductive ElemFmt where
  | raw
  | float (t : Ty)
  | int (bits : Nat) (signed : Bool)
  | reserved
  deriving DecidableEq, Repr

/-- R61: the code table. -/
def elemFmt (fmt : Nat) : ElemFmt :=
  match fmt with
  | 0 => .raw
  | 1 => .float .f64
  | 2 => .float .f32
  | 3 => .float .f16
  | 4 => .float .bf16
  | 5 => .float .e4m3
  | 6 => .float .e5m2
  | 7 => .float .e3m2
  | 8 => .float .e2m3
  | 9 => .float .e2m1
  | 10 => .float .ds8
  | 11 => .int 8 true
  | 12 => .int 8 false
  | 13 => .int 4 true
  | 14 => .int 4 false
  | _ => .reserved

/-- R61: the width of an element in bits; 8 where there is none. -/
def elemBits (fmt : Nat) : Nat :=
  match elemFmt fmt with
  | .float t => tyWidth t
  | .int w _ => w
  | _ => 8

/-- R61: the BLK values a format permits. -/
def blkPermitted (fmt blk : Nat) : Bool :=
  match fmt with
  | 0 | 1 | 2 | 3 | 4 | 11 | 12 | 13 | 14 => blk == 0
  | 5 | 6 => decide (blk ≤ 3)
  | 7 | 8 | 9 => decide (1 ≤ blk ∧ blk ≤ 3)
  | 10 => blk == 2
  | _ => false

/-- R61: whether an element-decoding access may use the page. -/
def elemPage (fmt blk : Nat) : Bool := fmt != 0 && blkPermitted fmt blk

/-- R62: elements per scale; 0 for none. -/
def blkSize (blk : Nat) : Nat :=
  match blk with
  | 1 => 16
  | 2 => 32
  | 3 => 64
  | _ => 0

/-- R63: `w` bits from bit `p` of a little-endian byte string. -/
def bitField (bs : List Byte) (p w : Nat) : Nat := leValue bs / 2 ^ p % 2 ^ w

/-- R60: the exact value of a stored element; `scale = none` for a bare one. -/
def elemValue (fmt : Nat) (scale : Option Nat) (bits : Nat) : FVal :=
  match elemFmt fmt with
  | .float t => match scale with
    | some c => scaledElem t c bits
    | none => if t = .ds8 then ds8Value (bits % 256) else fdecode (fmtOf t) (bits % 2 ^ tyWidth t)
  | .int w sg => ofIntV (if sg then signExt bits w else (bits % 2 ^ w : Nat))
  | _ => ofIntV (bits % 256 : Nat)

/-- The floating type of a register type (R165). -/
def rtFloat : ElemTy → Option Ty
  | .f32 => some .f32
  | .f16 => some .f16
  | .bf16 => some .bf16
  | _ => none

/-- The integer type of a register type. -/
def rtInt : ElemTy → Ty
  | .n32 => .n32
  | _ => .i32

/-- The TYPE that extends a register type's result (R42). -/
def rtTy (rt : ElemTy) : Ty := (rtFloat rt).getD (rtInt rt)

/-- R165: a decoded value delivered in a register type, RNE, subnormals kept. -/
def toReg (rt : ElemTy) (x : FVal) : Nat × FFlags :=
  match rtFloat rt with
  | some t => match x with
    | .nan s => (canonNan (fmtOf t), if s then flIV else flNone)
    | x => roundVal (fmtOf t) .rne false x
  | none =>
    let r := ftoiV (rtInt rt) .rne x
    (wrapInt r.1 32, r.2)

/-- R165: LDE of a bare element. An integer element into an integer register is extended by its own signedness. -/
def ldeConv (fmt : Nat) (rt : ElemTy) (bits : Nat) : Nat × FFlags :=
  match elemFmt fmt, rtFloat rt with
  | .int w sg, none => (if sg then wrapInt (signExt bits w) 32 else bits % 2 ^ w, flNone)
  | _, _ => toReg rt (elemValue fmt none bits)

/-- R166: LDE of a scaled element. -/
def ldeScaled (fmt : Nat) (rt : ElemTy) (scale bits : Nat) : Nat × FFlags :=
  if scale = 0xFF ∧ rtFloat rt = none then (0, flIV) else toReg rt (elemValue fmt (some scale) bits)

/-- R165: the exact value of a register operand of STE. -/
def regValue (rt : ElemTy) (x : Nat) : FVal :=
  match rtFloat rt with
  | some t => fdecode (fmtOf t) (x % 2 ^ tyWidth t)
  | none => ofIntV (extOf (rtInt rt) x)
where
  /-- R91: the operand extended by its type. -/
  extOf (t : Ty) (x : Nat) : Int := if tySigned t then signExt x (tyWidth t) else (x % 2 ^ tyWidth t : Nat)

/-- The range of an element integer format. -/
def elemRange (w : Nat) (sg : Bool) : Int × Int :=
  if sg then (-((2 ^ (w - 1) : Nat) : Int), ((2 ^ (w - 1) : Nat) : Int) - 1) else (0, ((2 ^ w : Nat) : Int) - 1)

/-- R140, R165: a value into an integer element: nearest, saturating; IV when out of range or NaN. -/
def toIntElem (w : Nat) (sg : Bool) (x : FVal) : Nat × FFlags :=
  let rg := elemRange w sg
  match x with
  | .nan _ => (0, flIV)
  | .inf neg => (wrapInt (if neg then rg.1 else rg.2) w, flIV)
  | .fin neg m e =>
    let r := roundAt .rne neg m e 0
    let n := signedM neg r.1
    if n < rg.1 then (wrapInt rg.1 w, flIV)
    else if n > rg.2 then (wrapInt rg.2 w, flIV)
    else (wrapInt n w, if r.2 then flNone else flIX)

/-- R165, R214: an exact value encoded into a stored format, RNE, subnormals kept. -/
def encodeElem (fmt : Nat) (x : FVal) : Nat × FFlags :=
  match elemFmt fmt with
  | .float t => fcvtV t .rne false false x
  | .int w sg => toIntElem w sg x
  | _ => (0, flNone)

/-- R165, R214: a stored element's exact value encoded into another stored format: between integer formats it saturates,
without a flag. -/
def encodeStored (src fmt : Nat) (x : FVal) : Nat × FFlags :=
  match elemFmt src, elemFmt fmt with
  | .int .., .int w sg => ((toIntElem w sg x).1, flNone)
  | _, _ => encodeElem fmt x

/-- R165: STE of a register value; an integer register into an integer element saturates without a flag. -/
def steConv (fmt : Nat) (rt : ElemTy) (x : Nat) : Nat × FFlags :=
  match elemFmt fmt, rtFloat rt with
  | .int w sg, none =>
    let n := regValue.extOf (rtInt rt) x
    let rg := elemRange w sg
    (wrapInt (max rg.1 (min rg.2 n)) w, flNone)
  | _, _ => encodeElem fmt (regValue rt x)

/-- R166: an exact value divided by a scale. -/
def unscale (scale : Nat) (x : FVal) : FVal :=
  match x with
  | .fin n m e => .fin n m (e - ((scale : Int) - 127))
  | x => x

/-- R166, R214: the encoding of +0 of a stored format. -/
def elemZeroOf (fmt : Nat) : Nat := if fmt = 10 then 0x77 else 0

/-- R166: STE of a register value over a scale; a NaN scale stores +0 and raises IV. -/
def steScaled (fmt : Nat) (rt : ElemTy) (scale x : Nat) : Nat × FFlags :=
  if scale = 0xFF then (elemZeroOf fmt, flIV)
  else encodeElem fmt (unscale scale (regValue rt x))

end Sys2Proof.Machine
end

