-- ==== Sys2Proof/Machine/Window.lean ====
section
/-! DEFINITION. Machine/Window.lean: the map of the package's local addresses (R348), context records (R314) and what
a read of the register window returns (R386 to R395). Writes of the window are in Machine/Manage.lean.
-/
namespace Sys2Proof.Machine

/-! ### The local address map (R348) -/

/-- Where a local address lies: the tier (0 HBM4E, 1 LPDDR 6, 2 CXL, 3 the register window), its home die domain (or
CXL port), and the stack, package or port. -/
structure Place where
  tier : Nat
  dom : Nat
  slot : Nat
  deriving DecidableEq, Repr

/-- R7, R13, R348: 64 GB. -/
def gb64 : Nat := 64000000000

/-- R348: the start of the register window. -/
def windowBase : Nat := 0x300000000000

/-- R348: where an address lies; `none` where nothing is populated. -/
def placeOf (s : State) (pa : Nat) : Option Place :=
  let q := pa / 2 ^ 36 % 2 ^ 8
  match pa / 2 ^ 44 with
  | 0 => if q < 8 ∧ pa % 2 ^ 36 < gb64 then some ⟨0, q / 4, q⟩ else none
  | 1 => if q < 8 ∧ pa % 2 ^ 36 < gb64 then some ⟨1, q / 4, q⟩ else none
  | 2 =>
    let p := pa / 2 ^ 41 % 8
    if p < 2 ∧ pa % 2 ^ 41 < s.cxlBytes.getD p 0 then some ⟨2, p, p⟩ else none
  | 3 => some ⟨3, 0, 0⟩
  | _ => none

/-- Whether `n` bytes from `pa` lie wholly in one populated range whose tier is at most `maxTier`. -/
def rangeIn (s : State) (pa n maxTier : Nat) : Bool :=
  match placeOf s pa, placeOf s (pa + n - 1) with
  | some a, some b => decide (a = b ∧ a.tier ≤ maxTier ∧ pa + n ≤ 2 ^ 46)
  | _, _ => false

/-! ### Context records (R314) -/

/-- The record of an ASID. -/
def ctxRec (s : State) (asid : Nat) : BitVec 512 := tabGet ctxReset s.ctxs asid

/-- R314: FAULTS. -/
def ctxFaults (r : BitVec 512) : Nat := bitsOf r.toNat 511 448
/-- R314: DIAG. -/
def ctxDiag (r : BitVec 512) : Nat := bitsOf r.toNat 447 384
/-- R314: SAVE. -/
def ctxSave (r : BitVec 512) : Nat := bitsOf r.toNat 383 320
/-- R314: SAVELEN. -/
def ctxSaveLen (r : BitVec 512) : Nat := bitsOf r.toNat 319 256
/-- R314: the deadline of a class, in units of 10 ns. -/
def ctxDeadline (r : BitVec 512) (c : Nat) : Nat := bitsOf r.toNat (192 + 16 * c + 15) (192 + 16 * c)
/-- R314: SUPQ. -/
def ctxSupq (r : BitVec 512) : Nat := bitsOf r.toNat 191 180
/-- R314: MINCLS. -/
def ctxMinCls (r : BitVec 512) : Nat := bitsOf r.toNat 168 167
/-- R314: MAXPRI. -/
def ctxMaxPri (r : BitVec 512) : Nat := bitsOf r.toNat 166 164

/-- R314: whether a record reads VALID 1. -/
def ctxValid (s : State) (asid : Nat) : Bool :=
  let r := ctxRec s asid
  bitsOf r.toNat 0 0 == 1 && bitsOf r.toNat 147 1 == 0 && bitsOf r.toNat 179 169 == asid &&
    rangeIn s (ctxFaults r) 65536 1 && rangeIn s (ctxDiag r) 524288 1 &&
    (ctxSave r == 0 || ctxSaveLen r == 0 || rangeIn s (ctxSave r) (ctxSaveLen r) 1)

/-- A live context: its record is valid and it has not been terminated (R303). -/
def ctxLive (s : State) (asid : Nat) : Bool := ctxValid s asid && !(tabGet false s.dead asid)

/-- The record as a read returns it: its reserved bits read zero (R15), and VALID where the record names no context. -/
def ctxRead (s : State) (asid : Nat) : Nat :=
  (ctxRec s asid).toNat / 2 ^ 148 * 2 ^ 148 + (if ctxLive s asid then 1 else 0)

/-! ### Registers as a read returns them -/

/-- R4, R208: whether a core is usable: not disabled, and partition 0 not fenced. -/
def coreUsable (s : State) (c : Nat) : Bool := !(s.core c).disabled && !((s.core c).fenced.getLsbD 0)

/-- The unfenced partitions of a core. -/
def usableParts (c : CoreSt) : List Nat := (List.range 16).filter (fun p => !(c.fenced.getLsbD p))

/-- The usable cores. -/
def usableCores (s : State) : List Nat := (List.range 64).filter (coreUsable s)

/-- R388 UNITS. -/
def unitsWord (s : State) : Nat :=
  ((usableCores s).foldl (fun n c => n + (usableParts (s.core c)).length) 0) * 2 ^ 48 +
    (usableCores s).length * 2 ^ 41 + s.chans * 2 ^ 32 + ((List.range 16).filter (fun i => s.stations.getLsbD i)).length * 2 ^ 27

/-- R395 THERM. -/
def thermWord (s : State) : Nat :=
  s.therm.power % 2 ^ 16 * 2 ^ 48 + s.therm.tdie % 2 ^ 8 * 2 ^ 40 + s.therm.thbm % 2 ^ 8 * 2 ^ 32 +
    s.therm.clockMHz % 2 ^ 12 * 2 ^ 20

/-- R391 ELOGHEAD. -/
def elogHeadWord (s : State) : Nat := s.elog.head.toNat * 2 ^ 32 + s.elog.tail.toNat

/-- R394 ATTCTL. -/
def attWord (s : State) : Nat := s.att.leaf % 2 ^ 32 * 2 ^ 32 + s.att.status % 4 * 2 + (if s.att.go then 1 else 0)

/-- Eight bytes of an area from an offset, zero beyond its end. -/
def areaWord (bs : List Byte) (o : Nat) : Nat := leValue ((bs.drop o).take 8)

/-- R387: the management block, by aligned word. -/
def manageWord (s : State) (o : Nat) : Nat :=
  if o = 0x0 then unitsWord s
  else if o = 0x8 then s.bootstat.toNat
  else if o = 0x10 then thermWord s
  else if o = 0x18 then s.notice.toNat
  else if o = 0x20 then s.mcmd.toNat
  else if o = 0x28 then s.elog.ctl.toNat
  else if o = 0x30 then elogHeadWord s
  else if o = 0x100 then attWord s
  else if 0x140 ≤ o ∧ o < 0x160 then areaWord s.att.nonce (o - 0x140)
  else if 0x180 ≤ o ∧ o < 0x1C8 then areaWord s.att.pub (o - 0x180)
  else if 0x1000 ≤ o ∧ o < 0x2000 then areaWord s.att.report (o - 0x1000)
  else 0

/-- R368: KEYCTL of an ASID, by word: only KST can be read. -/
def keyWord (s : State) (asid o : Nat) : Nat :=
  let k := tabGet KeySt.reset s.keys asid
  if o = 0 then (if k.kst = 3 then (if k.num = 0 then 0 else 1) else k.kst) * 4 else 0

/-- R317: a queue's registers. -/
def queueWord (s : State) (q o : Nat) : Nat :=
  match o with
  | 0 => (tabGet qctlReset s.qctl q).toNat
  | 8 => (tabGet 0 s.qctx q).toNat
  | 16 => (tabGet 0 s.qtail q).toNat
  | 24 => (tabGet 0 s.qhead q).toNat
  | _ => 0

/-- The key of a ring's register in the table of ring words: control, TAIL, HEAD. -/
def ringKey (dom ring word : Nat) : Nat := (dom * 8 + ring) * 4 + word

/-- R339: the key of a miss counter. -/
def missKey (dom who cls : Nat) : Nat := (dom * 128 + who) * 4 + cls

/-- The registers of a die domain. -/
def domWord (s : State) (d o : Nat) : Nat :=
  if o < 68 * 16 then
    let k := missKey d (o / 16) (o % 16 / 4)
    (tabGet 0 s.misses k).toNat + 2 ^ 32 * (tabGet 0 s.misses (k + 1)).toNat
  else if o = 0x1000 then (tabGet 0 s.skpol d).toNat
  else if 0x2000 ≤ o ∧ o < 0x2100 then
    (tabGet 0 s.regions (d * 16 + (o - 0x2000) / 16)).toNat / 2 ^ (8 * (o % 16)) % 2 ^ 64
  else if 0x3000 ≤ o ∧ o < 0x30E0 ∧ o % 32 < 24 then (tabGet 0 s.rings (ringKey d ((o - 0x3000) / 32) (o % 32 / 8))).toNat
  else 0

/-- R386: an aligned 64-bit word of the register window. -/
def windowWord (s : State) (o : Nat) : Nat :=
  if o < 0x8000 then manageWord s o
  else if o = 0x8000 then s.fabid.toNat
  else if 0x9000 ≤ o ∧ o < 0xB000 then (tabGet 0 s.peers ((o - 0x9000) / 8)).toNat
  else if o = 0x10008 then s.invAddr.toNat
  else if o = 0x10010 then s.invCtl.toNat
  else if 0x100000 ≤ o ∧ o < 0x120000 then
    ctxRead s ((o - 0x100000) / 64) / 2 ^ (8 * (o % 64)) % 2 ^ 64
  else if 0x200000 ≤ o ∧ o < 0x204000 then (tabGet 0 s.roots ((o - 0x200000) / 8)).toNat
  else if 0x300000 ≤ o ∧ o < 0x340000 then keyWord s ((o - 0x300000) / 128) (o % 128)
  else if 0x400000 ≤ o ∧ o < 0x420000 then queueWord s ((o - 0x400000) / 32) (o % 32)
  else if 0x800000 ≤ o ∧ o < 0x1000000 then domWord s ((o - 0x800000) / 0x400000) ((o - 0x800000) % 0x400000)
  else 0

/-- A byte of the register window. -/
def windowByte (s : State) (o : Nat) : Byte := BitVec.ofNat 8 (windowWord s (o / 8 * 8) / 2 ^ (8 * (o % 8)))

end Sys2Proof.Machine
end

