-- ==== Sys2Proof/Machine/Mem.lean ====
section
/-! DEFINITION. Machine/Mem.lean: global memory at home (R236), encryption views (R367), pages in motion (R356),
poison (R360), hotness (R352), the L1 snapshots (R238, R239) and the block store buffers (R237, R238).
-/
namespace Sys2Proof.Machine

/-! ### Addresses -/

/-- The 128-byte line of an address. -/
def lineOf (pa : Nat) : Nat := pa / 128

/-- The 32-byte sector of an address. -/
def sectorOf (pa : Nat) : Nat := pa / 32

/-- R398: the byte at `va` of context `asid` on package `target`, as an address. -/
def remoteAddr (target asid va : Nat) : Nat := 2 ^ 80 * (1 + target + 1024 * asid) + va

/-- Whether an address is on another package. -/
def isRemote (pa : Nat) : Bool := decide (2 ^ 80 ≤ pa)

/-- The package of a remote address. -/
def remoteTarget (pa : Nat) : Nat := (pa / 2 ^ 80 - 1) % 1024

/-- The virtual address of a remote address. -/
def remoteVa (pa : Nat) : Nat := pa % 2 ^ 80

/-- Whether a local address lies in the register window. -/
def inWindow (pa : Nat) : Bool := decide (windowBase ≤ pa ∧ pa < 2 ^ 46)

/-! ### Encryption (R367) -/

/-- The number of the key that a line is stored under, 0 for plain text. -/
def lineKeyOf (s : State) (line : Nat) : Nat := tabGet 0 s.lineKey line

/-- The bits of an installed key. -/
def keyOf (s : State) (k : Nat) : BitVec 512 := tabGet 0 s.keyBits k

/-- The plain bytes of a line under the key it is stored with. -/
def lineBytes (s : State) (line : Nat) : List Byte := (List.range 128).map (fun i => tabGet 0 s.mem (128 * line + i))

/-- R367: the tweak of a line: its global physical address / 128. -/
def lineTweak (s : State) (line : Nat) : Nat := (accelId s * 2 ^ 46 + 128 * line) / 128

/-- The 16-byte block of a line's bytes at a position. -/
def lineBlock (bs : List Byte) (j : Nat) : BitVec 128 := BitVec.ofNat 128 (leValue ((bs.drop (16 * j)).take 16))

/-- R367: a line's bytes encrypted under an installed key. -/
def encryptLine (s : State) (k line : Nat) (bs : List Byte) : List Byte :=
  (List.range 8).flatMap (fun j => leBytes 16 (Config.xts (keyOf s k) (lineTweak s line) j (lineBlock bs j)).toNat)

/-- R367: a line's stored bytes decrypted under an installed key. -/
def decryptLine (s : State) (k line : Nat) (bs : List Byte) : List Byte :=
  (List.range 8).flatMap (fun j => leBytes 16 ((Config.xts (keyOf s k) (lineTweak s line) j).symm (lineBlock bs j)).toNat)

/-- The bytes of a line as its home stores them. -/
def storedLine (s : State) (line : Nat) : List Byte :=
  let k := lineKeyOf s line
  if k = 0 then lineBytes s line else encryptLine s k line (lineBytes s line)

/-- Whether two views see the same bytes: plain text, or keys of the same bits, one of which undoes what the other does. -/
def sameView (s : State) (a b : Nat) : Bool := a == b || (a != 0 && b != 0 && keyOf s a == keyOf s b)

/-- R367: a byte as a page of the given view sees it. -/
def viewByte (s : State) (view pa : Nat) : Byte :=
  let line := lineOf pa
  if sameView s (lineKeyOf s line) view then tabGet 0 s.mem pa
  else if view = 0 then (storedLine s line).getD (pa % 128) 0
  else (decryptLine s view line (storedLine s line)).getD (pa % 128) 0

/-- A line kept under another view from now on: its bytes are what that view sees. -/
def reviewLine (s : State) (line view : Nat) : State :=
  if lineKeyOf s line = view then s
  else
    let bs := (List.range 128).map (fun i => viewByte s view (128 * line + i))
    { s with
      mem := (placed (128 * line) bs).foldl (fun m p => tabPut 0 m p.1 p.2) s.mem
      lineKey := tabPut 0 s.lineKey line view }

/-! ### Pages in motion (R356, R357) -/

/-- The size of a frame in motion. -/
def Motion.size (m : Motion) : Nat := if m.big then 2 ^ 21 else 2 ^ 16

/-- Whether a frame in motion holds the address at its source. -/
def Motion.covers (m : Motion) (pa : Nat) : Bool := decide (m.src ≤ pa ∧ pa < m.src + m.size)

/-- The motion of the frame that holds the address. -/
def motionOf (s : State) (pa : Nat) : Option Motion := s.motions.find? (fun m => m.covers pa)

/-- Whether a motion has moved its page: its leaf names the destination. -/
def Motion.moved (m : Motion) : Bool := m.stage == 1 || (m.stage == 2 && m.status == 0)

/-- R354: whether a motion's page is the one that holds a local address: it is at the source, or has moved. -/
def Motion.holds (m : Motion) (pa : Nat) : Bool := m.covers pa || (m.moved && decide (m.dst ≤ pa ∧ pa < m.dst + m.size))

/-- R357: where the home serves an address: at the destination from the swap of the entry until the invalidation is
complete. -/
def homePa (s : State) (pa : Nat) : Nat :=
  match motionOf s pa with
  | none => pa
  | some m => if m.stage = 1 then m.dst + (pa - m.src) else pa

/-- R347, R357: where a mapping finds an address: the one whose page has moved, where the page is now; another mapping of the
frame still names the frame. -/
def mappedPa (s : State) (leafPa pa : Nat) : Nat :=
  match motionOf s pa with
  | none => pa
  | some m => if m.leafPa = leafPa then homePa s pa else pa

/-- R356: the second place of a write below the watermark. -/
def forwardPa (s : State) (pa : Nat) : Option Nat :=
  match motionOf s pa with
  | none => none
  | some m =>
    if m.stage = 0 ∧ (pa - m.src) / 256 < m.mark ∧ ¬ m.abandoned then some (m.dst + (pa - m.src)) else none

/-! ### Reading at home -/

/-- R385: whether an address lies behind a CXL port whose link is down. -/
def linkDown (s : State) (pa : Nat) : Bool :=
  !s.cxlDown.isEmpty && match placeOf s pa with
  | some p => p.tier == 2 && s.cxlDown.contains p.slot
  | none => false

/-- Whether a byte at a local address is uncorrectable, by its sector's mark or a dead link (R340, R385). -/
def badAt (s : State) (pa : Nat) : Bool := tabGet false s.poison (sectorOf pa) || linkDown s pa

/-- R356: whether the destination serves reads of an address: its unit is copied, with no second copy pending. -/
def Motion.serves (m : Motion) (pa : Nat) : Bool :=
  m.stage == 0 && !m.abandoned && m.covers pa && decide ((pa - m.src) / 256 < m.mark) && !(m.recopy.contains ((pa - m.src) / 256))

/-- R356, R359: where a read of an address is served: where its home serves it, or at the destination of a motion that has
copied the unit; what fails there is served from the source. -/
def servePa (s : State) (pa : Nat) : Nat :=
  match motionOf s pa with
  | none => pa
  | some m => if m.serves pa && !m.bad && !(badAt s (m.dst + (pa - m.src))) then m.dst + (pa - m.src) else homePa s pa

/-- Whether reading the byte at home returns poisoned data (R340, R360, R385). -/
def poisoned (s : State) (c : Cell) : Bool := c.poi || badAt s (servePa s c.pa)

/-- R238 step 3: the byte at home and whether it is poisoned. -/
def readHome (s : State) (c : Cell) : Byte × Bool :=
  let pa := servePa s c.pa
  if inWindow pa then (windowByte s (pa - windowBase), false) else (viewByte s c.view pa, poisoned s c)

/-- R356: the byte that an atomic finds, which is performed at the source, and whether it is poisoned. -/
def readSource (s : State) (c : Cell) : Byte × Bool :=
  let pa := homePa s c.pa
  if inWindow pa then (windowByte s (pa - windowBase), false) else (viewByte s c.view pa, c.poi || badAt s pa)

/-- R359: reads of some cells: one that the destination of a motion serves and that fails there is the motion's error. -/
def meetDest (s : State) (cs : List Cell) : State :=
  { s with motions := s.motions.map (fun m =>
      if cs.any (fun c => m.serves c.pa && badAt s (m.dst + (c.pa - m.src))) then { m with bad := true } else m) }

/-- A byte delivered to a reader for which the spec names no treatment of poisoned data: that byte is free (log 6). -/
def plainByte (s : State) (c : Cell) (y : Byte × Bool) : Byte := if y.2 then Config.poisonByte s.free c.pa else y.1

/-- A cell of plain text named by a local physical address, as the device's own areas are (R314). -/
def physCell (pa : Nat) : Cell := ⟨pa, 0, false, false, none, 0, 0, 0, 3, 0, 16⟩

/-- The cells of some bytes of such an area. -/
def physCells (pa n : Nat) : List Cell := (List.range n).map (fun i => physCell (pa + i))

/-- Bytes at home from a local physical address, in plain text. -/
def readPhys (s : State) (pa n : Nat) : List Byte := (physCells pa n).map (fun c => plainByte s c (readHome s c))

/-- A little-endian value at home. -/
def physWord (s : State) (pa n : Nat) : Nat := leValue (readPhys s pa n)

/-! ### Writing at home -/

/-- A byte with the masked bits replaced (R63). -/
def maskByte (old val mask : Byte) : Byte := (old &&& ~~~mask) ||| (val &&& mask)

/-- R341: a patrol read of a sector that a write has reached since. -/
def Patrol.overwritten (sector : Nat) (p : Patrol) : Patrol := if p.sector = sector then { p with stale := true } else p

/-- A byte placed at a local address under a view. -/
def putByte (s : State) (view pa : Nat) (val mask : Byte) : State :=
  let s1 := reviewLine s (lineOf pa) view
  { s1 with
    mem := tabPut 0 s1.mem pa (maskByte (tabGet 0 s1.mem pa) val mask)
    patrols := s1.patrols.map (Patrol.overwritten (sectorOf pa))
    scrubs := s1.scrubs.map (Patrol.overwritten (sectorOf pa)) }

/-- R369: what a home stores of lines that are about to be written under a key is kept: as far as the writes are not written
back, home goes on holding it (log 4). -/
def keepStored (s : State) (lines : List Nat) : State :=
  { s with dirty := lines.foldl (fun t l => tabPut [] t l (storedLine s l :: tabGet [] t l)) s.dirty }

/-- The lines that bytes written under a key change, those of forwarded writes among them. -/
def keyLines (s : State) (xs : List StCell) : List Nat :=
  (((xs.filter (fun x => x.cell.view != 0)).flatMap (fun x =>
    homePa s x.cell.pa :: (forwardPa s x.cell.pa).toList)).map lineOf).eraseDups

/-- One byte written at its home: discarded on a poisoned page or behind a dead link, forwarded while its page is in
motion, unless the write is an atomic's, for which the unit is copied again (R356, R360). A forwarded write that meets a
dead link at the destination is the motion's error (R359). -/
def storeByte (s : State) (atomic : Bool) (x : StCell) : State :=
  let pa := homePa s x.cell.pa
  if x.cell.poi || linkDown s pa then s
  else
    let s1 := putByte s x.cell.view pa x.val x.mask
    match forwardPa s x.cell.pa with
    | none => s1
    | some d =>
      if linkDown s d then
        { s1 with motions := s1.motions.map (fun m => if m.covers x.cell.pa then { m with bad := true } else m) }
      else if atomic then
        { s1 with motions := s1.motions.map (fun m =>
            if m.covers x.cell.pa then { m with recopy := ((pa - m.src) / 256) :: m.recopy.filter (· != (pa - m.src) / 256) }
            else m) }
      else putByte s1 x.cell.view d x.val x.mask

/-- The bytes of a store that go to the register window. -/
def windowPart (s : State) (xs : List StCell) : List StCell := xs.filter (fun x => inWindow (homePa s x.cell.pa))

/-- A write of the register window: its first offset, and each byte from there on with its mask, 0 where the store has
none. -/
def windowRun (xs : List StCell) : Nat × List (Byte × Byte) :=
  let lo := xs.foldl (fun a x => min a x.cell.pa) (2 ^ 46)
  let hi := xs.foldl (fun a x => max a x.cell.pa) 0
  (lo - windowBase, (List.range (hi + 1 - lo)).map (fun i =>
    ((xs.find? (fun x => x.cell.pa == lo + i)).map (fun x => (x.val, x.mask))).getD (0, 0)))

/-- R236: bytes written at home in one step. A write of the register window waits for the window's own arbiter. -/
def writeHome (s : State) (atomic : Bool) (xs : List StCell) : State :=
  let w := windowPart s xs
  let s1 := (xs.filter (fun x => !(inWindow (homePa s x.cell.pa)))).foldl (fun s x => storeByte s atomic x)
    (keepStored s (keyLines s xs))
  if w.isEmpty then s1 else { s1 with regQ := s1.regQ ++ [windowRun w] }

/-- R360: the sectors that lose their mark because a committed store has covered them, and with it what a patrol read
found of them before. -/
def clearPoison (s : State) (sectors : List Nat) : State :=
  { s with
    poison := sectors.foldl (fun t x => tabPut false t x false) s.poison
    scrubs := s.scrubs.filter (fun p => !(sectors.contains p.sector)) }

/-! ### What reaches a home (R336, R352, R361) -/

/-- R7: the controllers, by number: the HBM4E stacks, then the LPDDR 6 packages, then the CXL ports. -/
def Place.controller (p : Place) : Nat := 8 * p.tier + p.slot

/-- R348: the channel of an address within its controller; only a stack has several. -/
def chanOf (p : Place) (pa : Nat) : Nat := if p.tier = 0 then pa / 256 % 32 else 0

/-- R336: a request accepted by a channel. -/
def askChannel (s : State) (p : Place) (c : Cell) : State :=
  let pa := homePa s c.pa
  { s with chanQ := s.chanQ ++ [⟨p.controller, chanOf p pa, c.cls, c.stamp, c.who, Config.subarrayOf pa⟩] }

/-- One access counted on the page of a cell, whose leaf is named; reaching PROMO makes it a candidate. -/
def countHot (s : State) (p : Place) (c : Cell) (leaf : Nat) : State :=
  let old := tabGet 0 s.hot leaf
  let new := min 255 (old + 1)
  let s1 := { s with hot := tabPut 0 s.hot leaf new }
  let promo := bitsOf (tabGet 0 s.skpol p.dom).toNat 7 0
  if p.tier = 0 ∨ promo = 0 ∨ old = new ∨ new ≠ promo then s1
  else { s1 with promos := s1.promos ++ [⟨c.asid, c.va, p.dom⟩] }

/-- An access of one line that reaches its home. -/
def touch (s : State) (c : Cell) : State :=
  match placeOf s (homePa s c.pa), c.leaf with
  | some p, some leaf => if p.tier = 3 ∨ isRemote c.pa then s else askChannel (countHot s p c leaf) p c
  | _, _ => s

/-- Whether a local place lies on a stack in self-refresh. -/
def placeAsleep (s : State) (pa : Nat) : Bool :=
  match placeOf s pa with
  | some p => p.tier == 0 && tabGet false s.selfRefresh p.slot
  | none => false

/-- R342: whether a local address lies on a stack in self-refresh, whose requests wait for its exit. -/
def stackAsleep (s : State) (pa : Nat) : Bool := !(isRemote pa) && placeAsleep s (homePa s pa)

/-- R342, R356: the same for a read, which the destination of a motion may serve. -/
def readAsleep (s : State) (pa : Nat) : Bool := stackAsleep s pa || (!(isRemote pa) && placeAsleep s (servePa s pa))

/-- The first cell of each line among the cells. -/
def lineHeads (cs : List Cell) : List Cell :=
  cs.foldl (fun acc c => if acc.any (fun a => lineOf a.pa == lineOf c.pa) then acc else acc ++ [c]) []

/-- R340: whether an enabled checkpoint region holds a local address. -/
def inRegion (s : State) (pa : Nat) : Bool :=
  s.regions.any (fun r => r.2.getLsbD 0 &&
    decide (bitsOf r.2.toNat 127 64 ≤ pa ∧ pa < bitsOf r.2.toNat 127 64 + 65536 * bitsOf r.2.toNat 63 16))

/-- R340: the patrol read of a line that a checkpoint read doubles as: it covers the line's row, and what it finds of each
sector is told by GECKO_PATROL (log 83). -/
def patrolLine (s : State) (pa : Nat) : State :=
  let line := lineOf pa
  let new := (List.range 4).filter (fun i => !(s.scrubs.any (fun p => p.sector == 4 * line + i && !p.stale)))
  { s with
    scrubs := s.scrubs ++ new.map (fun i => ⟨4 * line + i, false⟩)
    covered := tabPut 0 s.covered (Config.rowOf pa) (s.now + 1) }

/-- R340: a read by a copy request or the host: of lines in an enabled region it doubles as their patrol read. -/
def checkpointRead (s : State) (cs : List Cell) : State :=
  ((lineHeads cs).filter (fun c => !(isRemote c.pa) && inRegion s (homePa s c.pa))).foldl (fun s c => patrolLine s (homePa s c.pa)) s

/-! ### The accesses of the die's own units (R336) -/

/-- R171: the class and the deadline stamp of a request (0 is no deadline). -/
def serviceOf (s : State) (asid : Nat) (svc : Fin 4) : Nat × Nat :=
  let r := ctxRec s asid
  let c := max svc.val (ctxMinCls r)
  (c, if ctxDeadline r c = 0 then 0 else s.now + 10 * ctxDeadline r c)

/-- R339: the number under which the units ask that R339 gives none; no counter of theirs can be read (DEDUCED, log 99). -/
def ownUnit : Nat := 68

/-- R339: the number of the migration engine. -/
def skinkUnit : Nat := 64

/-- R336: a fetch, a walk, or an access of a record, a ring or an area: a request for each line, of class 3 and with the
deadline of its context, if it has one (DEDUCED, log 99). R352 does not count it. -/
def ownAsk (s : State) (who : Nat) (asid : Option Nat) (cs : List Cell) : State :=
  let sv := (asid.map (fun a => serviceOf s a 3)).getD (3, 0)
  (lineHeads cs).foldl (fun s c =>
    match placeOf s (homePa s c.pa) with
    | some p => if p.tier = 3 ∨ isRemote c.pa then s else askChannel s p (c.serve who sv)
    | none => s) s

/-- R336, R359: the same for a read; the bytes that the next read finds poisoned are free anew (log 6). -/
def ownRead (s : State) (who : Nat) (asid : Option Nat) (cs : List Cell) : State :=
  ownAsk { meetDest s cs with free := if cs.isEmpty then s.free else s.free + 1 } who asid cs

/-- Bytes that a unit writes at home through some cells. A stack in self-refresh takes the write at its place and completes
it at its exit, before which no read of it completes (R342; DEDUCED, log 109). -/
def ownWrite (s : State) (who : Nat) (asid : Option Nat) (xs : List StCell) : State :=
  writeHome (ownAsk s who asid (xs.map (·.cell))) false xs

/-- A cell of each line of an area. -/
def physLines (pa n : Nat) : List Cell :=
  if n = 0 then [] else (List.range ((pa + n - 1) / 128 - pa / 128 + 1)).map (fun i => physCell (max pa (128 * (pa / 128 + i))))

/-- Bytes written whole at a local physical address in plain text. -/
def writePhys (s : State) (who : Nat) (asid : Option Nat) (pa : Nat) (bs : List Byte) : State :=
  writeHome (ownAsk s who asid (physLines pa bs.length)) false ((placed pa bs).map (fun p => ⟨physCell p.1, p.2, 0xFF⟩))

/-- R342: whether an area reaches a stack in self-refresh. -/
def areaAsleep (s : State) (pa n : Nat) : Bool :=
  !s.selfRefresh.isEmpty && (physLines pa n).any (fun c => readAsleep s c.pa)

/-- One access for each line. -/
def touchLines (s : State) (cs : List Cell) : State := (lineHeads cs).foldl touch s

/-- R352, R359: one read for each line. -/
def readLines (s : State) (cs : List Cell) : State := touchLines (meetDest s cs) cs

/-! ### L1 (R239, R254) -/

/-- R254: the aligned 16-byte unit of an address. -/
def unitOf (pa : Nat) : Nat := pa / 16

/-- The bytes of the unit that holds a byte. -/
def unitAround (x : Cell) : List Cell :=
  (List.range 16).map (fun i => { x with pa := 16 * unitOf x.pa + i, va := x.va - x.pa % 16 + i })

/-- The clean byte that a core's L1 holds for a block; of a poisoned page it serves none (R360). -/
def l1Find (c : CoreSt) (blk : Nat) (x : Cell) : Option Byte :=
  if x.poi then none
  else (c.l1.find? (fun e => e.pa == x.pa && e.view == x.view && (e.owner == 0 || e.owner == blk))).map (·.val)

/-- Whether a core's L1 holds bytes of a byte's unit. -/
def l1Holds (c : CoreSt) (x : Cell) : Bool := c.l1.any (fun e => unitOf e.pa == unitOf x.pa && e.view == x.view)

/-- A byte made clean in a core's L1. -/
def l1Put (c : CoreSt) (owner : Nat) (x : Cell) (b : Byte) : CoreSt :=
  { c with l1 := ⟨x.pa, x.view, b, x.drop, owner⟩ :: c.l1.filter (fun e => !(e.pa == x.pa && e.view == x.view)) }

/-- Whether a line of a core's L1 serves another block alone. -/
def l1Foreign (c : CoreSt) (blk line : Nat) : Bool :=
  c.l1.any (fun e => lineOf e.pa == line && e.owner != 0 && e.owner != blk)

/-- The block that a line of a core's L1 serves, 0 for all. -/
def l1Owner (c : CoreSt) (line : Nat) : Nat := ((c.l1.find? (fun e => lineOf e.pa == line)).map (·.owner)).getD 0

/-- Whether an operation writes its location. -/
def aopWrites : Aop → Bool
  | .ld => false
  | _ => true

/-- R239: the atomics that have left a core and are to be performed outside it. -/
def leftAtoms (s : State) (core : Nat) : List AtomReq :=
  (s.gangs.filter (fun g => g.core == core)).flatMap (fun g => g.relq.filterMap (fun h => match h.eff with
    | .atom a => if a.left && aopWrites a.aop then some a else none
    | _ => none))

/-- The cells of the locations that an atomic has still to write at a home. -/
def AtomReq.places (a : AtomReq) : List Cell := (a.lanes.filter (fun l => !l.done && !l.core)).flatMap (·.cells)

/-- R239: whether a unit holds a location that an atomic which has left the core will write: no fill of it is kept. -/
def unitTaken (s : State) (core : Nat) (x : Cell) : Bool :=
  (leftAtoms s core).any (fun a => a.places.any (fun c => unitOf c.pa == unitOf x.pa))

/-- A whole unit made clean in a core's L1, unless it holds bytes of it already, or the line serves another block. -/
def l1Keep (s : State) (core blk : Nat) (bs : List (Cell × Byte)) : State :=
  match bs.head? with
  | none => s
  | some x =>
    let c := s.core core
    if l1Holds c x.1 || unitTaken s core x.1 || l1Foreign c blk (lineOf x.1.pa) then s
    else s.modCore core (fun c =>
      let o := l1Owner c (lineOf x.1.pa)
      bs.foldl (fun c p => l1Put c o p.1 p.2) c)

/-- The fill of a line for a block: the units that the L1 does not hold yet, as home has them; poisoned data is never kept
(R360). -/
def l1Fill (s : State) (core blk : Nat) (x : Cell) : State :=
  if inWindow (homePa s x.pa) then s
  else (List.range 8).foldl (fun t k =>
    let ys := unitAround { x with pa := 128 * lineOf x.pa + 16 * k }
    if ys.any (fun y => (readHome s y).2) then t
    else l1Keep t core blk (ys.map (fun y => (y, (readHome s y).1)))) s

/-- R211, R239: committed bits laid over the byte that a core's L1 holds, if it does; where the home has it poisoned, its
unit leaves the L1 (R360). -/
def l1Lay (s : State) (core : Nat) (x : Cell) (val mask : Byte) : State :=
  s.modCore core (fun c =>
    if !(isRemote x.pa) && poisoned s x then { c with l1 := c.l1.filter (fun e => !(unitOf e.pa == unitOf x.pa && e.view == x.view)) }
    else { c with l1 := c.l1.map (fun e =>
      if e.pa = x.pa ∧ e.view = x.view then { e with val := maskByte e.val val mask } else e) })

/-- R211: a block's store marks the line, if present; a line that serves another block alone is evicted. -/
def l1Own (s : State) (core blk line : Nat) : State :=
  s.modCore core (fun c =>
    if l1Foreign c blk line then { c with l1 := c.l1.filter (fun e => lineOf e.pa != line) }
    else { c with l1 := c.l1.map (fun e => if lineOf e.pa = line then { e with owner := blk } else e) })

/-- Clean bytes dropped from a core's L1. -/
def l1Drop (s : State) (core : Nat) (p : L1Cell → Bool) : State :=
  s.modCore core (fun c => { c with l1 := c.l1.filter (fun e => !p e) })

/-- A load in flight whose fill will not be kept. -/
def Outst.noKeep (o : Outst) : Outst :=
  match o.kind with
  | .load r => { o with kind := .load { r with noKeep := true } }
  | _ => o

/-- R239: what `ACQ` drops: clean bytes of pages shared beyond the core; fills under way are not kept. -/
def acquire (s : State) (core : Nat) : State :=
  let s1 := l1Drop s core (fun e => e.drop)
  { s1 with gangs := s1.gangs.map (fun g => if g.core = core then { g with out := g.out.map Outst.noKeep } else g) }

/-! ### Store buffers (R237, R238) -/

/-- The tags of a commit's remote writes that are not yet answered (R400). -/
def Commit.tags (c : Commit) : List Nat := c.sent.map (·.1)

/-- The block's entries in the order of the modification they will make: commits under way, what they have sent to other
packages among it until it is acknowledged (R240), then uncommitted ones. -/
def Block.layers (b : Block) : List SbCell :=
  b.pipeline.flatMap (fun c => c.sent.flatMap (·.2) ++ c.units.flatMap (fun u => u.cells)) ++ b.sb

/-- Whether an entry is for the byte and from the core. -/
def SbCell.at (e : SbCell) (core : Nat) (x : Cell) : Bool := e.core == core && e.cell.pa == x.pa && e.cell.view == x.view

/-- R238 step 1: the bits of the byte that the block has stored from the core. -/
def sbMask (b : Block) (core : Nat) (x : Cell) : Byte :=
  b.layers.foldl (fun m e => if e.at core x then m ||| e.mask else m) 0

/-- R238 step 1: those bits laid over a byte. -/
def sbOver (b : Block) (core : Nat) (x : Cell) (old : Byte) : Byte :=
  b.layers.foldl (fun y e => if e.at core x then maskByte y e.val e.mask else y) old

/-- R238: a byte as a load of the block on the core reads it now, and whether it is poisoned. -/
def loadByte (s : State) (b : Block) (core : Nat) (x : Cell) : Byte × Bool :=
  let pos := b.posOf core
  if sbMask b pos x = 0xFF then (sbOver b pos x 0, false)
  else
    match l1Find (s.core core) b.uid x with
    | some y => (sbOver b pos x y, false)
    | none =>
      let y := readHome s x
      (sbOver b pos x y.1, y.2)

/-- Whether a load of the byte has to go to its home. -/
def needsHome (s : State) (b : Block) (core : Nat) (x : Cell) : Bool :=
  sbMask b (b.posOf core) x != 0xFF && (l1Find (s.core core) b.uid x).isNone

/-- The units of the entries that hold bits which a cell replaces, whatever core they came from. -/
def sbHit (sb : List SbCell) (e : SbCell) : List Nat :=
  (sb.filter (fun x => x.cell.pa == e.cell.pa && x.cell.view == e.cell.view && x.mask &&& e.mask != 0#8)).map (·.unit)

/-- A cell joins the buffer: it replaces the same bits of an earlier store from its core (R237). Units that share bits
become visible together, for each of them is visible whole; so a tile takes a later store to its bytes into its own step
(R216, R254, R256). -/
def sbAdd (buf : List SbCell × List SbTile) (e : SbCell) : List SbCell × List SbTile :=
  let hit := sbHit buf.1 e
  let kept := buf.1.filterMap (fun x =>
    let y := if hit.contains x.unit then { x with unit := e.unit } else x
    if x.at e.core e.cell then
      (if x.mask &&& ~~~e.mask = 0#8 then none else some { y with mask := x.mask &&& ~~~e.mask })
    else some y)
  (kept ++ [e], buf.2.map (fun t => if hit.contains t.unit then { t with unit := e.unit } else t))

/-- R244: the distinct bytes that the block's uncommitted entries hold, `SCAD` entries apart. -/
def sbBytes (sb : List SbCell) : Nat :=
  (sb.foldl (fun (l : List (Nat × Nat)) e =>
    if l.contains (e.cell.pa, e.cell.view) then l else (e.cell.pa, e.cell.view) :: l) []).length

/-- R242: the entries as the units that become visible whole. -/
def sbUnits (sb : List SbCell) (tiles : List SbTile) : List CommitUnit :=
  ((sb.map (·.unit)).eraseDups).map (fun u =>
    ⟨sb.filter (fun e => e.unit == u), ((tiles.filter (fun t => t.unit == u)).map (·.ver)).eraseDups⟩)

/-- The bytes that a unit leaves at home: of the stores to a bit, the one accepted last. -/
def settled (cells : List SbCell) : List SbCell :=
  cells.foldl (fun l e =>
    match l.find? (fun x => x.cell.pa == e.cell.pa && x.cell.view == e.cell.view) with
    | none => l ++ [e]
    | some x =>
      l.map (fun y => if y.cell.pa = x.cell.pa ∧ y.cell.view = x.cell.view then
        { y with val := maskByte y.val e.val e.mask, mask := y.mask ||| e.mask } else y)) []

/-- R360: the sectors whose every bit the cells write. -/
def fullSectors (sb : List SbCell) : List Nat :=
  let ss := (sb.map (fun e => sectorOf e.cell.pa)).eraseDups
  let cells := settled sb
  ss.filter (fun x => (List.range 32).all (fun i => cells.any (fun e => e.cell.pa == 32 * x + i && e.mask == 0xFF)))

/-- R243: whether a block is replayable: it has not committed, and no commit of it is under way. -/
def Block.replayable (b : Block) : Bool := b.commits == 0 && b.pipeline.isEmpty

/-- R241: A BLOCK HAS COMMITTED by the word at `pc`: the commit counts; the block's launches are final from its first one
(R323). -/
def countCommit (s : State) (b : Nat) (pc : W64) : State :=
  State.modBlock { s with
    launches := s.launches.map (fun l => if l.provisional = some b then { l with provisional := none } else l) } b
    (fun b => { b with commits := b.commits + 1, lastPc := pc })

/-- R241: whether a commit counts only when it is complete: that of a `PUB` or `PHASE`. -/
def CommitFor.countsLast : CommitFor → Bool
  | .pub .. | .phase .. => true
  | _ => false

/-- R242: THE ENTRIES OF A COMMIT leave the buffer for the pipeline: all it holds, stores into the contribution slot
apart. -/
def takeCommit (s : State) (b : Nat) (pc : W64) (who : CommitFor) (contribToo : Bool) : State :=
  let scads := ((s.block? b).map (·.scads)).getD []
  State.modBlock { s with
    gaths := s.gaths.map (fun g => if scads.contains g.id then { g with sent := true } else g) } b (fun b =>
    let take := b.sb.filter (fun e => contribToo || !e.contrib)
    let keep := b.sb.filter (fun e => !(contribToo || !e.contrib))
    let ids := take.map (·.unit)
    { b with
      sb := keep
      sbTiles := b.sbTiles.filter (fun t => !(ids.contains t.unit))
      scads := []
      pipeline := b.pipeline ++ [⟨b.nextUnit, pc, false, sbUnits take b.sbTiles, fullSectors take, who, [], b.scads⟩]
      nextUnit := b.nextUnit + 1 })

/-- R242: A COMMIT of a block begins; it counts now, or on its completion (R241). -/
def commitBlock (s : State) (b : Nat) (pc : W64) (who : CommitFor) (contribToo : Bool) : State :=
  let s1 := takeCommit s b pc who contribToo
  if who.countsLast then s1 else countCommit s1 b pc

end Sys2Proof.Machine
end

