-- ==== Sys2Proof/Machine/Trans.lean ====
section
/-! DEFINITION. Machine/Trans.lean: page walks (R343 to R346), the checks of an access (R175), remote leaves (R398,
R399), and what an access then knows of its bytes.
-/
namespace Sys2Proof.Machine

/-! ### Entries (R345) -/

/-- R345: V. -/
def entV (e : BitVec 128) : Bool := e.getLsbD 0
/-- R345: LEAF. -/
def entLeaf (e : BitVec 128) : Bool := e.getLsbD 1
/-- R345: ADDR, as a byte address. -/
def entAddr (e : BitVec 128) : Nat := bitsOf e.toNat 55 9 * 512
/-- R345: R. -/
def entR (e : BitVec 128) : Bool := e.getLsbD 82
/-- R345: W. -/
def entW (e : BitVec 128) : Bool := e.getLsbD 83
/-- R345: X. -/
def entX (e : BitVec 128) : Bool := e.getLsbD 84
/-- R345: PINS. -/
def entPins (e : BitVec 128) : Bool := e.getLsbD 85
/-- R345: ENC. -/
def entEnc (e : BitVec 128) : Bool := e.getLsbD 86
/-- R345: BLK. -/
def entBlk (e : BitVec 128) : Nat := bitsOf e.toNat 88 87
/-- R345: FMT. -/
def entFmt (e : BitVec 128) : Nat := bitsOf e.toNat 92 89
/-- R345: SCOPE. -/
def entScope (e : BitVec 128) : Nat := bitsOf e.toNat 95 93
/-- R345: POI. -/
def entPoi (e : BitVec 128) : Bool := e.getLsbD 117
/-- R345: MST; 3 reads as 0. -/
def entMst (e : BitVec 128) : Nat := if bitsOf e.toNat 119 118 = 3 then 0 else bitsOf e.toNat 119 118

/-- R345: the reserved bits of a leaf are zero. -/
def leafRsvZero (e : BitVec 128) : Bool :=
  bitsOf e.toNat 116 96 == 0 && bitsOf e.toNat 81 64 == 0 && bitsOf e.toNat 63 56 == 0 && bitsOf e.toNat 8 2 == 0

/-- R345: the reserved bits of a non-leaf entry are zero. -/
def nodeRsvZero (e : BitVec 128) : Bool :=
  bitsOf e.toNat 127 56 == 0 && bitsOf e.toNat 8 2 == 0

/-- The package of a global physical address (R8). -/
def globalAcc (a : Nat) : Nat := bitsOf a 55 46

/-- The local address of a global physical address (R8). -/
def globalLocal (a : Nat) : Nat := a % 2 ^ 46

/-! ### The walk (R344, R346) -/

/-- A leaf that a walk has found: where it stands, its value, the page's first address and size. -/
structure Leaf where
  leafPa : Nat
  entry : BitVec 128
  base : Nat
  size : Nat
  deriving DecidableEq, Repr

/-- R344: a level: its number, the lowest index bit, the index width, the page size of a leaf. -/
structure Level where
  num : Nat
  lo : Nat
  width : Nat
  deriving DecidableEq, Repr

/-- R344: the levels, top first. -/
def levels : List Level := [⟨4, 48, 9⟩, ⟨3, 39, 9⟩, ⟨2, 30, 9⟩, ⟨1, 21, 9⟩, ⟨0, 16, 5⟩]

/-- R406: the request aperture, which no leaf may map. -/
def apertureBase : Nat := 0x300008000000

/-- R346: a leaf's address: populated here, or another package's address zero on a `pod` page; the register window only
as a plain 64 KiB page. -/
def leafAddrOk (s : State) (e : BitVec 128) (size : Nat) : Bool :=
  let a := entAddr e
  let l := globalLocal a
  if globalAcc a = accelId s then
    a % size == 0 && rangeIn s l size 3 && (decide (l < windowBase) || (size == 2 ^ 16 && !entEnc e)) &&
      !(decide (apertureBase ≤ l ∧ l < apertureBase + 2 ^ 24))
  else entScope e == 4 && l == 0

/-- R346: a table's address: in this package's HBM4E or LPDDR 6, aligned to its size. -/
def tableOk (s : State) (a width : Nat) : Bool :=
  globalAcc a == accelId s && a % (16 * 2 ^ width) == 0 && rangeIn s (globalLocal a) (16 * 2 ^ width) 1

/-- The walk from a table down. -/
def walkFrom (s : State) (va : Nat) (table : Nat) : List Level → Option Leaf
  | [] => none
  | l :: rest =>
    if tableOk s table l.width then
      let pa := globalLocal table + 16 * (va / 2 ^ l.lo % 2 ^ l.width)
      let e : BitVec 128 := BitVec.ofNat 128 (physWord s pa 16)
      if !entV e then none
      else if l.num = 0 ∨ entLeaf e then
        if l.num ≥ 3 ∨ !leafRsvZero e ∨ !leafAddrOk s e (2 ^ l.lo) then none
        else some ⟨pa, e, va / 2 ^ l.lo * 2 ^ l.lo, 2 ^ l.lo⟩
      else if nodeRsvZero e then walkFrom s va (entAddr e) rest
      else none
    else none

/-- R344: the addresses of the entries that a walk from a table down reads. -/
def walkPath (s : State) (va : Nat) (table : Nat) : List Level → List Nat
  | [] => []
  | l :: rest =>
    if tableOk s table l.width then
      let pa := globalLocal table + 16 * (va / 2 ^ l.lo % 2 ^ l.width)
      let e : BitVec 128 := BitVec.ofNat 128 (physWord s pa 16)
      pa :: (if entV e && l.num != 0 && !entLeaf e && nodeRsvZero e then walkPath s va (entAddr e) rest else [])
    else []

/-- R344: the cells that a walk of an address in a context reads. -/
def walkReads (s : State) (asid va : Nat) : List Cell :=
  let root := (tabGet 0 s.roots asid).toNat
  if va ≥ 2 ^ 57 ∨ bitsOf root 0 0 = 0 ∨ (tabGet KeySt.reset s.keys asid).kst ≥ 2 then []
  else (walkPath s va (bitsOf root 55 13 * 8192) levels).flatMap (fun pa => physCells pa 16)

/-- R342: whether a walk meets a stack in self-refresh, for whose exit it waits. -/
def walkAsleep (s : State) (asid va : Nat) : Bool :=
  !s.selfRefresh.isEmpty && (walkReads s asid va).any (fun c => readAsleep s c.pa)

/-- R346: the leaf that stands in a context's tables for an address, whatever it permits. -/
def presentLeaf (s : State) (asid va : Nat) : Option Leaf :=
  let root := (tabGet 0 s.roots asid).toNat
  if va ≥ 2 ^ 57 ∨ bitsOf root 0 0 = 0 then none else walkFrom s va (bitsOf root 55 13 * 8192) levels

/-- R346, R369: the walk of an address: the leaf, or the cause of the fault. -/
def walk (s : State) (asid va : Nat) : Except Nat Leaf :=
  let root := (tabGet 0 s.roots asid).toNat
  let kst := (tabGet KeySt.reset s.keys asid).kst
  if kst ≥ 2 then .error 0x16
  else if bitsOf root 0 0 = 0 then .error 0x10
  else match walkFrom s va (bitsOf root 55 13 * 8192) levels with
    | none => .error 0x10
    | some l => if entEnc l.entry ∧ kst ≠ 1 then .error 0x16 else .ok l

/-- R175: the entry of a core's TLB for an address. -/
def tlbFind (s : State) (core asid va : Nat) : Option Leaf :=
  ((s.core core).tlb.find? (fun e => e.asid == asid && decide (e.base ≤ va ∧ va < e.base + e.size))).map
    (fun e => ⟨e.leafPa, e.entry, e.base, e.size⟩)

/-- R336: the requests of the walks of some addresses by a unit; of a core through its TLB, those apart for which it has an
entry. -/
def askWalks (s : State) (who : Nat) (tlb : Bool) (asid : Nat) (vas : List Nat) : State :=
  let miss := vas.filter (fun va => !(tlb && (tlbFind s who asid va).isSome))
  ownRead s who (some asid) ((miss.map (· / 2 ^ 16)).eraseDups.flatMap (fun p => walkReads s asid (p * 2 ^ 16)))

/-- R175: the leaf by which a core translates: a TLB entry, or a walk. -/
def lookup (s : State) (core asid va : Nat) : Except Nat Leaf :=
  match tlbFind s core asid va with
  | some l => .ok l
  | none => walk s asid va

/-! ### The checks of an access (R175) -/

/-- What an access is for. -/
inductive Access where
  | read | write | fetch
  deriving DecidableEq, Repr

/-- R179: DETAIL of a protection fault. -/
def Access.detail : Access → Nat
  | .read => 0
  | .write => 1
  | .fetch => 2

/-- R175: whether a permission set allows the access. -/
def Access.allowed (a : Access) (r w x : Bool) : Bool :=
  match a with
  | .read => r
  | .write => w
  | .fetch => x

/-- What an access knows of its first byte and of its page. -/
structure Xl where
  cell : Cell
  fmt : Nat
  blk : Nat
  scope : Nat
  base : Nat
  size : Nat
  deriving DecidableEq, Repr

/-- The outcome of a translation: the place, a fault at issue, a fault found after issue (R177, R403), or a wait for a
remote translation (R399) or, under this package's own number, for a stack in self-refresh (R342). -/
inductive XRes where
  | ok (x : Xl)
  | fault (cause detail : Nat)
  | late (cause detail : Nat)
  | wait (target page : Nat)
  deriving DecidableEq, Repr

/-- The view of a page (R367). -/
def pageView (s : State) (asid : Nat) (e : BitVec 128) : Nat :=
  if entEnc e then (tabGet KeySt.reset s.keys asid).num else 0

/-- The place of a byte under a local leaf; a stale leaf of a page that has moved names the place it has moved to
(R357). -/
def cellOf (s : State) (asid va : Nat) (l : Leaf) : Cell :=
  { pa := mappedPa s l.leafPa (globalLocal (entAddr l.entry) + (va - l.base)), view := pageView s asid l.entry, drop := entScope l.entry != 0,
    poi := entPoi l.entry, leaf := some l.leafPa, asid := asid, va := va, who := 0, cls := 3, stamp := 0, lg := l.size.log2 }

/-- R175, R399: the rest of a translation whose leaf names another package. -/
def remoteXlate (s : State) (asid va : Nat) (acc : Access) (elem : Bool) (l : Leaf) : XRes :=
  let target := globalAcc (entAddr l.entry)
  let page := va / 2 ^ 16
  if !(s.fabid.getLsbD 10) then .late 0x52 16
  else match s.rtc.find? (fun r => r.asid == asid && r.page == page && r.target == target) with
    | none => .wait target page
    | some r =>
      if r.cause ≠ 0 then .late r.cause r.detail
      else if !(acc.allowed r.r r.w r.x) then .late 0x51 0x11
      else if elem && !(elemPage r.fmt r.blk) then .late 0x51 0x14
      else .ok ⟨⟨remoteAddr target asid va, 0, true, false, some l.leafPa, asid, va, 0, 3, 0, l.size.log2⟩, r.fmt, r.blk, 4, l.base, l.size⟩

/-- R175: the checks in order, and the place. -/
def checkLeaf (s : State) (asid va : Nat) (acc : Access) (elem : Bool) (l : Leaf) : XRes :=
  let e := l.entry
  if acc ≠ .fetch ∧ entScope e ≥ 5 then .fault 0x15 (entScope e)
  else if !(acc.allowed (entR e) (entW e) (entX e)) then .fault 0x11 acc.detail
  else if globalAcc (entAddr e) ≠ accelId s then remoteXlate s asid va acc elem l
  else if elem && !(elemPage (entFmt e) (entBlk e)) then .fault 0x14 (entFmt e + 16 * entBlk e)
  else .ok ⟨cellOf s asid va l, entFmt e, entBlk e, entScope e, l.base, l.size⟩

/-- R179: the fault of a walk that found no usable leaf. -/
def walkFault (acc : Access) (cause : Nat) : XRes := .fault cause (if cause = 0x10 ∧ acc = .fetch then 2 else 0)

/-- R161, R175: an address translated by a walk, as an engine or the Cistern does (R234, R319). A walk that reaches a stack
in self-refresh waits for its exit (R342). -/
def xlateWalk (s : State) (asid va : Nat) (acc : Access) (elem : Bool) : XRes :=
  if va ≥ 2 ^ 57 then .fault 0x12 0
  else if walkAsleep s asid va then .wait (accelId s) (va / 2 ^ 16)
  else match walk s asid va with
    | .error c => walkFault acc c
    | .ok l => checkLeaf s asid va acc elem l

/-- R161, R175: an address translated for an access of a core: by an entry of its TLB, else by a walk. -/
def xlate (s : State) (core asid va : Nat) (acc : Access) (elem : Bool) : XRes :=
  if va ≥ 2 ^ 57 then .fault 0x12 0
  else match tlbFind s core asid va with
    | some l => checkLeaf s asid va acc elem l
    | none => xlateWalk s asid va acc elem

/-- The cells of `n` bytes from a translated one, within its page. -/
def Xl.cells (x : Xl) (n : Nat) : List Cell :=
  (List.range n).map (fun i => { x.cell with pa := x.cell.pa + i, va := x.cell.va + i })

/-! ### Remote translations (R399) -/

/-- The remote requests of this package that already ask for a page. -/
def transPending (s : State) (asid page target : Nat) : Bool :=
  s.remOut.any (fun r => match r.kind with
    | .trans _ a v t => a == asid && v / 2 ^ 16 == page && t == target
    | _ => false)

/-- Whether an outstanding request has a number. -/
def tagUsed (s : State) (t : Nat) : Bool := s.remOut.any (fun r => r.tag == t)

/-- R401: a tag that none of the outstanding requests has, if one is left. -/
def freeTag (s : State) : Option Nat :=
  ((List.range (min (2 ^ 16) (s.remOut.length + 1))).map (fun i => (s.nextTag + i) % 2 ^ 16)).find? (fun t => !(tagUsed s t))

/-- R401: the number of a new request: a free tag; with all in use one above them, under which it waits for a tag. -/
def freshTag (s : State) : Nat :=
  (freeTag s).getD (((List.range (s.remOut.length + 1)).map (2 ^ 16 + ·)).find? (fun t => !(tagUsed s t)) |>.getD (2 ^ 16))

/-- R401: whether a request has its tag and has been sent. -/
def RemOut.hasTag (r : RemOut) : Bool := decide (r.tag < 2 ^ 16)

/-- R397: the station of a request that could not be sent because the fabric was off; it ends with this DETAIL. -/
def noStation : Nat := 16

/-- R207, R392: whether a station is there: the configuration record may disable it. -/
def stationUp (s : State) (i : Nat) : Bool := s.stations.getLsbD i

/-- R397: the station on which a request leaves first: the lowest usable one (DESIGN CHOICE, log 110); none while the fabric is
off. -/
def firstStation (s : State) : Nat :=
  if s.fabid.getLsbD 10 then ((List.range 16).find? (stationUp s)).getD noStation else noStation

/-- R397, R401: a request sent on the fabric; while the fabric is off it goes nowhere. -/
def sendRemote (s : State) (kind : RemKind) (target asid : Nat) : State × Nat :=
  let t := freshTag s
  ({ s with
      remOut := s.remOut ++ [⟨t, kind, target, asid, firstStation s, s.now, s.now, false⟩]
      nextTag := (t + 1) % 2 ^ 16 }, t)

/-- R399: a translation request for each page that an access waits for, asked once; none for a page whose walk waits here
(R342). -/
def askTrans (s : State) (core asid : Nat) (waits : List (Nat × Nat)) : State :=
  waits.foldl (fun s p =>
    if p.1 = accelId s ∨ transPending s asid p.2 p.1 then s
    else (sendRemote s (.trans core asid (p.2 * 2 ^ 16) p.1) p.1 asid).1) s

/-- The failed translations of a page are used up by the access that met them. -/
def forgetFailed (s : State) (asid : Nat) : State :=
  { s with rtc := s.rtc.filter (fun r => !(r.cause != 0 && r.asid == asid)) }

/-! ### Reads that engines and records make at home (R232, R255) -/

/-- A byte at home, or a free value where another package holds it. -/
def readAny (s : State) (c : Cell) : Byte × Bool :=
  if isRemote c.pa then (Config.remoteByte s.free c.pa, false) else readHome s c

/-- The cells of `n` bytes of virtual memory for a reader that walks the directory itself; the first fault with its
address otherwise. -/
def virtCells (xl : Nat → XRes) (va n : Nat) : Except (XRes × Nat) (List Cell) :=
  (List.range n).foldlM (fun acc i =>
    let a := (va + i) % 2 ^ 64
    match acc.getLast? with
    | some c =>
      if a % 2 ^ 16 ≠ 0 then .ok (acc ++ [{ c with pa := c.pa + 1, va := a }])
      else match xl a with
        | .ok x => .ok (acc ++ [x.cell])
        | r => .error (r, a)
    | none =>
      match xl a with
      | .ok x => .ok [x.cell]
      | r => .error (r, a)) []

/-- Bytes at home through cells, for a reader for which the spec names no treatment of poisoned data. -/
def readCells (s : State) (cs : List Cell) : List Byte := cs.map (fun c => plainByte s c (readAny s c))

/-- R342: cells found, or a wait where one lies on a stack in self-refresh. -/
def awake (s : State) (r : Except (XRes × Nat) (List Cell)) : Except (XRes × Nat) (List Cell) :=
  r.bind (fun cs =>
    match cs.find? (fun c => readAsleep s c.pa) with
    | some c => .error (.wait (accelId s) (c.va / 2 ^ 16), c.va)
    | none => .ok cs)

/-! ### The page word (R365) -/

/-- R365: SIZE. -/
def sizeCode (n : Nat) : Nat := if n = 2 ^ 16 then 0 else if n = 2 ^ 21 then 1 else 2

/-- A bit as a number. -/
def bitNat (b : Bool) : Nat := if b then 1 else 0

/-- R365: the page word of a leaf that a core translates with; MST comes from the motion table and the entry as it stands
(R354, R359). -/
def pageWord (s : State) (l : Leaf) : Nat :=
  let e := l.entry
  let here := globalAcc (entAddr e) == accelId s
  let m := if here then s.motions.find? (fun m => m.holds (globalLocal (entAddr e))) else none
  let mst := entMst (BitVec.ofNat 128 (physWord s l.leafPa 16))
  let home := placeOf s (m.elim (globalLocal (entAddr e)) (·.src))
  let dest := m.bind (fun m => placeOf s m.dst)
  (tabGet 0 s.hot l.leafPa) % 2 ^ 8 * 2 ^ 56 + (m.elim 0 (·.mark)) % 2 ^ 14 * 2 ^ 42 + (dest.elim 0 (·.tier)) % 4 * 2 ^ 40 +
    (dest.elim 0 (·.dom)) % 2 * 2 ^ 39 + (if here then (home.elim 0 (·.tier)) % 4 * 2 ^ 37 + (home.elim 0 (·.dom)) % 2 * 2 ^ 36
      else 2 ^ 35) + sizeCode l.size * 2 ^ 33 +
    (if m.isSome then 1 else if mst = 2 then 2 else 0) * 2 ^ 31 + bitNat (entPoi e) * 2 ^ 30 + bitNat (entPins e) * 2 ^ 29 +
    bitNat (entEnc e) * 2 ^ 28 + entScope e * 2 ^ 25 + entFmt e * 2 ^ 21 + entBlk e * 2 ^ 19 + bitNat (entR e) * 2 ^ 18 +
    bitNat (entW e) * 2 ^ 17 + bitNat (entX e) * 2 ^ 16 + min 255 (tabGet 0 s.pins l.leafPa) * 2 ^ 8 + 1

/-- R365: the leaf that a page query finds. -/
def queryLeaf (s : State) (core asid va : Nat) : Option Leaf :=
  (tlbFind s core asid va).orElse (fun _ => presentLeaf s asid va)

/-- R342: whether a page query has to wait for a stack in self-refresh. -/
def queryAsleep (s : State) (core asid va : Nat) : Bool :=
  ((tlbFind s core asid va).isNone && walkAsleep s asid va) ||
    ((queryLeaf s core asid va).map (fun l => areaAsleep s l.leafPa 16)).getD false

/-- R365: what PGQ delivers for an address: 0 only where it is out of range or no entry is present. -/
def pageQuery (s : State) (core asid va : Nat) : Nat :=
  if va ≥ 2 ^ 57 then 0
  else ((queryLeaf s core asid va).map (pageWord s)).getD 0

end Sys2Proof.Machine
end

