-- ==== Sys2Proof/Machine/Shape.lean ====
section
/-! DEFINITION. Machine/Shape.lean: tensor shape records (R229 to R231) and the record cache (R232, R233).
-/
namespace Sys2Proof.Machine

/-- A record as one number (R14). -/
def shapeNat (bs : List Byte) : Nat := leValue bs

/-- R229: BASE. -/
def shBase (v : Nat) : Nat := bitsOf v 63 0
/-- R229: SCALES. -/
def shScales (v : Nat) : Nat := bitsOf v 127 64
/-- R229: DIM0 to DIM3. -/
def shDim (v i : Nat) : Nat := bitsOf v (159 + 32 * i) (128 + 32 * i)
/-- R229: STRIDE1 to STRIDE3, signed. -/
def shStride (v i : Nat) : Int := signExt (bitsOf v (319 + 64 * (i - 1)) (256 + 64 * (i - 1))) 64
/-- R229: EFMT. -/
def shFmt (v : Nat) : Nat := bitsOf v 451 448
/-- R229: EBLK. -/
def shBlk (v : Nat) : Nat := bitsOf v 453 452
/-- R229: DIST. -/
def shDist (v : Nat) : Bool := bitsOf v 456 456 == 1
/-- R229: CHUNK. -/
def shChunk (v : Nat) : Nat := bitsOf v 511 480
/-- R229: NPKG. -/
def shNpkg (v : Nat) : Nat := bitsOf v 516 512
/-- R229: an entry of PKG. -/
def shPkg (v i : Nat) : Nat := bitsOf v (553 + 10 * i) (544 + 10 * i)
/-- R229: DBASE0 and DBASE1. -/
def shDbase (v d : Nat) : Nat := bitsOf v (767 + 64 * d) (704 + 64 * d)

/-- R230: the number of elements. -/
def shCount (v : Nat) : Nat := shDim v 0 * shDim v 1 * shDim v 2 * shDim v 3

/-- The least of some offsets. -/
def leastOf (l : List (Bool × Nat)) : Option Nat :=
  (l.filter (·.1)).foldl (fun a p => match a with | none => some p.2 | some x => some (min x p.2)) none

/-- R230, R231: the offset of the lowest offending field of a record, read at address `va`; `map` says that the user
accepts a distributed record. -/
def shapeBad (va v : Nat) (map : Bool) : Option Nat :=
  let high := fun x => decide (x ≥ 2 ^ 57)
  leastOf [
    (va % 64 != 0, 0),
    (high (shBase v), 0),
    (high (shScales v), 8),
    (shBlk v != 0 && shScales v == 0, 8),
    (shDim v 0 == 0 || decide (shCount v > 2 ^ 32), 16),
    (blkSize (shBlk v) != 0 && shDim v 0 % blkSize (shBlk v) != 0, 16),
    (shDim v 1 == 0, 20),
    (shDim v 2 == 0 || (shDist v && shDim v 2 != 1), 24),
    (shDim v 3 == 0 || (shDist v && shDim v 3 != 1), 28),
    (shFmt v == 0 || shFmt v == 15, 56),
    (!(blkPermitted (shFmt v) (shBlk v)), 56),
    (bitsOf v 455 454 != 0, 56),
    (bitsOf v 479 457 != 0, 57),
    (shDist v && !map, 57),
    (if shDist v then shChunk v == 0 else shChunk v != 0, 60),
    (if shDist v then decide (shNpkg v < 1 ∨ 16 < shNpkg v) else shNpkg v != 0, 64),
    (bitsOf v 543 517 != 0, 64),
    (!shDist v && bitsOf v 703 544 != 0, 68),
    (high (shDbase v 0) || (!shDist v && shDbase v 0 != 0), 88),
    (high (shDbase v 1) || (!shDist v && shDbase v 1 != 0), 96),
    (bitsOf v 1535 832 != 0, 104)]

/-- R230: the bit address of element `j` in linear order. -/
def shapeBit (v : Nat) (j : Int) : Int :=
  let d0 : Int := shDim v 0
  let d1 : Int := shDim v 1
  let d2 : Int := shDim v 2
  let i0 := j % d0
  let i1 := j / d0 % d1
  let i2 := j / d0 / d1 % d2
  let i3 := j / d0 / d1 / d2
  8 * ((shBase v : Int) + i1 * shStride v 1 + i2 * shStride v 2 + i3 * shStride v 3) + i0 * (elemBits (shFmt v) : Int)

/-- R230: the address of the scale code of element `j`. -/
def shapeScale (v : Nat) (j : Int) : Nat := wrapInt ((shScales v : Int) + j / (blkSize (shBlk v) : Int)) 64

/-- R231: where row `r` of a distributed record lies: the index of its package in the list, the die, the address. -/
def shapeRow (v r : Nat) : Nat × Nat × Nat :=
  let c := shChunk v
  let q := r / c
  let die := q / shNpkg v % 2
  let l := q / (2 * shNpkg v) * c + r % c
  (q % shNpkg v, die, wrapInt ((shDbase v die : Int) + (l : Int) * shStride v 1) 64)

/-! ### The record cache (R232) -/

/-- R5: the entries of the record cache. -/
def recEntries : Nat := 64

/-- The cached record of an address. -/
def recFind (c : CoreSt) (asid va : Nat) : Option (List Byte) :=
  (c.recs.find? (fun e => e.asid == asid && e.addr == va)).map (·.bytes)

/-- A record enters the cache; the oldest entry makes room. -/
def recKeep (s : State) (core asid va : Nat) (bs : List Byte) : State :=
  s.modCore core (fun c =>
    match recFind c asid va with
    | some _ => c
    | none => { c with recs := (⟨asid, va, bs⟩ :: c.recs).take recEntries })

/-- The bytes of a record: from the cache, else whole at its home; the first fault with its address otherwise. A record of
which a byte comes uncorrectable is that to its user (R177, R227, R360), and one on a stack in self-refresh waits (R342). -/
def recRead (s : State) (core asid va : Nat) (xl : Nat → XRes) : Except (XRes × Nat) (List Byte) :=
  match recFind (s.core core) asid va with
  | some bs => .ok bs
  | none =>
    (awake s (virtCells xl va 192)).bind (fun cs =>
      match cs.find? (fun c => (readAny s c).2) with
      | some c => .error (.late 0x19 0, c.va)
      | none => .ok (readCells s cs))

/-- R342: whether the read of a record has to wait for a stack in self-refresh. -/
def recAsleep (s : State) (core asid va : Nat) (xl : Nat → XRes) : Bool :=
  !s.selfRefresh.isEmpty && (match recRead s core asid va xl with
    | .error (.wait t _, _) => t == accelId s
    | _ => false)

/-- R232, R336: the read of a record that the cache does not hold. -/
def recAsk (s : State) (core asid va : Nat) (xl : Nat → XRes) : State :=
  match recFind (s.core core) asid va, virtCells xl va 192 with
  | none, .ok cs => ownRead s core (some asid) cs
  | _, _ => s

/-- R233: what RECF drops. -/
def recDrop (s : State) (core asid : Nat) (va : Option Nat) : State :=
  s.modCore core (fun c => { c with recs := c.recs.filter (fun e =>
    !(e.asid == asid && (match va with | none => true | some a => e.addr == a / 64 * 64))) })

end Sys2Proof.Machine
end

