-- ==== Sys2Proof/Machine/LaneMem.lean ====
section
/-! DEFINITION. Machine/LaneMem.lean: the memory instructions of a thread (R160 to R174) at issue: addresses, checks,
the requests they leave outstanding or held.
-/
namespace Sys2Proof.Machine

/-! ### Addresses (R160) -/

/-- Whether an operand is per lane for R162. -/
def laneOpd (o : Opd) : Bool := opdPerLane o

/-- R163: an access size in bytes. -/
def sizeBytes : MSize → Nat
  | .n8 | .i8 => 1
  | .n16 | .i16 => 2
  | .b32 => 4
  | .b64 => 8
  | .b128 => 16

/-- R160: the index of a lane, before scaling. -/
def indexVal (c : Ctx) (lane : Nat) (o : Opd) : Int :=
  match o with
  | .none => 0
  | .v n => signExt ((c.g.regs.lane lane).getV n).toNat 32
  | o => signExt (c.src lane o true) 64

/-- R160: the address of a base and an offset. -/
def anchorVal (c : Ctx) (lane : Nat) (base : Opd) (wide : Bool) (off : BitVec 12) : Nat :=
  wrapInt ((c.src lane base wide : Int) + off.toInt) 64

/-- R160: the effective address. -/
def effAddr (c : Ctx) (lane : Nat) (f : MF) (wide : Bool) : Nat :=
  let i := indexVal c lane f.index
  wrapInt ((anchorVal c lane f.base wide f.off : Int) + (if f.sc then i * (sizeBytes f.size : Int) else i)) 64

/-- R162: who performs an access: the gang once, or each active lane. -/
def performers (s : State) (ops : List Opd) : List (Option Nat) :=
  if ops.any laneOpd then (lanesOf s.act).map some else if s.acts then [none] else []

/-- The lane whose operands an access reads. -/
def performLane (s : State) (p : Option Nat) : Nat := p.getD (lowestLane s.act)

/-- The lanes that a fault of an access parks (R162). -/
def faultLanesOf (s : State) (p : Option Nat) : LaneMask :=
  match p with
  | some l => laneBit l
  | none => s.cx.clutch &&& ~~~s.cx.parked

/-- R161: one access checked and translated. -/
def access (s : State) (g : Gang) (asid ea n : Nat) (acc : Access) : XRes :=
  if ea ≥ 2 ^ 57 then .fault 0x12 0
  else if ea % n ≠ 0 then .fault 0x13 n
  else xlate s g.core asid ea acc false

/-! ### What the lanes of a word come to -/

/-- A performer with what its access came to; `A` is what it will do. -/
structure Attempt (A : Type) where
  who : Option Nat
  addr : Nat
  res : Except XRes A

/-- The context of a gang's block. -/
def gangAsid (b : Option Block) : Nat := (b.map (·.asid)).getD 0

/-- The remote pages that some attempts wait for. -/
def waitsOf {A : Type} (l : List (Attempt A)) : List (Nat × Nat) :=
  l.filterMap (fun a => match a.res with | .error (.wait t p) => some (t, p) | _ => none)

/-- The lanes that fault at issue. -/
def issueFaults {A : Type} (s : State) (l : List (Attempt A)) : List LaneFault :=
  l.flatMap (fun a => match a.res with
    | .error (.fault c d) => (lanesOf (faultLanesOf s a.who)).map (fun i => ⟨i, c, d, BitVec.ofNat 64 a.addr⟩)
    | _ => [])

/-- R334: a block has met uncorrectable data. -/
def consume (s : State) (u : Nat) (c : Consumption) : State :=
  s.modBlock u (fun b => { b with consumption := b.consumption ++ [c] })

/-- R177, R334: lanes of a gang consume uncorrectable data at an address that a run's word met: they park at the next park
seam; the record is that of R334. -/
def consumeAt (s : State) (g : Gang) (run : Nat) (pc : W64) (addr : Nat) (lanes : LaneMask) : State :=
  let a : W64 := BitVec.ofNat 64 addr
  parkAtSeam (consume s g.block ⟨lanes, g.idx, pc, a, g.uid, run⟩) g.uid run (faultFor s g 0x19 0 pc a 0) lanes true

/-- R178: the virtual address of the first byte that came uncorrectable. -/
def poisonAddr (cs : List Cell) (bad : List Bool) : Nat := (((cs.zip bad).find? (·.2)).map (fun p => p.1.va)).getD 0

/-- The faults that are found after issue (R177, R403); cause 0x19 is uncorrectable data. -/
def lateFaults {A : Type} (s : State) (l : List (Attempt A)) : State :=
  l.foldl (fun s a => match a.res with
    | .error (.late c d) =>
      (match s.gang? s.cx.gang with
        | none => s
        | some g =>
          if c = 0x19 then consumeAt s g g.run s.cx.pc a.addr (faultLanesOf s a.who)
          else deferFault s g.uid g.run (faultFor s g c d s.cx.pc (BitVec.ofNat 64 a.addr) 0) (faultLanesOf s a.who))
    | _ => s) s

/-- The accesses that go ahead. -/
def goodOnes {A : Type} (l : List (Attempt A)) : List (Option Nat × A) :=
  l.filterMap (fun a => match a.res with | .ok x => some (a.who, x) | _ => none)

/-- The addresses for which some attempts came to a translation. -/
def walkedBy {A : Type} (l : List (Attempt A)) : List Nat :=
  l.filterMap (fun a => match a.res with
    | .error (.fault c _) => if c = 0x03 ∨ c = 0x12 ∨ c = 0x13 then none else some a.addr
    | _ => some a.addr)

/-- The core of the gang that issues a word. -/
def issuerCore (s : State) : Option Nat := (s.gang? s.cx.gang).map (·.core)

/-- R161, R175, R176: the common course of a global access: it stalls while a remote translation is under way;
otherwise its walks have been asked for (R336), the faulting lanes park, and `f` acts for the others. -/
def runAccess {A : Type} (s : State) (asid : Nat) (l : List (Attempt A)) (f : State → List (Option Nat × A) → State) : State :=
  if (waitsOf l).isEmpty then
    let s1 := takeFaults (askWalks s ((issuerCore s).getD 0) true asid (walkedBy l)) (issueFaults s l)
    f (forgetFailed (lateFaults s1 l) asid) (goodOnes l)
  else (askTrans s ((issuerCore s).getD 0) asid (waitsOf l)).stalled

/-- R36, R173: the port fault of a lane's data operand. -/
def dataPort (g : Gang) (o : Opd) (wide : Bool) (who : Option Nat) : Option XRes :=
  match who with
  | none => none
  | some l => (portFault (g.regs.lane l) o wide).map (fun d => .fault 0x03 d)

/-! ### Destinations of loads -/

/-- The registers that a result of a size names. -/
def loadDsts (o : Opd) (lane : Nat) (z : MSize) : List Dst :=
  let k := match z with | .b128 => 4 | .b64 => 2 | _ => 1
  match o with
  | .v n => (List.range k).map (fun i => .v lane (n + i))
  | .s n => if z = .b128 then [.s n, .s (n + 1)] else [.s n]
  | .c n => [.c n]
  | _ => []

/-- The element that a write port gives to a result at issue, its offset modulo P (R167). -/
def portElem (b : Option Block) (g : Gang) (o : Opd) (who : Option Nat) : List (Nat × Nat × Nat) :=
  match who, o with
  | some l, .wport n =>
    match (g.regs.lane l).port? (4 + n.val) with
    | some p => [(l, scratchMod b (portOff p), portSize p)]
    | none => []
  | _, _ => []

/-- R163 `Extend`: loaded bytes as a value of 32 or 64 bits or more. -/
def extendLoad (z : MSize) (bs : List Byte) : Nat :=
  let x := leValue bs
  match z with
  | .i8 => wrapInt (signExt x 8) 64
  | .i16 => wrapInt (signExt x 16) 64
  | _ => x

/-- R163: the effects of a loaded value. -/
def loadEffs (o : Opd) (lane : Nat) (ports : List (Nat × Nat × Nat)) (ord : Nat) (z : MSize) (bs : List Byte) : List Eff :=
  let x := extendLoad z bs
  let k := match z with | .b128 => 4 | .b64 => 2 | _ => 1
  match o with
  | .v n => (List.range k).map (fun i => .v lane (n + i) (BitVec.ofNat 32 (x / 2 ^ (32 * i))))
  | .s n =>
    if z = .b128 then [.s n (BitVec.ofNat 64 x), .s (n + 1) (BitVec.ofNat 64 (x / 2 ^ 64))] else [.s n (BitVec.ofNat 64 x)]
  | .c n => [.c n (BitVec.ofNat 64 x) ord]
  | .wport _ => ports.map (fun p => .loc (some p.1) (placed p.2.1 (leBytes p.2.2 x)))
  | _ => []

/-! ### LD and PREF -/

/-- Whether a data operand is 64 bits wide. -/
def sizeWide (z : MSize) : Bool := z == .b64

/-- R163: the attempts of a plain access. -/
def plainTries (s : State) (g : Gang) (f : MF) (ops : List Opd) (acc : Access) : List (Attempt (List Cell)) :=
  let c : Ctx := ⟨s, g, s.blockOf g⟩
  let asid := gangAsid c.b
  (performers s ops).map (fun p =>
    let ea := effAddr c (performLane s p) f true
    match dataPort g f.d (sizeWide f.size) p with
    | some r => { who := p, addr := 0, res := .error r }
    | none =>
      { who := p, addr := ea
        res := match access s g asid ea (sizeBytes f.size) acc with
          | .ok x => .ok (x.cells (sizeBytes f.size))
          | r => .error r })

/-- The loads of a word become outstanding, each reading later (R238). -/
def startLoads (s : State) (d : Opd) (fmt : LoadFmt) (z : MSize) (svc : Fin 4) (blocks : Bool)
    (l : List (Option Nat × List Cell)) : State :=
  l.foldl (fun s p => s.onIssuer (fun g =>
    let asid := gangAsid (s.blockOf g)
    let sv := serviceOf s asid svc
    let r : LoadReq :=
      { lane := p.1, cells := p.2.map (Cell.serve g.core sv), fmt := fmt, dst := d, got := none, poison := false, noKeep := false, stamp := sv.2,
        cls := sv.1, lanes := faultLanesOf s p.1, part := [], redo := false }
    let ports := portElem (s.blockOf g) g d p.1
    let g1 := (g.await s.cx.pc (.load r) (loadDsts d (performLane s p.1) z) [] false blocks).withPorts ports
    match p.1 with
    | some l => g1.advancePorts l ([d].filterMap opdPort)
    | none => g1)) s

/-- A word of the gang that issues it, with its block. -/
def issuing (s : State) (f : Gang → State) : State :=
  match s.gang? s.cx.gang with
  | none => s
  | some g => f g

/-- R163 LD. -/
def execLd (f : MF) (s : State) : Res :=
  .next (issuing s (fun g =>
    runAccess s (gangAsid (s.blockOf g)) (plainTries s g f [f.base, f.index, f.d] .read)
      (fun s l => startLoads s f.d (.raw f.size) f.size f.svc true l)))

/-- R172 PREF: a prefetch whose address or translation would fault is dropped; nothing waits for it. -/
def execPref (f : MF) (s : State) : Res :=
  .next (issuing s (fun g =>
    let l := plainTries s g f [f.base, f.index] .read
    startLoads (askWalks s g.core true (gangAsid (s.blockOf g)) (walkedBy l)) .none (.raw f.size) f.size f.svc false (goodOnes l)))

/-! ### ST -/

/-- R163: the register groups of a store's data, as bytes. -/
def dataBytes (c : Ctx) (lane : Nat) (o : Opd) (z : MSize) : List Byte :=
  match z, o with
  | .b128, .v n =>
    (List.range 4).flatMap (fun i => leBytes 4 ((c.g.regs.lane lane).getV (n + i)).toNat)
  | .b128, .s n => leBytes 8 (c.g.regs.getS n).toNat ++ leBytes 8 (c.g.regs.getS (n + 1)).toNat
  | z, o => leBytes (sizeBytes z) (c.src lane o (sizeWide z))

/-- The lanes that stand behind a store. -/
def storeLanes (s : State) (who : Option Nat) : LaneMask := (who.map laneBit).getD s.cx.clutch

/-- R164, R202: stores held through quarantine, in ascending lane order; read ports move on. -/
def holdStores (s : State) (d : Opd) (svc : Fin 4) (l : List (Option Nat × List StCell)) : State :=
  l.foldl (fun s p => s.onIssuer (fun g =>
    let sv := serviceOf s (gangAsid (s.blockOf g)) svc
    let cells := p.2.map (fun x => { x with cell := x.cell.serve g.core sv })
    let g1 := g.hold s.cx.pc (.store cells p.1 (storeLanes s p.1))
    match p.1 with
    | some l => g1.advancePorts l ([d].filterMap opdPort)
    | none => g1)) s

/-- Cells with their values, every bit written. -/
def stCells (cs : List Cell) (bs : List Byte) : List StCell := (cs.zip bs).map (fun p => ⟨p.1, p.2, 0xFF⟩)

/-- R163 ST. -/
def execSt (f : MF) (s : State) : Res :=
  .next (issuing s (fun g =>
    let c : Ctx := ⟨s, g, s.blockOf g⟩
    runAccess s (gangAsid c.b) (plainTries s g f [f.base, f.index, f.d] .write)
      (fun s' l => holdStores s' f.d f.svc (l.map (fun p => (p.1, stCells p.2 (dataBytes c (performLane s p.1) f.d f.size)))))))

/-! ### LDE and STE (R165, R166) -/

/-- R165: the cells of an element at a bit address, whose pages all carry the given FMT and BLK. -/
def elemCells (s : State) (core asid : Nat) (acc : Access) (fmt blk : Nat) (bit : Int) : Except (XRes × Nat) (List Cell) :=
  let w := elemBits fmt
  let first := wrapInt (bit / 8) 64
  let n := ((bit % 8).toNat + w + 7) / 8
  if first ≥ 2 ^ 57 then .error (.fault 0x12 0, first)
  else if w ≥ 16 ∧ first % (w / 8) ≠ 0 then .error (.fault 0x13 (w / 8), first)
  else
    (List.range n).foldlM (fun acc' i =>
      let a := (first + i) % 2 ^ 64
      match xlate s core asid a acc true with
      | .ok x => if x.fmt = fmt ∧ x.blk = blk then .ok (acc' ++ [x.cell]) else .error (.fault 0x14 (x.fmt + 16 * x.blk), a)
      | r => .error (r, a)) []

/-- R165: the plain form. -/
def plainElem (s : State) (c : Ctx) (lane : Nat) (f : MEF) (acc : Access) : Except (XRes × Nat) ElemPlace :=
  let anchor := anchorVal c lane f.base true f.off
  if anchor ≥ 2 ^ 57 then .error (.fault 0x12 0, anchor)
  else match xlate s c.g.core (gangAsid c.b) anchor acc true with
    | .ok x =>
      let bit : Int := 8 * (anchor : Int) + indexVal c lane f.index * (elemBits x.fmt : Int)
      (elemCells s c.g.core (gangAsid c.b) acc x.fmt x.blk bit).map (fun cs => ⟨none, cs, (bit % 8).toNat, x.fmt⟩)
    | r => .error (r, anchor)

/-- R166: the record form, of a record already read. -/
def recordElem (s : State) (c : Ctx) (lane : Nat) (f : MEF) (acc : Access) (va : Nat) (bs : List Byte) :
    Except (XRes × Nat) ElemPlace :=
  let v := shapeNat bs
  let asid := gangAsid c.b
  match shapeBad va v false with
  | some d => .error (.fault 0x21 d, va)
  | none =>
    let j : Int := indexVal c lane f.index + f.off.toInt
    let bit := shapeBit v j
    match elemCells s c.g.core asid acc (shFmt v) (shBlk v) bit with
    | .error e => .error e
    | .ok cs =>
      if shBlk v = 0 then .ok ⟨none, cs, (bit % 8).toNat, shFmt v⟩
      else
        let a := shapeScale v j
        match xlate s c.g.core asid a .read true with
        | .ok x =>
          if x.fmt = shFmt v ∧ x.blk = shBlk v then .ok ⟨some x.cell, cs, (bit % 8).toNat, shFmt v⟩
          else .error (.fault 0x14 (x.fmt + 16 * x.blk), a)
        | r => .error (r, a)

/-- R166: the record form. -/
def scElem (s : State) (c : Ctx) (lane : Nat) (f : MEF) (acc : Access) : Except (XRes × Nat) ElemPlace :=
  let va := c.src lane f.base true
  let asid := gangAsid c.b
  match recRead s c.g.core asid va (fun a => xlate s c.g.core asid a .read false) with
  | .error e => .error e
  | .ok bs => recordElem s c lane f acc va bs

/-- The record that a record form has used, as it read it in `s0`, enters the cache. -/
def keepRecord (s0 s : State) (g : Gang) (va : Nat) : State :=
  let asid := gangAsid (s0.blockOf g)
  let xl := fun a => xlate s0 g.core asid a .read false
  let s1 := recAsk s g.core asid va xl
  match recRead s0 g.core asid va xl with
  | .ok bs => recKeep s1 g.core asid va bs
  | .error _ => s1

/-- The attempts of an element access. -/
def elemTries (s : State) (g : Gang) (f : MEF) (acc : Access) (sc : Bool) : List (Attempt ElemPlace) :=
  let c : Ctx := ⟨s, g, s.blockOf g⟩
  (performers s [f.base, f.index, f.d]).map (fun p =>
    let lane := performLane s p
    match dataPort g f.d false p with
    | some r => { who := p, addr := 0, res := .error r }
    | none =>
      match (if sc then scElem s c lane f acc else plainElem s c lane f acc) with
      | .ok x => { who := p, addr := (x.cells.head?.map (·.va)).getD 0, res := .ok x }
      | .error e => { who := p, addr := e.2, res := .error e.1 })

/-- The cells that a load of an element reads: its scale first. -/
def ElemPlace.reads (x : ElemPlace) : List Cell :=
  match x.scale with
  | none => x.cells
  | some c => c :: x.cells

/-- How the bytes of an element become a result. -/
def ElemPlace.loadFmt (x : ElemPlace) (rt : ElemTy) : LoadFmt :=
  match x.scale with
  | none => .elem x.bit x.fmt rt
  | some _ => .scaled x.bit x.fmt rt

/-- The loads of elements become outstanding. -/
def startElems (s : State) (f : MEF) (l : List (Option Nat × ElemPlace)) : State :=
  l.foldl (fun s p => startLoads s f.d (p.2.loadFmt f.rt) .b32 f.svc true [(p.1, p.2.reads)]) s

/-- R165 LDE. -/
def execLde (f : MEF) (s : State) : Res :=
  .next (issuing s (fun g =>
    runAccess s (gangAsid (s.blockOf g)) (elemTries s g f .read false) (fun s l => startElems s f l)))

/-- R166 LDE.sc. -/
def execLdeSc (f : MEF) (s : State) : Res :=
  .next (issuing s (fun g =>
    runAccess s (gangAsid (s.blockOf g)) (elemTries s g f .read true)
      (fun s' l => startElems (keepRecord s s' g (gangSrc s g f.base)) f l)))

/-- R163, R238: a byte as the thread reads it now: its own earlier stores that have not left the core, then the block's
view. A byte of another package is `part`'s, or a free value (log 7). -/
def threadByte (s : State) (g : Gang) (b : Block) (part : List (Nat × Byte)) (lane : Option Nat) (before : Nat) (x : Cell) :
    Byte × Bool :=
  let items := g.relq ++ g.runs.flatMap (fun r => r.held) ++ (g.issue.elim [] (fun r => r.held))
  let base := if isRemote x.pa && needsHome s b g.core x then
      (sbOver b (b.posOf g.core) x (((part.find? (fun p => p.1 == x.pa)).map (·.2)).getD (Config.remoteByte s.free x.pa)), false)
    else loadByte s b g.core x
  items.foldl (fun acc h =>
    match h.eff with
    | .store cs who _ =>
      if h.ord < before ∧ (who = none ∨ lane = none ∨ who = lane) then
        cs.foldl (fun acc y =>
          if y.cell.pa = x.pa ∧ y.cell.view = x.view then (maskByte acc.1 y.val y.mask, acc.2 && y.mask != 0xFF) else acc) acc
      else acc
    | _ => acc) base

/-- R63: the bytes and masks that put `w` bits at bit `p` of some cells. -/
def elemStore (cs : List Cell) (p w x : Nat) : List StCell :=
  let v := x % 2 ^ w * 2 ^ p
  let m := (2 ^ w - 1) * 2 ^ p
  cs.mapIdx (fun i c => ⟨c, BitVec.ofNat 8 (v / 2 ^ (8 * i)), BitVec.ofNat 8 (m / 2 ^ (8 * i))⟩)

/-- R166: what comes of the scale byte of a store. -/
inductive ScaleIn where
  | byte (x : Byte)
  | bad (cause detail : Nat)
  | fetch
  deriving DecidableEq, Repr

/-- R166: a scale byte as the loads of the storing thread read it now: one that another package has still to give is to be
fetched first. -/
def scaleIn (s : State) (g : Gang) (b : Block) (who : Option Nat) (before : Nat) (sc : Cell) : ScaleIn :=
  if isRemote sc.pa && needsHome s b g.core sc then
    match g.scales.find? (fun x => x.pa == sc.pa) with
    | none => .fetch
    | some x => if x.cause ≠ 0 then .bad x.cause x.detail else .byte (threadByte s g b [(sc.pa, x.val)] who before sc).1
  else
    let y := threadByte s g b [] who before sc
    if y.2 then .bad 0x19 0 else .byte y.1

/-- R165, R166: what one STE stores, with its flags. -/
def elemData (s : State) (c : Ctx) (lane : Nat) (who : Option Nat) (f : MEF) (x : ElemPlace) : List StCell × FFlags :=
  let v := c.src lane f.d false
  let y := match x.scale, c.b with
    | some sc, some b =>
      steScaled x.fmt f.rt (match scaleIn s c.g b who c.g.ord sc with | .byte y => y.toNat | _ => 0) v
    | _, _ => steConv x.fmt f.rt v
  (elemStore x.cells x.bit (elemBits x.fmt) y.1, y.2)

/-- R165: the flags of STE, due at the first park seam after its run has left quarantine. -/
def steFlags (s : State) (l : List (Option Nat × FFlags)) : State :=
  let es := l.flatMap (fun p => flagEffs p.1 p.2)
  if es.isEmpty then s else s.onIssuer (fun g => g.await s.cx.pc .afterQuar [] es true false)

/-- STE once its places are known. -/
def storeElems (s0 : State) (c : Ctx) (f : MEF) (s : State) (l : List (Option Nat × ElemPlace)) : State :=
  let ds := l.map (fun p => (p.1, elemData s0 c (performLane s0 p.1) p.1 f p.2))
  steFlags (holdStores s f.d f.svc (ds.map (fun p => (p.1, p.2.1)))) (ds.map (fun p => (p.1, p.2.2)))

/-- R165 STE. -/
def execSte (f : MEF) (s : State) : Res :=
  .next (issuing s (fun g =>
    let c : Ctx := ⟨s, g, s.blockOf g⟩
    runAccess s (gangAsid c.b) (elemTries s g f .write false) (fun s' l => storeElems s c f s' l)))

/-- R166: the attempt of a store in the record form, its scale byte read. -/
def scaleTry (s : State) (g : Gang) (b : Block) (a : Attempt ElemPlace) : Attempt ElemPlace :=
  match a.res with
  | .error _ => a
  | .ok x =>
    match x.scale with
    | none => a
    | some sc =>
      match scaleIn s g b a.who g.ord sc with
      | .bad c d => { a with addr := sc.va, res := .error (.late c d) }
      | _ => a

/-- R166: the scale bytes that other packages have still to give for a word. -/
def scaleMisses (s : State) (g : Gang) (b : Block) (l : List (Attempt ElemPlace)) : List Cell :=
  l.filterMap (fun a => match a.res with
    | .error _ => none
    | .ok x => x.scale.bind (fun sc => if scaleIn s g b a.who g.ord sc = .fetch then some sc else none))

/-- R166, R400: a scale byte asked of its package, once. -/
def askScale (g : Gang) (asid : Nat) (s : State) (sc : Cell) : State :=
  if s.remOut.any (fun r => match r.kind with | .scale u n c => u == g.uid && n == g.replays && c.pa == sc.pa | _ => false) then s
  else (sendRemote s (.scale g.uid g.replays sc) (remoteTarget sc.pa) asid).1

/-- R166, R171: the scale bytes that a word reads at home. -/
def scaleReads (s : State) (g : Gang) (b : Block) (svc : Fin 4) (l : List (Attempt ElemPlace)) : List Cell :=
  let sv := serviceOf s b.asid svc
  l.filterMap (fun a => match a.res with
    | .error _ => none
    | .ok x => (x.scale.filter (fun sc => !(isRemote sc.pa) && needsHome s b g.core sc)).map (Cell.serve g.core sv))

/-- R166 STE.sc: the word stalls while a scale byte is on its way from another package, or on a stack in self-refresh
(R342). -/
def execSteSc (f : MEF) (s : State) : Res :=
  .next (issuing s (fun g =>
    let c : Ctx := ⟨s, g, s.blockOf g⟩
    let l := elemTries s g f .write true
    let miss := (c.b.map (fun b => scaleMisses s g b l)).getD []
    let reads := (c.b.map (fun b => scaleReads s g b f.svc l)).getD []
    if !miss.isEmpty && (waitsOf l).isEmpty then (miss.foldl (askScale g (gangAsid c.b)) s).stalled
    else if (waitsOf l).isEmpty && reads.any (fun x => readAsleep s x.pa) then s.stalled
    else
      runAccess s (gangAsid c.b) (l.map (fun a => (c.b.map (fun b => scaleTry s g b a)).getD a))
        (fun s' l => State.onIssuer (storeElems s c f (keepRecord s (readLines { s' with free := s'.free + 1 } reads) g (gangSrc s g f.base)) l)
          (fun g => { g with scales := [] }))))

/-! ### LDL and STL (R167) -/

/-- R167: the offset, its low bits below the size ignored, modulo P. -/
def localOff (c : Ctx) (lane : Nat) (f : MF) : Nat :=
  let o := effAddr c lane f false
  scratchMod c.b (o / sizeBytes f.size * sizeBytes f.size)

/-- Lanes whose data port is not bound, or too narrow. -/
def portFaults (s : State) (g : Gang) (o : Opd) (wide : Bool) : List LaneFault :=
  (lanesOf s.act).filterMap (fun i => (portFault (g.regs.lane i) o wide).map (fun d => ⟨i, 0x03, d, 0⟩))

/-- R167 LDL. -/
def execLdl (f : MF) (s : State) : Res :=
  .next (issuing s (fun g0 =>
    let s1 := takeFaults s (portFaults s g0 f.d (sizeWide f.size))
    (performers s1 [f.base, f.index, f.d]).foldl (fun s p => s.onIssuer (fun g =>
      let c : Ctx := ⟨s, g, s.blockOf g⟩
      let lane := performLane s1 p
      let r : LdlReq := { lane := p, off := localOff c lane f, size := f.size, dst := f.d, ord := g.ord }
      let g1 := (g.await s.cx.pc (.ldl r) (loadDsts f.d lane f.size) [] false true).withPorts (portElem c.b g f.d p)
      match p with
      | some l => g1.advancePorts l ([f.d].filterMap opdPort)
      | none => g1)) s1))

/-- R167 STL. -/
def execStl (f : MF) (s : State) : Res :=
  .next (issuing s (fun g0 =>
    let s1 := takeFaults s (portFaults s g0 f.d (sizeWide f.size))
    (performers s1 [f.base, f.index, f.d]).foldl (fun s p => s.onIssuer (fun g =>
      let c : Ctx := ⟨s1, g0, s1.blockOf g0⟩
      let lane := performLane s1 p
      let g1 := g.hold s.cx.pc (.loc (placed (localOff c lane f) (dataBytes c lane f.d f.size)) s.cx.pos)
      match p with
      | some l => g1.advancePorts l ([f.d].filterMap opdPort)
      | none => g1)) s1))

/-! ### ATOM and ATOML (R168 to R170) -/

/-- The number of bits of an atomic's size. -/
def atomBits (z : MSize) : Nat := 8 * sizeBytes z

/-- A register group read as one value. -/
def groupVal (c : Ctx) (lane : Nat) (o : Opd) (z : MSize) : BitVec 128 :=
  if o = .none then 0 else BitVec.ofNat 128 (leValue (dataBytes c lane o z))

/-- The register after the data, for a compare-and-swap (R168). -/
def compareOpd (o : Opd) (z : MSize) : Opd :=
  match o with
  | .v n => .v (n + (match z with | .b128 => 4 | .b64 => 2 | _ => 1))
  | .s n => .s (n + (match z with | .b128 => 2 | _ => 1))
  | .c n => .c (n + 1)
  | o => o

/-- R168: the new value and the flags of an atomic operation. -/
def atomNew (op : Aop) (z : MSize) (old data cmp : BitVec 128) : BitVec 128 × FFlags :=
  let w := atomBits z
  let o := old.toNat % 2 ^ w
  let d := data.toNat % 2 ^ w
  let f := fmtOf (if z = .b64 then .f64 else .f32)
  let mk := fun (x : Nat) => (BitVec.ofNat 128 (x % 2 ^ w), (0 : FFlags))
  match op with
  | .xchg | .st => mk d
  | .cas => mk (if o = cmp.toNat % 2 ^ w then d else o)
  | .add => mk (o + d)
  | .smin => mk (if signExt d w < signExt o w then d else o)
  | .smax => mk (if signExt o w < signExt d w then d else o)
  | .umin => mk (min o d)
  | .umax => mk (max o d)
  | .and => mk (Nat.land o d)
  | .or => mk (Nat.lor o d)
  | .xor => mk (Nat.xor o d)
  | .fadd =>
    let x := faddV .rne (fdecode f o) (fdecode f d)
    let y := roundVal f .rne false x.1
    (BitVec.ofNat 128 y.1, x.2 ||| y.2)
  | .fmin => let y := fminmax f false true false o d; (BitVec.ofNat 128 y.1, y.2)
  | .fmax => let y := fminmax f false true true o d; (BitVec.ofNat 128 y.1, y.2)
  | .incw => mk (if o ≥ d then 0 else o + 1)
  | .ld => mk o

/-- The attempts of an atomic. -/
def atomTries (s : State) (g : Gang) (f : AF) : List (Attempt AtomLane) :=
  let c : Ctx := ⟨s, g, s.blockOf g⟩
  (performers s [f.base, f.data, f.d]).map (fun p =>
    let lane := performLane s p
    let ea := c.src lane f.base true
    match dataPort g f.d (sizeWide f.size) p with
    | some r => { who := p, addr := 0, res := .error r }
    | none =>
      { who := p, addr := ea
        res := match access s g (gangAsid c.b) ea (sizeBytes f.size) .write with
          | .ok x => .ok { lane := p, cells := x.cells (sizeBytes f.size), off := 0, data := groupVal c lane f.data f.size,
                           cmp := groupVal c lane (compareOpd f.data f.size) f.size, core := x.scope == 0, done := false }
          | r => .error r })

/-- The registers that an atomic word's results name. -/
def atomDsts (s : State) (d : Opd) (z : MSize) (lanes : List AtomLane) : List Dst :=
  lanes.flatMap (fun a => loadDsts d (performLane s a.lane) z)

/-- An atomic word leaves its request behind: held through quarantine, its result outstanding. -/
def startAtom (s : State) (f : AF) (scratch : Bool) (lanes : List AtomLane) : State :=
  s.onIssuer (fun g =>
    let sv := serviceOf s (gangAsid (s.blockOf g)) f.svc
    let a : AtomReq :=
      { aop := f.aop, size := f.size, acq := f.acq, rel := f.rel, dst := f.d
        lanes := lanes.map (fun l => { l with cells := l.cells.map (Cell.serve g.core sv) }), left := false, commit := 0,
        oid := g.nextId, ahead := [] }
    let blocks := f.d != .none || f.aop == .fadd || f.aop == .fmin || f.aop == .fmax
    let ports := lanes.flatMap (fun l => portElem (s.blockOf g) g f.d l.lane)
    let g1 := (g.await s.cx.pc .unit (atomDsts s f.d f.size lanes) [] false blocks).withPorts ports
    let g2 := lanes.foldl (fun g l => match l.lane with
      | some l => g.advancePorts l ([f.d].filterMap opdPort)
      | none => g) g1
    g2.hold s.cx.pc (if scratch then .atoml a else .atom a))

/-- R168, R169 ATOM: a word whose every lane faults at issue leaves nothing. -/
def execAtom (f : AF) (s : State) : Res :=
  .next (issuing s (fun g =>
    let l := atomTries s g f
    let late := l.any (fun a => match a.res with | .error (.late ..) => true | _ => false)
    runAccess s (gangAsid (s.blockOf g)) l (fun s' l =>
      if l.isEmpty && !late then s' else startAtom s' f false (l.map (·.2)))))

/-- R170 ATOML. -/
def execAtoml (f : AF) (s : State) : Res :=
  .next (issuing s (fun g0 =>
    let s1 := takeFaults s (portFaults s g0 f.d (sizeWide f.size))
    let c : Ctx := ⟨s1, g0, s1.blockOf g0⟩
    let lanes := (performers s1 [f.base, f.data, f.d]).map (fun p =>
      let lane := performLane s1 p
      let o := c.src lane f.base false
      { lane := p, cells := [], off := scratchMod c.b (o / sizeBytes f.size * sizeBytes f.size), data := groupVal c lane f.data f.size,
        cmp := groupVal c lane (compareOpd f.data f.size) f.size, core := true, done := false : AtomLane })
    if lanes.isEmpty then s1 else startAtom s1 f true lanes))

/-! ### Stream ports (R173, R174) -/

/-- R173 SBIND: the port is bound with position 0, with latency 1. -/
def execSbind (f : SbindF) (s : State) : Res :=
  .next (issuing s (fun g =>
    let c : Ctx := ⟨s, g, s.blockOf g⟩
    s.onIssuer (fun g => g.emit (s.dueAt 1) ((lanesOf s.act).map (fun i =>
      .port i f.port.val ⟨BitVec.ofNat 64 (c.src i f.a false), BitVec.ofNat 32 (c.src i f.b false), f.esz, f.sgn, 0⟩)))))

/-- R174 SPOS: the position goes to D; then A sets it. A read port as A gives its next element and moves on. -/
def execSpos (f : EF) (port : Fin 8) (s : State) : Res :=
  .next (issuing s (fun g0 =>
    let bad := (lanesOf s.act).filter (fun i =>
      ((g0.regs.lane i).port? port.val).isNone || (portFault (g0.regs.lane i) f.a false).isSome)
    let s1 := takeFaults s (bad.map (fun i => ⟨i, 0x03, 1, 0⟩))
    let c : Ctx := ⟨s1, g0, s1.blockOf g0⟩
    let es := (lanesOf s1.act).flatMap (fun i =>
      match (g0.regs.lane i).port? port.val with
      | none => []
      | some p =>
        c.dst i f.d .n32 p.pos.toNat ++
          (if f.a = .none then [] else [.port i port.val { p with pos := BitVec.ofNat 32 (c.src i f.a false) }]))
    s1.onIssuer (fun g =>
      (lanesOf s1.act).foldl (fun g i => g.advancePorts i ([f.a].filterMap opdPort)) (g.emit (s.dueAt 1) es))))

end Sys2Proof.Machine
end

