-- ==== Sys2Proof/Machine/Runs.lean ====
section
/-! DEFINITION. Machine/Runs.lean: run boundaries (R188 to R192), clutches (R28 to R30), the fetch and the static checks
of a run (R78, R83 to R85, R175), the issue of a word (R80), the end of a run (R32), park seams (R82) and the results
that return by themselves.
-/
namespace Sys2Proof.Machine

/-! ### Held lanes and readiness (R29, R188) -/

/-- R29: whether lane `u` owes arrival at the address. -/
def owesArrival (u : Lane) (at_ : W64) : Bool :=
  u.mr == at_ && !u.met && u.pc != at_ && (u.status == .runnable || u.status == .waiting)

/-- R29: whether lane `i` is held. -/
def GangRegs.isHeld (r : GangRegs) (i : Nat) : Bool :=
  let t := r.lane i
  t.pc == t.mr && !t.met && (List.range 32).any (fun j => j != i && owesArrival (r.lane j) t.mr)

/-- R27, R29: runnable and held lanes as they stand at a boundary; one that is released takes a new ready stamp. The
lanes `fixed` are those of a clutch to be issued again: they were runnable when it formed, and are so again whatever
their siblings' state would make of them (R34). -/
def GangRegs.regroup (r : GangRegs) (run : Nat) (fixed : LaneMask) : GangRegs :=
  { r with lanes := (List.range 32).map (fun i =>
      let t := r.lane i
      if t.status = .runnable ∨ t.status = .held then
        if r.isHeld i && !(maskHas fixed i) then { t with status := .held }
        else if t.status = .held then { t with status := .runnable, stamp := run }
        else t
      else t) }

/-- The number of entries of the kick register queue (R222). -/
def kickQueueSize : Nat := 64

/-- R222: a KICK of the gang that the full queue keeps waiting. -/
def kickStuck (s : State) (g : Gang) : Bool :=
  decide ((s.core g.core).kickQ.length ≥ kickQueueSize) &&
    g.relq.any (fun h => match h.eff with | .kick .. => true | _ => false)

/-- R188: whether a gang is ready. -/
def Gang.ready (s : State) (g : Gang) : Bool :=
  g.regs.lanesWith (fun l => l.status == .runnable) != 0#32 && !g.seam && g.donation.isNone && g.waits.isEmpty &&
    ((s.blockOf g).map (fun b => b.phase == .running)).getD false && !kickStuck s g

/-! ### Waits of the whole gang (R221, R226, R298, R377) -/

/-- R219: whether the catchment in 16 bytes is done, or not valid. -/
def catchDone (bs : List Byte) : Bool :=
  let x := leValue bs
  !(x.testBit 0) || (decide (signExt (bitsOf x 127 64) 64 ≤ 0) && decide (signExt (bitsOf x 63 32) 32 ≤ 0))

/-- A catchment as the gang sees it at a place of its program order. -/
def catchBytes (s : State) (g : Gang) (off before : Nat) : List Byte :=
  match s.blockOf g with
  | none => List.replicate 16 0
  | some b => gangBytes b (b.posOf g.core) (g.localWrites before lastDue) off 16

/-- The place in the program order of an outstanding operation. -/
def Gang.ordOf (g : Gang) (oid : Nat) : Nat := ((g.out.find? (fun o => o.id == oid)).map (·.ord)).getD g.ord

/-- Whether an outstanding operation has its result. -/
def Gang.hasArrived (g : Gang) (oid : Nat) : Bool := !(g.out.any (fun o => o.id == oid && !o.arrived))

/-- Whether what a gang waits for has come. -/
def waitOver (s : State) (g : Gang) : Wait → Bool
  | .catw off _ oid _ => catchDone (catchBytes s g off (g.ordOf oid))
  | .waitc cls n _ => decide (g.counter cls ≤ n)
  | .barw oid _ => g.hasArrived oid
  | .jwait oid _ => g.hasArrived oid

/-- The result of a wait that is over (R221). -/
def waitResult (s : State) (g0 : Gang) (g : Gang) : Wait → Gang
  | .catw off dst oid _ =>
    g.arrive oid (gangEffs (g0.ordOf oid) dst (leValue ((catchBytes s g0 off (g0.ordOf oid)).take 4)))
  | _ => g

/-- Whether a lane is one of an open gathering's waiting participants (R150). -/
def Gang.inOpenGathering (g : Gang) (i : Nat) : Bool :=
  g.gath.any (fun h => !h.closed && h.parts.any (fun p => p.lane == i && p.guard))

/-- R27: a gang that waits for nothing any more: its waiting lanes, those of open gatherings apart, are runnable. -/
def Gang.wakeWaiters (g : Gang) : Gang :=
  if g.waits.isEmpty then
    { g with regs := { g.regs with lanes := (List.range 32).map (fun i =>
        let l := g.regs.lane i
        if l.status = .waiting ∧ ¬ g.inOpenGathering i then { l with status := .runnable, stamp := g.run } else l) } }
  else g

/-- The waits of a gang tested; with the last one over its lanes go on. -/
def testWaits (s : State) (g : Gang) : Gang :=
  if g.waits.isEmpty then g
  else
    let past := g.waits.filter (waitOver s g)
    let g1 := past.foldl (fun g' w => waitResult s g g' w) g
    Gang.wakeWaiters { g1 with waits := g.waits.filter (fun w => !(waitOver s g w)) }

/-! ### Run-boundary arbitration (R189 to R192) -/

/-- R192: the greatest number of boundaries that a ready pending gang waits. -/
def rotationLimit : Nat := 256

/-- R186: the slots of the active set. -/
def activeSlots : Nat := 8

/-- The gangs of a partition. -/
def partGangs (s : State) (core part : Nat) : List Gang := s.gangs.filter (fun g => g.core == core && g.part == part)

/-- R34: the lanes of a recorded clutch that still stand at its start. -/
def Gang.standing (g : Gang) (q : W64 × LaneMask) : LaneMask :=
  laneSet (fun i => maskHas q.2 i && (g.regs.lane i).pc == q.1 &&
    ((g.regs.lane i).status == .runnable || (g.regs.lane i).status == .held))

/-- R34: the clutches to be issued again, from the first of which lanes still stand there. -/
def Gang.replaysLeft (g : Gang) : List (W64 × LaneMask) := g.replayQ.dropWhile (fun q => g.standing q == 0#32)

/-- R34: the clutch of the run to be issued again next. -/
def replayClutch (g : Gang) : Option (W64 × LaneMask) := (g.replaysLeft.head?).map (fun q => (q.1, g.standing q))

/-- The lanes of that clutch. -/
def Gang.replayLanes (g : Gang) : LaneMask := ((replayClutch g).map (·.2)).getD 0

/-- What a boundary finds of one gang: its waits tested, held lanes regrouped, its age begun anew where it became ready
(R191). -/
def boundaryView (s : State) (bounds : Nat) (g : Gang) : Gang :=
  let g1 := testWaits s g
  let g2 := { g1 with regs := g1.regs.regroup g1.run (g1.replayLanes) }
  let r := g2.ready s
  if r && !g2.wasReady then { g2 with wasReady := true, ageBase := bounds } else { g2 with wasReady := r }

/-- R191: whether the first gang wins over the second: the older, then the lower slot; one that yielded comes last. -/
def olderGang (a b : Gang) : Bool :=
  if a.yielded != b.yielded then b.yielded
  else if a.ageBase ≠ b.ageBase then decide (a.ageBase < b.ageBase)
  else decide (a.slot < b.slot)

/-- The first gang of a list in an order. -/
def pickGang (better : Gang → Gang → Bool) (l : List Gang) : Option Gang :=
  l.foldl (fun a g => match a with | none => some g | some x => if better g x then some g else a) none

/-- A gang moved between the sets at a boundary: age 0 (R191). -/
def moveSet (l : List Gang) (uid bounds : Nat) (active : Bool) : List Gang :=
  l.map (fun g => if g.uid = uid then { g with inActive := active, ageBase := bounds } else g)

/-- R190: the parked gang of the active set in the lowest slot among those not yet exchanged. -/
def parkedActive (l : List Gang) (done : List Nat) : Option Gang :=
  pickGang (fun a b => decide (a.slot < b.slot)) (l.filter (fun g => g.inActive && !g.wasReady && !(done.contains g.uid)))

/-- R190: the exchanges of a boundary; a free place of the active set counts as a parked gang, one that comes after every
parked gang (DESIGN CHOICE, log 106). -/
def exchange (bounds : Nat) (l : List Gang) (done : List Nat) : Nat → List Gang
  | 0 => l
  | n + 1 =>
    match pickGang olderGang (l.filter (fun g => !g.inActive && g.wasReady)) with
    | none => l
    | some y =>
      match parkedActive l done with
      | some x => exchange bounds (moveSet (moveSet l x.uid bounds false) y.uid bounds true) (x.uid :: done) n
      | none =>
        if (l.filter (fun g => g.inActive)).length < activeSlots then exchange bounds (moveSet l y.uid bounds true) done n
        else l

/-- The gangs that an exchange has moved into the active set. -/
def movedIn (before after : List Gang) : List Nat :=
  (after.filter (fun g => g.inActive && before.any (fun x => x.uid == g.uid && !x.inActive))).map (·.uid)

/-- R192: each pending gang that has been ready long enough takes the place of the youngest ready active gang, those
that have come in at this boundary (`fresh`) apart. -/
def rotate (bounds : Nat) (l : List Gang) (fresh : List Nat) : Nat → List Gang
  | 0 => l
  | n + 1 =>
    match pickGang olderGang (l.filter (fun g => !g.inActive && g.wasReady && decide (g.ageBase + rotationLimit ≤ bounds))) with
    | none => l
    | some y =>
      match pickGang (fun a b => decide (b.ageBase < a.ageBase ∨ (a.ageBase = b.ageBase ∧ a.slot < b.slot)))
          (l.filter (fun g => g.inActive && g.wasReady && !(fresh.contains g.uid))) with
      | none => l
      | some x => rotate bounds (moveSet (moveSet l x.uid bounds false) y.uid bounds true) (y.uid :: fresh) n

/-- R191: the winner. -/
def boundaryWinner (l : List Gang) : Option Gang := pickGang olderGang (l.filter (fun g => g.inActive && g.wasReady))

/-- The gangs of a partition put back. -/
def putGangs (s : State) (l : List Gang) : State :=
  { s with gangs := s.gangs.map (fun g => (l.find? (fun x => x.uid == g.uid)).getD g) }

/-! ### The clutch (R28, R30, R34) -/

/-- R30: the oldest group of runnable lanes: its PC and lanes. -/
def formClutch (r : GangRegs) : Option (W64 × LaneMask) :=
  let run := (List.range 32).filter (fun i => (r.lane i).status == .runnable)
  let best := run.foldl (fun (a : Option (Nat × W64)) i =>
    let t := r.lane i
    match a with
    | none => some (t.stamp, t.pc)
    | some b => if t.stamp < b.1 ∨ (t.stamp = b.1 ∧ t.pc.toNat < b.2.toNat) then some (t.stamp, t.pc) else a) none
  best.map (fun b => (b.2, laneSet (fun i => (r.lane i).status == .runnable && (r.lane i).pc == b.2)))

/-! ### Fetch (R83, R85, R175) -/

/-- The greatest number of words of a run (R84). -/
def runLimit : Nat := 24

/-- What the fetch of a run came to. -/
inductive FetchRes where
  | words (ws : List W64)
  | fault (cause detail : Nat) (addr : W64)
  | wait (target page : Nat)
  deriving DecidableEq, Repr

/-- A byte fetched: from home; poisoned bytes are open (log 6). -/
def fetchByte (s : State) (c : Cell) : Byte := plainByte s c (readAny s c)

/-- R85: whether a recorded change is of a commit of which something is still to come that no run can be given yet: a
scatter-add's rows or a tile's version word. -/
def CodeVer.unfinished (s : State) (v : CodeVer) : Bool :=
  v.commit.elim false (fun p => (s.block? p.1).elim false (fun b => b.pipeline.any (fun c =>
    c.id == p.2 && (!c.scads.isEmpty || c.units.any (fun u => !u.vers.isEmpty)))))

/-- R85: which words a run of a launch may find where a live grid's words were stored to: by free choice (log 2) the
bytes from before the latest of the recorded changes, and so on back; always those from before a commit of which only a part
could be given. -/
def oldCode (s : State) (launch : Nat) : List CodeVer → List (Nat × Byte) → List (Nat × Byte) × State
  | [], acc => (acc, s)
  | v :: vs, acc =>
    if v.launches.contains launch then
      if (v :: vs).any (fun x => x.launches.contains launch && x.unfinished s) then oldCode s launch vs (v.bytes ++ acc)
      else
        let c := s.choose
        if c.1 then oldCode c.2 launch vs (v.bytes ++ acc) else (acc, c.2)
    else oldCode s launch vs acc

/-- R85: the bytes of the commits that have begun to become visible, as they will be: a run sees none or all of them. -/
def newCode (s : State) : List (Nat × Byte) :=
  (s.blocks.flatMap (fun b => b.pipeline.filter (·.begun))).flatMap (fun c => c.units.flatMap (fun u =>
    u.cells.map (fun e => (e.cell.pa, maskByte (readHome s e.cell).1 e.val e.mask))))

/-- R85: the bytes that a run of a launch finds otherwise than at home. -/
def codeSeen (s : State) (launch : Nat) : List (Nat × Byte) × State :=
  if s.codeLog.isEmpty then ([], s)
  else
    let r := oldCode s launch s.codeLog []
    (r.1 ++ newCode s, r.2)

/-- A byte of a run's words. -/
def codeByte (s : State) (seen : List (Nat × Byte)) (c : Cell) : Byte :=
  match seen.find? (fun p => p.1 == c.pa) with
  | some p => p.2
  | none => fetchByte s c

/-- The seam of a word, whatever it holds (R64). -/
def rawSeam (w : W64) : Nat := (w.extractLsb' 61 2).toNat

/-- R83: the words of a run from an address: up to its last word, or one more than a run may have. -/
def fetchWords (s : State) (seen : List (Nat × Byte)) (core asid : Nat) (pc : W64) (acc : List W64) : Nat → FetchRes
  | 0 => .words acc
  | n + 1 =>
    match xlate s core asid pc.toNat .fetch false with
    | .ok x =>
      let w : W64 := BitVec.ofNat 64 (leValue ((x.cells 8).map (codeByte s seen)))
      if (x.cells 8).any (fun c => readAsleep s c.pa) then .wait (accelId s) (pc.toNat / 2 ^ 16)
      else if rawSeam w = 1 ∨ rawSeam w = 2 then .words (acc ++ [w]) else fetchWords s seen core asid (nextPc pc) (acc ++ [w]) n
    | .fault c d => .fault c d pc
    | .late c d => .fault c d pc
    | .wait t p => .wait t p

/-- R336: the reads that the fetch of `n` words makes, and its walks; an uncorrectable word that a destination serves is the
motion's error (R359). -/
def fetchAsk (s : State) (core asid : Nat) (pc : W64) (n : Nat) : State :=
  let at_ := (List.range n).map (fun i => (wordAfter pc i).toNat)
  ownRead (askWalks s core true asid at_) core (some asid) (at_.flatMap (fun va =>
    match xlate s core asid va .fetch false with
    | .ok x => x.cells 8
    | _ => []))

/-- A run of a launch fetched. -/
def fetchRun (s : State) (core asid launch : Nat) (pc : W64) : FetchRes :=
  fetchWords s (codeSeen s launch).1 core asid pc [] (runLimit + 1)

/-! ### The static checks (R78, R84) -/

/-- What a word holds for the run rules: a word with SEAM 11 by its other fields. -/
def runWord (w : W64) : Option DWord :=
  match decode (if rawSeam w = 3 then w &&& ~~~(3#64 <<< 61) else w) with
  | .ok d => some d
  | .error _ => none

/-- R84: the rules that word `i` breaches; `last` says that the run ends there, `seen` are the registers that earlier
words read. -/
def runBreaches (i : Nat) (last : Bool) (w : W64) (seen : List RReg) : List Nat :=
  let d := runWord w
  let has := fun p => (d.map (dwordHas p)).getD false
  (if i ≥ runLimit then [1] else []) ++ (if has isControl && !last then [2] else []) ++
    (if has isIrrevocable && !last then [3] else []) ++
    (if ((d.map dwordWrites).getD []).any (fun r => seen.contains r) then [4] else []) ++
    (if rawSeam w = 3 then [5] else [])

/-- R78: the first word that breaches a run rule, with the lowest rule. -/
def runRuleFault (i : Nat) (seen : List RReg) : List W64 → Option (Nat × Nat)
  | [] => none
  | w :: ws =>
    match runBreaches i ws.isEmpty w seen with
    | r :: _ => some (i, r)
    | [] => runRuleFault (i + 1) (seen ++ ((runWord w).map dwordReads).getD []) ws

/-- R78: the cause that a word fails its own checks with, 0 for none. -/
def wordCause (V Q T : Nat) (w : W64) : Nat :=
  match decode w with
  | .error .illegalPair => 0x02
  | .error _ => 0x01
  | .ok d =>
    if dwordHas (fun i => !(operandsOk i) || !(allocOk V Q T i)) d then 0x03 else 0

/-- R78: the static failure of a run: its cause, its detail and the index of the offending word. -/
def staticFault (V Q T : Nat) (ws : List W64) : Option (Nat × Nat × Nat) :=
  match runRuleFault 0 [] ws with
  | some (i, r) => some (0x04, r, i)
  | none => (ws.findIdx? (fun w => wordCause V Q T w != 0)).map (fun i => (wordCause V Q T (ws.getD i 0), 0, i))

/-! ### Starting a run -/

/-- R78, R175: the clutch parks at the run's first word; the record is held through quarantine. -/
def parkAtStart (s : State) (u : Nat) (pc : W64) (clutch : LaneMask) (cause detail : Nat) (addr : W64) : State :=
  s.modGang u (fun g =>
    let req := faultFor s g cause detail pc addr clutch
    { g with
      regs := (lanesOf clutch).foldl (fun r i => r.modLane i (fun l => { l with status := .parked })) g.regs
      runs := g.runs ++ [⟨g.run, pc, clutch, s.cycle, [⟨g.ord, g.run, pc, .fault req, clutch⟩], g.regs, 0⟩]
      ord := g.ord + 1
      replayQ := g.replaysLeft.drop 1 })

/-- A run enters issue. -/
def startIssue (s : State) (u : Nat) (pc : W64) (clutch : LaneMask) (ws : List W64) : State :=
  s.modGang u (fun g => { g with
    issue := some { start := pc, words := ws, idx := 0, clutch := clutch, gone := 0, pends := [], held := [],
                    snapshot := g.regs, targets := [], exits := 0, waits := [], waiters := 0,
                    yielded := false }
    replayQ := g.replaysLeft.drop 1 })

/-- The winner of a boundary forms its clutch, and its run is fetched and checked. -/
def startRun (s : State) (u : Nat) : State :=
  match s.gang? u with
  | none => s
  | some g =>
    match (replayClutch g).orElse (fun _ => formClutch g.regs) with
    | none => s
    | some (pc, clutch) =>
      let asid := gangAsid (s.blockOf g)
      let launch := (s.blockOf g).elim 0 (·.launch)
      let s1 := (codeSeen s launch).2
      match fetchRun s g.core asid launch pc with
      | .wait t p => askTrans s1 g.core asid [(t, p)]
      | .fault c d a => forgetFailed (parkAtStart (askWalks s1 g.core true asid [a.toNat]) u pc clutch c d a) asid
      | .words ws =>
        let s2 := fetchAsk s1 g.core asid pc ws.length
        match staticFault g.vregs g.sregs ((s.blockOf g).elim 0 (·.tilesT)) ws with
        | some (c, d, i) => parkAtStart s2 u pc clutch c d (wordAfter pc i)
        | none => startIssue s2 u pc clutch ws

/-- The gang of a partition that has a run in issue. -/
def issuingGang (s : State) (core part : Nat) : Option Gang := (partGangs s core part).find? (fun g => g.issue.isSome)

/-- The cycle of an issue or a boundary of a partition: one word, or one empty cycle, a cycle. -/
def partTurn (s : State) (core part : Nat) : State :=
  if ((s.core core).part part).busy = s.cycle then { s with cycle := s.cycle + 1 } else s

/-- A partition has used its cycle. -/
def useCycle (s : State) (core part : Nat) : State :=
  s.modCore core (fun c => c.modPart part (fun p => { p with busy := s.cycle }))

/-- Whether a partition may issue. -/
def partUsable (s : State) (core part : Nat) : Bool :=
  !(s.core core).disabled && !((s.core core).fenced.getLsbD part)

/-- R189 RUN_BOUNDARY: exchanges, forced rotation, the winner's clutch and run; else the cycle is empty. The winner falls
back to age 0, also where its run does not enter issue (R191). A boundary left empty for a check word (R204) makes no
exchange and no rotation, and is counted (DESIGN CHOICE, log 107). -/
def execRunBoundary (core part : Nat) (s : State) : Res :=
  .next (
    if !(partUsable s core part) || (issuingGang s core part).isSome then s
    else
      let s1 := partTurn s core part
      let p := (s1.core core).part part
      let next := fun (s : State) => s.modCore core (fun c => c.modPart part (fun p => { p with bounds := p.bounds + 1, leaveEmpty := false }))
      if p.leaveEmpty then next (useCycle s1 core part)
      else
        let l0 := (partGangs s1 core part).map (boundaryView s1 p.bounds)
        let l1 := exchange p.bounds l0 [] 32
        let l := rotate p.bounds l1 (movedIn l0 l1) activeSlots
        let s2 := next (putGangs s1 (l.map (fun g => { g with yielded := false })))
        match boundaryWinner l with
        | none => useCycle s2 core part
        | some g =>
          let s3 := startRun (s2.modGang g.uid (fun g => { g with ageBase := p.bounds + 1 })) g.uid
          match issuingGang s3 core part with
          | some _ => s3
          | none => useCycle s3 core part)

/-! ### The issue of a word (R65, R80) -/

/-- R65: the lanes of a set whose guard is true. -/
def guardLanes (g : Gang) (lanes : LaneMask) (gd : Guard) : LaneMask :=
  laneSet (fun i => maskHas lanes i && condHolds gd.cond ((g.regs.lane i).getK gd.ksel))

/-- R22: the lanes of a set that issue the word at their meeting address have met. -/
def Gang.meet (g : Gang) (lanes : LaneMask) (pc : W64) : Gang :=
  { g with regs := (lanesOf lanes).foldl (fun r i =>
      r.modLane i (fun l => if l.mr = pc then { l with met := true } else l)) g.regs }

/-- No word is being issued. -/
def Cx.idle : Cx := ⟨0, 0, 0, 0, 0, false, 0, false⟩

/-- The lanes of a slot whose port operand faults (R36, R173). -/
def slotFaults (g : Gang) (act : LaneMask) (i : Instr) : List LaneFault :=
  match slotOf i with
  | none => []
  | some f =>
    (lanesOf act).filterMap (fun l =>
      ((portFault (g.regs.lane l) (sdstOpd f.d) false).orElse (fun _ => portFault (g.regs.lane l) (ssrcOpd f.s) false)).map
        (fun d => ⟨l, 0x03, d, 0⟩))

/-- A word issues, by the machine `ex` of instructions. In a pair the two slots read the same state; a lane that the
second slot would park takes no effect of the first. -/
def issueDecoded (ex : Instr → State → Res) (s : State) (g : Gang) (lanes : LaneMask) (d : DWord) : Res :=
  match d with
  | .full _ gd i => ex i { s with cx := { s.cx with act := guardLanes g lanes gd } }
  | .pair _ g0 i0 g1 i1 =>
    let act1 := guardLanes g lanes g1
    let s1 := takeFaults { s with cx := { s.cx with act := act1 } } (slotFaults g act1 i1)
    match ex i0 { s1 with cx := { s1.cx with act := guardLanes g lanes g0 } } with
    | .next s2 => ex i1 { s2 with cx := { s2.cx with act := act1 } }
    | r => r

/-- Whether a word reads a stream port. -/
def usesPort (d : DWord) : Bool :=
  dwordHas (fun i => (shapeOf i).uses.any (fun u => u.rd && opdPortish u.o)) d

/-- R249: an atomic or a fence of an earlier run that a port read must follow. -/
def portWaits (g : Gang) : Bool :=
  (g.relq ++ g.runs.flatMap (fun r => r.held)).any (fun h =>
    match h.eff with | .atoml _ | .fence _ => true | _ => false)

/-! ### The end of a run (R32, R80) -/

/-- R32, R27: where a lane of the clutch goes when its run ends, and whether it waits. -/
def endLane (r : RunIssue) (run : Nat) (after : W64) (i : Nat) (l : Lane) : Lane :=
  if maskHas r.exits i then { l with status := .exited, pc := after }
  else { l with
    pc := ((r.targets.find? (fun t => t.1 == i)).map (·.2)).getD after
    stamp := run + 1
    status := if maskHas r.waiters i then .waiting else l.status }

/-- The last word of a run has issued: every fixed-latency result becomes visible, the lanes take their next PCs, what
the run holds goes into quarantine. -/
def Gang.endRun (g0 : Gang) (cycle bounds : Nat) (after : W64) (park : Bool) : Gang :=
  let g := g0.settle lastDue
  match g.issue with
  | none => g
  | some r =>
    let lanes := r.clutch &&& ~~~r.gone
    let regs := (lanesOf lanes).foldl (fun t i => t.modLane i (endLane r g.run after i)) g.regs
    Gang.closeGatherings { g with
      regs := regs
      issue := none
      runs := g.runs ++ [⟨g.run, r.start, r.clutch, cycle, r.held, r.snapshot, r.exits &&& lanes⟩]
      run := g.run + 1
      waits := g.waits ++ r.waits
      seam := g.seam || park
      yielded := r.yielded
      ageBase := bounds }

/-- After a word: its lanes that parked or wait are gone, and the run goes on or ends. -/
def afterWord (s : State) (g : Gang) (seam : Seam) : State :=
  let gone := s.cx.parked
  let s1 := s.modGang g.uid (fun g => g.modIssue (fun r => { r with gone := r.gone ||| gone, idx := r.idx + 1 }))
  match (s1.gang? g.uid).bind (·.issue) with
  | none => s1
  | some r =>
    if seam ≠ .cont ∨ r.clutch &&& ~~~r.gone = 0#32 ∨ r.words.length ≤ r.idx then
      s1.modGang g.uid (fun g =>
        g.endRun s.cycle ((s.core g.core).part g.part).bounds (nextPc s.cx.pc) (seam == .park))
    else s1

/-- R80: THE ISSUE OF ONE WORD of the run in issue on a partition. Results due become visible first; a word that stalls
uses the cycle and has no effect. -/
def issueWord (ex : Instr → State → Res) (core part : Nat) (s : State) : Res :=
  match issuingGang s core part with
  | none => .next s
  | some g0 =>
    match g0.issue with
    | none => .next s
    | some r =>
      let pc := wordAfter r.start r.idx
      let lanes := r.clutch &&& ~~~r.gone
      let s1 := useCycle (partTurn s core part) core part
      let g := (g0.settle r.idx).meet lanes pc
      let s2 := { s1.modGang g.uid (fun _ => g) with cx := (⟨g.uid, pc, r.idx, lanes, 0, false, 0, false⟩ : Cx) }
      match decode (r.words.getD r.idx 0) with
      | .error _ => .next { afterWord s2 g .endRun with cx := Cx.idle }
      | .ok d =>
        if usesPort d && portWaits g then .next { s2 with cx := Cx.idle }
        else match issueDecoded ex s2 g lanes d with
          | .next s3 => .next { (if s3.cx.stall then s3 else afterWord s3 g d.seam) with cx := Cx.idle }
          | r => r

/-! ### Park seams (R82, R177, R250) -/

/-- Whether a held item is an engine command not yet accepted. -/
def isKick (h : HeldItem) : Bool :=
  match h.eff with
  | .kick .. => true
  | _ => false

/-- What a gang holds that has not left quarantine or has not been taken. -/
def Gang.heldItems (g : Gang) : List HeldItem := g.relq ++ g.runs.flatMap (fun r => r.held)

/-- R82, R250: whether the gang's park seam can complete; what its run waits for comes first (R287). -/
def Gang.seamReady (g : Gang) : Bool :=
  g.seam && g.issue.isNone && g.waits.isEmpty && g.out.all (fun o => o.arrived || !o.blocks) && !(g.heldItems.any isKick)

/-- R82: an effect on a register that a fixed-latency write also named: the result, or the value it has (log 2). -/
def seamEff (clob : List Dst) (s : State) (u : Nat) (e : Eff) : State :=
  if clob.contains e.dst then
    let c := s.choose
    if c.1 then c.2.modGang u (fun g => { g with regs := g.regs.apply e }) else c.2
  else s.modGang u (fun g => { g with regs := g.regs.apply e })

/-- An item held with the run, or released where its run has left quarantine. -/
def Gang.holdLate (g : Gang) (run : Nat) (h : HeldItem) : Gang :=
  if g.runs.any (fun r => r.seq == run) then
    { g with runs := g.runs.map (fun r => if r.seq = run then { r with held := r.held ++ [h] } else r) }
  else { g with relq := g.relq ++ [h] }

/-- R173: a result through a write port becomes a scratchpad write. -/
def Gang.holdPorts (g : Gang) (o : Outst) : Gang :=
  (o.effs.filter Eff.isLoc).foldl (fun g e =>
    match e with
    | .loc _ bs => { g.holdLate o.run ⟨g.ord, o.run, o.pc, .loc bs 0, 0⟩ with ord := g.ord + 1 }
    | _ => g) g

/-- R177: a deferred fault parks its lanes at the word after the seam; the record of a command's is asked for now
(R283). -/
def takeDeferred (u : Nat) (s : State) (d : DeferredFault) : State :=
  if d.taken ≠ 0 then s
  else
    match s.gang? u with
    | none => s
    | some g =>
      let m := d.lanes &&& g.regs.alive
      let s1 := s.modGang u (fun g => { g with
        regs := (lanesOf m).foldl (fun r i => r.modLane i (fun l => { l with status := .parked })) g.regs })
      if d.raised then s1 else raiseFault s1 { d.req with lanes := m }

/-- R120: the effects of a result that its gang still takes: those on the registers of an exited lane are discarded, and
with them what was bound for one of its write ports (DESIGN CHOICE, log 103). -/
def Gang.liveEffs (g : Gang) (es : List Eff) : List Eff :=
  es.filter (fun e => match e.lane? with
    | some i => (g.regs.lane i).status != .exited
    | none => true)

/-- R195: whether a commons write of the gang is one that the arbiter has taken, and that every gang already reads. -/
def commonsDone (s : State) (g : Gang) (o : Outst) (e : Eff) : Bool :=
  match e with
  | .c _ _ d => o.sent && !((s.core g.core).arbDone.any (fun w => w.gang == g.uid && w.ord == d))
  | _ => false

/-- One outstanding result becomes visible. -/
def applyOut (u : Nat) (s : State) (o : Outst) : State :=
  match s.gang? u with
  | none => s
  | some g =>
    let es := (g.liveEffs o.effs).filter (fun e => !(commonsDone s g o e))
    (es.foldl (fun s e => seamEff o.clob s u e) s).modGang u (fun g => g.holdPorts { o with effs := es })

/-- R82, R165: whether a result becomes visible at a park seam that completes now: the flags of `STE` only once its run
has left quarantine. -/
def Gang.outDue (g : Gang) (o : Outst) : Bool := o.arrived && !(o.kind == .afterQuar && g.runLive o.run)

/-- R82 PARK_SEAM_COMPLETE: the arrived results of earlier runs become visible, deferred faults park their lanes, and
the gang may issue again. -/
def execParkSeamComplete (gang : Nat) (s : State) : Res :=
  .next (match s.gang? gang with
    | none => s
    | some g0 =>
      let g := testWaits s g0
      if !g.seamReady then s
      else
        let ready := g.out.filter g.outDue
        let s1 := ready.foldl (applyOut gang) (s.modGang gang (fun _ => g))
        let s2 := g.deferred.foldl (takeDeferred gang) s1
        s2.modGang gang (fun x => { x with
          seam := false
          deferred := x.deferred.map (fun d => if d.taken = 0 then { d with taken := x.run, raised := true } else d)
          out := x.out.filter (fun o => !(g.outDue o))
          applied := x.applied ++ ready.map (fun o => { o with applied := x.run }) }))

/-! ### Results that return by themselves -/

/-- Whether two ranges of scratchpad offsets share a byte. -/
def offOverlap (a n b m : Nat) : Bool := decide (a < b + m ∧ b < a + n)

/-- Whether a held item before a place of the program order keeps a scratchpad read of some bytes waiting (R249): an
atomic of those bytes, or a fence. -/
def holdsRead (before off n : Nat) (h : HeldItem) : Bool :=
  decide (h.ord < before) &&
    (match h.eff with
      | .fence _ => true
      | .atoml a => a.lanes.any (fun l => offOverlap l.off (sizeBytes a.size) off n)
      | _ => false)

/-- R167: the effects of a scratchpad load read now. -/
def ldlEffs (s : State) (g : Gang) (o : Outst) (r : LdlReq) : List Eff :=
  match s.blockOf g with
  | none => []
  | some b =>
    let bs := gangBytes b (b.posOf g.core) (g.localWrites r.ord lastDue) r.off (sizeBytes r.size)
    loadEffs r.dst (r.lane.getD 0) o.ports o.ord r.size bs

/-- R42, R165: the effects of a decoded element, extended by its register type; its flags go to the register that the
kind of access governs. -/
def elemEffs (o : Outst) (r : LoadReq) (rt : ElemTy) (y : Nat × FFlags) : List Eff :=
  let x := extendTo (rtTy rt) 64 y.1
  (match r.dst with
    | .v n => [.v (r.lane.getD 0) n (BitVec.ofNat 32 x)]
    | .s n => [.s n (BitVec.ofNat 64 x)]
    | .c n => [.c n (BitVec.ofNat 64 x) o.ord]
    | .wport _ => o.ports.map (fun p => .loc (some p.1) (placed p.2.1 (leBytes p.2.2 x)))
    | _ => []) ++ flagEffs r.lane y.2

/-- R163, R165: the effects of a load whose bytes have been read. -/
def loadedEffs (o : Outst) (r : LoadReq) (bs : List Byte) : List Eff :=
  match r.fmt with
  | .raw z => loadEffs r.dst (r.lane.getD 0) o.ports o.ord z bs
  | .elem bit fmt rt => elemEffs o r rt (ldeConv fmt rt (bitField bs bit (elemBits fmt)))
  | .scaled bit fmt rt =>
    elemEffs o r rt (ldeScaled fmt rt ((bs.head?).getD 0).toNat (bitField (bs.drop 1) bit (elemBits fmt)))

/-- R82, R172 VARIABLE_RESULT_RETURN: an outstanding result comes back: a value, a load that has been read, a scratchpad
read made now, a page query (R365), flags whose run has left quarantine. -/
def execVariableResultReturn (gang i : Nat) (s : State) : Res :=
  .next (match s.gang? gang with
    | none => s
    | some g =>
      match g.out[i]? with
      | none => s
      | some o =>
        if o.arrived then s
        else match o.kind with
          | .value => s.modGang gang (fun g => g.arrive o.id [])
          | .afterQuar => if g.runLive o.run then s else s.modGang gang (fun g => g.arrive o.id [])
          | .load r =>
            match r.got with
            | none => s
            | some bs =>
              if !o.blocks then s.modGang gang (fun g => { g with out := g.out.filter (fun x => x.id != o.id) })
              else s.modGang gang (fun g => g.arrive o.id (if r.poison then [] else loadedEffs o r bs))
          | .ldl r =>
            if (g.heldItems ++ (g.issue.elim [] (fun r => r.held))).any (holdsRead r.ord r.off (sizeBytes r.size)) then s
            else s.modGang gang (fun g => g.arrive o.id (ldlEffs s g o r))
          | .pgq va dst =>
            let asid := gangAsid (s.blockOf g)
            if queryAsleep s g.core asid va then s
            else
              let leaf := ((queryLeaf s g.core asid va).map (fun l => physCells l.leafPa 16)).getD []
              (ownRead (askWalks s g.core true asid [va]) g.core (some asid) leaf).modGang gang (fun g =>
                g.arrive o.id (gangEffs o.ord dst (pageQuery s g.core asid va)))
          | .unit => s)

end Sys2Proof.Machine
end

