-- ==== Sys2Proof/Machine/Blocks.lean ====
section
/-! DEFINITION. Machine/Blocks.lean: what becomes of a block as a whole: killing it (R335), relaunching or flushing it
(R11, R323, R330), the standing of its task in a quorum join (R374, R378, R379), terminating a context (R303).
-/
namespace Sys2Proof.Machine

/-! ### Records of blocks -/

/-- The record of a block as it stands, for a unit other than a thread (R179). CORE is the block's first core, also where
another core of a spanning block is fenced or reset (R206): DESIGN CHOICE, log 92. -/
def blockFault (s : State) (b : Block) (cause detail : Nat) (pc addr : W64) : FaultReq :=
  { asid := b.asid, cause := cause, detail := detail, pc := pc, addr := addr, last := b.lastPc, time := s.now, lanes := 0,
    commits := b.commits, block := b.idx, launch := b.launch, gang := 0, core := (b.cores.head?).getD 0, deferred := false,
    replayable := b.replayable, forced := b.forced, waited := false, guid := none, buid := some b.uid, op := none,
    inert := false, host := false }

/-! ### Pins (R234, R284) -/

/-- Pages pinned, each named by its leaf entry. -/
def pinAll (s : State) (pins : List Nat) : State :=
  { s with pins := pins.foldl (fun t p => tabPut 0 t p (tabGet 0 t p + 1)) s.pins }

/-- Pins released. -/
def unpin (s : State) (pins : List Nat) : State :=
  { s with pins := pins.foldl (fun t p => tabPut 0 t p (tabGet 0 t p - 1)) s.pins }

/-! ### Quorum joins: the standing of tasks (R370, R374, R378) -/

/-- A field of a join record. -/
def joinBits (x : BitVec 1024) (hi lo : Nat) : Nat := bitsOf x.toNat hi lo

/-- R370: NTASK. -/
def joinTasks (x : BitVec 1024) : Nat := joinBits x 479 467
/-- R370: the quorum. -/
def joinQuorum (x : BitVec 1024) : Nat := ceilDiv (joinTasks x * joinBits x 466 454) (joinBits x 453 441)
/-- R370: CBASE. -/
def joinCbase (x : BitVec 1024) : Nat := joinBits x 959 896
/-- R371: the stride of the slots in bytes. -/
def joinStride (x : BitVec 1024) : Nat := 64 * joinBits x 639 608

/-- A task's standing. -/
def Join.task (j : Join) (i : Nat) : TaskState := tabGet .pending j.tasks i

/-- A task's standing changed. -/
def Join.setTask (j : Join) (i : Nat) (t : TaskState) : Join := { j with tasks := tabPut .pending j.tasks i t }

/-- The tasks of a join with a standing. -/
def Join.withState (j : Join) (t : TaskState) : List Nat := (List.range (joinTasks j.image)).filter (fun i => j.task i == t)

/-- The live join that a launch is bound to. -/
def State.join? (s : State) (launch : Nat) : Option Join := s.joins.find? (fun j => j.launch == launch)

/-- Change of one join. -/
def State.modJoin (s : State) (launch : Nat) (f : Join → Join) : State :=
  { s with joins := s.joins.map (fun j => if j.launch = launch then f j else j) }

/-- R378 step 1: the tasks that have not been placed, and never will be. -/
def unplacedTasks (s : State) (l : Launch) (j : Join) : List Nat :=
  (j.withState .pending).filter (fun i =>
    decide (l.next ≤ i) || s.blocks.any (fun b => b.launch == l.id && b.idx == i && b.phase == .unplaced))

/-- R378 step 1: the join is released; every task that has not arrived, spoiled ones among them, is marked, and one not
yet placed never is. -/
def markStragglers (s : State) (launch : Nat) (short : Bool) : State :=
  match s.join? launch, s.launch? launch with
  | some j, some l =>
    let lost := unplacedTasks s l j
    let s1 := s.modJoin launch (fun j =>
      let m := (j.withState .pending).foldl (fun j i => j.setTask i .marked) j
      { m with released := true, short := short, releaseNs := s.now })
    let s2 := s1.modLaunch launch (fun l => { l with killed := l.killed + lost.length, skipped := l.skipped ++ lost })
    { s2 with blocks := s2.blocks.filter (fun b => !(b.launch == launch && b.phase == .unplaced && lost.contains b.idx)) }
  | _, _ => s

/-- R374: the tasks that can still arrive. -/
def ableTasks (j : Join) : List Nat := (j.withState .pending).filter (fun i => !(j.spoiled.contains i))

/-- R374: a release without a quorum, once too few tasks can still arrive. -/
def checkQuorum (s : State) (launch : Nat) : State :=
  match s.join? launch with
  | none => s
  | some j =>
    if !j.released && decide (j.arrived + (ableTasks j).length < joinQuorum j.image) then markStragglers s launch true
    else s

/-- Whether a block is a marked straggler. -/
def isMarked (s : State) (b : Block) : Bool := ((s.join? b.launch).map (fun j => j.task b.idx == .marked)).getD false

/-- R374, R379: what the kill of a block does to its join: a task not yet arrived fails; a marked straggler counts and
leaves its record, with the address and PC of its kill point. -/
def joinKill (s : State) (b : Block) (addr pc : W64) : State :=
  match s.join? b.launch with
  | none => s
  | some j =>
    match j.task b.idx with
    | .pending => checkQuorum (s.modJoin b.launch (fun j => j.setTask b.idx .failed)) b.launch
    | .marked =>
      raiseFault (s.modJoin b.launch (fun j => { j.setTask b.idx .failed with killed := j.killed + 1 }))
        { blockFault s b 0x43 b.idx pc addr with inert := true }
    | _ => s

/-! ### What a block leaves behind -/

/-- The gangs of a block, resident or saved. -/
def blockGangs (s : State) (b : Block) : List Nat :=
  (s.gangs.filter (fun g => g.block == b.uid)).map (·.uid) ++ b.savedGangs.map (·.uid)

/-- Whether an operation at the Cistern is a `MIGR`, which stands without its block (R323, R366). -/
def UnitOp.isMigr (o : UnitOp) : Bool :=
  match o.item.eff with
  | .migr .. => true
  | _ => false

/-- R335, R284: the requests, commands and gathers of a block cancelled and their pins released; what a commit has
already made final stands (R417), and so does a `MIGR` (R323). -/
def cancelEngines (s : State) (b : Block) : State :=
  let gs := blockGangs s b
  let gone := fun (g : GathOp) => g.block == b.uid && !(g.scad && g.sent)
  let pins := (s.copies.filter (fun c => c.block == b.uid)).flatMap (·.pins) ++
    (s.mats.filter (fun m => m.block == b.uid)).flatMap (·.pins)
  let ids := (s.gaths.filter gone).map (·.id)
  let s1 := unpin s pins
  let s2 := b.cores.foldl (fun s c => s.modCore c (fun k =>
    { k with
      kickQ := k.kickQ.filter (fun e => !(gs.contains e.gang))
      matQ := k.matQ.filter (fun e => !(gs.contains e.1))
      gathQ := k.gathQ.filter (fun e => !(gs.contains e.1))
      arbDone := k.arbDone.filter (fun w => w.block != b.uid) })) s1
  { s2 with
    copies := s2.copies.filter (fun c => c.block != b.uid)
    mats := s2.mats.filter (fun m => m.block != b.uid)
    gaths := s2.gaths.filter (fun g => !gone g)
    subs := s2.subs.filter (fun x => !((x.own.map (fun i => ids.contains i)).getD false))
    cisQ := s2.cisQ.filter (fun o => !(gs.contains o.gang) || o.isMigr)
    barQ := s2.barQ.filter (fun o => !(gs.contains o.gang))
    joinQ := s2.joinQ.filter (fun o => !(gs.contains o.gang)) }

/-- R305: the arrivals of one block of a package (0: this one) withdrawn from an object's present phase. -/
def BarObj.withdraw (o : BarObj) (pkg block : Nat) : BarObj :=
  let keep := o.arrivals.filter (fun a => !(a.1 == pkg && a.2.1 == block))
  { o with count := o.count - (o.arrivals.length - keep.length), arrivals := keep }

/-- R305: whether a block has arrived, or waits, at an object of another package. -/
def BarObj.usedAfar (o : BarObj) (block : Nat) (gs : List Nat) : Bool :=
  isRemote o.cell.pa && (o.arrivals.any (fun a => a.2.1 == block) || o.waiters.any (fun w => gs.contains w.1))

/-- Whether a remote request is a barrier operation of one of some gangs. -/
def RemOut.isBarrier (gs : List Nat) (r : RemOut) : Bool :=
  match r.kind with
  | .barrier g .. => gs.contains g
  | _ => false

/-- R305: the arrivals of a block withdrawn from phases not yet released, and its waits; the networks of other packages
are told to do so, and its operations on their way there are not sent again (log 63). -/
def withdrawBarriers (s : State) (b : Block) : State :=
  let gs := blockGangs s b
  let far := s.bars.filter (fun o => o.usedAfar b.uid gs)
  let s1 := { s with
    bars := s.bars.map (fun o => { o.withdraw 0 b.uid with waiters := o.waiters.filter (fun w => !(gs.contains w.1)) })
    remOut := (s.remOut.filter (fun r => r.hasTag || !(r.isBarrier gs))).map (fun r =>
      if r.isBarrier gs then { r with kind := .cancelled } else r) }
  far.foldl (fun s o => (sendRemote s (.withdraw b.uid o.va) (remoteTarget o.cell.pa) b.asid).1) s1

/-- A page that the join names, as it was translated. -/
def Join.cell (j : Join) (va : Nat) : Option Cell :=
  (j.pages.find? (fun p => p.1 == va / 2 ^ 16)).map (fun p => { p.2 with pa := p.2.pa + va % 2 ^ 16, va := va })

/-- The cells of `n` bytes from an address. -/
def Join.cells (j : Join) (va n : Nat) : List Cell := (List.range n).filterMap (fun i => j.cell (va + i))

/-- Bytes at home, and whether one of them is uncorrectable. -/
def Join.read (j : Join) (s : State) (va n : Nat) : List Byte × Bool :=
  let xs := (j.cells va n).map (readHome s)
  (xs.map (·.1), xs.any (·.2))

/-- R336: the requests of such reads. -/
def Join.ask (j : Join) (s : State) (reads : List (Nat × Nat)) : State :=
  ownRead s ownUnit (some j.asid) (reads.flatMap (fun p => j.cells p.1 p.2))

/-- Bytes written at home. -/
def Join.write (j : Join) (s : State) (va : Nat) (bs : List Byte) : State :=
  ownWrite s ownUnit (some j.asid) (stCells (j.cells va bs.length) bs)

/-- Bits of bytes written at home. -/
def Join.writeBits (j : Join) (s : State) (va : Nat) (bs masks : List Byte) : State :=
  ownWrite s ownUnit (some j.asid) (((j.cells va bs.length).zip (bs.zip masks)).map (fun p => ⟨p.1, p.2.1, p.2.2⟩))

/-- R370: the bits of the fields of a record that the Cistern writes. -/
def joinRoBits : Nat :=
  (2 ^ 576 - 2 ^ 544) + (2 ^ 512 - 2 ^ 480) + (2 ^ 441 - 2 ^ 404) + (2 ^ 397 - 2 ^ 388)

/-- R323, R373: the provisional launches of a block withdrawn, with the joins they armed, whose records have STATE 0 (log 21);
a program's store to a field of its own stands. -/
def withdrawLaunches (s : State) (b : Block) : State :=
  let ids := (s.launches.filter (fun l => l.provisional == some b.uid)).map (·.id)
  let js := s.joins.filter (fun j => ids.contains j.launch)
  let s1 := js.foldl (fun s j =>
    unpin (j.writeBits s j.va (leBytes 128 (j.image.toNat - joinBits j.image 389 388 * 2 ^ 388)) (leBytes 128 joinRoBits)) j.pins) s
  { s1 with
    launches := s1.launches.filter (fun l => !(ids.contains l.id))
    joins := s1.joins.filter (fun j => !(ids.contains j.launch)) }

/-- Whether a block is resident on its cores. -/
def Block.resident (b : Block) : Bool := b.phase == .running || b.phase == .preempting

/-- R210: cores on which no block is left are empty: their split is free and their L1 holds nothing. -/
def freeCores (s : State) (cores : List Nat) : State :=
  cores.foldl (fun s c =>
    if s.blocks.any (fun b => b.resident && b.cores.contains c) then s
    else s.modCore c (fun k => { k with l1size := 0, l1 := [] })) s

/-- A block leaves its cores: the lines that serve it alone go with it. -/
def dropOwned (s : State) (u : Nat) (cores : List Nat) : State :=
  cores.foldl (fun s c => s.modCore c (fun k => { k with l1 := k.l1.filter (fun e => e.owner != u) })) s

/-- R332: the replies to the records of a flushed or relaunched block take no action. -/
def muteRecords (s : State) (u : Nat) : State :=
  let mute := fun (r : FaultReq) => if r.buid = some u then { r with inert := true } else r
  { s with
    slots := s.slots.map (fun x => { x with req := mute x.req })
    faultQ := s.faultQ.map mute }

/-- A block that has ended or been killed is forgotten once its commits are complete (R242); one that made the latest
arrival at an object, which a record of its expiry names (R302), is kept. -/
def dropEnded (s : State) (b : Nat) : State :=
  if s.bars.any (fun o => o.last == b && o.valid && !o.expired) then s
  else { s with blocks := s.blocks.filter (fun x => !(x.uid == b && x.phase == .ended && x.pipeline.isEmpty)) }

/-- R327: whether every placed block of a launch is saved. -/
def allSaved (s : State) (launch : Nat) : Bool :=
  let bs := s.blocks.filter (fun b => b.launch == launch && b.phase != .unplaced && b.phase != .ending && b.phase != .ended)
  !bs.isEmpty && bs.all (fun b => b.phase == .saved)

/-- R327: whether all its placed blocks are saved has perhaps changed for a launch: the interval in which they are begins
or ends. -/
def markSaved (s : State) (launch : Nat) : State :=
  let all := allSaved s launch
  s.modLaunch launch (fun l =>
    if all then { l with savedSince := l.savedSince.orElse (fun _ => some s.now) }
    else { l with pausedNs := l.pausedNs + (l.savedSince.map (fun t => s.now - t)).getD 0, savedSince := none })

/-- Its gangs leave their partitions. -/
def removeGangs (s : State) (b : Block) : State := { s with gangs := s.gangs.filter (fun g => g.block != b.uid) }

/-- The space a saved block holds in its context's save area is free again. -/
def freeSave (s : State) (b : Block) : State :=
  { s with saveUsed := tabPut 0 s.saveUsed b.asid (tabGet 0 s.saveUsed b.asid - b.savedBytes) }

/-- R120, R241: whether a block has ended: only its last commit may still be under way. -/
def Block.over (b : Block) : Bool := b.phase == .ending || b.phase == .ended

/-- What ends a block before its time: its requests, arrivals and, while it was replayable, its launches. -/
def stripBlock (s : State) (b : Block) : State :=
  let s1 := freeSave (withdrawBarriers (cancelEngines s b) b) b
  removeGangs (if b.replayable then withdrawLaunches s1 b else s1) b

/-- R335: one block killed; nothing of one that has ended is left to kill. `addr` and `pc` say at which kill point a
marked straggler dies. -/
def killOne (s : State) (u : Nat) (addr pc : W64) : State :=
  match s.block? u with
  | none => s
  | some b =>
    if b.over then s
    else
      let s1 := stripBlock (joinKill s b addr pc) b
      let s2 := s1.modBlock u (fun b => { b with phase := .ended, sb := [], sbTiles := [], scads := [], savedGangs := [], replies := [] })
      let s3 := dropEnded (s2.modLaunch b.launch (fun l => { l with killed := l.killed + 1 })) u
      markSaved (freeCores (dropOwned s3 u b.cores) b.cores) b.launch

/-- R335: KILLING A BLOCK; of a co-operative grid, every block. -/
def killBlock (s : State) (u : Nat) (addr pc : W64) : State :=
  match s.block? u with
  | none => s
  | some b =>
    let grid := ((s.launch? b.launch).map (·.coop)).getD false
    let others := if grid then (s.blocks.filter (fun x => x.launch == b.launch && x.uid != u)).map (·.uid) else []
    others.foldl (fun s x => killOne s x 3 0) (killOne s u addr pc)

/-- A kill by a cause other than a kill point of a join (R379). -/
def killPlain (s : State) (u : Nat) : State := killBlock s u 3 0

/-- R11, R323, R330, R334: a replayable block starts again from its beginning, on another quad if one is named; a marked
straggler is killed instead (R379). A block of a co-operative grid is relaunched alone, the rest of the grid running on
(R39 and R334 leave it open: DESIGN CHOICE, log 66). -/
def relaunchBlock (s : State) (u : Nat) (avoid : Option Nat) : State :=
  match s.block? u with
  | none => s
  | some b =>
    if b.over then s
    else if isMarked s b then killPlain s u
    else
      let s1 := (stripBlock s b).modBlock u (fun b => { b with
        phase := .unplaced, cores := [], span := 0, sb := [], sbTiles := [], scads := [], progress := 0
        avoidQuad := avoid, lastExit := none, scratch := [], upset := [], commons := [], tiles := [], savedGangs := [], savedBytes := 0
        consumption := [], drain := false, replies := [] })
      markSaved (freeCores (dropOwned (muteRecords s1 u) u b.cores) b.cores) b.launch

/-- R206, R209, R334: blocks that lose their core: of each a record, which tells its fate and whose reply does nothing for
one that is relaunched; then each is relaunched where it has not committed, else killed. -/
def evictBlocks (s : State) (bs : List Block) (cause detail : Nat) : State :=
  let live := bs.filter (fun b => !b.over)
  let s1 := live.foldl (fun s b => raiseFault s { blockFault s b cause detail 0 0 with inert := b.replayable }) s
  live.foldl (fun s b => if b.replayable then relaunchBlock s b.uid ((b.cores.head?).map quadOf) else killPlain s b.uid) s1

/-- R389: a bit of NOTICE is set; going from 0 to 1 it raises the vector of the same number. -/
def setNotice (s : State) (bit : Nat) : State :=
  if s.notice.getLsbD bit then s
  else { s with notice := s.notice ||| (1#5 <<< bit), msix := s.msix ++ [bit] }

/-- R303: A CONTEXT IS TERMINATED: no more dispatch, every block killed, its other barrier objects closed. -/
def terminate (s : State) (asid : Nat) : State :=
  let s1 := setNotice { s with dead := tabPut false s.dead asid true } 3
  let us := (s1.blocks.filter (fun b => b.asid == asid)).map (·.uid)
  let s2 := us.foldl killPlain s1
  { s2 with
    bars := s2.bars.map (fun o => if o.asid = asid then { o with expired := true } else o)
    remOut := s2.remOut.filter (fun r => r.asid != asid || (match r.kind with | .write .. | .sub .. | .inval _ | .withdraw .. | .compl .. => true | _ => false)) }

/-- A join record's address as an address of the launch's context. -/
def joinAt (s : State) (asid va : Nat) : Option Join := s.joins.find? (fun j => j.asid == asid && j.va == va)

end Sys2Proof.Machine
end

