-- ==== Sys2Proof/Machine/Notice.lean ====
section
/-! DEFINITION. Machine/Notice.lean: the package error log (R391), fault records and the
supervisor's notices (R178, R303, R315).
-/
namespace Sys2Proof.Machine

/-! ### The error log (R391) -/

/-- R391: RING, in bytes. -/
def elogRing (c : W64) : Nat := bitsOf c.toNat 63 12 * 4096

/-- R391: the number of entries of the ring. -/
def elogSize (c : W64) : Nat := 2 ^ bitsOf c.toNat 11 8 * 64

/-- R391: an entry as 32 bytes. -/
def elogEntry (time place seq ovf kind detail : Nat) : List Byte :=
  leBytes 32 (time % 2 ^ 64 * 2 ^ 192 + place % 2 ^ 64 * 2 ^ 128 + seq % 2 ^ 32 * 2 ^ 96 + ovf % 2 ^ 32 * 2 ^ 64 +
    kind % 2 ^ 8 * 2 ^ 56 + detail % 2 ^ 56)

/-- R391: an entry is written at TAIL, or dropped and counted while the ring is full; with RING 0 it is only counted
(log 22). -/
def elogWrite (s : State) (kind place detail : Nat) : State :=
  let e := s.elog
  let ring := elogRing e.ctl
  let n := elogSize e.ctl
  if ring = 0 then { s with elog := { e with ovf := e.ovf + 1 } }
  else if (e.tail - e.head).toNat ≥ n then { s with elog := { e with ovf := e.ovf + 1 } }
  else
    let s1 := writePhys s ownUnit none (ring + 32 * (e.tail.toNat % n)) (elogEntry s.now place e.tail.toNat e.ovf kind detail)
    setNotice { s1 with elog := { e with tail := e.tail + 1, ovf := 0 } } 1

/-! ### Fault records (R178) -/

/-- R178: the number of slots of a context. -/
def faultSlots : Nat := 1024

/-- R178: the lowest free slot of a context. -/
def freeSlot (s : State) (asid : Nat) : Option Nat :=
  (List.range faultSlots).find? (fun i => !(s.slots.any (fun x => x.asid == asid && x.slot == i)))

/-- R178: a record as 64 bytes. -/
def faultRecord (r : FaultReq) (slot seq : Nat) : List Byte :=
  let b := fun (x : Bool) => if x then 1 else 0
  leBytes 64 (r.addr.toNat * 2 ^ 448 + r.pc.toNat * 2 ^ 384 + r.last.toNat * 2 ^ 320 + r.time % 2 ^ 64 * 2 ^ 256 +
    r.lanes.toNat * 2 ^ 224 + r.commits % 2 ^ 32 * 2 ^ 192 + r.block % 2 ^ 32 * 2 ^ 160 + r.detail % 2 ^ 32 * 2 ^ 128 +
    r.launch % 2 ^ 32 * 2 ^ 96 + r.gang % 2 ^ 8 * 2 ^ 88 + r.core % 2 ^ 6 * 2 ^ 82 + r.asid % 2 ^ 11 * 2 ^ 71 +
    r.cause % 2 ^ 8 * 2 ^ 56 + b r.deferred * 2 ^ 55 + b r.replayable * 2 ^ 54 + b r.forced * 2 ^ 53 +
    b r.waited * 2 ^ 52 + slot % 2 ^ 10 * 2 ^ 32 + seq % 2 ^ 32)

/-- The key under which the diagnostic record of a barrier object waits (R303). -/
def diagKey (asid va : Nat) : Nat := asid * 2 ^ 64 + va

/-- R303: the diagnostic record that goes before a watchdog's fault record. -/
def writeDiag (s : State) (r : FaultReq) (slot : Nat) : State :=
  if r.cause = 0x30 then
    let k := diagKey r.asid r.addr.toNat
    match s.diagQ.find? (fun d => d.1 == k) with
    | none => s
    | some d => { writePhys s ownUnit (some r.asid) (ctxDiag (ctxRec s r.asid) + 512 * slot) d.2 with diagQ := s.diagQ.filter (fun d => d.1 != k) }
  else s

/-- R320, R315: 1 less on WAIT of a launch. -/
def waitLess (s : State) (id : Nat) : State := s.modLaunch id (fun l => { l with wait := l.wait - 1 })

/-- The oldest of some launches. -/
def oldestLaunch (l : List Launch) : Option Launch :=
  l.foldl (fun a x => match a with | none => some x | some y => if x.seq < y.seq then some x else a) none

/-- R315: the supervisor learns of a record. -/
def notifySupervisor (s : State) (asid : Nat) (host : Bool) : State :=
  let q := ctxSupq (ctxRec s asid)
  if q = 0xFFF ∨ host ∨ tabGet false s.dead asid then setNotice s 0
  else match oldestLaunch (s.launches.filter (fun l => l.queue == q && l.wait != 0)) with
    | some l => waitLess s l.id
    | none => { s with qnotices := tabPut 0 s.qnotices q (tabGet 0 s.qnotices q + 1) }

/-- The first request of a context that its allocator has not served. -/
def nextFault (s : State) (asid : Nat) : Option Nat := s.faultQ.findIdx? (fun r => r.asid == asid)

/-- R342: whether a record has to wait for a stack in self-refresh. -/
def recordAsleep (s : State) (asid slot : Nat) (r : FaultReq) : Bool :=
  areaAsleep s (ctxFaults (ctxRec s asid) + 64 * slot) 64 ||
    (r.cause == 0x30 && areaAsleep s (ctxDiag (ctxRec s asid) + 512 * slot) 512)

/-- R178 FAULT_RECORD_WRITE: the context's oldest request obtains the lowest free slot and is written whole; then the
supervisor is notified. With every slot occupied, or the slot on a stack in self-refresh, it waits. A context without a valid record has no area (log 23). -/
def execFaultRecordWrite (asid : Nat) (s : State) : Res :=
  .next (match nextFault s asid with
    | none => s
    | some i =>
      match s.faultQ[i]? with
      | none => s
      | some r =>
        let s1 := { s with faultQ := s.faultQ.eraseIdx i }
        if !(ctxValid s asid) then s1
        else match freeSlot s asid with
          | none => { s with faultQ := s.faultQ.map (fun x => if x.asid = asid then { x with waited := true } else x) }
          | some slot =>
            if recordAsleep s asid slot r then s
            else
            let seq := tabGet 0 s.faultSeq asid
            let s2 := writeDiag s1 r slot
            let s3 := writePhys s2 ownUnit (some asid) (ctxFaults (ctxRec s asid) + 64 * slot) (faultRecord r slot seq)
            notifySupervisor { s3 with
              slots := s3.slots ++ [⟨asid, slot, seq, r⟩]
              faultSeq := tabPut 0 s3.faultSeq asid ((seq + 1) % 2 ^ 32) } asid r.host)

end Sys2Proof.Machine
end

