-- ==== Sys2Proof/Machine/Strike.lean ====
section
/-! DEFINITION. Machine/Strike.lean: quarantine and the release of what a run holds (R202, R249), strike reports and
replay (R203, R86, R152), Chorus checks and fences (R204 to R206), the commons arbiter (R195), register donation (R197,
R198), and a TLB fill (R175).
-/
namespace Sys2Proof.Machine

/-! ### Donation (R197, R198) -/

/-- The gang of a block with an index. -/
def gangOfBlock (s : State) (block idx : Nat) : Option Gang := s.gangs.find? (fun g => g.block == block && g.idx == idx)

/-- R198: the donation-mismatch fault of a gang: its clutch parks at the word, its request is gone. -/
def donateFault (s : State) (u : Nat) : State :=
  match s.gang? u with
  | none => s
  | some g =>
    match g.donation with
    | none => s
    | some d =>
      let m := d.lanes &&& g.regs.alive
      let s1 := s.modGang u (fun g => { g with
        donation := none
        regs := (lanesOf m).foldl (fun r i => r.modLane i (fun l => { l with status := .parked, pc := d.pc })) g.regs })
      raiseFault s1 (faultFor s g 0x25 0 d.pc 0 m)

/-- R197: whether a request cannot stand: its partner is the gang itself, no gang of the block on the core, in another
partition, or ended. -/
def donateBad (s : State) (g : Gang) (d : Donation) : Bool :=
  d.partner == g.idx || d.partner % 16 != g.idx % 16 ||
    (match gangOfBlock s g.block d.partner with
      | none => true
      | some t => t.core != g.core)

/-- R198: whether a placed request of `t` names `g`. -/
def donateNames (t g : Gang) : Bool := (t.donation.map (fun d => d.placed && d.partner == g.idx)).getD false

/-- R198: whether the requests of two gangs meet. -/
def donateMeet (g t : Gang) : Bool :=
  match g.donation, t.donation with
  | some a, some b =>
    a.placed && b.placed && a.partner == t.idx && b.partner == g.idx && a.give != b.give && a.n == b.n
  | _, _ => false

/-- R197: a request is placed in the donation table, and checked. -/
def donatePlace (s : State) (u : Nat) : State :=
  let s1 := s.modGang u (fun g => { g with donation := g.donation.map (fun d => { d with placed := true }) })
  match s1.gang? u with
  | none => s1
  | some g =>
    match g.donation with
    | none => s1
    | some d =>
      if donateBad s1 g d then donateFault s1 u
      else match gangOfBlock s1 g.block d.partner with
        | none => s1
        | some t => if donateNames t g && !(donateMeet g t) then donateFault (donateFault s1 t.uid) u else s1

/-- R198: whether a gang has a variable-latency register result that has not come. -/
def Gang.owesResult (g : Gang) : Bool := g.out.any (fun o => !o.arrived && !o.dsts.isEmpty)

/-- R198: the giver's highest names leave it. -/
def Gang.giveRegs (g : Gang) (n : Nat) : Gang :=
  { g with
    vregs := g.vregs - n
    donation := none
    regs := { g.regs with lanes := g.regs.lanes.map (fun l => { l with v := l.v.filter (fun p => decide (p.1 < g.vregs - n)) }) } }

/-- R198: the taker gains names, each zero. -/
def Gang.takeRegs (g : Gang) (n : Nat) : Gang :=
  { g with
    vregs := g.vregs + n
    donation := none
    regs := { g.regs with lanes := g.regs.lanes.map (fun l => { l with v := l.v.filter (fun p => decide (p.1 < g.vregs)) }) } }

/-- R198 DONATION_TAKE_EFFECT: two requests that meet move the registers, once no register result is outstanding. -/
def execDonationTakeEffect (gang : Nat) (s : State) : Res :=
  .next (match s.gang? gang with
    | none => s
    | some g =>
      match g.donation.bind (fun d => gangOfBlock s g.block d.partner) with
      | none => s
      | some t =>
        if !(donateMeet g t) || g.owesResult || t.owesResult then s
        else
          let n := (g.donation.map (·.n)).getD 0
          let gives := (g.donation.map (·.give)).getD false
          let giver := if gives then g else t
          let taker := if gives then t else g
          if giver.vregs < n + 8 ∨ taker.vregs + n > 256 then donateFault (donateFault s giver.uid) taker.uid
          else (s.modGang giver.uid (fun x => x.giveRegs n)).modGang taker.uid (fun x => x.takeRegs n))

/-! ### Release (R202) -/

/-- R297, R321, R376: whether an item is released only after every earlier `PUB`, `PHASE` and `FENCE` has completed. -/
def waitsBoundary : Held → Bool
  | .bara .. | .launch .. | .jarr .. => true
  | _ => false

/-- Whether an item goes to the store buffer and home in program order. -/
def isGlobal (h : HeldItem) : Bool :=
  match h.eff with
  | .store .. => true
  | .pub _ sent | .phase _ sent => sent.isNone
  | .atom a => !a.left
  | _ => false

/-- R202: whether an item of a gang stands behind one that is not released yet. -/
def Gang.behind (g : Gang) (h : HeldItem) : Bool := g.relq.any (fun e => decide (e.ord < h.ord) && waitsBoundary e.eff)

/-- Whether an item is a `PUB`, `PHASE` or `FENCE`. -/
def isBoundary : Held → Bool
  | .pub .. | .phase .. | .fence .. => true
  | _ => false

/-- R376, R382: whether an item is a `JARR`, which commits what the buffer has accepted: it follows the gang's earlier
stores there. -/
def isArrival : Held → Bool
  | .jarr .. => true
  | _ => false

/-- Whether an item is a local access or a store, which a `FENCE` waits for and holds back (R249). -/
def fenceKeeps : Held → Bool
  | .loc .. | .atoml _ | .store .. => true
  | _ => false

/-- R249: whether a `FENCE` can complete after the items that stand before it. -/
def fenceDone (g : Gang) (earlier : List HeldItem) (h : HeldItem) : Bool :=
  !(earlier.any (fun e => fenceKeeps e.eff)) &&
    g.out.all (fun o => match o.kind with | .ldl r => o.arrived || decide (h.ord < r.ord) | _ => true)

/-- R3: the Basin cycle in which a core cycle begins: 1.6 GHz beside 2.0 GHz (log 97). -/
def basinCycle (cycle : Nat) : Nat := cycle * 4 / 5

/-- R241: a block's latest `EXIT` to leave quarantine: the later Basin cycle, then the lower core, then the lower
partition. -/
def laterExit (old : Option LastExit) (x : LastExit) : Option LastExit :=
  match old with
  | none => some x
  | some o =>
    if basinCycle o.cycle < basinCycle x.cycle ∨
        (basinCycle o.cycle = basinCycle x.cycle ∧ (x.core < o.core ∨ (x.core = o.core ∧ x.part ≤ o.part))) then some x
    else some o

/-- R241: the `EXIT` of a run that leaves quarantine, where it has ended a lane. -/
def RunRec.lastExit (r : RunRec) (g : Gang) (cycle : Nat) : Option LastExit :=
  if r.exits = 0#32 then none
  else (r.held.find? (fun h => match h.eff with | .exit _ => true | _ => false)).map (fun h => ⟨cycle, g.core, g.part, h.pc⟩)

/-- R241: it is the block's latest one, if it is the later. -/
def Block.exitLeaves (b : Block) (x : Option LastExit) : Block :=
  match x with
  | none => b
  | some x => { b with lastExit := laterExit b.lastExit x }

/-- R417: whether an earlier `SCAD` of a gang has yet to enter the store buffer. -/
def gathersBefore (s : State) (g : Gang) (h : HeldItem) : Bool :=
  (s.core g.core).gathQ.any (fun e => e.1 == g.uid && decide (e.2.ord < h.ord) && (match e.2.eff with
    | .gath scad .. => scad
    | _ => false))

/-- One released item, after those that stay: whether it stays too, and what it does. In program order (R202): behind an
item that is not released yet nothing is. -/
def releaseOne (u : Nat) (acc : State × List HeldItem) (h : HeldItem) : State × List HeldItem :=
  let s := acc.1
  let stay := (s, acc.2 ++ [h])
  match s.gang? u with
  | none => stay
  | some g =>
    if acc.2.any (fun e => waitsBoundary e.eff) || (waitsBoundary h.eff && acc.2.any (fun e => isBoundary e.eff)) ||
        (isArrival h.eff && (acc.2.any isGlobal || gathersBefore s g h)) then stay
    else match h.eff with
      | .kick first n =>
        if kickQueueSize ≤ (s.core g.core).kickQ.length ∨ acc.2.any isKick then stay
        else (s.modCore g.core (fun c => { c with kickQ := c.kickQ ++ [⟨u, first, n, 0, h.pc, h.ord⟩] }), acc.2)
      | .cmd _ => (s.modCore g.core (fun c => { c with matQ := c.matQ ++ [(u, h)] }), acc.2)
      | .gath .. => (s.modCore g.core (fun c => { c with gathQ := c.gathQ ++ [(u, h)] }), acc.2)
      | .bari .. | .bara .. | .barw .. | .bart .. => ({ s with barQ := s.barQ ++ [⟨u, h, false⟩] }, acc.2)
      | .prog p => (s.modBlock g.block (fun b => { b with progress := p }), acc.2)
      | .launch .. | .migr .. => ({ s with cisQ := s.cisQ ++ [⟨u, h, false⟩] }, acc.2)
      | .jarr .. | .jwait .. | .killpt _ | .jstat .. => ({ s with joinQ := s.joinQ ++ [⟨u, h, false⟩] }, acc.2)
      | .donate .. => (donatePlace s u, acc.2)
      | .fault r => (raiseFault s r, acc.2)
      | .exit _ => (s, acc.2)
      | .fence oid => if fenceDone g acc.2 h then (s.modGang u (fun g => g.arrive oid []), acc.2) else stay
      | .store .. | .loc .. | .atom _ | .atoml _ | .commons .. | .pub .. | .phase .. => stay

/-- R202: what a gang has released goes to its units in program order, as far as it can. -/
def releaseGang (s : State) (u : Nat) : State :=
  match s.gang? u with
  | none => s
  | some g =>
    let r := g.relq.foldl (releaseOne u) (s, [])
    r.1.modGang u (fun g => { g with relq := r.2 })

/-- R202: the cycles of quarantine after a run's last word. -/
def quarantine : Nat := 40

/-- R195: whether a result that is visible to its gang has a commons write which the arbiter has yet to take. -/
def Outst.owesCommons (o : Outst) : Bool := !o.sent && o.effs.any (fun e => match e with | .c .. => true | _ => false)

/-- A gang whose oldest run has left quarantine: what the run holds is released; with no run left in quarantine or in
issue, nothing that a replay would restore is kept. -/
def Gang.shedRun (g : Gang) (r : RunRec) : Gang :=
  let g1 := { g with runs := g.runs.drop 1, relq := g.relq ++ r.held }
  if g1.runs.isEmpty && g1.issue.isNone then
    { g1 with applied := g1.applied.filter Outst.owesCommons, deferred := g1.deferred.filter (fun d => d.taken == 0) }
  else g1

/-- The oldest run of a gang leaves quarantine if its time has come. -/
def leaveQuarantine (s : State) (u : Nat) : State :=
  match s.gang? u with
  | none => s
  | some g =>
    match g.runs.head? with
    | none => s
    | some r =>
      if s.cycle ≤ r.endCycle + quarantine then s
      else releaseGang ((s.modGang u (fun g => g.shedRun r)).modBlock g.block
        (fun b => b.exitLeaves (r.lastExit g (r.endCycle + quarantine + 1)))) u

/-- R202 QUARANTINE_EXIT. -/
def execQuarantineExit (gang : Nat) (s : State) : Res := .next (leaveQuarantine s gang)

/-! ### Replay (R203) -/

/-- The run in issue as a run to discard. -/
def RunIssue.asRec (r : RunIssue) (seq cycle : Nat) : RunRec := ⟨seq, r.start, r.clutch, cycle, r.held, r.snapshot, 0⟩

/-- The runs of a gang that a report discards, oldest first. -/
def Gang.liveRuns (g : Gang) (cycle : Nat) : List RunRec :=
  g.runs ++ g.issue.elim [] (fun r => [r.asRec g.run cycle])

/-- R203: a lane as the replay leaves it: as at the start of the oldest discarded run; a lane that a reply resumed
meanwhile keeps its place (log 18). -/
def replayLane (g : Gang) (rs : List RunRec) (old : GangRegs) (i : Nat) : Lane :=
  let was := old.lane i
  let now := g.regs.lane i
  let at_ := match rs.find? (fun r => maskHas r.clutch i) with
    | some r => r.snapshot.lane i
    | none => now
  if was.status = .parked then { was with status := at_.status, pc := at_.pc, stamp := at_.stamp } else was

/-- R150, R152: a waiting lane whose gathering is not open any more, in a gang that waits for nothing, goes on. -/
def wakeLanes (g : Gang) : Gang :=
  { g with regs := { g.regs with lanes := (List.range 32).map (fun i =>
      let l := g.regs.lane i
      if l.status = .waiting ∧ g.waits.isEmpty ∧ ¬ g.inOpenGathering i then { l with status := .runnable } else l) } }

/-- R203: EVERY RUN OF A GANG STILL IN QUARANTINE OR ISSUING IS DISCARDED, and will issue again with its clutch (R34),
before those that an earlier report left to be issued again. -/
def Gang.replay (g : Gang) (cycle : Nat) : Gang :=
  let rs := g.liveRuns cycle
  match rs with
  | [] => g
  | r0 :: _ =>
    let back := g.applied.filter (fun o => decide (o.applied > r0.seq) && decide (o.run < r0.seq))
    let older := fun (run : Nat) => decide (run < r0.seq)
    let gath := (g.gath.map (fun h => { h with parts := h.parts.filter (fun p => older p.run) })).filter (fun h => !h.parts.isEmpty)
    let g1 : Gang := { g with
      regs := { r0.snapshot with lanes := (List.range 32).map (replayLane g rs r0.snapshot) }
      run := r0.seq
      replays := g.replays + rs.length
      seam := false
      waits := g.waits.filter (fun w => match w with
        | .catw _ _ _ run | .waitc _ _ run | .barw _ run | .jwait _ run => older run)
      donation := g.donation.filter (fun d => older d.run)
      out := (back ++ g.out).filter (fun o => older o.run)
      applied := g.applied.filter (fun o => decide (o.applied ≤ r0.seq))
      runs := []
      gath := gath
      issue := none
      replayQ := rs.map (fun r => (r.start, r.clutch)) ++ g.replayQ
      scales := []
      ops := g.ops.filter (fun o => o.run == 0 || older o.run)
      deferred := (g.deferred.filter (fun d => older d.run)).map (fun d =>
        if d.taken > r0.seq then { d with taken := 0 } else d) }
    wakeLanes g1.reopenGatherings

/-- R203: runs that leave quarantine in the report's cycle do so first. -/
def settleQuarantine (s : State) (u : Nat) : Nat → State
  | 0 => s
  | n + 1 => settleQuarantine (leaveQuarantine s u) u n

/-- R34, R203: a gang's discarded runs have met no error. -/
def Block.unmeet (b : Block) (g : Gang) : Block :=
  { b with consumption := b.consumption.filter (fun c => !(c.guid == g.uid && g.runLive c.run)) }

/-- R203: a gang's runs discarded, with what they have met. -/
def discardRuns (s : State) (u : Nat) : State :=
  match s.gang? u with
  | none => s
  | some g => (s.modBlock g.block (fun b => b.unmeet g)).modGang u (fun g => g.replay s.cycle)

/-- R203: a report confined to some gangs. -/
def strikeGangs (s : State) (us : List Nat) : State :=
  us.foldl (fun s u =>
    let n := ((s.gang? u).map (fun g => g.runs.length)).getD 0
    discardRuns (settleQuarantine s u n) u) s

/-- R203 STRIKE_REPORT: every partition of the core. Nothing issues there again in the report's own cycle. -/
def execStrikeReport (core : Nat) (s : State) : Res :=
  .next ((strikeGangs s ((s.gangs.filter (fun g => g.core == core)).map (·.uid))).modCore core (fun c =>
    { c with parts := c.parts.map (fun p => { p with busy := s.cycle }) }))

/-! ### Chorus (R204 to R206) -/

/-- R206: FENCING A PARTITION: it issues no more; each block with a gang on it is relaunched or killed. -/
def fencePartition (s : State) (core part : Nat) : State :=
  let us := (partGangs s core part).map (·.uid)
  let bs := s.blocks.filter (fun b => (partGangs s core part).any (fun g => g.block == b.uid))
  let s1 := strikeGangs s us
  let s2 := s1.modCore core (fun c => { c with fenced := c.fenced ||| (1#16 <<< part) })
  let s3 := elogWrite s2 4 0 (core * 256 + part)
  evictBlocks s3 (bs.filterMap (fun b => s3.block? b.uid)) 0x26 part

/-- R205: the cycles within which a second mismatch fences. -/
def mismatchWindow : Nat := 2000000

/-- R205: a mismatch: an entry in the error log and a report confined to the partition; a second one fences it. -/
def chorusMismatch (s : State) (core part : Nat) : State :=
  let p := (s.core core).part part
  let again := (p.mismatch.map (fun c => decide (s.cycle ≤ c + mismatchWindow))).getD false
  let s1 := elogWrite s 3 0 (core * 256 + part)
  let s2 := strikeGangs s1 ((partGangs s1 core part).map (·.uid))
  let s3 := s2.modCore core (fun c => c.modPart part (fun p => { p with mismatch := some s.cycle }))
  if again then fencePartition s3 core part else s3

/-- R204: whether each lane's result is the signature of the class. -/
def chorusOk (s : State) (cls : Nat) (results : List W64) : Bool :=
  (List.range 32).all (fun i => results[i]? == s.chorusSigs[cls]?)

/-- R204 CHORUS_CHECK: a check word of a class uses an empty cycle of the partition; it changes no architectural state. -/
def execChorusCheck (core part cls : Nat) (results : List W64) (s : State) : Res :=
  .next (
    if 8 ≤ cls || !(partUsable s core part) || (issuingGang s core part).isSome then s
    else
      let s1 := useCycle (partTurn s core part) core part
      let s2 := s1.modCore core (fun c => c.modPart part (fun p => { p with chorus := p.chorus.set cls s1.cycle }))
      if chorusOk s cls results then s2 else chorusMismatch s2 core part)

/-- R204: the cycles without a check after which the next boundary is left empty. -/
def chorusDue : Nat := 61440

/-- R204 CHORUS_CHECK_DUE: where a class has gone long enough without a check, the next boundary is left empty. -/
def execChorusCheckDue (core part : Nat) (s : State) : Res :=
  .next (
    if ((s.core core).part part).chorus.any (fun c => decide (c + chorusDue ≤ s.cycle)) then
      s.modCore core (fun c => c.modPart part (fun p => { p with leaveEmpty := true }))
    else s)

/-! ### The commons arbiter (R195) -/

/-- A commons write ready for the arbiter: its place in the program order, the register, the value. -/
structure CommonsWrite where
  ord : Nat
  reg : Nat
  val : W64
  deriving DecidableEq, Repr

/-- R195: the commons writes of a gang that are ready: released ones, and results that have come and whose run has left
quarantine. -/
def readyCommons (g : Gang) : List CommonsWrite :=
  ((g.relq.filter (fun h => !(g.behind h))).filterMap (fun h => match h.eff with | .commons r x => some ⟨h.ord, r, x⟩ | _ => none)) ++
    ((g.out ++ g.applied).filter (fun o => o.arrived && !o.sent && !(g.runLive o.run))).flatMap (fun o =>
      o.effs.filterMap (fun e => match e with | .c r x d => some ⟨d, r, x⟩ | _ => none))

/-- The earliest of a gang's ready writes in program order. -/
def firstCommons (g : Gang) : Option CommonsWrite :=
  (readyCommons g).foldl (fun a w => match a with | none => some w | some x => if w.ord < x.ord then some w else a) none

/-- Whether an outstanding result holds the commons write with a place in the order. -/
def Outst.hasCommons (o : Outst) (ord : Nat) : Bool :=
  o.effs.any (fun e => match e with | .c _ _ d => d == ord | _ => false)

/-- The write has been taken from its gang. -/
def Gang.sentCommons (g : Gang) (w : CommonsWrite) : Gang :=
  let mark := fun (o : Outst) => if o.hasCommons w.ord then { o with sent := true } else o
  { g with
    relq := g.relq.filter (fun h => !(h.ord == w.ord && (match h.eff with | .commons .. => true | _ => false)))
    out := g.out.map mark
    applied := g.applied.map mark }

/-- R195: one partition presents one write, of its lowest slot that has one (log 25). -/
def arbitratePart (s : State) (core part : Nat) : State :=
  match pickGang (fun a b => decide (a.slot < b.slot)) ((partGangs s core part).filter (fun g => (firstCommons g).isSome)) with
  | none => s
  | some g =>
    match firstCommons g, s.blockOf g with
    | some w, some b =>
      (s.modGang g.uid (fun g => g.sentCommons w)).modCore core (fun c =>
        { c with arbDone := c.arbDone ++ [⟨s.cycle, g.uid, g.block, b.posOf core, w.reg, w.val, w.ord⟩] })
    | _, _ => s

/-- R195 COMMONS_ARBITRATION: in each cycle at most one write of each partition, in partition order from cycle mod 16. -/
def execCommonsArbitration (core : Nat) (s : State) : Res :=
  .next (
    if (s.core core).arbDone.any (fun w => w.cycle == s.cycle) then s
    else (List.range 16).foldl (fun s i => arbitratePart s core ((s.cycle + i) % 16)) s)

/-- R195: an overlay without the entry that the arbiter has replaced. -/
def GangRegs.retire (r : GangRegs) (ord : Nat) : GangRegs :=
  { r with overlay := r.overlay.filter (fun o => o.ord != ord) }

/-- The same in everything a replay could restore. -/
def Gang.retire (g : Gang) (ord : Nat) : Gang :=
  { g with
    regs := g.regs.retire ord
    runs := g.runs.map (fun r => { r with snapshot := r.snapshot.retire ord })
    issue := g.issue.map (fun r => { r with snapshot := r.snapshot.retire ord }) }

/-- One arbitrated write enters the commons file. -/
def retireWrite (s : State) (w : ArbWrite) : State :=
  (s.modBlock w.block (fun b => { b with commons := tabPut 0 b.commons (commonsKey w.blkpos w.reg) w.val })).modGang w.gang
    (fun g => g.retire w.ord)

/-- R195 COMMONS_OVERLAY_RETIRE: from the second cycle on every gang reads the arbitrated value. -/
def execCommonsOverlayRetire (core : Nat) (s : State) : Res :=
  .next (
    let due := (s.core core).arbDone.filter (fun w => decide (w.cycle + 2 ≤ s.cycle))
    (due.foldl retireWrite s).modCore core (fun c =>
      { c with arbDone := c.arbDone.filter (fun w => !(decide (w.cycle + 2 ≤ s.cycle))) }))

/-! ### The TLB (R175) -/

/-- R175, R336 TLB_WALK: the walk of an address for which the core's TLB has no entry fills it; a walk that finds no leaf
leaves nothing there, and one that meets a stack in self-refresh waits (R342). -/
def execTlbWalk (core asid va : Nat) (s : State) : Res :=
  .next (
    if va ≥ 2 ^ 57 ∨ (tlbFind s core asid va).isSome ∨ walkAsleep s asid va then s
    else match walk s asid va with
      | .error _ => askWalks s core true asid [va]
      | .ok l =>
        (askWalks s core true asid [va]).modCore core (fun c =>
          if c.tlb.any (fun e => e.asid == asid && e.base == l.base && e.size == l.size) then c
          else { c with tlb := c.tlb ++ [⟨asid, l.base, l.size, l.leafPa, l.entry⟩] }))

end Sys2Proof.Machine
end

