-- ==== Sys2Proof/Machine/Buffers.lean ====
section
/-! DEFINITION. Machine/Buffers.lean: the block store buffer and its commits (R237, R241 to R244, R374), loads and
atomics performed (R238 to R240, R253), scratchpad accesses at the SRAM (R249), L1 evictions, and the end of a gang and
of its block (R120, R241).
-/
namespace Sys2Proof.Machine

/-! ### Contribution stores (R374) -/

/-- R371: the number of elements of a join's target. -/
def joinElems (j : Join) : Nat := let v := shapeNat j.shape; shDim v 0 * shDim v 1

/-- The local address at which a context reads a byte of its own memory, if it is there. -/
def localOf (s : State) (asid va : Nat) : Option Nat :=
  match xlateWalk s asid va .read false with
  | .ok x => some x.cell.pa
  | _ => none

/-- R374: whether a byte lies in `n` bytes of virtual memory from `va`, page by page. -/
def inRange (s : State) (asid va n pa : Nat) : Bool :=
  (List.range (n / 2 ^ 16 + 2)).any (fun k =>
    let lo := max va ((va / 2 ^ 16 + k) * 2 ^ 16)
    let hi := min (va + n) ((va / 2 ^ 16 + k + 1) * 2 ^ 16)
    decide (lo < hi) && (match localOf s asid lo with
      | some p => decide (p ≤ pa ∧ pa < p + (hi - lo))
      | none => false))

/-- R374: whether a byte that a block stores lies in its own contribution slot. -/
def isContribution (s : State) (b : Block) (pa : Nat) : Bool :=
  match s.join? b.launch with
  | none => false
  | some j => inRange s j.asid (joinCbase j.image + joinStride j.image * b.idx) (4 * joinElems j) pa

/-- R374: whether the task's further contributions are discarded. -/
def contribClosed (s : State) (b : Block) : Bool :=
  match s.join? b.launch with
  | none => false
  | some j => j.task b.idx == .arrived || j.spoiled.contains b.idx

/-! ### Acceptance (R237, R244) -/

/-- R244: the bytes of its source rows that a deferred scatter-add holds; how many they are is known with its record. -/
def GathOp.held (g : GathOp) : Nat := if g.shape.isEmpty then 0 else (g.rows.map (·.length)).foldl (· + ·) 0

/-- R244: the bytes of source rows that a block's deferred scatter-adds hold. -/
def scadBytes (s : State) (b : Block) : Nat :=
  (s.gaths.filter (fun g => b.scads.contains g.id)).foldl (fun n g => n + g.held) 0

/-- R244: what a block's uncommitted entries would hold with more cells. -/
def bufferUse (s : State) (b : Block) (more : List SbCell) : Nat := sbBytes (b.sb ++ more) + scadBytes s b

/-- R254: the cells of one store as single-copy atomic units: bits of one aligned 16-byte unit stay together, and all
of a tile. -/
def unitCells (b : Block) (core : Nat) (contrib tile : Bool) (cells : List StCell) : List SbCell :=
  let keys := (cells.map (fun c => c.cell.pa / 16)).eraseDups
  cells.map (fun c =>
    ⟨c.cell, c.val, c.mask, b.posOf core, b.nextUnit + (if tile then 0 else keys.idxOf (c.cell.pa / 16)), contrib⟩)

/-- Entries join the buffer, as a tile where `ver` names its version word (R216); the lines of the core that hold them
serve the block alone (R211). -/
def enterBuffer (s : State) (u core : Nat) (ver : Option Cell) (cells : List SbCell) : State :=
  let s1 := s.modBlock u (fun b =>
    let r := cells.foldl sbAdd (b.sb, b.sbTiles)
    { b with
      sb := r.1
      sbTiles := r.2 ++ (match ver with | none => [] | some v => [⟨b.nextUnit, v⟩])
      nextUnit := b.nextUnit + cells.length + 1 })
  ((cells.map (fun c => lineOf c.cell.pa)).eraseDups).foldl (fun s l => l1Own s core u l) s1

/-- R374: the task is spoiled: its contributions are dropped. -/
def spoilTask (s : State) (b : Block) : State :=
  let s1 := s.modBlock b.uid (fun b =>
    let gone := (b.sb.filter (fun e => e.contrib)).map (·.unit)
    { b with sb := b.sb.filter (fun e => !e.contrib), sbTiles := b.sbTiles.filter (fun t => !(gone.contains t.unit)) })
  checkQuorum (s1.modJoin b.launch (fun j => { j with spoiled := b.idx :: j.spoiled })) b.launch

/-- R374: the contribution-overflow fault of the storing lanes, deferred. -/
def overflowFault (s : State) (b : Block) (gang : Nat) (pc : W64) (lanes : LaneMask) : State :=
  match s.gang? gang with
  | none => s
  | some g => deferFault s gang 0 (faultFor s g 0x42 b.idx pc 0 lanes) lanes

/-- R374: contribution bytes accepted, discarded, or beyond the limit. -/
def acceptContrib (s : State) (u core gang : Nat) (pc : W64) (lanes : LaneMask) (ver : Option Cell) (cells : List StCell) : State :=
  match s.block? u with
  | none => s
  | some b =>
    if cells.isEmpty || contribClosed s b then s
    else
      let es := unitCells b core true ver.isSome cells
      if bufferUse s b es > b.limit then overflowFault (spoilTask s b) b gang pc lanes else enterBuffer s u core ver es

/-- R244: a forced commit of every entry of a block. -/
def forceCommit (s : State) (u : Nat) (pc : W64) : State :=
  (commitBlock s u pc .forcedBy false).modBlock u (fun b => { b with forced := true })

/-- R244: other bytes accepted, after a forced commit where they would exceed the limit. `ver` makes them a tile
(R216). Data of a copy forces one too, though R215 says that a copy never commits a block by itself; `pc` is then that of its
KICK (DESIGN CHOICE, log 108). -/
def acceptPlain (s : State) (u core : Nat) (pc : W64) (ver : Option Cell) (cells : List StCell) : State :=
  match s.block? u with
  | none => s
  | some b0 =>
    if cells.isEmpty then s
    else
      let s1 := if bufferUse s b0 (unitCells b0 core false ver.isSome cells) > b0.limit then forceCommit s u pc else s
      match s1.block? u with
      | none => s1
      | some b => enterBuffer s1 u core ver (unitCells b core false ver.isSome cells)

/-- R237: THE BUFFER ACCEPTS A STORE of a block from one of its cores. Of a store that lies in the contribution slot in
part, those bytes are the contribution; a tile is one only where all of it lies there (R374; DESIGN CHOICE, log 78). -/
def acceptStore (s : State) (u core gang : Nat) (pc : W64) (lanes : LaneMask) (ver : Option Cell) (cells : List StCell) : State :=
  match s.block? u with
  | none => s
  | some b =>
    let whole := ver.isSome && !(cells.all (fun c => isContribution s b c.cell.pa))
    let mine := fun (c : StCell) => !whole && isContribution s b c.cell.pa
    acceptPlain (acceptContrib s u core gang pc lanes ver (cells.filter mine)) u core pc ver (cells.filter (fun c => !mine c))

/-- The released item that the store buffer takes next. -/
def nextGlobal (g : Gang) : Option HeldItem := (g.relq.find? isGlobal).filter (fun h => !(g.behind h))

/-- Whether a `FENCE` before an item holds it back (R249), or it is not released yet (R202). -/
def fencedOff (g : Gang) (h : HeldItem) : Bool :=
  g.behind h || g.relq.any (fun e => decide (e.ord < h.ord) && (match e.eff with | .fence _ => true | _ => false))

/-- A released item leaves its gang. -/
def Gang.dropItem (g : Gang) (h : HeldItem) : Gang :=
  { g with relq := g.relq.filter (fun e => !(e.ord == h.ord && e.run == h.run)) }

/-- A released item changed. -/
def Gang.setItem (g : Gang) (h : HeldItem) (e : Held) : Gang :=
  { g with relq := g.relq.map (fun x => if x.ord = h.ord ∧ x.run = h.run then { x with eff := e } else x) }

/-- R246: a `PUB` reaches the buffer: the block commits; a marked straggler dies there instead (R379). -/
def reachBuffer (s : State) (g : Gang) (b : Block) (h : HeldItem) (who : CommitFor) (sent : Nat → Held) : State :=
  if isMarked s b then killBlock s b.uid 0 h.pc
  else (commitBlock s b.uid h.pc who false).modGang g.uid (fun g => g.setItem h (sent b.nextUnit))

/-- R237, R246 STORE_BUFFER_ACCEPT: the gang's next released store or boundary reaches the buffer. -/
def execStoreBufferAccept (gang : Nat) (s : State) : Res :=
  .next (match s.gang? gang with
    | none => s
    | some g =>
      match nextGlobal g, s.blockOf g with
      | some h, some b =>
        (match h.eff with
          | .store cells _ lanes =>
            if fencedOff g h then s
            else releaseGang ((acceptStore s b.uid g.core gang h.pc lanes none cells).modGang gang (fun g => g.dropItem h)) gang
          | .pub oid _ => if gathersBefore s g h then s else reachBuffer s g b h (.pub gang oid) (fun c => .pub oid (some c))
          | .phase oid _ => if gathersBefore s g h then s else reachBuffer s g b h (.phase gang oid) (fun c => .phase oid (some c))
          | _ => s)
      | _, _ => s)

/-! ### Commits (R242) -/

/-- R216: the cells of a version word. -/
def verCells (ver : Cell) : List Cell := (List.range 8).map (fun i => { ver with pa := ver.pa + i, va := ver.va + i })

/-- R216: the drain of a tile: the version word goes from odd to even around the one step that shows the bytes. -/
def drainVersion (s : State) (ver : Cell) : State :=
  let cs := verCells ver
  let v := leValue (cs.map (fun c => (readHome s c).1))
  writeHome s false (stCells cs (leBytes 8 (if v % 2 = 0 then v + 2 else v + 1)))

/-- R396: the remote cells of a unit by target, at most 256 bytes each. -/
def remoteGroups (cells : List SbCell) : List (Nat × List SbCell) :=
  let key := fun (e : SbCell) => (remoteTarget e.cell.pa, e.cell.pa / 256)
  let r := cells.filter (fun e => isRemote e.cell.pa && e.mask != 0#8)
  ((r.map key).eraseDups).map (fun t => (t.1, r.filter (fun e => key e == t)))

/-- R400: the remote bytes of a unit are sent as remote writes. Each part of a tile names its version words and the number
of the parts that its target gets, which shows them in one step (R216; log 55). What other cores of the block have
stored rides with the write and stays in their view until it is acknowledged (R240). -/
def sendWrites (s : State) (u commit asid : Nat) (vers : List Cell) (all : List SbCell) : State :=
  let groups := remoteGroups (settled all)
  groups.foldl (fun s p =>
    let r := sendRemote s (.write u commit vers (groups.filter (fun q => q.1 == p.1)).length p.2) p.1 asid
    let mine := all.filter (fun e => p.2.any (fun x => x.cell.pa == e.cell.pa && x.cell.view == e.cell.view))
    r.1.modBlock u (fun b => { b with
      pipeline := b.pipeline.map (fun c => if c.id = commit then { c with sent := c.sent ++ [(r.2, mine)] } else c) })) s

/-- R239: committed bits are clean in the L1 of the core that stored them, where it holds their unit (R211), as the commit
leaves them. -/
def cleanBytes (s : State) (b : Block) (cells : List SbCell) : State :=
  let ends := settled cells
  cells.foldl (fun s e =>
    match b.cores[e.core]?, ends.find? (fun x => x.cell.pa == e.cell.pa && x.cell.view == e.cell.view) with
    | some core, some x => l1Lay s core e.cell x.val e.mask
    | _, _ => s) s

/-- R85: the launches of a context that are live. -/
def liveGrids (s : State) (asid : Nat) : List Nat := (s.launches.filter (fun l => l.asid == asid)).map (·.id)

/-- R85: bytes that are about to change at home are kept as they were, for the grids live now, which may fetch them as
words through this leaf or another of their frame (log 98); changes that no live grid has seen before are forgotten. A change
that is part of a commit names it. -/
def keepOldCode (s : State) (asid : Nat) (commit : Option (Nat × Nat)) (cells : List Cell) : State :=
  let cs := cells.filter (fun c => !(isRemote c.pa))
  if cs.isEmpty || (liveGrids s asid).isEmpty then s
  else
    { s with codeLog := ⟨liveGrids s asid, cs.map (fun c => (c.pa, (readHome s c).1)), commit⟩ ::
        s.codeLog.filter (fun v => v.launches.any (fun i => (s.launch? i).isSome)) }

/-- R242: the first unit of a commit to become visible: from now on a fetched run sees all of it or none (R85). -/
def beginCommit (s : State) (b : Block) (c : Commit) : State :=
  if c.begun then s
  else
    (keepOldCode s b.asid (some (b.uid, c.id))
      (c.units.flatMap (fun u => u.cells.map (·.cell) ++ u.vers.flatMap verCells))).modBlock b.uid (fun b => { b with
      pipeline := b.pipeline.map (fun x => if x.id = c.id then { x with begun := true } else x) })

/-- R352: the lines of a unit, those of its version words among them, which no later unit of its commit writes: the commit
counts each line once. -/
def lastLines (rest : List CommitUnit) (cells : List Cell) : List Cell :=
  cells.filter (fun e => !(rest.any (fun u => (u.cells.map (·.cell) ++ u.vers).any (fun x => lineOf x.pa == lineOf e.pa))))

/-- R242 HOME_WRITE: one unit of the block's earliest incomplete commit becomes visible at home. -/
def execHomeWrite (block i : Nat) (s : State) : Res :=
  .next (match s.block? block with
    | none => s
    | some b =>
      match b.pipeline with
      | [] => s
      | c :: _ =>
        match c.units[i]? with
        | none => s
        | some u =>
          if u.cells.any (fun e => stackAsleep s e.cell.pa) || u.vers.any (fun v => (verCells v).any (fun c => readAsleep s c.pa)) then s
          else
            let cells := settled u.cells
            let here := cells.filter (fun e => !(isRemote e.cell.pa) && e.mask != 0#8)
            let s0 := beginCommit s b c
            let s1 := writeHome s0 false (here.map (fun e => ⟨e.cell, e.val, e.mask⟩))
            let vers := u.vers.filter (fun v => !(isRemote v.pa))
            let s2 := vers.foldl drainVersion s1
            let s3 := touchLines s2 (lastLines (c.units.eraseIdx i) (here.map (·.cell) ++ vers))
            let s4 := sendWrites s3 block c.id b.asid u.vers u.cells
            let s5 := cleanBytes s4 b (u.cells.filter (fun e => !(isRemote e.cell.pa)))
            let s6 := s5.modBlock block (fun b => { b with
              pipeline := b.pipeline.map (fun x => if x.id = c.id then { x with units := x.units.eraseIdx i } else x) })
            if c.units.length = 1 then clearPoison s6 c.sectors else s6)

/-- R239: lines in which a block has nothing unpublished any more serve every block. -/
def shareLines (s : State) (u : Nat) : State :=
  match s.block? u with
  | none => s
  | some b =>
    b.cores.foldl (fun s core =>
      let mine := (b.layers.filter (fun e => e.core == b.posOf core)).map (fun e => lineOf e.cell.pa)
      s.modCore core (fun c => { c with l1 := c.l1.map (fun e =>
        if e.owner = u ∧ ¬ mine.contains (lineOf e.pa) then { e with owner := 0 } else e) })) s

/-- R242: what the completion of a commit brings. -/
def commitDone (s : State) (u : Nat) (pc : W64) (who : CommitFor) : State :=
  let done := fun (s : State) (gang oid : Nat) =>
    releaseGang (s.modGang gang (fun g =>
      { g.arrive oid [] with relq := g.relq.filter (fun h => match h.eff with
          | .pub o _ | .phase o _ => o != oid
          | _ => true) })) gang
  match who with
  | .pub gang oid => done (countCommit s u pc) gang oid
  | .phase gang oid =>
    let s0 := countCommit s u pc
    let s1 := match s0.gang? gang with
      | none => s0
      | some g => acquire s0 g.core
    done s1 gang oid
  | .blockEnd =>
    match s.block? u with
    | none => s
    | some b =>
      dropEnded ((s.modBlock u (fun b => { b with phase := .ended })).modLaunch b.launch
        (fun l => { l with ended := l.ended + 1 })) u
  | .atom .. | .arrival | .forcedBy => s

/-- The index-vector request with this number. -/
def State.gath? (s : State) (id : Nat) : Option GathOp := s.gaths.find? (fun g => g.id == id)

/-- R417: whether a `SCAD` of a commit has been acknowledged by every sub-request, or has failed whole. -/
def scadDone (s : State) (id : Nat) : Bool :=
  (s.gath? id).elim true (fun g => g.phase == .folded && g.entries.all (·.answered))

/-- R242 COMMIT_COMPLETE: the block's earliest commit is visible whole. -/
def execCommitComplete (block : Nat) (s : State) : Res :=
  .next (match s.block? block with
    | none => s
    | some b =>
      match b.pipeline with
      | [] => s
      | c :: rest =>
        if !c.units.isEmpty || !c.tags.isEmpty || !(c.scads.all (scadDone s)) then s
        else dropEnded (commitDone (shareLines (s.modBlock block (fun b => { b with pipeline := rest })) block) block c.pc c.who) block)

/-! ### Loads (R238, R240) -/

/-- Whether two requesters of a gang are one thread. -/
def sameThread (a b : Option Nat) : Bool := a.isNone || b.isNone || a == b

/-- R240: whether an older load of the same thread has not been read. -/
def olderLoad (g : Gang) (o : Outst) (r : LoadReq) : Bool :=
  g.out.any (fun x => decide (x.ord < o.ord) && (match x.kind with
    | .load y => y.got.isNone && sameThread y.lane r.lane
    | _ => false))

/-- The cells of a load that another package has still to give. -/
def remoteCells (s : State) (b : Block) (core : Nat) (r : LoadReq) : List Cell :=
  r.cells.filter (fun c => isRemote c.pa && needsHome s b core c && !(r.part.any (fun p => p.1 == c.pa)))

/-- R239: whether an atomic that left the core before a load issued has still to write a byte that the load takes from its
home. -/
def atomAhead (s : State) (g : Gang) (b : Block) (o : Outst) (r : LoadReq) : Bool :=
  (leftAtoms s g.core).any (fun a => !(a.ahead.contains (g.uid, o.id)) &&
    a.places.any (fun p => r.cells.any (fun c => c.pa == p.pa && needsHome s b g.core c)))

/-- The bytes that a load's remote request asks of one target: the units that hold its own. -/
def LoadReq.asks (r : LoadReq) (target : Nat) : List Cell :=
  ((r.cells.filter (fun c => isRemote c.pa && remoteTarget c.pa == target)).foldl (fun (acc : List Cell) c =>
    if acc.any (fun a => unitOf a.pa == unitOf c.pa) then acc else acc ++ unitAround c) [])

/-- Whether a load's remote request is under way. -/
def loadSent (s : State) (gang oid : Nat) : Bool :=
  s.remOut.any (fun r => match r.kind with | .load g o => g == gang && o == oid | _ => false)

/-- A load's bytes have been read. -/
def Gang.gotLoad (g : Gang) (oid : Nat) (bs : List Byte) (poison : Bool) : Gang :=
  { g with out := g.out.map (fun o =>
      if o.id = oid then
        match o.kind with
        | .load r => { o with kind := .load { r with got := some bs, poison := poison } }
        | _ => o
      else o) }

/-- R240: loads of a core that hold bytes of other packages which a load has just read keep no line: theirs may be
older. -/
def outdate (s : State) (core : Nat) (cs : List Cell) : State :=
  let old := fun (o : Outst) => match o.kind with
    | .load r => r.part.any (fun p => cs.any (fun c => c.pa == p.1))
    | _ => false
  { s with gangs := s.gangs.map (fun g =>
      if g.core = core then { g with out := g.out.map (fun o => if old o then o.noKeep else o) } else g) }

/-- R240: bytes that a block reads at home although the core's L1 holds them in a line that serves another block leave
that line, which could later serve the block their older values. -/
def dropForeign (s : State) (core blk : Nat) (cs : List Cell) : State :=
  if cs.any (fun c => l1Foreign (s.core core) blk (lineOf c.pa)) then
    l1Drop s core (fun e => e.owner != 0 && e.owner != blk && cs.any (fun c => lineOf c.pa == lineOf e.pa))
  else s

/-- R239, R400: a unit that another package gave whole, kept in the L1. -/
def keepRemote (s : State) (b : Block) (core : Nat) (part : List (Nat × Byte)) (c : Cell) : State :=
  let bs := (unitAround c).filterMap (fun y => (part.find? (fun p => p.1 == y.pa)).map (fun p => (y, p.2)))
  if bs.length = 16 then l1Keep s core b.uid bs else s

/-- The lines of a load that came from home are counted, and kept in the L1 if `keep` (R239). -/
def fillLines (s : State) (b : Block) (core : Nat) (r : LoadReq) (keep : Bool) : State :=
  let need := r.cells.filter (fun c => needsHome s b core c)
  let home := need.filter (fun c => !(isRemote c.pa))
  let s1 := outdate (dropForeign (readLines s home) core b.uid need) core (need.filter (fun c => isRemote c.pa))
  if keep then
    (need.filter (fun c => isRemote c.pa)).foldl (fun s c => keepRemote s b core r.part c)
      ((lineHeads home).foldl (fun s c => l1Fill s core b.uid c) s1)
  else s1

/-- R238, R240 LOAD_HOME_READ: a load in flight takes its bytes now. -/
def execLoadHomeRead (gang i : Nat) (keep : Bool) (s : State) : Res :=
  .next (match s.gang? gang with
    | none => s
    | some g =>
      match g.out[i]?, s.blockOf g with
      | some o, some b =>
        (match o.kind with
          | .load r =>
            if r.got.isSome || olderLoad g o r || atomAhead s g b o r || r.cells.any (fun c => needsHome s b g.core c && readAsleep s c.pa) then s
            else match remoteCells s b g.core r with
              | c :: _ =>
                if loadSent s gang o.id then s else (sendRemote s (.load gang o.id) (remoteTarget c.pa) b.asid).1
              | [] =>
                let xs := r.cells.map (threadByte s g b r.part r.lane o.ord)
                let bad := xs.any (·.2)
                let s1 := fillLines s b g.core r (keep && !r.noKeep)
                let s2 := s1.modGang gang (fun g => g.gotLoad o.id (xs.map (·.1)) bad)
                if bad && o.blocks then consumeAt s2 g o.run o.pc (poisonAddr r.cells (xs.map (·.2))) r.lanes else s2
          | _ => s)
      | _, _ => s)

/-- R239 L1_EVICT: a line is evicted. -/
def execL1Evict (core line : Nat) (s : State) : Res := .next (l1Drop s core (fun e => lineOf e.pa == line))

/-! ### Atomics (R253, R169, R170) -/

/-- The lanes of an atomic word that name the same location as a given one and are not done, ascending. -/
def atomGroup (a : AtomReq) (x : AtomLane) : List AtomLane :=
  a.lanes.filter (fun y => !y.done && y.cells.map (·.pa) == x.cells.map (·.pa) && y.off == x.off)

/-- The request of a lane of an atomic word that is not done; a word of the gang has one. -/
def atomLane (a : AtomReq) (lane : Nat) : Option AtomLane :=
  a.lanes.find? (fun y => !y.done && (y.lane == some lane || y.lane.isNone))

/-- The lane's part is done. -/
def AtomReq.finish (a : AtomReq) (x : AtomLane) : AtomReq :=
  { a with lanes := a.lanes.map (fun y => if y.lane = x.lane then { y with done := true } else y) }

/-- No outstanding result: what an atomic delivers to when its word asked for nothing. -/
def Outst.absent : Outst := ⟨0, 0, 0, 0, .unit, [], [], false, false, [], 0, [], false⟩

/-- R168: what an atomic delivers to a lane: the old value, and its flags. -/
def atomEffs (a : AtomReq) (o : Outst) (x : AtomLane) (old : List Byte) (fl : FFlags) : List Eff :=
  loadEffs a.dst (x.lane.getD 0) (o.ports.filter (fun p => x.lane.isNone || x.lane == some p.1)) o.ord a.size old ++
    flagEffs x.lane fl

/-- The effects of an atomic gather on its outstanding result; with the last lane it has come. -/
def Gang.addAtom (g : Gang) (h : HeldItem) (a : AtomReq) (held : AtomReq → Held) (es : List Eff) : Gang :=
  let g1 := { g with out := g.out.map (fun (o : Outst) => if o.id = a.oid then { o with effs := o.effs ++ es } else o) }
  if a.lanes.all (·.done) then (g1.dropItem h).arrive a.oid [] else g1.setItem h (held a)

/-- R253: an atomic word leaves its core: its block commits; lines of locations performed elsewhere are dropped, and
fills of them under way are not kept. -/
def atomLeave (s : State) (g : Gang) (b : Block) (h : HeldItem) (a : AtomReq) : State :=
  let lines := ((a.lanes.filter (fun x => !x.core)).flatMap (fun x => x.cells.map (fun c => lineOf c.pa))).eraseDups
  let s1 := commitBlock s b.uid h.pc (.atom g.uid a.oid) false
  let s2 := l1Drop s1 g.core (fun e => lines.contains (lineOf e.pa))
  let miss := fun (o : Outst) => match o.kind with
    | .load r => r.cells.any (fun c => lines.contains (lineOf c.pa))
    | _ => false
  let ahead := (s2.gangs.filter (fun x => x.core == g.core)).flatMap (fun x =>
    (x.out.filter (fun o => match o.kind with | .load r => r.got.isNone | _ => false)).map (fun o => (x.uid, o.id)))
  State.modGang { s2 with gangs := s2.gangs.map (fun (x : Gang) =>
      if x.core = g.core then { x with out := x.out.map (fun (o : Outst) => if miss o then o.noKeep else o) } else x) } g.uid
    (fun g => g.setItem h (.atom { a with left := true, commit := b.nextUnit, ahead := ahead }))

/-- R253: whether an atomic may be performed: a releasing one after its block's commit, one of the core's atomic unit after
the committed stores to its location. -/
def atomReady (b : Block) (a : AtomReq) (x : AtomLane) : Bool :=
  let open_ := b.pipeline.filter (fun c => decide (c.id ≤ a.commit))
  (!a.rel || open_.isEmpty) &&
    (!x.core || open_.all (fun c => c.units.all (fun u => u.cells.all (fun e => !(x.cells.any (fun y => y.pa == e.cell.pa))))))

/-- The bytes an atomic reads: at home, or in the core's view (R253). -/
def atomRead (s : State) (b : Block) (core : Nat) (x : AtomLane) : List (Byte × Bool) :=
  x.cells.map (fun c =>
    if x.core then
      match l1Find (s.core core) b.uid c with
      | some y => (y, false)
      | none => readSource s c
    else readSource s c)

/-- R352: the bytes of an atomic's location whose access reaches the home: all but those that the L1 serves to one that
writes nothing. -/
def atomCounts (s : State) (b : Block) (core : Nat) (op : Aop) (x : AtomLane) : List Cell :=
  x.cells.filter (fun c => !x.core || aopWrites op || (l1Find (s.core core) b.uid c).isNone)

/-- One lane of an atomic performed at a local home or in the core. -/
def atomOne (gang : Nat) (h : HeldItem) (s : State) (x : AtomLane) : State :=
  match s.gang? gang with
  | none => s
  | some g =>
    match s.blockOf g, g.relq.find? (fun e => e.ord == h.ord && e.run == h.run) with
    | some b, some it =>
      (match it.eff with
        | .atom a =>
          let o := (g.out.find? (fun o => o.id == a.oid)).getD Outst.absent
          let xs := atomRead s b g.core x
          let old := xs.map (·.1)
          let y := atomNew a.aop a.size (BitVec.ofNat 128 (leValue old)) x.data x.cmp
          if xs.any (·.2) then
            consumeAt ((touchLines s (atomCounts s b g.core a.aop x)).modGang gang (fun g => g.addAtom it (a.finish x) .atom []))
              g h.run h.pc (poisonAddr x.cells (xs.map (·.2))) ((x.lane.map laneBit).getD h.lanes)
          else
            let new := leBytes (sizeBytes a.size) y.1.toNat
            let s0 := if aopWrites a.aop then keepOldCode s b.asid none x.cells else s
            let s1 := if aopWrites a.aop then writeHome s0 true (stCells x.cells new) else s0
            let s2 := if x.core && aopWrites a.aop then
                (x.cells.zip new).foldl (fun s p => l1Lay s g.core p.1 p.2 0xFF) s1
              else s1
            let s3 := touchLines s2 (atomCounts s b g.core a.aop x)
            let s4 := if a.acq then acquire s3 g.core else s3
            s4.modGang gang (fun g => g.addAtom it (a.finish x) .atom (atomEffs a o x old y.2))
        | _ => s)
    | _, _ => s

/-- R400: whether a lane's remote atomic is under way. -/
def atomSent (s : State) (gang oid lane : Nat) : Bool :=
  s.remOut.any (fun r => match r.kind with | .atom g o l => g == gang && o == oid && l == lane | _ => false)

/-- Whether a scratchpad access before an item touches some bytes and has not been made: a write, an atomic, or a load. -/
def localBefore (g : Gang) (h : HeldItem) (off n : Nat) : Bool :=
  g.relq.any (fun e => decide (e.ord < h.ord) && (match e.eff with
    | .loc bs _ => bs.any (fun p => offOverlap p.1 1 off n)
    | .atoml a => a.lanes.any (fun l => offOverlap l.off (sizeBytes a.size) off n)
    | .fence _ => true
    | _ => false)) ||
  g.out.any (fun o => match o.kind with
    | .ldl r => !o.arrived && decide (r.ord < h.ord) && offOverlap r.off (sizeBytes r.size) off n
    | _ => false)

/-- One lane of a scratchpad atomic (R170). -/
def atomlOne (gang : Nat) (h : HeldItem) (s : State) (x : AtomLane) : State :=
  match s.gang? gang with
  | none => s
  | some g =>
    match s.blockOf g, g.relq.find? (fun e => e.ord == h.ord && e.run == h.run) with
    | some b, some it =>
      (match it.eff with
        | .atoml a =>
          let o := (g.out.find? (fun o => o.id == a.oid)).getD Outst.absent
          let n := sizeBytes a.size
          let old := scratchBytes b (b.posOf g.core) x.off n
          let y := atomNew a.aop a.size (BitVec.ofNat 128 (leValue old)) x.data x.cmp
          let s1 := if aopWrites a.aop then
              s.modBlock b.uid (fun b => scratchPut b (b.posOf g.core) (placed x.off (leBytes n y.1.toNat)))
            else s
          s1.modGang gang (fun g => g.addAtom it (a.finish x) .atoml (atomEffs a o x old y.2))
        | _ => s)
    | _, _ => s

/-- The atomic that a gang has released first. -/
def nextAtom (g : Gang) : Option HeldItem :=
  (g.relq.find? (fun h => match h.eff with | .atom _ | .atoml _ => true | _ => false)).filter (fun h => !(g.behind h))

/-- R253 ATOM_PERFORM: the gang's first released atomic leaves its core, or the lanes that name one lane's location are
performed, in ascending order. -/
def execAtomPerform (gang lane : Nat) (s : State) : Res :=
  .next (match s.gang? gang with
    | none => s
    | some g =>
      match nextAtom g, s.blockOf g with
      | some h, some b =>
        (match h.eff with
          | .atom a =>
            if !a.left then
              if (nextGlobal g).map (·.ord) = some h.ord ∧ ¬ gathersBefore s g h then atomLeave s g b h a else s
            else match atomLane a lane with
              | none => if a.lanes.isEmpty then releaseGang (s.modGang gang (fun g => g.addAtom h a .atom [])) gang else s
              | some x =>
                if x.cells.any (fun c => isRemote c.pa) then
                  if (atomGroup a x).any (fun y => atomSent s gang a.oid (y.lane.getD 0)) || !(atomReady b a x) ||
                      (atomGroup a x).head? != some x then s
                  else (sendRemote s (.atom gang a.oid (x.lane.getD 0)) (remoteTarget ((x.cells.head?).map (·.pa)).get!) b.asid).1
                else if !(atomReady b a x) || x.cells.any (fun c => stackAsleep s c.pa) then s
                else releaseGang ((atomGroup a x).foldl (atomOne gang h) s) gang
          | .atoml a =>
            match atomLane a lane with
            | none => s
            | some x =>
              if localBefore g h x.off (sizeBytes a.size) then s
              else releaseGang ((atomGroup a x).foldl (atomlOne gang h) s) gang
          | _ => s)
      | _, _ => s)

/-! ### Scratchpad writes at the SRAM (R249) -/

/-- R249: the SRAM's port arbiter takes one released scratchpad write of a gang; writes to different bytes in any order. -/
def sramTake (s : State) (gang i : Nat) : State :=
  match s.gang? gang with
  | none => s
  | some g =>
    match g.relq[i]?, s.blockOf g with
    | some h, some b =>
      (match h.eff with
        | .loc bs _ =>
          if bs.any (fun p => localBefore g h p.1 1) || fencedOff g h then s
          else releaseGang ((s.modBlock b.uid (fun b => scratchPut b (b.posOf g.core) bs)).modGang gang (fun g => g.dropItem h)) gang
        | _ => s)
    | _, _ => s

/-! ### The end of a gang (R120) and of its block (R241) -/

/-- R120: whether a gang has ended: every lane has exited and nothing of it is outstanding. -/
def Gang.isOver (g : Gang) : Bool :=
  g.regs.alive == 0#32 && g.issue.isNone && g.runs.isEmpty && g.relq.isEmpty && g.out.all (fun o => o.arrived || !o.blocks) &&
    g.counter 0 == 0 && g.counter 1 == 0 && g.counter 2 == 0 && (readyCommons g).isEmpty

/-- R198: the requests of gangs whose partner has ended fail. -/
def partnerEnded (s : State) (g : Gang) : State :=
  ((s.gangs.filter (fun t => t.block == g.block && t.uid != g.uid && donateNames t g)).map (·.uid)).foldl donateFault s

/-- R241: the end of a block, when its last gang has ended: a commit under its last `EXIT`. -/
def endBlock (s : State) (u : Nat) : State :=
  match s.block? u with
  | none => s
  | some b =>
    if b.resident ∧ ¬ s.gangs.any (fun g => g.block == u) then
      let s1 := commitBlock (freeSave s b) u ((b.lastExit.map (·.pc)).getD 0) .blockEnd false
      let s2 := s1.modBlock u (fun b => { b with phase := .ending, sb := [], sbTiles := [], savedBytes := 0 })
      markSaved (freeCores s2 b.cores) b.launch
    else s

/-- R283: the records of commands whose lanes had all exited before a park seam could take them. -/
def lastRecords (s : State) (g : Gang) : State :=
  (g.deferred.filter (fun d => !d.raised)).foldl (fun s d => raiseFault s { d.req with lanes := 0 })
    (s.modGang g.uid (fun g => { g with deferred := g.deferred.map (fun d => { d with raised := true }) }))

/-- R120 GANG_END; its last records are written, and an error that its block has met is acted upon, first (R283, R334). -/
def execGangEnd (gang : Nat) (s : State) : Res :=
  .next (match s.gang? gang with
    | none => s
    | some g =>
      if !g.isOver || s.faultQ.any (fun r => r.guid == some gang) || !((s.blockOf g).elim [] (·.consumption)).isEmpty then s
      else if g.deferred.any (fun d => !d.raised) then lastRecords s g
      else endBlock (partnerEnded { s with gangs := s.gangs.filter (fun x => x.uid != gang) } g) g.block)

end Sys2Proof.Machine
end

