-- ==== Sys2Proof/Machine/CoreOps.lean ====
section
/-! DEFINITION. Machine/CoreOps.lean: register donation, the core's specials, the Spillway's and catchment words, the
record cache's (R196 to R233) and the boundary instructions (R245 to R250), at issue.
-/
namespace Sys2Proof.Machine

/-- The greatest value of an outstanding-operation counter (R222). -/
def counterMax : Nat := 65535

/-- R197: a donation request goes with its run; the gang issues no further run until it ends. -/
def donateWord (give : Bool) (f : EF) (n8 : Nat) (s : State) : Res :=
  .next (onceForGang s (fun g s =>
    let partner := gangSrc s g f.a % 256
    s.onIssuer (fun g =>
      let g1 := g.hold s.cx.pc (.donate give partner (8 * n8))
      { g1 with donation := some ⟨give, partner, 8 * n8, s.cx.pc, s.cx.clutch, g.run, false⟩ })))

/-- R196 RGIVE. -/
def execRgive (f : EF) (n8 : Nat) (s : State) : Res := donateWord true f n8 s

/-- R196 RTAKE. -/
def execRtake (f : EF) (n8 : Nat) (s : State) : Res := donateWord false f n8 s

/-- R200 RDSP: latency 1, once for the gang. -/
def execRdsp (f : EF) (sp : CoreSpecial) (s : State) : Res :=
  .next (onceForGang s (fun g s =>
    let x := coreSpecial s g (s.blockOf g) sp
    s.onIssuer (fun g => g.deliver s.cx.pc s.cx.pos (some 1) (gangEffs g.ord f.d x))))

/-- R222: the count of a KICK. -/
def kickCount (s : State) (g : Gang) (f : EF) (count : Nat) : Nat :=
  if f.b = .none then count else bitsOf (gangSrc s g f.b) 11 0

/-- R222 KICK: it stalls while the copy counter would pass its bound; a count of 0 has no effect. -/
def execKick (f : EF) (count : Nat) (s : State) : Res :=
  .next (onceForGang s (fun g s =>
    let n := kickCount s g f count
    if n = 0 then s
    else if g.counter 0 + n > counterMax then s.stalled
    else s.onIssuer (fun g =>
      let g1 := g.hold s.cx.pc (.kick (bitsOf (gangSrc s g f.a) 63 6) n)
      { g1 with regs := { g1.regs with issuedCopy := g1.regs.issuedCopy + n } })))

/-- R218: the offset of a catchment. -/
def catchOff (o : Nat) : Nat := o / 16 * 16

/-- R220: the 16 bytes that CATI writes. -/
def catchInit (bytes n : Nat) : List Byte := leBytes 4 1 ++ leBytes 4 n ++ leBytes 8 bytes

/-- R220 CATI: a scratchpad write. -/
def execCati (f : EF) (n : Nat) (s : State) : Res :=
  .next (onceForGang s (fun g s =>
    let o := scratchMod (s.blockOf g) (catchOff (gangSrc s g f.a))
    let b := if f.b = .none then 0 else gangSrc s g f.b
    s.onIssuer (fun g => g.hold s.cx.pc (.loc (placed o (catchInit b n)) s.cx.pos))))

/-- R221 CATW: the gang parks at the run's end until the catchment is done or not valid. -/
def execCatw (f : EF) (s : State) : Res :=
  .next (onceForGang s (fun g s =>
    let o := catchOff (gangSrc s g f.a)
    s.onIssuer (fun g =>
      let oid := g.nextId
      let g1 := g.await s.cx.pc .unit (gangDsts f.d) [] false true
      g1.waitAfter s.act [.catw o f.d oid g.run])))

/-- R225: the number of a class. -/
def classNum : OpClass → Fin 4
  | .copy => 0
  | .matrix => 1
  | .gather => 2
  | .join => 3

/-- R226 WAITC: the gang parks at the run's end until the counter is at most n. -/
def execWaitc (f : EF) (cls : OpClass) (n : Nat) (s : State) : Res :=
  .next (onceForGang s (fun g s =>
    let lim := if f.a = .none then n else bitsOf (gangSrc s g f.a) 11 0
    s.onIssuer (fun g => g.waitAfter s.act [.waitc (classNum cls) lim g.run])))

/-- R233 RECF: at issue. -/
def execRecf (f : EF) (s : State) : Res :=
  .next (onceForGang s (fun g s =>
    recDrop s g.core (gangAsid (s.blockOf g)) (if f.a = .none then none else some (gangSrc s g f.a))))

/-- R233 RECP: the record is fetched; no fault, no check. -/
def execRecp (f : EF) (s : State) : Res :=
  .next (onceForGang s (fun g s => keepRecord s s g (gangSrc s g f.a)))

/-! ### Boundary instructions -/

/-- A word of the gang without operands or result, held, that a park seam waits for (R250). -/
def holdBoundary (s : State) (f : Nat → Held) : State :=
  s.onIssuer (fun g =>
    let g1 := g.await s.cx.pc .unit [] [] false true
    g1.hold s.cx.pc (f g.nextId))

/-- R246 PUB. -/
def execPub (_f : EF) (s : State) : Res := .next (onceForGang s (fun _ s => holdBoundary s (fun i => .pub i none)))

/-- R247 ACQ: at issue. -/
def execAcq (_f : EF) (s : State) : Res := .next (onceForGang s (fun g s => acquire s g.core))

/-- R248 PHASE. -/
def execPhase (_f : EF) (s : State) : Res := .next (onceForGang s (fun _ s => holdBoundary s (fun i => .phase i none)))

/-- R249 FENCE. -/
def execFence (_f : EF) (s : State) : Res := .next (onceForGang s (fun _ s => holdBoundary s (fun i => .fence i)))

end Sys2Proof.Machine
end

