-- ==== Sys2Proof/Machine/Spillway.lean ====
section
/-! DEFINITION. Machine/Spillway.lean: the copy engine: requests fetched and checked (R212, R213, R224), walk-ahead
(R234), granules moved (R214, R227), versioned tile loads (R216), catchments counted down (R219) and completion.
-/
namespace Sys2Proof.Machine

/-! ### Operations in flight -/

/-- The copy request with this number. -/
def State.copy? (s : State) (id : Nat) : Option CopyOp := s.copies.find? (fun c => c.id == id)

/-- Change of one copy request. -/
def State.modCopy (s : State) (id : Nat) (f : CopyOp → CopyOp) : State :=
  { s with copies := s.copies.map (fun c => if c.id = id then f c else c) }

/-- R178, R227: the record of a unit on behalf of a gang of a block: LANES 0, DEFERRED 1. -/
def engineFault (s : State) (gang block core cause detail : Nat) (pc addr : W64) : Option FaultReq :=
  (s.block? block).map (fun b =>
    { blockFault s b cause detail pc addr with
      gang := ((s.gang? gang).map (·.idx)).getD 0
      core := core
      deferred := true
      guid := some gang })

/-- That record asked for; `op` names the request whose fate its reply decides. -/
def raiseEngine (s : State) (r : Option FaultReq) (op : Option Nat) : State :=
  match r with
  | none => s
  | some r => raiseFault s { r with op := op }

/-! ### Catchments (R218, R219) -/

/-- R219: the 16 bytes of a catchment counted down. -/
def catchCount (bs : List Byte) (bytes reqs : Int) (fails : Nat) (flags : BitVec 5) : List Byte :=
  let x := leValue bs
  let b := signExt (bitsOf x 127 64) 64 - bytes
  let q := signExt (bitsOf x 63 32) 32 - reqs
  let f := min 0xFFFF (bitsOf x 31 16 + fails)
  let fl := (flags.toNat ||| bitsOf x 15 11)
  let ovr := if b < 0 ∨ q < 0 then 1 else bitsOf x 1 1
  leBytes 16 (wrapInt b 64 * 2 ^ 64 + wrapInt q 32 * 2 ^ 32 + f * 2 ^ 16 + fl * 2 ^ 11 + bitsOf x 10 2 * 4 + ovr * 2 +
    bitsOf x 0 0)

/-- The update of a request's catchment: one read-modify-write at the SRAM. -/
def catchUpdate (s : State) (block pos : Nat) (c : Option Nat) (bytes reqs : Int) (fails : Nat) (flags : BitVec 5) : State :=
  match c with
  | none => s
  | some c =>
    s.modBlock block (fun b => scratchPut b pos (placed (16 * c) (catchCount (scratchBytes b pos (16 * c) 16) bytes reqs fails flags)))

/-! ### Requests (R212, R213) -/

/-- R212: the fields of a request. -/
def copyReqOf (bs : List Byte) : CopyReq :=
  let x := leValue bs
  { cmd := bs.drop 32
    global := bitsOf x 255 192
    loc := bitsOf x 191 160
    start := bitsOf x 159 128
    len := bitsOf x 127 96
    ccat := if bitsOf x 95 76 = 0xFFFFF then none else some (bitsOf x 95 76)
    retry := bitsOf x 63 48
    sfmt := bitsOf x 47 44
    svc := bitsOf x 43 42
    grec := x.testBit 41
    dir := x.testBit 40
    follow := x.testBit 39
    kind := bitsOf x 2 0
    rsvBad := if bitsOf x 38 3 ≠ 0 then some 0 else if bitsOf x 75 64 ≠ 0 then some 8 else none }

/-- R212: whether SFMT is one that kind 1 permits. -/
def sfmtOk (f : Nat) : Bool := decide ((1 ≤ f ∧ f ≤ 6) ∨ (0xB ≤ f ∧ f ≤ 0xE))

/-- R213: the offset of the lowest offending field, as far as the request alone tells; `P` is the rounded allocation. -/
def copyBad (r : CopyReq) (P : Nat) : Option Nat :=
  let tile := r.kind == 2 || r.kind == 3
  leastOf [
    (decide (r.kind ≥ 4) || (r.kind == 2 && r.dir) || (r.kind == 3 && !r.dir), 0),
    (r.rsvBad == some 0, 0),
    (r.follow && r.dir, 4),
    (if r.kind = 1 then !(sfmtOk r.sfmt) else r.sfmt != 0, 5),
    (tile && r.grec, 5),
    (r.kind != 2 && r.retry != 0, 6),
    (r.rsvBad == some 8, 8),
    (decide (r.len > P) || (tile && decide (r.len < 1 ∨ 65536 < r.len)), 12),
    (r.kind == 1 && sfmtOk r.sfmt && (8 * r.len) % elemBits r.sfmt != 0, 12),
    (!r.grec && r.start != 0, 16),
    (decide (r.global ≥ 2 ^ 57) || (tile && r.global % 16 != 0), 24),
    (!r.follow && r.cmd.any (fun b => b != 0#8), 32)]

/-- R224: the local writes of a gang before its KICK that are still to be made. -/
def writesBefore (g : Gang) (ord : Nat) : Bool :=
  g.relq.any (fun h => decide (h.ord < ord) && (match h.eff with | .loc .. | .atoml _ => true | _ => false))

/-- The number of a request's follow-on command in its gang's matrix class, apart from those of the gang's own words. -/
def followId (copy : Nat) : Nat := 2 ^ 64 + copy

/-- R213, R216, R227: the request fails at once, with its record. -/
def copyFail (s : State) (c : CopyOp) (cause detail : Nat) (addr : W64) : State :=
  raiseEngine (s.modCopy c.id (fun c => { c with phase := .failed, cause := cause }))
    (engineFault s c.gang c.block c.core cause detail c.pc addr) none

/-! ### The places of a request (R230, R234) -/

/-- A place that a walk could not give, with the address. -/
abbrev WalkErr := XRes × Nat

/-- The cells of `w` bits at a bit address, each page checked; `fmt` is the format that every page must carry (R230). -/
def walkCells (s : State) (asid : Nat) (acc : Access) (fmt : Option (Nat × Nat)) (bit : Int) (w : Nat) :
    Except WalkErr (List Cell) :=
  let first := wrapInt (bit / 8) 64
  let n := ((bit % 8).toNat + w + 7) / 8
  (List.range n).foldlM (fun l i =>
    let a := (first + i) % 2 ^ 64
    match xlateWalk s asid a acc fmt.isSome with
    | .ok x =>
      match fmt with
      | none => .ok (l ++ [x.cell])
      | some f => if x.fmt = f.1 ∧ x.blk = f.2 then .ok (l ++ [x.cell]) else .error (.fault 0x14 (x.fmt + 16 * x.blk), a)
    | r => .error (r, a)) []

/-- The scale byte of a record's element, if it has one (R230). -/
def walkScale (s : State) (asid v : Nat) (acc : Access) (j : Int) : Except WalkErr (Option Cell) :=
  if shBlk v = 0 then .ok none
  else
    let a := shapeScale v j
    match xlateWalk s asid a acc true with
    | .ok x => if x.fmt = shFmt v ∧ x.blk = shBlk v then .ok (some x.cell) else .error (.fault 0x14 (x.fmt + 16 * x.blk), a)
    | r => .error (r, a)

/-- R230: the place of the first `w` bits of a record's element; `scaled` asks for its scale as well. -/
def walkElem (s : State) (asid v : Nat) (acc : Access) (scaled : Bool) (w : Nat) (j : Int) : Except WalkErr ElemPlace :=
  let bit := shapeBit v j
  match walkCells s asid acc (some (shFmt v, shBlk v)) bit w with
  | .error e => .error e
  | .ok cs =>
    let mk := fun sc => ElemPlace.mk sc cs (bit % 8).toNat (shFmt v)
    if scaled then (walkScale s asid v .read j).map mk else .ok (mk none)

/-- R227: the errors of the scale bytes of some elements, beside those of the elements themselves. -/
def scaleErrs (s : State) (asid v : Nat) (acc : Access) (js : List Int) : List (Except WalkErr ElemPlace) :=
  js.filterMap (fun j => match walkScale s asid v acc j with | .error e => some (.error e) | .ok _ => none)

/-- The number of elements that `len` scratchpad bytes hold, the last one perhaps in part. -/
def elemsIn (len span : Nat) : Nat := ceilDiv (8 * len) span

/-- The direction of a request's global accesses. -/
def CopyReq.access (r : CopyReq) : Access := if r.dir then .write else .read

/-- The bits of an element on a request's scratchpad side; `v` is its record. -/
def CopyReq.span (r : CopyReq) (v : Nat) : Nat :=
  if r.kind = 1 then elemBits r.sfmt else if r.grec then elemBits (shFmt v) else 8

/-- R214: the bits that a request moves of its element `i` of a format: all of them where it converts, else those that its
LEN bytes hold, fewer of a last one that they hold in part. -/
def CopyReq.width (r : CopyReq) (span i fmt : Nat) : Nat := if r.kind = 1 then elemBits fmt else min span (8 * r.len - i * span)

/-- The elements of a request's record: their places in the request and in the record. -/
def CopyReq.indices (r : CopyReq) (v : Nat) : List (Nat × Int) :=
  (List.range (elemsIn r.len (r.span v))).map (fun i => (i, ((r.start + i : Nat) : Int)))

/-- R214: the global elements of a request: the record's, or bytes, or bare elements of the page's format. A later page of
a converting request without a record that carries another format than the page of its first byte raises 0x14, which R214
and R61 leave open (DESIGN CHOICE, log 86). -/
def copyPlaces (s : State) (c : CopyOp) (v : Nat) : Nat × List (Except WalkErr ElemPlace) :=
  let r := c.req
  let span := r.span v
  if r.grec then
    let js := r.indices v
    (span, js.map (fun p => walkElem s c.asid v r.access (r.kind == 1) (r.width span p.1 (shFmt v)) p.2) ++
      (if r.kind = 1 then scaleErrs s c.asid v .read (js.map (·.2)) else []))
  else if r.len = 0 then (span, [])
  else if r.kind = 1 then
    match xlateWalk s c.asid r.global r.access true with
    | .ok x =>
      let w := elemBits x.fmt
      (span, (List.range (elemsIn r.len span)).map (fun i =>
        let bit : Int := ((8 * r.global + i * w : Nat) : Int)
        (walkCells s c.asid r.access (some (x.fmt, x.blk)) bit w).map (fun cs => ElemPlace.mk none cs (bit % 8).toNat x.fmt)))
    | e => (span, [.error (e, r.global)])
  else
    (8, (List.range r.len).map (fun i =>
      (walkCells s c.asid r.access none ((8 * (r.global + i) : Nat) : Int) 8).map (fun cs => ElemPlace.mk none cs 0 0)))

/-- R61: the format of the page at an address, as far as it is known: also where the page does not permit the access
(log 79). -/
def pageFmt (s : State) (asid va : Nat) (acc : Access) : Option Nat :=
  match xlateWalk s asid va acc true with
  | .ok x => some x.fmt
  | _ => ((presentLeaf s asid va).filter (fun l =>
      globalAcc (entAddr l.entry) == accelId s && elemPage (entFmt l.entry) (entBlk l.entry))).map (fun l => entFmt l.entry)

/-- R219: the bit addresses of a request's global elements and the bits that it moves of each, where they are not its LEN
bytes from GLOBAL on; `none` there, and where the format is not known: a converting request of no record takes it from the
page of its first byte (log 79). -/
def copyBits (s : State) (asid : Nat) (r : CopyReq) (v : Nat) : Option (List (Int × Nat)) :=
  let span := r.span v
  if r.grec then some ((r.indices v).map (fun p => (shapeBit v p.2, r.width span p.1 (shFmt v))))
  else if r.kind = 1 then
    (pageFmt s asid r.global r.access).map (fun f =>
      (List.range (elemsIn r.len span)).map (fun i => (((8 * r.global + i * elemBits f : Nat) : Int), elemBits f)))
  else none

/-- The addresses of the bytes that hold some bits. -/
def bitBytes (p : Int × Nat) : List Nat :=
  (List.range (((p.1 % 8).toNat + p.2 + 7) / 8)).map (fun i => wrapInt (p.1 / 8 + (i : Nat)) 64)

/-- R219: the count of a request: the bytes it subtracts in all. -/
def copyCount (s : State) (c : CopyOp) (v : Nat) : Nat :=
  if !c.req.dir then c.req.len
  else match copyBits s c.asid c.req v with
    | none => c.req.len
    | some es => ((es.flatMap bitBytes).eraseDups).length

/-- Whether a request is a versioned tile (R216). -/
def CopyReq.isTile (r : CopyReq) : Bool := r.kind == 2 || r.kind == 3

/-- R213: the addresses that a request names, one at least in each 64 KiB that it touches: its data, its scale codes, its
version word. -/
def copyAddrs (s : State) (asid : Nat) (r : CopyReq) (v : Nat) : List Nat :=
  (match copyBits s asid r v with
    | some es => es.flatMap bitBytes
    | none => if r.len = 0 then [] else (List.range ((r.global % 2 ^ 16 + r.len - 1) / 2 ^ 16 + 1)).map (fun k => (r.global / 2 ^ 16 + k) * 2 ^ 16)) ++
    (if r.kind = 1 ∧ r.grec ∧ shBlk v ≠ 0 then (r.indices v).map (fun p => shapeScale v p.2) else []) ++
    (if r.isTile then [r.global - 8] else [])

/-- R213: the most pages of a request. -/
def footprintMax : Nat := 1024

/-- R213: the pages that a request touches, of those that the directory holds, whatever they permit (log 62). -/
def footprint (s : State) (asid : Nat) (r : CopyReq) (v : Nat) : List Nat :=
  ((((copyAddrs s asid r v).map (fun a => a / 2 ^ 16)).eraseDups).filterMap (fun k =>
    (presentLeaf s asid (k * 2 ^ 16)).map (·.base))).eraseDups

/-- R213: whether a tile with its version word does not lie within one page, as far as its pages are there (log 62). -/
def tileSplit (s : State) (asid : Nat) (r : CopyReq) : Bool :=
  r.isTile && (decide (r.global < 8) || [r.global - 8, r.global, r.global + r.len - 1].any (fun a =>
    match presentLeaf s asid a with
    | none => false
    | some l => decide (r.global < l.base + 8 ∨ l.base + l.size < r.global + r.len)))

/-- R213: the lowest field by which a request offends against its pages; `v` is its record. -/
def mapBad (s : State) (asid : Nat) (r : CopyReq) (v : Nat) : Option Nat :=
  leastOf [(decide (footprintMax < (footprint s asid r v).length), 12), (tileSplit s asid r, 24)]

/-- R213: the record of a request as its fetch can tell: none is needed, or it is here and breaks no rule. -/
def recordNow (s : State) (core asid : Nat) (r : CopyReq) : Option Nat :=
  if !r.grec then some 0
  else
    let ok := fun (bs : List Byte) => if (shapeBad r.global (shapeNat bs) false).isSome then none else some (shapeNat bs)
    match recFind (s.core core) asid r.global with
    | some bs => ok bs
    | none =>
      match virtCells (fun a => xlateWalk s asid a .read false) r.global 192 with
      | .ok cs => if r.global % 64 ≠ 0 || cs.any (fun c => isRemote c.pa || (readAny s c).2) then none else ok (readCells s cs)
      | .error _ => none

/-- R342: whether the checks of a request read, or walk, on a stack in self-refresh. -/
def checksAsleep (s : State) (core asid : Nat) (r : CopyReq) : Bool :=
  !s.selfRefresh.isEmpty && ((r.grec && recAsleep s core asid r.global (fun a => xlateWalk s asid a .read false)) ||
    (((recordNow s core asid r).map (copyAddrs s asid r)).getD []).any (walkAsleep s asid))

/-- R213, R15: the lowest field by which a request offends; `P` is the rounded allocation. A request of a reserved kind,
too long, or with a GLOBAL out of range names no pages. -/
def fetchBad (s : State) (core asid : Nat) (r : CopyReq) (P : Nat) : Option Nat :=
  match copyBad r P with
  | some d =>
    if d ≤ 12 ∨ 2 ^ 57 ≤ r.global then some d
    else some (min d (((recordNow s core asid r).bind (mapBad s asid r)).getD d))
  | none => (recordNow s core asid r).bind (mapBad s asid r)

/-- R219: the count of a request as its fetch can tell: LEN where its fields do not fix it. -/
def fetchCount (s : State) (core : Nat) (c : CopyOp) (P : Nat) : Nat :=
  if (copyBad c.req P).isSome then c.req.len else (recordNow s core c.asid c.req).elim c.req.len (copyCount s c)

/-- R224: the request in the next slot of a kick. -/
def slotReq (b : Block) (pos : Nat) (e : KickEntry) : CopyReq := copyReqOf (scratchBytes b pos (64 * (e.first + e.taken)) 64)

/-- R224: one slot fetched: the request joins its class; so does its command (R217). -/
def fetchSlot (s : State) (core : Nat) (e : KickEntry) (g : Gang) (b : Block) : State :=
  let pos := b.posOf core
  let r := slotReq b pos e
  let id := s.nextOp
  let op : CopyOp :=
    { id := id, gang := g.uid, block := b.uid, core := core, blkpos := pos, asid := b.asid, pc := e.pc, cls := r.svc, req := r,
      shape := [], span := 8, ver := [], phase := .fetched, granules := [], counted := 0, count := r.len, pins := [],
      attempts := 0, flags := 0, cause := 0, staged := none, got := [] }
  let op1 := { op with count := fetchCount s core op (ceilPow2 b.localLen) }
  let s1 := { s with copies := s.copies ++ [op1], nextOp := id + 1 }
  let s2 := s1.modGang g.uid (fun g => { g with
    ops := g.ops ++ [⟨0, id, false, 0, 0⟩] ++ (if r.follow then [⟨1, followId id, false, 0, 0⟩] else [])
    follow := if r.follow then g.follow + 1 else g.follow })
  match fetchBad s core b.asid r (ceilPow2 b.localLen) with
  | some d => copyFail s2 op1 0x20 d 0
  | none => s2

/-- R224 SPILLWAY_FETCH: the next slot of the oldest entry of the kick register queue, once no stack in self-refresh keeps its
checks (R213, R342). -/
def execSpillwayFetch (core : Nat) (s : State) : Res :=
  .next (match (s.core core).kickQ with
    | [] => s
    | e :: rest =>
      match s.gang? e.gang, (s.gang? e.gang).bind s.blockOf with
      | some g, some b =>
        if writesBefore g e.ord || checksAsleep s core b.asid (slotReq b (b.posOf core) e) then s
        else
          let s1 := fetchSlot s core e g b
          if e.taken + 1 < e.count then
            s1.modCore core (fun c => { c with kickQ := { e with taken := e.taken + 1 } :: rest })
          else
            let s2 := s1.modCore core (fun c => { c with kickQ := rest })
            ((s2.gangs.filter (fun g => g.core == core && g.relq.any isKick)).map (·.uid)).foldl releaseGang s2
      | _, _ => s.modCore core (fun c => { c with kickQ := rest }))

/-! ### Walk-ahead (R234) -/

/-- The version word of a tile (R216). -/
def copyVersion (s : State) (c : CopyOp) : List (Except WalkErr ElemPlace) :=
  if c.req.isTile then
    [(walkCells s c.asid c.req.access none (8 * ((c.req.global : Int) - 8)) 64).map (fun cs => ElemPlace.mk none cs 0 0)]
  else []

/-- What a walk found: its places, or the pages it waits for, or the fault of the lowest address. -/
def walkOutcome (l : List (Except WalkErr ElemPlace)) : List (Nat × Nat) × Option (Nat × Nat × Nat) × List ElemPlace :=
  (l.filterMap (fun x => match x with | .error (.wait t p, _) => some (t, p) | _ => none),
   l.foldl (fun a x =>
      let low := fun (c d addr : Nat) => match a with
        | some (_, _, b) => if addr < b then some (c, d, addr) else a
        | none => some (c, d, addr)
      match x with
      | .error (.fault c d, addr) => low c d addr
      | .error (.late c d, addr) => low c d addr
      | _ => a) none,
   l.filterMap (fun x => match x with | .ok p => some p | .error _ => none))

/-- The cells of a place, its scale among them. -/
def ElemPlace.all (p : ElemPlace) : List Cell := p.scale.toList ++ p.cells

/-- The pages of some cells: their leaf entries. -/
def pagesOf (cs : List Cell) : List Nat := (cs.filterMap (·.leaf)).eraseDups

/-- The pages to pin: those of this package (R234), the register window's apart (R348). -/
def pinsOf (cs : List Cell) : List Nat := pagesOf (cs.filter (fun c => !(isRemote c.pa) && !(inWindow c.pa)))

/-- R355: whether a page of some cells is in motion and takes no pin. -/
def inMotion (s : State) (cs : List Cell) : Bool := s.motions.any (fun m => cs.any (fun c => m.holds c.pa))

/-- The scratchpad bytes of a granule of a load: those of one aligned 16-byte unit of scratchpad, from the request's
byte `k`. -/
def granuleLen (loc k len : Nat) : Nat := min (16 - (loc + k) % 16) (len - k)

/-- R214: a load in granules of its scratchpad side. -/
def loadGranules (loc len span : Nat) (ps : List ElemPlace) (k : Nat) : Nat → List Granule
  | 0 => []
  | fuel + 1 =>
    if len ≤ k then []
    else
      let n := granuleLen loc k len
      let i0 := 8 * k / span
      let i1 := ceilDiv (8 * (k + n)) span
      let es := (ps.drop i0).take (i1 - i0)
      ⟨k, n, none, (List.range es.length).map (i0 + ·), es, n, false, []⟩ :: loadGranules loc len span ps (k + n) fuel

/-- The distinct bytes of some places. -/
def placeBytes (ps : List ElemPlace) : List Nat := ((ps.flatMap (·.cells)).map (·.pa)).eraseDups

/-- R214, R254: a store in granules of its global side: one for each aligned 16-byte unit that it writes, with every element
that has bits there; each global byte counts once (R219). -/
def storeGranules (ps : List ElemPlace) : List Granule :=
  let bytes := placeBytes ps
  ((bytes.map unitOf).eraseDups).map (fun u =>
    let es := ps.zipIdx.filter (fun p => p.1.cells.any (fun c => unitOf c.pa == u))
    ⟨0, 0, some u, es.map (·.2), es.map (·.1), (bytes.filter (fun a => unitOf a == u)).length, false, []⟩)

/-- The granules of a request; a tile is one. -/
def copyGranules (r : CopyReq) (span : Nat) (ps : List ElemPlace) : List Granule :=
  if r.kind = 2 ∨ r.kind = 3 then [⟨0, r.len, none, List.range ps.length, ps, r.len, false, []⟩]
  else if r.dir then storeGranules ps
  else loadGranules r.loc r.len span ps 0 (r.len + 1)

/-- R217: the last byte of a request has landed: its command, if it has one, goes to the matrix arbiter. -/
def copyLanded (s : State) (id : Nat) : State :=
  match s.copy? id with
  | none => s
  | some c =>
    if c.granules.any (fun g => !g.done) then s
    else if c.cause ≠ 0 then s.modCopy id (fun c => { c with phase := .failed })
    else if c.req.follow then
      let cmd : MatCmd :=
        { op := leValue (c.req.cmd) % 8, tile := some (leValue c.req.cmd / 16 % 8), desc := 0, pair := false, metaRegs := [],
          pc := c.pc, oid := followId id, run := 0, follow := some id }
      (s.modCopy id (fun c => { c with phase := .following })).modCore c.core (fun k =>
        { k with matQ := k.matQ ++ [(c.gang, ⟨0, 0, c.pc, .cmd cmd, 0⟩)] })
    else s.modCopy id (fun c => { c with phase := .landed })

/-- A request whose walk is done: its pages are pinned and it may move. -/
def startCopy (s : State) (c : CopyOp) (bs : List Byte) (span : Nat) (ver ps : List ElemPlace) : State :=
  let sv := serviceOf s c.asid (Fin.ofNat 4 c.cls)
  let serve := fun (p : ElemPlace) => { p with scale := p.scale.map (Cell.serve c.core sv), cells := p.cells.map (Cell.serve c.core sv) }
  let cells := (ver ++ ps).flatMap ElemPlace.all
  let pins := pinsOf cells
  if inMotion s cells then s
  else
    let gs := copyGranules c.req span (ps.map serve)
    let count := if c.req.dir then (gs.map (·.count)).foldl (· + ·) 0 else c.req.len
    copyLanded ((pinAll s pins).modCopy c.id (fun c => { c with
      shape := bs, span := span, ver := ver.flatMap (·.cells), granules := gs, count := count, pins := pins, attempts := 0, staged := none, got := []
      phase := .moving })) c.id

/-- The walk of a request whose record is known: its checks (R213), then its faults (R227). -/
def walkCopy (s0 : State) (c0 : CopyOp) (bs : List Byte) : State :=
  let count := copyCount s0 c0 (shapeNat bs)
  let s := (askWalks s0 c0.core false c0.asid (copyAddrs s0 c0.asid c0.req (shapeNat bs))).modCopy c0.id (fun c => { c with count := count })
  let c := { c0 with count := count }
  let pl := copyPlaces s0 c0 (shapeNat bs)
  let vr := walkOutcome (copyVersion s0 c0)
  let w := walkOutcome (copyVersion s0 c0 ++ pl.2)
  match mapBad s0 c0.asid c0.req (shapeNat bs) with
  | some d => copyFail s c 0x20 d 0
  | none =>
  if !w.1.isEmpty then askTrans s0 c.core c.asid w.1
  else match w.2.1 with
    | some (cause, d, a) =>
      let s1 := forgetFailed (s.modCopy c.id (fun c => { c with phase := .waitReply, cause := cause })) c.asid
      raiseEngine s1 (engineFault s c.gang c.block c.core cause d c.pc (BitVec.ofNat 64 a)) (some c.id)
    | none => startCopy s c bs pl.1 vr.2.2 (w.2.2.drop vr.2.2.length)

/-- R334: a request's block has met uncorrectable data, at a virtual address or, in scratchpad, at none. -/
def copyConsumes (s : State) (c : CopyOp) (addr : Nat) : State :=
  consume s c.block ⟨0, (s.gang? c.gang).elim 0 (·.idx), c.pc, BitVec.ofNat 64 addr, 0, 0⟩

/-- A request that names a record: it is read and checked (R230). One whose record does not translate, and that a reply ends,
counts LEN: R219 says so only of a failed check of R213 or R230 (DESIGN CHOICE, log 94). One with an uncorrectable byte fails
the request, which its block consumes (R227, R334, R360; DEDUCED, log 111). -/
def walkRecord (s : State) (c : CopyOp) : State :=
  let ask := recAsk (askWalks s c.core false c.asid [c.req.global]) c.core c.asid c.req.global (fun a => xlateWalk s c.asid a .read false)
  if c.req.global % 64 ≠ 0 then copyFail s c 0x21 0 (BitVec.ofNat 64 c.req.global)
  else match recRead s c.core c.asid c.req.global (fun a => xlateWalk s c.asid a .read false) with
  | .error (.wait t p, _) => askTrans s c.core c.asid [(t, p)]
  | .error (.late 0x19 _, a) =>
    copyConsumes (ask.modCopy c.id (fun c => { c with phase := .failed, cause := 0x19 })) c a
  | .error (.fault cause d, a) | .error (.late cause d, a) =>
    let s1 := ask.modCopy c.id (fun c => { c with phase := .waitReply, cause := cause })
    raiseEngine s1 (engineFault s c.gang c.block c.core cause d c.pc (BitVec.ofNat 64 a)) (some c.id)
  | .error (.ok _, _) => s
  | .ok bs =>
    let s1 := recKeep { ask with free := ask.free + 1 } c.core c.asid c.req.global bs
    match shapeBad c.req.global (shapeNat bs) false with
    | some d => copyFail s1 c 0x21 d (BitVec.ofNat 64 c.req.global)
    | none => walkCopy s1 c bs

/-- R234: a fetched request is translated, checked and pinned; a page in motion makes it wait. -/
def walkRequest (s : State) (c : CopyOp) : State :=
  if c.phase ≠ .fetched ∨ checksAsleep s c.core c.asid c.req then s
  else if c.req.grec then walkRecord s c
  else walkCopy s c []

/-! ### Moving (R214, R215) -/

/-- The bits of a list of bits from bit `p`. -/
def bitsFrom (x p w : Nat) : Nat := x / 2 ^ p % 2 ^ w

/-- R254: a byte that a granule takes from home: as the request has read it, a whole aligned unit at a time, or now. -/
def CopyOp.seen (c : CopyOp) (s : State) (x : Cell) : Byte × Bool :=
  match c.got.find? (fun y => y.1.pa == x.pa && y.1.view == x.view) with
  | some y => y.2
  | none => readAny s x

/-- A place read at home: its value's bits and whether something was uncorrectable. -/
def readPlace (s : State) (c : CopyOp) (p : ElemPlace) : Nat × Option Nat × Bool :=
  let xs := p.cells.map (c.seen s)
  let sc := p.scale.map (c.seen s)
  (bitField (xs.map (·.1)) p.bit (elemBits p.fmt), sc.map (fun x => x.1.toNat),
    xs.any (·.2) || (sc.map (·.2)).getD false)

/-- R214: an element of a load as it stands in scratchpad, with its flags. -/
def loadElem (c : CopyOp) (p : ElemPlace) (x : Nat × Option Nat × Bool) : Nat × FFlags :=
  if c.req.kind = 1 then
    (if x.2.1.isNone then encodeStored p.fmt else encodeElem) c.req.sfmt (elemValue p.fmt x.2.1 x.1)
  else (x.1, flNone)

/-- R214: an element of a store in its global format; a NaN scale stores +0 and raises IV (R166). -/
def storeElem (c : CopyOp) (p : ElemPlace) (scale : Option Nat) (x : Nat) : Nat × FFlags :=
  if c.req.kind = 1 then
    let v := elemValue c.req.sfmt none x
    match scale with
    | none => encodeStored c.req.sfmt p.fmt v
    | some k => if k = 0xFF then (elemZeroOf p.fmt, flIV) else encodeElem p.fmt (unscale k v)
  else (x, flNone)

/-- Whether a request delivers to scratchpad bytes that another of its gang's, fetched later, has delivered. -/
def laterCopies (s : State) (c : CopyOp) : List CopyOp :=
  s.copies.filter (fun x => x.gang == c.gang && decide (c.id < x.id) && x.req.dir == c.req.dir)

/-- R224: whether a later request of the gang has delivered a scratchpad byte. -/
def laterLocal (b : Block) (later : List CopyOp) (o : Nat) : Bool :=
  later.any (fun x => x.granules.any (fun g => g.done && (List.range g.n).any (fun i =>
    scratchAddr b (x.req.loc + g.off + i) == scratchAddr b o)))

/-- The elements of a granule with their numbers in the request. -/
def Granule.items (g : Granule) : List (ElemPlace × Nat) := g.elems.zip g.idx

/-- R214: whether a byte of an element lies in the unit that a store's granule writes. -/
def Granule.owns (g : Granule) (c : Cell) : Bool := g.unit.elim true (· == unitOf c.pa)

/-- R224: what a request has delivered to the global side, by its bits. -/
def CopyOp.delivered (c : CopyOp) : List StCell :=
  (c.granules.filter (·.done)).flatMap (fun g => (g.items.flatMap (fun p =>
    elemStore p.1.cells p.1.bit (c.req.width c.span p.2 p.1.fmt) 0)).filter (fun x =>
      g.owns x.cell && !(g.lost.contains (unitOf x.cell.pa))))

/-- R224: the bits of a global byte that later requests of the gang have delivered. -/
def laterMask (later : List CopyOp) (pa : Nat) : Byte :=
  (later.flatMap CopyOp.delivered).foldl (fun m y => if y.cell.pa = pa then m ||| y.mask else m) 0

/-- The scratchpad bytes of a load's granule, its flags, and whether its source was uncorrectable. -/
def granuleBytes (s : State) (c : CopyOp) (g : Granule) : List Byte × FFlags × Bool :=
  let xs := g.elems.map (fun p => (p, readPlace s c p))
  let ys := xs.map (fun x => loadElem c x.1 x.2)
  let v := (ys.zipIdx).foldl (fun v y => v + y.1.1 % 2 ^ c.span * 2 ^ (y.2 * c.span)) 0
  let bad := xs.any (fun x => x.2.2.2)
  (if bad then List.replicate g.n 0 else leBytes g.n (v / 2 ^ (8 * g.off - g.idx.headD 0 * c.span)),
    if bad then flNone else ys.foldl (fun f y => f ||| y.2) flNone, bad)

/-- A granule is done, but for the units `lost`, and counts. -/
def granuleDone (s : State) (c : CopyOp) (k : Nat) (n : Nat) (fl : FFlags) (bad : Bool) (lost : List Nat) : State :=
  let s1 := s.modCopy c.id (fun c => { c with
    granules := c.granules.modify k (fun g => { g with done := true, lost := g.lost ++ lost })
    counted := c.counted + n
    flags := c.flags ||| fl
    cause := if bad then 0x19 else c.cause })
  if n = 0 then s1 else catchUpdate s1 c.block c.blkpos c.req.ccat n 0 0 0

/-- The bytes that a granule takes from home: those of a load's elements and their scales, of a store the scales. -/
def CopyOp.reads (c : CopyOp) (g : Granule) : List Cell :=
  if c.req.dir then g.elems.filterMap (·.scale) else g.elems.flatMap ElemPlace.all

/-- R254: what a granule reads at home: what it takes, and with it all that the request takes of the same aligned 16-byte
units, but for what has been read. -/
def CopyOp.fetches (c : CopyOp) (g : Granule) : List Cell :=
  let units := ((c.reads g).map (fun x => unitOf x.pa)).eraseDups
  ((c.granules.flatMap c.reads).filter (fun x => units.contains (unitOf x.pa) &&
    !(c.got.any (fun y => y.1.pa == x.pa && y.1.view == x.view)))).eraseDups

/-- R352: the bytes of some cells whose lines the request has not read yet. -/
def freshCells (c : CopyOp) (cs : List Cell) : List Cell :=
  cs.filter (fun x => !(c.got.any (fun y => lineOf y.1.pa == lineOf x.pa)))

/-- R340, R352: cells read at home by an attempt of a versioned load; their line counts if `fresh`. -/
def stageRead (s : State) (fresh : Bool) (cs : List Cell) : State :=
  checkpointRead (if fresh then readLines { s with free := s.free + 1 } cs else meetDest { s with free := s.free + 1 } cs) cs

/-- R254, R340, R352: a granule's bytes are read at home, and kept for the request's other granules. -/
def copyReads (s : State) (c : CopyOp) (g : Granule) : State :=
  let cs := c.fetches g
  (checkpointRead (touchLines (meetDest { s with free := s.free + 1 } cs) (freshCells c cs)) cs).modCopy c.id (fun x =>
    { x with got := x.got ++ cs.map (fun y => (y, readAny s y)) })

/-- R178: the virtual address of the first uncorrectable byte among some. -/
def firstBad (read : Cell → Byte × Bool) (cs : List Cell) : Nat := poisonAddr cs (cs.map (fun c => (read c).2))

/-- Bytes of a load delivered to scratchpad, but for those that a later request of the gang has delivered (R224). -/
def deliver (s : State) (c : CopyOp) (b : Block) (off : Nat) (bs : List Byte) : State :=
  let later := laterCopies s c
  s.modBlock b.uid (fun t => scratchPut t c.blkpos ((placed (c.req.loc + off) bs).filter (fun p => !(laterLocal b later p.1))))

/-- A granule of a load written to scratchpad. -/
def moveLoad (s : State) (c : CopyOp) (b : Block) (k : Nat) (g : Granule) : State :=
  let r := granuleBytes s c g
  let s1 := deliver (copyReads s c g) c b g.off r.1
  let s2 := if r.2.2 then copyConsumes s1 c (firstBad (c.seen s) (c.reads g)) else s1
  copyLanded (granuleDone s2 c k g.count r.2.1 r.2.2 []) c.id

/-- The bits of element `i` on a request's scratchpad side, and whether they were uncorrectable. -/
def localElem (c : CopyOp) (b : Block) (i : Nat) : Nat × Bool :=
  let w := min c.span (8 * c.req.len - i * c.span)
  let off := c.req.loc + i * c.span / 8
  let n := (i * c.span % 8 + w + 7) / 8
  (bitsFrom (leValue (scratchBytes b c.blkpos off n)) (i * c.span % 8) w, scratchUpset b c.blkpos off n)

/-- The cells of a store's granule with their values, its flags, and the units whose source or a scale was uncorrectable,
which are not entered (R227). -/
def granuleCells (s : State) (c : CopyOp) (b : Block) (g : Granule) : List StCell × FFlags × List Nat :=
  let xs := g.items.map (fun p =>
    let sc := p.1.scale.map (c.seen s)
    let x := localElem c b p.2
    let y := storeElem c p.1 (sc.map (fun q => q.1.toNat)) x.1
    ((elemStore p.1.cells p.1.bit (c.req.width c.span p.2 p.1.fmt) y.1).filter (fun z => g.owns z.cell), y.2,
      x.2 || (sc.map (·.2)).getD false))
  let lost := ((xs.filter (·.2.2)).flatMap (fun x => x.1.map (fun z => unitOf z.cell.pa))).eraseDups
  let kept := fun (z : StCell) => !(lost.contains (unitOf z.cell.pa))
  ((xs.flatMap (·.1)).filter kept, (xs.filter (fun x => x.1.any kept)).foldl (fun f y => f ||| y.2.1) flNone, lost)

/-- R224: bits that a later request of the gang has delivered stay as it left them; in a tile, with its value. -/
def cutLater (b : Block) (pos : Nat) (tile : Bool) (later : List CopyOp) (cells : List StCell) : List StCell :=
  if later.isEmpty then cells
  else cells.filterMap (fun x =>
    let m := laterMask later x.cell.pa
    if m = 0#8 then some x
    else match b.sb.find? (fun e => tile && e.at pos x.cell) with
      | some e => some { x with val := maskByte x.val e.val m }
      | none => if x.mask &&& ~~~m = 0#8 then none else some { x with mask := x.mask &&& ~~~m })

/-- R255: the lines of the kicking core that a store overwrites are dropped. -/
def dropLines (s : State) (core : Nat) (cells : List StCell) : State :=
  let lines := (cells.map (fun c => lineOf c.cell.pa)).eraseDups
  l1Drop s core (fun e => lines.contains (lineOf e.pa))

/-- A granule of a store accepted by the block's store buffer; `ver` is the version word of a tile. Its units that are not
entered (R227) have delivered no byte. -/
def moveStore (s : State) (c : CopyOp) (b : Block) (k : Nat) (g : Granule) : State :=
  let r := granuleCells s c b g
  let ver := if c.req.kind = 3 then c.ver.head? else none
  let bad := !r.2.2.isEmpty
  let n := if bad then (((r.1.map (·.cell.pa))).eraseDups).length else g.count
  let cells := cutLater b c.blkpos ver.isSome (laterCopies s c) r.1
  let s1 := dropLines (acceptStore (copyReads s c g) b.uid c.core c.gang c.pc 0 ver cells) c.core cells
  let s2 := if bad then copyConsumes s1 c (firstBad (c.seen s) (c.reads g)) else s1
  copyLanded (granuleDone s2 c k n r.2.1 bad r.2.2) c.id

/-- R342: whether what a granule reads or loads lies on a stack in self-refresh. -/
def Granule.asleep (g : Granule) (s : State) (store : Bool) : Bool :=
  g.elems.any (fun p => p.all.any (fun c => if store then stackAsleep s c.pa else readAsleep s c.pa))

/-- R214 COPY_GRANULE_TRANSFER: a granule of a request moves and is counted down. -/
def execCopyGranuleTransfer (op granule : Nat) (s : State) : Res :=
  .next (match s.copy? op with
    | none => s
    | some c =>
      match c.granules[granule]?, s.block? c.block with
      | some g, some b =>
        if c.phase ≠ .moving ∨ g.done ∨ c.req.kind = 2 ∨ g.asleep s c.req.dir then s
        else if c.req.dir then moveStore s c b granule g
        else moveLoad s c b granule g
      | _, _ => s)

/-! ### Versioned tile loads (R216) -/

/-- R216: the failed attempts that end a request. -/
def retryLimit (r : CopyReq) : Nat := if r.retry = 0 then 64 else r.retry

/-- R216 step 2: the cells that an attempt reads next: those of one aligned 16-byte unit. -/
def nextStaged (cs : List Cell) (n : Nat) : List Cell :=
  match cs.drop n with
  | [] => []
  | c :: rest => c :: rest.takeWhile (fun x => unitOf x.pa == unitOf c.pa)

/-- R216: an attempt that has read some bytes keeps those of one more unit. -/
def stageMore (s : State) (c : CopyOp) (v1 : Nat) (got : List Byte) (cs : List Cell) : State :=
  (stageRead s (got.isEmpty || cs.any (fun x => x.pa % 128 == 0)) cs).modCopy c.id (fun c =>
    { c with staged := some (v1, got ++ cs.map (fun x => (readAny s x).1)) })

/-- R216: an attempt that has read its bytes reads the version again: it succeeds if that is even and unchanged. -/
def stageEnds (s : State) (c : CopyOp) (b : Block) (g : Granule) (v1 : Nat) (got : List Byte) : State :=
  let v2 := c.ver.map (readAny s)
  let s1 := (stageRead s true c.ver).modCopy c.id (fun c => { c with staged := none })
  if v1 % 2 = 0 ∧ leValue (v2.map (·.1)) = v1 then
    copyLanded (granuleDone (deliver s1 c b g.off got) c 0 g.count flNone false []) c.id
  else
    let s2 := s1.modCopy c.id (fun c => { c with attempts := c.attempts + 1 })
    if c.attempts + 1 ≥ retryLimit c.req then copyFail s2 c 0x1A (c.attempts + 1) 0 else s2

/-- R216, R227: an attempt that met uncorrectable data at an address: the request fails. -/
def stageFails (s : State) (c : CopyOp) (cs : List Cell) : State :=
  copyConsumes ((stageRead s true cs).modCopy c.id (fun c => { c with phase := .failed, cause := 0x19, staged := none })) c (firstBad (readAny s) cs)

/-- R216 TILE_LOAD_ATTEMPT: one read of an attempt: the version word, then the bytes, an aligned 16-byte unit at a time, and
the version word again, which decides. -/
def execTileLoadAttempt (op : Nat) (s : State) : Res :=
  .next (match s.copy? op with
    | none => s
    | some c =>
      match c.granules.head?, s.block? c.block with
      | some g, some b =>
        let got := (c.staged.map (·.2)).getD []
        let next := if c.staged.isNone then c.ver else nextStaged (g.elems.flatMap ElemPlace.all) got.length
        let cs := if next.isEmpty then c.ver else next
        if c.phase ≠ .moving ∨ c.req.kind ≠ 2 ∨ g.done ∨ cs.any (fun x => readAsleep s x.pa) then s
        else if cs.any (fun x => (readAny s x).2) then stageFails s c cs
        else match c.staged with
          | none => (stageRead s true c.ver).modCopy op (fun c =>
              { c with staged := some (leValue (c.ver.map (fun x => (readAny s x).1)), []) })
          | some (v1, _) => if next.isEmpty then stageEnds s c b g v1 got else stageMore s c v1 got next
      | _, _ => s)

/-! ### Completion (R217, R219, R225) -/

/-- R270: CW of a descriptor; `0xF_FFFF` is none. -/
def descCw (d : Nat) : Nat := bitsOf d 255 236

/-- R270: the completion word of a command. -/
def complWord (cause group : Nat) (satd : Bool) (fl : BitVec 5) : Nat :=
  cause * 2 ^ 56 + group * 2 ^ 40 + 2 ^ 15 + (if satd then 2 ^ 14 else 0) + fl.toNat

/-- R270: it is written at scratchpad offset 16 CW. -/
def writeCompl (s : State) (block pos cw word : Nat) : State :=
  if cw = 0xFFFFF then s
  else s.modBlock block (fun b => scratchPut b pos (placed (16 * cw) (leBytes 8 word)))

/-- R217: the matrix-class place of a command that was never issued. -/
def fillPlace (s : State) (c : CopyOp) : State :=
  if c.req.follow && c.cause != 0 then
    (writeCompl s c.block c.blkpos (descCw (leValue c.req.cmd)) (complWord c.cause 0 false 0)).modGang c.gang
      (fun g => g.completeOp 1 (followId c.id) 0)
  else s

/-- R224: requests that are complete are forgotten once no older one of their gang is left. -/
def sweepCopies (s : State) : State :=
  { s with copies := s.copies.filter (fun c =>
      c.phase != .gone || s.copies.any (fun x => x.gang == c.gang && decide (x.id < c.id) && x.phase != .gone)) }

/-- R219 COPY_REQUEST_COMPLETE: the request completes, with fault status if it failed. -/
def execCopyRequestComplete (op : Nat) (s : State) : Res :=
  .next (match s.copy? op with
    | none => s
    | some c =>
      if c.phase ≠ .landed ∧ c.phase ≠ .failed then s
      else
        let failed := c.phase == .failed
        let rest : Int := if failed then (c.count : Int) - c.counted else 0
        let s1 := catchUpdate s c.block c.blkpos c.req.ccat rest 1 (if failed then 1 else 0) c.flags
        let s2 := unpin (fillPlace s1 c) c.pins
        sweepCopies ((s2.modCopy op (fun c => { c with phase := .gone, pins := [] })).modGang c.gang (fun g => g.completeOp 0 op 0)))

end Sys2Proof.Machine
end

