-- ==== Sys2Proof/Machine/Cascade.lean ====
section
/-! DEFINITION. Machine/Cascade.lean: the matrix array: the seven command words (R265), acceptance and the check of a
descriptor (R264, R266), the summation tree (R268, R269), the commands' effects (R271 to R279), paired commands (R280,
R281), completion (R270, R283), and the walk-ahead of copy requests and drains (R234, R278).
-/
namespace Sys2Proof.Machine

/-! ### Issue (R265, R266) -/

/-- The tile that D names. -/
def tileOf : Opd → Option Nat
  | .m n => some n.val
  | _ => none

/-- R273: the six metadata registers of MMAS, of all lanes. -/
def metaWords (g : Gang) : Opd → List (List W32)
  | .v b => (List.range 6).map (fun r => (List.range 32).map (fun l => (g.regs.lane l).getV (b.val + r)))
  | _ => []

/-- R266: a command word: it counts at issue, or stalls at the counter's bound, and is held through quarantine. -/
def commandWord (op : Nat) (f : EF) (pair : Bool) (s : State) : State :=
  onceForGang s (fun g s =>
    if g.counter 1 + 1 > counterMax then s.stalled
    else s.onIssuer (fun g =>
      let oid := g.nextId
      let cmd : MatCmd :=
        { op := op, tile := tileOf f.d, desc := if f.a = .none then 0 else gangSrc s g f.a / 32 * 32, pair := pair,
          metaRegs := metaWords g f.b, pc := s.cx.pc, oid := oid, run := g.run, follow := none }
      let g1 := (g.await s.cx.pc .unit [] [] false true).hold s.cx.pc (.cmd cmd)
      { g1 with
        regs := { g1.regs with issuedMat := g1.regs.issuedMat + 1 }
        ops := g1.ops ++ [⟨1, oid, false, g.run, 0⟩] }))

/-- R271 MMA. -/
def execMma (f : EF) (pair : Bool) (s : State) : Res := .next (commandWord 0 f pair s)

/-- R272 MMAX. -/
def execMmax (f : EF) (pair : Bool) (s : State) : Res := .next (commandWord 1 f pair s)

/-- R273 MMAS. -/
def execMmas (f : EF) (pair : Bool) (s : State) : Res := .next (commandWord 2 f pair s)

/-- R275 MZERO. -/
def execMzero (f : EF) (s : State) : Res := .next (commandWord 3 f false s)

/-- R276 MLDA. -/
def execMlda (f : EF) (s : State) : Res := .next (commandWord 4 f false s)

/-- R277 MDRAIN. -/
def execMdrain (f : EF) (s : State) : Res := .next (commandWord 5 f false s)

/-- R279 SPCOMP. -/
def execSpcomp (f : EF) (s : State) : Res := .next (commandWord 6 f false s)

/-! ### Descriptors (R263) -/

/-- R263: a field of a descriptor. -/
def descBits (d : BitVec 256) (hi lo : Nat) : Nat := bitsOf d.toNat hi lo
/-- R263: OP. -/
def dOp (d : BitVec 256) : Nat := descBits d 2 0
/-- R263: TILE. -/
def dTile (d : BitVec 256) : Nat := descBits d 6 4
/-- R263: BSCL. -/
def dBscl (d : BitVec 256) : Bool := d.getLsbD 14
/-- R263: ASCL. -/
def dAscl (d : BitVec 256) : Bool := d.getLsbD 15
/-- R263: GLOBAL. -/
def dGlobal (d : BitVec 256) : Bool := d.getLsbD 16
/-- R263: SAT. -/
def dSat (d : BitVec 256) : Bool := d.getLsbD 17
/-- R263: FLUSH. -/
def dFlush (d : BitVec 256) : Bool := d.getLsbD 18
/-- R263: RND. -/
def dRnd (d : BitVec 256) : Nat := descBits d 21 19
/-- R263: BTYPE, as a type. -/
def dBtype (d : BitVec 256) : Option Ty := tyOf (descBits d 26 22)
/-- R263: ATYPE, as a type. -/
def dAtype (d : BitVec 256) : Option Ty := tyOf (descBits d 31 27)
/-- R263: the number of columns, N. -/
def dN (d : BitVec 256) : Nat := descBits d 39 32 + 1
/-- R263: the number of rows, M. -/
def dM (d : BitVec 256) : Nat := descBits d 47 40 + 1
/-- R263: K. -/
def dK (d : BitVec 256) : Nat := descBits d 63 48
/-- R263: DREC. -/
def dDrec (d : BitVec 256) : Nat := descBits d 127 64
/-- R263: AOFF, in bytes. -/
def dAoff (d : BitVec 256) : Nat := 16 * descBits d 83 64
/-- R263: BOFF, in bytes. -/
def dBoff (d : BitVec 256) : Nat := 16 * descBits d 103 84
/-- R263: ASTR, in bytes. -/
def dAstr (d : BitVec 256) : Nat := 16 * descBits d 115 104
/-- R263: BSTR, in bytes. -/
def dBstr (d : BitVec 256) : Nat := 16 * descBits d 127 116
/-- R263: BSC, in bytes. -/
def dBsc (d : BitVec 256) : Nat := 16 * descBits d 171 152
/-- R263: ASC, in bytes. -/
def dAsc (d : BitVec 256) : Nat := 16 * descBits d 191 172
/-- R263: IDX, in bytes. -/
def dIdx (d : BitVec 256) : Nat := 16 * descBits d 235 216

/-- R261: how block scales stand to an operand. -/
inductive ScaleUse where
  | never | may | must
  deriving DecidableEq, Repr

/-- Whether a scale bit agrees with it. -/
def ScaleUse.ok (u : ScaleUse) (b : Bool) : Bool :=
  match u with
  | .never => !b
  | .may => true
  | .must => b

/-- R261: the mode of a multiply: accumulator kind, largest M and N, group size, scales of A and of B. -/
structure MatMode where
  acc : Ty
  most : Nat
  group : Nat
  sa : ScaleUse
  sb : ScaleUse
  deriving DecidableEq, Repr

/-- R261: the two FP8 types. -/
def isFp8 (t : Ty) : Bool := t == .e4m3 || t == .e5m2

/-- R261: the two INT8 types. -/
def isInt8 (t : Ty) : Bool := t == .i8 || t == .n8

/-- R261: the two FP6 types. -/
def isFp6 (t : Ty) : Bool := t == .e3m2 || t == .e2m3

/-- R261: the mode that two operand types choose; `sparse` for MMAS. -/
def matMode (sparse : Bool) (a b : Ty) : Option MatMode :=
  if sparse then (if isInt8 a && isInt8 b then some ⟨.i32, 128, 16, .never, .never⟩ else none)
  else if a == .f64 && b == .f64 then some ⟨.f64, 32, 1, .never, .never⟩
  else if a == .f32 && b == .f32 then some ⟨.f32, 64, 1, .never, .never⟩
  else if (a == .bf16 || a == .f16) && a == b then some ⟨.f32, 128, 8, .never, .never⟩
  else if isFp8 a && isFp8 b then some ⟨.f32, 128, 16, .may, .may⟩
  else if isInt8 a && isInt8 b then some ⟨.i32, 128, 16, .never, .never⟩
  else if isFp6 a && isFp6 b then some ⟨.f32, 128, 32, .must, .must⟩
  else if a == .e2m1 && b == .e2m1 then some ⟨.f32, 128, 32, .must, .must⟩
  else if a == .ds8 && isFp8 b then some ⟨.f32, 128, 32, .must, .may⟩
  else none

/-- R261: whether some row of the multiply table takes a type first. -/
def firstType (sparse : Bool) (a : Ty) : Bool :=
  if sparse then isInt8 a
  else isFp8 a || isInt8 a || isFp6 a || a == .f64 || a == .f32 || a == .bf16 || a == .f16 || a == .e2m1 || a == .ds8

/-- The mode of a descriptor. -/
def descMode (d : BitVec 256) : Option MatMode :=
  match dAtype d, dBtype d with
  | some a, some b => matMode (dOp d == 2) a b
  | _, _ => none

/-- R264: the offset of the type that no row accepts. -/
def typeOffset (first : Ty → Bool) (a : Option Ty) : Nat := if (a.map first).getD false then 2 else 3

/-- R276: the source types of MLDA. -/
def mldaType (t : Ty) : Bool := t == .f32 || t == .f16 || t == .bf16 || t == .f64 || t == .i32 || t == .n32

/-- R277: whether the drain table has a row for a tile kind, a destination and BSCL. -/
def drainRow (a b : Ty) (bscl : Bool) : Bool :=
  if bscl then a == .f32 && (isFp8 b || isFp6 b || b == .e2m1 || b == .ds8)
  else if a == .i32 then tyInt b && tyWidth b ≤ 32 || b == .f32 || b == .f16 || b == .bf16
  else (a == .f32 || a == .f64) && (b == .f64 || b == .f32 || b == .f16 || b == .bf16 || isFp8 b)

/-- R277: whether a type names a floating tile kind. -/
def isTileFloat (t : Option Ty) : Bool := t == some .f32 || t == some .f64

/-- R264: whether a command rounds, and takes RND 1 to 5. -/
def descRounds (d : BitVec 256) : Bool :=
  match dOp d with
  | 0 | 1 | 2 => ((descMode d).map (fun m => m.acc != .i32)).getD false
  | 5 => !dBscl d && (isTileFloat (dAtype d) ||
      (dAtype d == some .i32 && (dBtype d == some .f32 || dBtype d == some .f16 || dBtype d == some .bf16)))
  | _ => false

/-- R264: whether FLUSH has a treatment. -/
def descFlushes (d : BitVec 256) : Bool :=
  match dOp d with
  | 0 | 1 | 2 => ((descMode d).map (fun m => m.acc != .i32)).getD false
  | 5 => !dBscl d && isTileFloat (dAtype d) && !((dBtype d).map isFp8).getD false
  | _ => false

/-- R264: whether SAT has a treatment. -/
def descSats (d : BitVec 256) : Bool :=
  match dOp d with
  | 0 | 1 | 2 => ((descMode d).map (fun m => m.acc == .i32)).getD false
  | 5 => !dBscl d && (isTileFloat (dAtype d) || (dAtype d == some .i32 && ((dBtype d).map tyInt).getD false))
  | _ => false

/-- R264: the largest M and N. -/
def descMost (d : BitVec 256) : Nat :=
  match dOp d with
  | 0 | 1 | 2 => ((descMode d).map (·.most)).getD 256
  | 4 | 5 => if dAtype d = some .f64 then 32 else 128
  | _ => 128

/-- R264: what fields an OP does not use, each with its offset, beyond those whose own rule says so. -/
def descUnused (d : BitVec 256) : List (Bool × Nat) :=
  let op := dOp d
  let mul := decide (op ≤ 2)
  let nz := fun (hi lo : Nat) => descBits d hi lo != 0
  let drec := op == 5 && dGlobal d
  [ (nz 235 216 && op != 1, 27),
    (nz 191 172 && !(mul && dAscl d), 21),
    (nz 171 152 && !((mul && dBscl d) || (op == 5 && dBscl d) || op == 6), 19),
    (nz 127 116 && !(mul || op == 6 || drec), 14),
    (nz 103 84 && !(mul || op == 6 || drec), 10),
    (nz 63 48 && !(mul || op == 6), 6),
    (nz 39 32 && op == 6, 4),
    (nz 26 22 && !(mul || op == 5), 2),
    (dGlobal d && op != 5, 2),
    (dAscl d && !mul, 1),
    (dBscl d && !(mul || op == 5), 1)]

/-- R264: the rules of the types, of K, M and N, of the scales. A drain's BSCL is part of the row that its types form
(log 80). Of an MMAS whose M·K exceeds 4,096, K is the offending field: R264 does not say which of the two (DESIGN CHOICE,
log 95). -/
def descShape (d : BitVec 256) : List (Bool × Nat) :=
  let a := dAtype d
  match dOp d with
  | 4 => [(!((a.map mldaType).getD false), 3)]
  | 5 =>
    let first := fun (t : Ty) => t == .f32 || t == .f64 || t == .i32
    let row := match a, dBtype d with | some a, some b => drainRow a b (dBscl d) | _, _ => false
    let okA := (a.map first).getD false
    [(!okA, 3), (okA && !row, 2), (okA && dBscl d && dN d % 32 != 0, 4)]
  | 6 => [(!((a.map isInt8).getD false), 3), (dK d == 0 || dK d % 8 != 0, 6)]
  | _ =>
    let sparse := dOp d == 2
    match descMode d with
    | none => [(true, typeOffset (firstType sparse) a)]
    | some m =>
      [(dK d == 0 || dK d % m.group != 0 || ((dAscl d || dBscl d) && dK d % 32 != 0) || (sparse && decide (dM d * dK d > 4096)), 6),
       (!(m.sa.ok (dAscl d)) || !(m.sb.ok (dBscl d)), 1)]

/-- R264: the offset of the lowest offending field. `op` and `tile` are those of the word, none for a follow-on command;
`T` the block's tiles. -/
def descBad (d : BitVec 256) (op : Option Nat) (tile : Option Nat) (T : Nat) : Option Nat :=
  let o := dOp d
  let nz := fun (hi lo : Nat) => descBits d hi lo != 0
  leastOf ([
    (o == 3 || o == 7 || (match op with | some x => o != x | none => !(o == 0 || o == 1 || o == 4)), 0),
    (if o = 6 then dTile d != 0 else decide (T ≤ dTile d) || (op.isSome && tile != some (dTile d)), 0),
    (nz 13 7 || nz 3 3, 0), (nz 151 128, 16), (nz 215 192, 24)] ++
    (if o = 3 ∨ o = 7 then [] else descUnused d ++ descShape d ++ [
      (decide (dM d > descMost d), 5),
      (decide (dN d > descMost d) && o != 6, 4),
      (if descRounds d then decide (dRnd d < 1 ∨ 5 < dRnd d) else dRnd d != 0, 2),
      ((dFlush d && !descFlushes d) || (dSat d && !descSats d), 2)]))

/-! ### Acceptance (R266, R272) -/

/-- The command with this number. -/
def State.mat? (s : State) (id : Nat) : Option MatOp := s.mats.find? (fun m => m.id == id)

/-- Change of one command. -/
def State.modMat (s : State) (id : Nat) (f : MatOp → MatOp) : State :=
  { s with mats := s.mats.map (fun m => if m.id = id then f m else m) }

/-- Whether a command drains to scratchpad, or compresses: it writes scratchpad (R267). -/
def writesScratch (d : BitVec 256) : Bool := (dOp d == 5 && !dGlobal d) || dOp d == 6

/-- R267: the scratchpad ranges that a command writes. -/
def matWrites (m : MatOp) : List (Nat × Nat) :=
  let d := m.desc
  if m.cmd.op = 3 ∨ m.cause ≠ 0 then []
  else match dOp d with
    | 5 =>
      if dGlobal d then []
      else
        let w := ((dBtype d).map tyWidth).getD 8
        (List.range (dM d)).map (fun i => (dAoff d + dAstr d * i, ceilDiv (dN d * w) 8)) ++
          (if dBscl d then [(dBsc d, dM d * (dN d / 32))] else [])
    | 6 =>
      (List.range (dM d)).map (fun i => (dBoff d + dBstr d * i, dK d / 2)) ++ [(dBsc d, ceilDiv (12 * dM d * (dK d / 8)) 8)]
    | _ => []

/-- R262, R272: the row of A that row `i` uses. -/
def rowIndex (b : Block) (pos : Nat) (d : BitVec 256) (i : Nat) : Nat :=
  if dOp d = 1 then leValue (scratchBytes b pos (dIdx d + 2 * i) 2) else i

/-- R262: the width of an element of A, B. -/
def aWidth (d : BitVec 256) : Nat := ((dAtype d).map tyWidth).getD 8
/-- R262. -/
def bWidth (d : BitVec 256) : Nat := ((dBtype d).map tyWidth).getD 8

/-- R273: the stored elements of a row of A. -/
def aStored (d : BitVec 256) : Nat := if dOp d = 2 then dK d / 2 else dK d

/-- R267: the scratchpad ranges that a command reads. -/
def matReads (b : Block) (m : MatOp) : List (Nat × Nat) :=
  let d := m.desc
  let rows := List.range (dM d)
  if m.cmd.op = 3 ∨ m.cause ≠ 0 then []
  else match dOp d with
    | 0 | 1 | 2 =>
      (if dOp d = 1 then [(dIdx d, 2 * dM d)] else []) ++
      rows.map (fun i => (dAoff d + dAstr d * rowIndex b m.blkpos d i, ceilDiv (aStored d * aWidth d) 8)) ++
      (if dAscl d then rows.map (fun i => (dAsc d + rowIndex b m.blkpos d i * (dK d / 32), dK d / 32)) else []) ++
      (List.range (dN d)).map (fun j => (dBoff d + dBstr d * j, ceilDiv (dK d * bWidth d) 8)) ++
      (if dBscl d then [(dBsc d, dN d * (dK d / 32))] else [])
    | 4 => rows.map (fun i => (dAoff d + dAstr d * i, ceilDiv (dN d * aWidth d) 8))
    | 6 => rows.map (fun i => (dAoff d + dAstr d * i, dK d))
    | _ => []

/-- Whether two ranges share a byte of an allocation (R167). -/
def rangesMeet (b : Block) (x y : Nat × Nat) : Bool :=
  (List.range x.2).any (fun i =>
    match scratchAddr b (x.1 + i) with
    | none => false
    | some a => (List.range y.2).any (fun k => scratchAddr b (y.1 + k) == some a))

/-- R267: whether an earlier command of the gang has still to write bytes that this one reads. -/
def waitsForWrites (s : State) (b : Block) (m : MatOp) : Bool :=
  s.mats.any (fun x => x.gang == m.gang && decide (x.id < m.id) &&
    (matWrites x).any (fun w => (matReads b m).any (fun r => rangesMeet b w r)))

/-- R266, R267: whether an earlier-accepted command of a gang has still to write bytes of the descriptor that a command
reads as it is accepted. -/
def waitsForDesc (s : State) (b : Block) (u : Nat) (c : MatCmd) : Bool :=
  !(c.op == 3) && c.follow.isNone &&
    s.mats.any (fun x => x.gang == u && (matWrites x).any (fun w => rangesMeet b w (c.desc, 32)))

/-- R262, R272: the rows of A as raw bytes, then the scale codes of each. -/
def readA (b : Block) (pos : Nat) (d : BitVec 256) : List (List Byte) :=
  let rows := List.range (dM d)
  rows.map (fun i => scratchBytes b pos (dAoff d + dAstr d * rowIndex b pos d i) (ceilDiv (aStored d * aWidth d) 8)) ++
    rows.map (fun i =>
      if dAscl d then scratchBytes b pos (dAsc d + rowIndex b pos d i * (dK d / 32)) (dK d / 32) else [])

/-- R280: the package core that holds the partner's half. -/
def pairCore (b : Block) (pos : Nat) : Nat := b.cores.getD (pos ^^^ 1) 0

/-- R24: how many gangs of a block each of its cores takes. -/
def gangStride (b : Block) : Nat := 16 * ceilDiv (ceilDiv b.threads 32) (16 * max 1 b.span)

/-- R280: the number of the partner of a gang. -/
def pairGang (s : State) (b : Block) (g : Gang) : Option Gang :=
  let i := if b.posOf g.core % 2 = 0 then g.idx + gangStride b else g.idx - gangStride b
  gangOfBlock s b.uid i

/-- R280: the position in its gang's order of the command's partner. -/
def pairOp (s : State) (m : MatOp) : Option MatOp :=
  match s.gang? m.gang, s.block? m.block with
  | some g, some b =>
    (pairGang s b g).bind (fun t => s.mats.find? (fun x => x.gang == t.uid && x.pairSeq.isSome && x.pairSeq == m.pairSeq))
  | _, _ => none

/-- The descriptor of a command as the array reads it at acceptance; MZERO has none. -/
def readDesc (s : State) (b : Block) (pos : Nat) (c : MatCmd) : BitVec 256 :=
  if c.op = 3 ∧ c.follow = none then 0
  else match c.follow with
    | some id => BitVec.ofNat 256 (((s.copy? id).map (fun x => leValue x.req.cmd)).getD 0)
    | none => BitVec.ofNat 256 (leValue (scratchBytes b pos c.desc 32))

/-- R264: the check at acceptance: cause and detail. -/
def acceptCause (b : Block) (c : MatCmd) (d : BitVec 256) : Nat × Nat :=
  if c.op = 3 ∧ c.follow = none then (0, 0)
  else match descBad d (if c.follow = none then some c.op else none) c.tile b.tilesT with
    | none => (0, 0)
    | some o => (0x20, if c.follow = none then o else 32 + o)

/-- R281: what a paired command meets at once: a block on one core, or a partner that has given up. -/
def pairCause (b : Block) (g : Gang) (c : MatCmd) : Nat × Nat :=
  if !c.pair then (0, 0)
  else if b.span ≤ 1 then (0x23, g.core)
  else if g.pairLost.contains g.pairSent then (0x23, pairCore b (b.posOf g.core))
  else (0, 0)

/-- R281: how long a paired command waits for its partner. -/
def pairWaitNs : Nat := 100000

/-- R281: a paired command whose partner is too late fails, and so will the partner. -/
def pairExpire (s : State) (m : MatOp) : State :=
  match m.pairSeq, s.gang? m.gang, s.block? m.block with
  | some n, some g, some b =>
    let s1 := s.modMat m.id (fun m => { m with
      settled := true, pairSeq := none
      cause := if m.cause = 0 then 0x23 else m.cause
      detail := if m.cause = 0 then pairCore b m.blkpos else m.detail })
    match pairGang s b g with
    | none => s1
    | some t => s1.modGang t.uid (fun t => { t with pairLost := t.pairLost ++ [n] })
  | _, _, _ => s

/-- R281: what a paired command about to be accepted finds of its partner's half: one that has waited longer than it
may has given up. -/
def pairLate (s : State) (g : Gang) (b : Block) (c : MatCmd) : State :=
  if !c.pair then s
  else match (pairGang s b g).bind (fun t => s.mats.find? (fun x =>
      x.gang == t.uid && x.pairSeq == some g.pairSent && !x.settled && decide (x.accepted + pairWaitNs < s.now))) with
    | none => s
    | some x => pairExpire s x

/-- R266: a command accepted: its descriptor is read, checked, and MMAX gathers its rows. -/
def acceptCmd (s : State) (g : Gang) (b : Block) (c : MatCmd) : State :=
  let pos := b.posOf g.core
  let d := readDesc s b pos c
  let bad := acceptCause b c d
  let lost := pairCause b g c
  let cause := if bad.1 ≠ 0 then bad else lost
  let m : MatOp :=
    { id := s.nextOp, gang := g.uid, block := b.uid, core := g.core, blkpos := pos, cmd := c, desc := d,
      walked := !(dOp d == 5 && dGlobal d && c.op == 5), places := [], pins := [], accepted := s.now,
      pairSeq := if c.pair && lost.1 == 0 then some g.pairSent else none, settled := !c.pair || lost.1 != 0,
      cause := cause.1, detail := cause.2, waitReply := false,
      latch := if c.op = 1 ∧ cause.1 = 0 ∧ (¬ c.pair ∨ pos % 2 = 0) then some (readA b pos d) else none }
  State.modGang { s with mats := s.mats ++ [m], nextOp := s.nextOp + 1 } g.uid (fun g =>
    { (if c.follow = none then g.arrive c.oid [] else g) with
      pairSent := if c.pair then g.pairSent + 1 else g.pairSent })

/-- Whether a command in the arbiter's queue is a follow-on one (R282). -/
def isFollow (h : HeldItem) : Bool :=
  match h.eff with
  | .cmd c => c.follow.isSome
  | _ => false

/-- R266 COMMAND_ACCEPT: the matrix arbiter accepts a released command, each gang's in order; the gang's earlier
scratchpad writes have been made, and so have those of earlier commands to the bytes it reads now (R267). -/
def execCommandAccept (core i : Nat) (s : State) : Res :=
  .next (match (s.core core).matQ[i]? with
    | none => s
    | some (u, h) =>
      match s.gang? u, (s.gang? u).bind s.blockOf, h.eff with
      | some g, some b, .cmd c =>
        let early := ((s.core core).matQ.take i).any (fun e => e.1 == u && isFollow e.2 == c.follow.isSome)
        let probe : MatOp := ⟨s.nextOp, u, b.uid, core, b.posOf core, c, readDesc s b (b.posOf core) c, true, [], [], 0, none, true,
          0, 0, false, none⟩
        if early || (c.follow.isNone && writesBefore g h.ord) || waitsForDesc s b u c || (c.op == 1 && waitsForWrites s b probe) then s
        else
          let s1 := pairLate (s.modCore core (fun k => { k with matQ := k.matQ.eraseIdx i })) g b c
          match s1.gang? u with
          | none => s1
          | some g1 => acceptCmd s1 g1 b c
      | _, _, _ => s)

/-! ### Values (R262, R268, R269) -/

/-- R262: the value of an operand element; DAZ does not apply. -/
def matElem (t : Ty) (bits : Nat) : FVal :=
  let x := bits % 2 ^ tyWidth t
  if tyInt t then ofIntV (if tySigned t then signExt x (tyWidth t) else (x : Int))
  else if t = .ds8 then ds8Value x
  else fdecode (fmtOf t) x

/-- R262: the elements of a row or a column. -/
def elemsOf (t : Ty) (bs : List Byte) (n : Nat) : List FVal :=
  (List.range n).map (fun k => matElem t (bitField bs (k * tyWidth t) (tyWidth t)))

/-- R273: the metadata string. -/
def metaString (regs : List (List W32)) : Nat :=
  (regs.zipIdx).foldl (fun x r => x + ((r.1.zipIdx).foldl (fun y w => y + w.1.toNat * 2 ^ (32 * w.2)) 0) * 2 ^ (1024 * r.2)) 0

/-- R273: index `t` of metadata group `g`. -/
def metaIndex (m g t : Nat) : Nat := m / 2 ^ (12 * g + 3 * t) % 8

/-- R274: whether a metadata group is malformed. -/
def metaBad (m g : Nat) : Bool :=
  !(decide (metaIndex m g 0 < metaIndex m g 1 ∧ metaIndex m g 1 < metaIndex m g 2 ∧ metaIndex m g 2 < metaIndex m g 3))

/-- R274: the malformed groups that the summation group `h` covers. -/
def badGroups (m rows K h : Nat) : List Nat :=
  (List.range rows).flatMap (fun i => [i * (K / 8) + 2 * h, i * (K / 8) + 2 * h + 1].filter (metaBad m))

/-- R274: the first summation group that holds a malformed group, with the lowest of these. -/
def metaStop (m rows K : Nat) : Option (Nat × Nat) :=
  ((List.range (K / 16)).find? (fun h => !(badGroups m rows K h).isEmpty)).map (fun h => (h, ((badGroups m rows K h).head?).getD 0))

/-- R273: a dense row from its kept values. -/
def denseRow (m K i : Nat) (kept : List FVal) : List FVal :=
  (List.range K).map (fun k =>
    match (List.range 4).find? (fun t => metaIndex m (i * (K / 8) + k / 8) t == k % 8) with
    | some t => kept.getD (4 * (k / 8) + t) (ofIntV 0)
    | none => ofIntV 0)

/-- R269: the exact sum of a group of products, with its flags. -/
def groupSum (rnd : Rnd) (as bs : List FVal) : FVal × FFlags :=
  let ps := List.zipWith fmulV as bs
  let ts := ps.map (·.1)
  let t := sumV (zeroNegOf rnd ts) ts
  (t.1, ps.foldl (fun f p => f ||| p.2) t.2)

/-- R268, R269: a sum times the two block scales. -/
def scaleSum (x : FVal) (ea eb : Nat) : FVal :=
  if ea = 0xFF ∨ eb = 0xFF then .nan false
  else match x with
    | .fin n m e => .fin n m (e + ((ea : Int) - 127) + ((eb : Int) - 127))
    | v => v

/-- One accumulator element and what has been raised: its bits, the flags, a saturation. -/
structure AccVal where
  bits : Nat
  fl : FFlags
  satd : Bool

/-- R268 `Accumulate`. -/
def accumulate (acc : Ty) (rnd : Rnd) (flush sat : Bool) (x : AccVal) (s : FVal) (fl : FFlags) : AccVal :=
  if acc = .i32 then
    let n : Int := match s with
      | .fin n m e => signedM n (m <<< e.toNat)
      | _ => 0
    let y := signExt x.bits 32 + n
    if sat then ⟨wrapInt (satInt y .i32) 32, x.fl, x.satd || satInt y .i32 != y⟩ else ⟨wrapInt y 32, x.fl, x.satd⟩
  else
    let a := faddV rnd (fdecode (fmtOf acc) x.bits) s
    let r := roundVal (fmtOf acc) rnd flush a.1
    ⟨r.1, x.fl ||| fl ||| a.2 ||| r.2, x.satd⟩

/-- R263: the rounding mode of RND, a code 1 to 5. -/
def descRnd (d : BitVec 256) : Rnd := ((rndField (dRnd d)).join).getD .rne

/-- The operands of a multiply: the rows of A and the columns of B with their scale codes. -/
structure MatIn where
  a : List (List FVal)
  asc : List (List Byte)
  b : List (List FVal)
  bsc : List (List Byte)

/-- R262, R272, R273: the operands read, from rows of A already raw. -/
def matIn (b : Block) (pos : Nat) (d : BitVec 256) (regs : List (List W32)) (raw : List (List Byte)) : MatIn :=
  let ta := (dAtype d).getD .f32
  let tb := (dBtype d).getD .f32
  let ms := metaString regs
  { a := (raw.take (dM d)).mapIdx (fun i r =>
      let xs := elemsOf ta r (aStored d)
      if dOp d = 2 then denseRow ms (dK d) i xs else xs)
    asc := raw.drop (dM d)
    b := (List.range (dN d)).map (fun j => elemsOf tb (scratchBytes b pos (dBoff d + dBstr d * j) (ceilDiv (dK d * tyWidth tb) 8)) (dK d))
    bsc := (List.range (dN d)).map (fun j =>
      if dBscl d then scratchBytes b pos (dBsc d + j * (dK d / 32)) (dK d / 32) else []) }

/-- The scale code of a block of a row, 127 where there is none. -/
def codeAt (l : List (List Byte)) (i blk : Nat) : Nat := (((l.getD i [])[blk]?).map (·.toNat)).getD 127

/-- R268: one output element over the summation groups 0 to `stop` - 1. -/
def matSum (d : BitVec 256) (md : MatMode) (x : MatIn) (i j stop : Nat) (acc0 : Nat) : AccVal :=
  (List.range stop).foldl (fun acc h =>
    let k := h * md.group
    let g := groupSum (descRnd d) (((x.a.getD i []).drop k).take md.group) (((x.b.getD j []).drop k).take md.group)
    accumulate md.acc (descRnd d) (dFlush d) (dSat d) acc
      (if md.acc = .i32 then g.1 else scaleSum g.1 (codeAt x.asc i (k / 32)) (codeAt x.bsc j (k / 32))) g.2) ⟨acc0, 0, false⟩

/-! ### Tiles (R259) -/

/-- The key of a byte of a tile in a block's table. -/
def tileKey (pos tile off : Nat) : Nat := (pos * 8 + tile) * 65536 + off

/-- The bytes of an element of a tile kind. -/
def kindSize (t : Ty) : Nat := tyWidth t / 8

/-- R259: an element of a tile. -/
def tileElem (b : Block) (pos tile : Nat) (kind : Ty) (i j : Nat) : Nat :=
  leValue ((List.range (kindSize kind)).map (fun k => tabGet 0 b.tiles (tileKey pos tile (512 * i + kindSize kind * j + k))))

/-- R259: an element of a tile written. -/
def tilePut (b : Block) (pos tile : Nat) (kind : Ty) (i j x : Nat) : Block :=
  let at_ := tileKey pos tile (512 * i + kindSize kind * j)
  { b with tiles := (placed at_ (leBytes (kindSize kind) x)).foldl (fun t p => tabPut 0 t p.1 p.2) b.tiles }

/-- The elements of an M by N tile region. -/
def region (d : BitVec 256) : List (Nat × Nat) := (List.range (dM d)).flatMap (fun i => (List.range (dN d)).map (fun j => (i, j)))

/-! ### What commands do -/

/-- What a command has done: the block, and what its completion reports. -/
structure MatOut where
  b : Block
  cause : Nat
  detail : Nat
  group : Nat
  fl : FFlags
  satd : Bool
  cells : List StCell

/-- A command that did nothing. -/
def MatOut.idle (b : Block) (cause detail : Nat) : MatOut := ⟨b, cause, detail, 0, 0, false, []⟩

/-- R271 to R274: a multiply. -/
def runMultiply (b : Block) (m : MatOp) : MatOut :=
  let d := m.desc
  match descMode d with
  | none => MatOut.idle b 0 0
  | some md =>
    let x := matIn b m.blkpos d m.cmd.metaRegs (m.latch.getD (readA b m.blkpos d))
    let halt := if dOp d = 2 then metaStop (metaString m.cmd.metaRegs) (dM d) (dK d) else none
    let stop := (halt.map (·.1)).getD (dK d / md.group)
    (region d).foldl (fun o p =>
      let r := matSum d md x p.1 p.2 stop (tileElem b m.blkpos (dTile d) md.acc p.1 p.2)
      { o with b := tilePut o.b m.blkpos (dTile d) md.acc p.1 p.2 r.bits, fl := o.fl ||| r.fl, satd := o.satd || r.satd })
      { MatOut.idle b (if halt.isSome then 0x22 else 0) ((halt.map (·.2)).getD 0) with group := (halt.map (·.2)).getD 0 }

/-- R275: MZERO. -/
def runZero (b : Block) (m : MatOp) : MatOut :=
  let t := m.cmd.tile.getD 0
  MatOut.idle { b with tiles := b.tiles.filter (fun p => decide (p.1 < tileKey m.blkpos t 0 ∨ tileKey m.blkpos t 65536 ≤ p.1)) } 0 0

/-- R276: the tile kind and the bits of an element that MLDA loads. -/
def ldaElem (t : Ty) (bits : Nat) : Ty × Nat × FFlags :=
  if t = .f16 ∨ t = .bf16 then
    let r := fcvtV .f32 .rne false false (fdecode (fmtOf t) bits)
    (.f32, r.1, r.2)
  else (t, bits, flNone)

/-- R276: MLDA. -/
def runLoad (b : Block) (m : MatOp) : MatOut :=
  let d := m.desc
  let t := (dAtype d).getD .f32
  (region d).foldl (fun o p =>
    let w := tyWidth t
    let x := leValue (scratchBytes b m.blkpos (dAoff d + dAstr d * p.1 + p.2 * w / 8) (w / 8))
    let r := ldaElem t x
    { o with b := tilePut o.b m.blkpos (dTile d) r.1 p.1 p.2 r.2.1, fl := o.fl ||| r.2.2 }) (MatOut.idle b 0 0)

/-- R277: one element converted: its bits, flags, and whether it saturated. -/
def drainElem (kind bt : Ty) (d : BitVec 256) (x : Nat) : Nat × FFlags × Bool :=
  if kind = .i32 then
    let n := signExt x 32
    if tyInt bt then
      if dSat d then (wrapInt (satInt n bt) (tyWidth bt), flNone, satInt n bt != n) else (wrapInt n (tyWidth bt), flNone, false)
    else
      let r := roundVal (fmtOf bt) (descRnd d) false (ofIntV n)
      (r.1, r.2, false)
  else
    let r := fcvtV bt (descRnd d) (dSat d) (dFlush d) (fdecode (fmtOf kind) x)
    (r.1, r.2, false)

/-- A row drained: its elements, its scale codes (with BSCL), flags, saturation. -/
def drainRowOf (b : Block) (m : MatOp) (i : Nat) : List Nat × List Nat × FFlags × Bool :=
  let d := m.desc
  let kind := (dAtype d).getD .f32
  let bt := (dBtype d).getD .f32
  let xs := (List.range (dN d)).map (fun j => tileElem b m.blkpos (dTile d) kind i j)
  if dBscl d then
    let qs := (List.range (dN d / 32)).map (fun k => quantBlock bt (((xs.drop (32 * k)).take 32).map (fdecode (fmtOf .f32))))
    (qs.flatMap (fun q => q.2.1), qs.map (·.1), qs.foldl (fun f q => f ||| q.2.2) flNone, false)
  else
    let ys := xs.map (drainElem kind bt d)
    (ys.map (·.1), [], ys.foldl (fun f y => f ||| y.2.1) flNone, ys.any (·.2.2))

/-- Bits written into scratchpad under a mask: `w` bits at bit `p` from a byte offset (R63). -/
def scratchBits (b : Block) (pos off p w x : Nat) : Block :=
  let n := ceilDiv (p % 8 + w) 8
  let o := off + p / 8
  let v := x % 2 ^ w * 2 ^ (p % 8)
  let k := (2 ^ w - 1) * 2 ^ (p % 8)
  scratchPut b pos ((List.range n).map (fun i =>
    (o + i, maskByte (scratchByte b pos (o + i)) (BitVec.ofNat 8 (v / 2 ^ (8 * i))) (BitVec.ofNat 8 (k / 2 ^ (8 * i))))))

/-- R277: MDRAIN. With GLOBAL 1 its elements and scales go to the store buffer (R278). -/
def runDrain (b : Block) (m : MatOp) : MatOut :=
  let d := m.desc
  let w := ((dBtype d).map tyWidth).getD 8
  (List.range (dM d)).foldl (fun o i =>
    let r := drainRowOf b m i
    let o1 := { o with fl := o.fl ||| r.2.2.1, satd := o.satd || r.2.2.2 }
    if dGlobal d then
      let cs := (r.1.zipIdx).flatMap (fun y =>
        match m.places[i * dN d + y.2]? with
        | none => []
        | some p => elemStore p.cells p.bit w y.1 ++
            (match p.scale with
              | none => []
              | some c => [⟨c, BitVec.ofNat 8 (r.2.1.getD (y.2 / 32) 0), 0xFF⟩]))
      { o1 with cells := o1.cells ++ cs }
    else
      let b1 := (r.1.zipIdx).foldl (fun b y => scratchBits b m.blkpos (dAoff d + dAstr d * i) (y.2 * w) w y.1) o1.b
      { o1 with b := scratchPut b1 m.blkpos (placed (dBsc d + i * (dN d / 32)) (r.2.1.map (BitVec.ofNat 8))) })
    (MatOut.idle b 0 0)

/-- R279: the magnitude that SPCOMP compares. -/
def compMag (t : Ty) (x : Byte) : Nat := if t = .i8 then (signExt x.toNat 8).natAbs else x.toNat

/-- R279: the four indices kept of a group of eight: those of fewer than four better ones. -/
def compKeep (t : Ty) (g : List Byte) : List Nat :=
  let mag := fun i => compMag t (g.getD i 0)
  (List.range 8).filter (fun i =>
    decide (((List.range 8).filter (fun k => decide (mag i < mag k ∨ (mag i = mag k ∧ k < i)))).length < 4))

/-- R279: SPCOMP. -/
def runCompress (b : Block) (m : MatOp) : MatOut :=
  let d := m.desc
  let t := (dAtype d).getD .i8
  let gs := (List.range (dM d)).flatMap (fun i => (List.range (dK d / 8)).map (fun c => (i, c)))
  MatOut.idle (gs.foldl (fun b' p =>
    let g := scratchBytes b m.blkpos (dAoff d + dAstr d * p.1 + 8 * p.2) 8
    let ks := compKeep t g
    let b1 := scratchPut b' m.blkpos (placed (dBoff d + dBstr d * p.1 + 4 * p.2) (ks.map (fun k => g.getD k 0)))
    scratchBits b1 m.blkpos (dBsc d) (12 * (p.1 * (dK d / 8) + p.2)) 12
      ((ks.zipIdx).foldl (fun x k => x + k.1 * 2 ^ (3 * k.2)) 0)) b) 0 0

/-- A command run, by its OP. -/
def runCommand (b : Block) (m : MatOp) : MatOut :=
  if m.cause ≠ 0 then MatOut.idle b m.cause m.detail
  else if m.cmd.op = 3 ∧ m.cmd.follow = none then runZero b m
  else match dOp m.desc with
    | 4 => runLoad b m
    | 5 => runDrain b m
    | 6 => runCompress b m
    | _ => runMultiply b m

/-! ### Paired commands (R280, R281) -/

/-- R280: the lowest offset at which two descriptors have to agree and do not. -/
def pairDisagree (x y : BitVec 256) : Option Nat :=
  let ne := fun (hi lo : Nat) => descBits x hi lo != descBits y hi lo
  leastOf [(ne 2 0, 0), (ne 15 14, 1), (ne 17 17 || ne 18 18 || ne 21 19 || ne 26 22, 2), (ne 31 27, 3), (ne 47 40, 5), (ne 63 48, 6)]

/-- R280, R281: what a half of a pair comes to, given the other. -/
def pairVerdict (m p : MatOp) : Nat × Nat :=
  if m.cause ≠ 0 then (m.cause, m.detail)
  else if p.cause ≠ 0 then (0x24, p.core)
  else match pairDisagree m.desc p.desc with
    | some o => (0x20, o)
    | none =>
      if dOp m.desc = 2 ∧ m.blkpos % 2 = 1 ∧ (metaStop (metaString p.cmd.metaRegs) (dM p.desc) (dK p.desc)).isSome then (0x24, p.core)
      else (0, 0)

/-- R280: the half of a pair that supplies A. -/
def evenHalf (m p : MatOp) : MatOp := if m.blkpos % 2 = 0 then m else p

/-- R280: both halves settled: A comes from the even core. -/
def settlePair (s : State) (b : Block) (m p : MatOp) : State :=
  let even := evenHalf m p
  let rows := even.latch.getD (readA b even.blkpos even.desc)
  let set := fun (x y : MatOp) (s : State) => s.modMat x.id (fun z =>
    let v := pairVerdict x y
    { z with
      settled := true, cause := v.1, detail := v.2, latch := some rows
      cmd := { z.cmd with metaRegs := even.cmd.metaRegs } })
  set p m (set m p s)

/-- R281 PAIR_TIMEOUT: a partner that has not been accepted in time: the command fails, and so will the partner. -/
def execPairTimeout (op : Nat) (s : State) : Res :=
  .next (match s.mat? op with
    | none => s
    | some m =>
      if m.settled || (pairOp s m).isSome || decide (s.now < m.accepted + pairWaitNs) then s else pairExpire s m)

/-! ### Completion (R267, R270, R283) -/

/-- The tile of a command: none for SPCOMP. -/
def matTile (m : MatOp) : Option Nat :=
  if m.cmd.op = 3 ∧ m.cmd.follow = none then m.cmd.tile else if dOp m.desc = 6 then none else some (dTile m.desc)

/-- R267: whether an earlier command has still to act on the tile; one whose walk waits for a reply has (R283). -/
def waitsForTile (s : State) (m : MatOp) : Bool :=
  (matTile m).isSome && s.mats.any (fun x =>
    x.block == m.block && x.core == m.core && decide (x.id < m.id) && (x.cause == 0 || (x.waitReply && !x.walked)) &&
      matTile x == matTile m)

/-- R267: whether a command may run. -/
def matReady (s : State) (b : Block) (m : MatOp) : Bool := m.cause != 0 || !(waitsForTile s m || waitsForWrites s b m)

/-- R283: the record's address. -/
def matAddr (m : MatOp) (cause : Nat) : W64 := if cause = 0x14 ∨ cause = 0x21 then BitVec.ofNat 64 (dDrec m.desc) else 0

/-- R283: the record of a command that fails; one whose walk fault was answered has its record already. -/
def matFault (s : State) (m : MatOp) (cause detail : Nat) : State :=
  if cause = 0 ∨ m.waitReply then s
  else match s.gang? m.gang with
    | none => s
    | some g => deferCommand s m.gang (faultFor s g cause detail m.cmd.pc (matAddr m cause) 0) g.regs.alive

/-- R270: a command is complete: what it wrote, its completion word, its flags, its record, its place in the class. -/
def finishCommand (s : State) (m : MatOp) (o : MatOut) : State :=
  let s1 := s.modBlock m.block (fun _ => o.b)
  let s2 := if o.cells.isEmpty then s1 else
    dropLines (acceptStore s1 m.block m.core m.gang m.cmd.pc 0 none o.cells) m.core o.cells
  let s3 := if m.cmd.op = 3 ∧ m.cmd.follow = none then s2 else
    writeCompl s2 m.block m.blkpos (descCw m.desc.toNat) (complWord o.cause o.group o.satd o.fl)
  let s4 := matFault s3 m o.cause o.detail
  let s5 := s4.modGang m.gang (fun g => g.completeOp 1 m.cmd.oid o.fl)
  let s6 := match m.cmd.follow with
    | none => s5
    | some c => s5.modCopy c (fun c => { c with phase := .landed })
  unpin { s6 with mats := s6.mats.filter (fun x => x.id != m.id) } m.pins

/-- R270 COMMAND_COMPLETE: a command runs and completes; the first half of a pair to do so settles both, once A can be
read. Each half then runs in the order of its own core's tile (R267, R306). -/
def execCommandComplete (op : Nat) (s : State) : Res :=
  .next (match s.mat? op with
    | none => s
    | some m =>
      match s.block? m.block with
      | none => s
      | some b =>
        if !m.walked && m.cause == 0 || (m.waitReply && !m.walked) || !(matReady s b m) then s
        else if m.settled then finishCommand s m (runCommand b m)
        else match pairOp s m with
          | none => s
          | some p =>
            if waitsForWrites s b (evenHalf m p) then s
            else
              let s1 := settlePair s b m p
              match s1.mat? op with
              | none => s1
              | some m1 => finishCommand s1 m1 (runCommand b m1))

/-! ### The walk of a drain (R278) and walk-ahead (R234) -/

/-- R278: whether EFMT is the format that a type names. -/
def fmtNamed (fmt : Nat) (t : Ty) : Bool :=
  match elemFmt fmt with
  | .float x => x == t
  | .int 8 sg => t == (if sg then .i8 else .n8)
  | _ => false

/-- R278: the conditions on the record's size and place, beyond its own checks: the offset of the lowest breached. -/
def drainSize (d : BitVec 256) (v : Nat) : Option Nat :=
  leastOf [(decide (dN d > shDim v 0), 16), (decide (dM d > shDim v 1), 20), (shDist v, 57)]

/-- R278: whether the record's format is not the one the drain writes. -/
def drainFormatBad (d : BitVec 256) (v : Nat) : Bool :=
  !(((dBtype d).map (fmtNamed (shFmt v))).getD false) || (shBlk v == 2) != dBscl d

/-- R278: the conditions on the record: cause and detail. EBLK 1 or 3 always raises the element-format fault; else a
record that breaks its own rules (R230) gives the lowest offending field, then its format is tested, then the rest. -/
def drainRecord (d : BitVec 256) (v : Nat) : Nat × Nat :=
  if shBlk v = 1 ∨ shBlk v = 3 then (0x14, shFmt v + 16 * shBlk v)
  else match shapeBad (dDrec d) v true, drainSize d v with
    | some o, none => (0x21, o)
    | some o, some p => (0x21, min o p)
    | none, z => if drainFormatBad d v then (0x14, shFmt v + 16 * shBlk v) else (z.map (fun o => (0x21, o))).getD (0, 0)

/-- R230: the linear index of a drain's element. -/
def drainIndex (v : Nat) (p : Nat × Nat) : Int := ((p.2 + shDim v 0 * p.1 : Nat) : Int)

/-- R278: the places of a drain's elements, the first of each block with its scale, and the errors of the scales. -/
def drainPlaces (s : State) (asid : Nat) (d : BitVec 256) (v : Nat) : List (Except WalkErr ElemPlace) :=
  let head := fun (p : Nat × Nat) => dBscl d && p.2 % 32 == 0
  (region d).map (fun p =>
    match walkElem s asid v .write false (elemBits (shFmt v)) (drainIndex v p) with
    | .error e => .error e
    | .ok x => if head p then (walkScale s asid v .write (drainIndex v p)).map (fun c => { x with scale := c }) else .ok x) ++
    scaleErrs s asid v .write (((region d).filter head).map (drainIndex v))

/-- R227, R283: a fault in the walk of a drain: the format of a page ends it, and so does an uncorrectable record (R360;
DEDUCED, log 111); another waits for a reply. -/
def drainFault (s : State) (m : MatOp) (b : Block) (cause detail addr : Nat) : State :=
  if cause = 0x14 ∨ cause = 0x19 ∨ cause = 0x21 then s.modMat m.id (fun m => { m with walked := true, cause := cause, detail := detail })
  else
    let s1 := forgetFailed (s.modMat m.id (fun m => { m with waitReply := true, cause := cause, detail := detail })) b.asid
    raiseEngine s1 (engineFault s m.gang m.block m.core cause detail m.cmd.pc (BitVec.ofNat 64 addr)) (some m.id)

/-- The walk of a drain whose record is good. Its writes are requests of its core, of class 3, whose deadline stamps them
(R336, R339; log 99). -/
def drainStart (s : State) (m : MatOp) (b : Block) (v : Nat) : State :=
  let serve := Cell.serve m.core (serviceOf s b.asid 3)
  let w := walkOutcome (drainPlaces s b.asid m.desc v)
  let cells := w.2.2.flatMap ElemPlace.all
  let ask := askWalks s m.core false b.asid (cells.map (·.va))
  if !w.1.isEmpty then askTrans s m.core b.asid w.1
  else match w.2.1 with
    | some (c, d, a) => drainFault ask m b c d a
    | none =>
      let pins := pinsOf cells
      if inMotion s cells then s
      else (pinAll ask pins).modMat m.id (fun m => { m with
        walked := true, pins := pins
        places := w.2.2.map (fun p => { p with scale := p.scale.map serve, cells := p.cells.map serve }) })

/-- R278: the record of a drain is read, and its pages walked and pinned. -/
def walkDrain (s : State) (m : MatOp) : State :=
  match s.block? m.block with
  | none => s
  | some b =>
    let xl := fun a => xlateWalk s b.asid a .read false
    let ask := recAsk (askWalks s m.core false b.asid [dDrec m.desc]) m.core b.asid (dDrec m.desc) xl
    if m.walked || m.waitReply || m.cause != 0 then s
    else if dDrec m.desc % 64 ≠ 0 then drainFault s m b 0x21 0 (dDrec m.desc)
    else match recRead s m.core b.asid (dDrec m.desc) xl with
      | .error (.wait t p, _) => askTrans s m.core b.asid [(t, p)]
      | .error (.fault c d, a) | .error (.late c d, a) => drainFault ask m b c d a
      | .error (.ok _, _) => s
      | .ok bs =>
        let s1 := recKeep { ask with free := ask.free + 1 } m.core b.asid (dDrec m.desc) bs
        match drainRecord m.desc (shapeNat bs) with
        | (0, _) => drainStart s1 m b (shapeNat bs)
        | (c, d) => drainFault s1 m b c d (dDrec m.desc)

/-- R234 WALK_AHEAD_TRANSLATE: the walk of a copy request or of a drain. -/
def execWalkAheadTranslate (op : Nat) (s : State) : Res :=
  .next (match s.copy? op, s.mat? op with
    | some c, _ => walkRequest s c
    | none, some m => walkDrain s m
    | none, none => s)

end Sys2Proof.Machine
end

