-- ==== Sys2Proof/Machine/Barriers.lean ====
section
/-! DEFINITION. Machine/Barriers.lean: barrier objects: the four words at issue (R295), the networks' operations (R294 to
R299), release (R297), the watchdog with its diagnostic record and the termination of the context (R301 to R303), and
the pod network's messages (R404, R405).
-/
namespace Sys2Proof.Machine

/-! ### Issue (R295) -/

/-- R295, R375: a word that names an object of `n` bytes: the address is checked and translated; what `eff` makes of it is
held, its result outstanding; the run waits where `w` says so. -/
def barrierWord (n : Nat) (f : EF) (acc : Access) (dst : Opd) (eff : Nat → Xl → Nat → Held) (w : Nat → Nat → List Wait) (s : State) : State :=
  onceForGang s (fun g s =>
    let va := gangSrc s g f.a
    let a : Attempt Xl := match access s g (gangAsid (s.blockOf g)) va n acc with
      | .ok x => ⟨none, va, .ok x⟩
      | e => ⟨none, va, .error e⟩
    runAccess s (gangAsid (s.blockOf g)) [a] (fun s l =>
      l.foldl (fun s p => s.onIssuer (fun g =>
        let g1 := (g.await s.cx.pc .unit (gangDsts dst) [] false true).hold s.cx.pc (eff va p.2 g.nextId)
        if (w g.nextId g.run).isEmpty then g1 else g1.waitAfter s.act (w g.nextId g.run))) s))

/-- R296 BARI. -/
def execBari (f : EF) (s : State) : Res :=
  .next (barrierWord 64 f .write .none
    (fun va x oid => .bari va x.cell x.scope (BitVec.ofNat 64 ((s.gang? s.cx.gang).elim 0 (fun g => gangSrc s g f.b))) oid)
    (fun _ _ => []) s)

/-- R297 BARA. -/
def execBara (f : EF) (s : State) : Res :=
  .next (barrierWord 64 f .write f.d (fun va x oid => .bara va x.cell x.scope f.d oid) (fun _ _ => []) s)

/-- R298 BARW: the gang parks at the run's end. -/
def execBarw (f : EF) (s : State) : Res :=
  .next (barrierWord 64 f .read f.d
    (fun va x oid => .barw va x.cell x.scope (BitVec.ofNat 32 ((s.gang? s.cx.gang).elim 0 (fun g => gangSrc s g f.b))) f.d oid)
    (fun oid run => [.barw oid run]) s)

/-- R299 BART. -/
def execBart (f : EF) (s : State) : Res :=
  .next (barrierWord 64 f .read f.d (fun va x oid => .bart va x.cell x.scope f.d oid) (fun _ _ => []) s)

/-! ### Objects (R293, R294) -/

/-- R294: what an object on a page of the given SCOPE is bound to, for a user on a core. -/
def barBinding (scope core : Nat) : Nat :=
  match scope with
  | 0 => core
  | 1 => quadOf core
  | 2 => dieOf core
  | _ => 0

/-- The object at a place, as a network holds it. -/
def State.bar? (s : State) (pa : Nat) : Option BarObj := s.bars.find? (fun o => o.cell.pa == pa)

/-- Change of one object. -/
def State.modBar (s : State) (pa : Nat) (f : BarObj → BarObj) : State :=
  { s with bars := s.bars.map (fun o => if o.cell.pa = pa then f o else o) }

/-- The cells of an object. -/
def barCells (c : Cell) : List Cell := (List.range 64).map (fun i => { c with pa := c.pa + i, va := c.va + i })

/-- R293: the image of an object. -/
def barImage (o : BarObj) : Nat :=
  o.start % 2 ^ 64 * 2 ^ 192 + o.timeout % 2 ^ 32 * 2 ^ 160 + o.phase.toNat * 2 ^ 128 + o.count % 2 ^ 24 * 2 ^ 80 +
    o.expect % 2 ^ 24 * 2 ^ 56 + o.asid % 2 ^ 11 * 2 ^ 45 + o.scope % 8 * 2 ^ 8 + (if o.valid then 1 else 0)

/-- R294: the image written at home. -/
def writeBar (s : State) (o : BarObj) : State :=
  ownWrite s ownUnit (some o.asid) (stCells (barCells o.cell) (leBytes 64 (barImage o)))

/-- The 64 bytes at home. -/
def homeBar (s : State) (c : Cell) : Nat := leValue (readCells s (barCells c))

/-- R295: a status. -/
def barStatus (phase : Nat) (valid : Bool) (count : Nat) : Nat :=
  phase % 2 ^ 32 * 2 ^ 32 + (if valid then 2 ^ 31 else 0) + count % 2 ^ 24

/-- The status of an object: as its network holds it while it is live, else from home with VALID clear (R298, R299). -/
def statusOf (s : State) (c : Cell) : Nat :=
  match s.bar? c.pa with
  | some o => if o.valid then barStatus o.phase.toNat true o.count else barStatus (bitsOf (homeBar s c) 159 128) false (bitsOf (homeBar s c) 103 80)
  | none => barStatus (bitsOf (homeBar s c) 159 128) false (bitsOf (homeBar s c) 103 80)

/-- Whether a live object stands at a place. -/
def barLive (s : State) (pa : Nat) : Bool := ((s.bar? pa).map (·.valid)).getD false

/-- R336: the read of what stands at home of an object that is not live. -/
def homeAsk (s : State) (asid : Nat) (c : Cell) : State :=
  if barLive s c.pa then s else ownRead s ownUnit (some asid) (barCells c)

/-- R342: whether that read has to wait for a stack in self-refresh. -/
def barAsleep (s : State) (c : Cell) : Bool :=
  !s.selfRefresh.isEmpty && !(isRemote c.pa) && !(barLive s c.pa) && (barCells c).any (fun x => readAsleep s x.pa)

/-- R302: whether the network of an object has stopped accepting operations on it. -/
def barStopped (s : State) (pa : Nat) : Bool := ((s.bar? pa).map (·.expired)).getD false

/-- R295: the checks of a live object: its ASID and its binding. -/
def barUseOk (s : State) (g : Gang) (pa : Nat) : Bool :=
  match s.bar? pa with
  | none => true
  | some o => !o.valid || (o.asid == gangAsid (s.blockOf g) && o.bound == barBinding o.scope g.core)

/-- R295: the barrier-object invalid fault: deferred; the word's result stays as it was. -/
def barFault (s : State) (g : Gang) (h : HeldItem) (va oid : Nat) : State :=
  (deferFault s g.uid 0 (faultFor s g 0x31 0 h.pc (BitVec.ofNat 64 va) 0) h.lanes).modGang g.uid (fun g => g.arrive oid [])

/-- A gang's operation delivers its result. -/
def barAnswer (s : State) (u oid : Nat) (dst : Opd) (x : Nat) : State :=
  s.modGang u (fun g => g.arrive oid (gangEffs (g.ordOf oid) dst x))

/-- The destination of a waiting gang's result, from the names it holds. -/
def waitDst (g : Gang) (oid : Nat) : Opd :=
  match (((g.out.find? (fun o => o.id == oid)).map (·.dsts)).getD [] : List Dst) with
  | .s r :: _ => if h : r < 512 then .s ⟨r, h⟩ else .none
  | .c r :: _ => if h : r < 32 then .c ⟨r, h⟩ else .none
  | _ => .none

/-! ### Release (R297, R404) -/

/-- Whether a gang is one of a marked straggler, for which the evaluation of a `BARW` is a kill point (R298, R379). -/
def gangMarked (s : State) (g : Gang) : Bool := ((s.blockOf g).map (isMarked s)).getD false

/-- A gang that its block's save took off its core is acted on as if it stood there, and stays saved (R305, R331). -/
def onSaved (s : State) (u : Nat) (f : State → State) : State :=
  match (s.blocks.flatMap (·.savedGangs)).find? (fun g => g.uid == u) with
  | none => s
  | some g =>
    let s1 := f { s with gangs := s.gangs ++ [g] }
    match s1.gang? u with
    | none => s1
    | some g' => { s1 with
        gangs := s1.gangs.filter (fun x => x.uid != u)
        blocks := s1.blocks.map (fun b => { b with savedGangs := b.savedGangs.map (fun x => if x.uid = u then g' else x) }) }

/-- What comes for a gang from outside its core reaches it resident or saved; one that is gone gets nothing. -/
def onGang (s : State) (u : Nat) (f : State → State) : State := if (s.gang? u).isSome then f s else onSaved s u f

/-- A waiting gang's `BARW` evaluated: it completes with a status, or is the kill point of a marked straggler (R379). -/
def wakeWaiter (s : State) (status : Nat) (w : Nat × Nat × BitVec 32) : State :=
  match s.gang? w.1 with
  | none => s
  | some g =>
    if gangMarked s g then killBlock s g.block 0 (((g.out.find? (fun o => o.id == w.2.1)).map (·.pc)).getD 0)
    else barAnswer s w.1 w.2.1 (waitDst g w.2.1) status

/-- The gangs that wait on an object and whose evaluation ends the wait: those resident, when its PHASE differs or it is not
live, or the block is a marked straggler. What stands here for an object of another package knows no PHASE: there a wait ends
when its package's notice comes (R404). -/
def readyWaiters (s : State) (o : BarObj) : List (Nat × Nat × BitVec 32) :=
  o.waiters.filter (fun w => match s.gang? w.1 with
    | none => false
    | some g => (!(isRemote o.cell.pa) && (!o.valid || w.2.2 != o.phase)) || gangMarked s g)

/-- Every `BARW` that may complete on an object does; packages with a waiting gang are told (R404). -/
def wakeBar (s : State) (pa : Nat) : State :=
  match s.bar? pa with
  | none => s
  | some o =>
    let status := barStatus o.phase.toNat o.valid o.count
    let ready := readyWaiters s o
    let told := o.remote.filter (fun r => r.phase != o.phase)
    let notices := (told.map (fun r => (r.src, RemoteResp.released r.sasid r.va o.phase))).eraseDups
    let s1 := ready.foldl (fun s w => wakeWaiter s status w) s
    { s1.modBar pa (fun o => { o with
        waiters := o.waiters.filter (fun w => !(ready.contains w)), remote := o.remote.filter (fun r => !(told.contains r)) }) with
      outbox := s1.outbox ++ notices }

/-- R297: an arrival counted, of a gang of a block of a package (0: this one); at EXPECT the phase is released. -/
def countArrival (s : State) (pa pkg block gang : Nat) : State :=
  let s1 := s.modBar pa (fun o => { o with
    start := if o.count = 0 ∧ o.start = 0 then s.now else o.start
    count := o.count + 1
    arrivals := o.arrivals ++ [(pkg, block, gang)]
    last := if pkg = 0 then block else 0 })
  match s1.bar? pa with
  | none => s1
  | some o =>
    if o.count = o.expect then
      let o' : BarObj := { o with phase := o.phase + 1, count := 0, start := 0, arrivals := [], senders := [] }
      wakeBar (writeBar (s1.modBar pa (fun _ => o')) o') pa
    else s1

/-! ### The networks' operations -/

/-- The address of the object that an operation names. -/
def barVa : Held → Option Nat
  | .bari va .. | .bara va .. | .barw va .. | .bart va .. => some va
  | _ => none

/-- Whether an earlier operation of the same gang on the same object stands before one in the queue. -/
def barEarly (s : State) (i : Nat) (o : UnitOp) : Bool :=
  (s.barQ.take i).any (fun x => x.gang == o.gang && barVa x.item.eff == barVa o.item.eff)

/-- An operation on an object of another package leaves as an aperture write (R404). -/
def barRemote (s : State) (g : Gang) (h : HeldItem) (va : Nat) (cell : Cell) (oid : Nat) (wait : Bool) : State :=
  (sendRemote s (.barrier g.uid oid wait h.lanes h.pc va) (remoteTarget cell.pa) (gangAsid (s.blockOf g))).1

/-- An object of another package, as this one stands for it. -/
def proxyBar (va : Nat) (cell : Cell) (asid : Nat) : BarObj :=
  ⟨cell, va, asid, 4, 0, 0, 0, 0, 0, 0, true, false, [], [], [], [], 0⟩

/-- R404: such an object stands here for a gang's operation. -/
def withProxy (s : State) (g : Gang) (va : Nat) (cell : Cell) : State :=
  if (s.bar? cell.pa).isSome then s else { s with bars := s.bars ++ [proxyBar va cell (gangAsid (s.blockOf g))] }

/-- R305: an arrival on its way to an object of another package is kept in mind, so that it can be withdrawn. -/
def arriveRemote (s : State) (g : Gang) (va : Nat) (cell : Cell) : State :=
  (withProxy s g va cell).modBar cell.pa (fun o => { o with arrivals := o.arrivals ++ [(0, g.block, g.idx)] })

/-- R296: the network's part of BARI, for a live or a new object. -/
def initBar (s : State) (asid core va : Nat) (cell : Cell) (scope : Nat) (arg : W64) : State :=
  let expect := bitsOf arg.toNat 23 0
  let timeout := if bitsOf arg.toNat 63 32 = 0 then 2000 else bitsOf arg.toNat 63 32
  let others := s.bars.filter (fun o => o.cell.pa != cell.pa)
  if expect = 0 then
    match s.bar? cell.pa with
    | some o => writeBar { s with bars := others } { o with valid := false }
    | none =>
      let x := homeBar s cell
      ownWrite (homeAsk s asid cell) ownUnit (some asid) (stCells (barCells cell) (leBytes 64 (x / 2 * 2)))
  else
    let o : BarObj := ⟨cell, va, asid, scope, barBinding scope core, expect, 0, 0, timeout, 0, true, false, [], [], [], [], 0⟩
    writeBar { s with bars := others ++ [o] } o

/-- R295: what BARI faults on at the network. -/
def initBad (s : State) (g : Gang) (pa : Nat) (arg : W64) : Bool :=
  bitsOf arg.toNat 31 24 != 0 || !(barUseOk s g pa) ||
    (barLive s pa && ((s.bar? pa).map (fun o => !o.waiters.isEmpty || !o.remote.isEmpty)).getD false)

/-- R296 BARRIER_NETWORK_INIT: a BARI reaches its network. -/
def execBarrierNetworkInit (i : Nat) (s : State) : Res :=
  .next (match s.barQ[i]? with
    | none => s
    | some o =>
      match o.item.eff, s.gang? o.gang with
      | .bari va cell scope arg oid, some g =>
        if barEarly s i o || barStopped s cell.pa || barAsleep s cell then s
        else
          let s1 := { s with barQ := s.barQ.eraseIdx i }
          if isRemote cell.pa then barRemote s1 g o.item va cell oid false
          else if initBad s g cell.pa arg then barFault s1 g o.item va oid
          else (initBar s1 (gangAsid (s.blockOf g)) g.core va cell scope arg).modGang g.uid (fun g => g.arrive oid [])
      | _, _ => s)

/-- R297 BARRIER_NETWORK_ARRIVAL: a BARA reaches its network: counted, and the phase perhaps released. -/
def execBarrierNetworkArrival (i : Nat) (s : State) : Res :=
  .next (match s.barQ[i]? with
    | none => s
    | some o =>
      match o.item.eff, s.gang? o.gang with
      | .bara va cell _ dst oid, some g =>
        if barEarly s i o || barStopped s cell.pa then s
        else
          let s1 := { s with barQ := s.barQ.eraseIdx i }
          if isRemote cell.pa then barRemote (arriveRemote s1 g va cell) g o.item va cell oid false
          else if !(barLive s cell.pa) || !(barUseOk s g cell.pa) then barFault s1 g o.item va oid
          else
            let phase := ((s.bar? cell.pa).map (fun b => b.phase.toNat)).getD 0
            countArrival (barAnswer s1 g.uid oid dst phase) cell.pa 0 g.block g.idx
      | _, _ => s)

/-- R299 BARRIER_STATUS_READ: a BART reaches its network. -/
def execBarrierStatusRead (i : Nat) (s : State) : Res :=
  .next (match s.barQ[i]? with
    | none => s
    | some o =>
      match o.item.eff, s.gang? o.gang with
      | .bart va cell _ dst oid, some g =>
        if barEarly s i o || barStopped s cell.pa || barAsleep s cell then s
        else
          let s1 := { s with barQ := s.barQ.eraseIdx i }
          if isRemote cell.pa then barRemote s1 g o.item va cell oid false
          else if !(barUseOk s g cell.pa) then barFault s1 g o.item va oid
          else barAnswer (homeAsk s1 (gangAsid (s.blockOf g)) cell) g.uid oid dst (statusOf s cell)
      | _, _ => s)

/-- R404: a wait on an object of another package. -/
def waitRemote (s : State) (g : Gang) (h : HeldItem) (va : Nat) (cell : Cell) (p : BitVec 32) (oid : Nat) : State :=
  barRemote ((withProxy s g va cell).modBar cell.pa (fun o => { o with waiters := o.waiters ++ [(g.uid, oid, p)] })) g h va cell
    oid true

/-- R298: a wait at the network of an object homed here. -/
def waitLocal (s : State) (g : Gang) (h : HeldItem) (va : Nat) (cell : Cell) (p : BitVec 32) (dst : Opd) (oid : Nat) : State :=
  let answer := barAnswer (homeAsk s (gangAsid (s.blockOf g)) cell) g.uid oid dst (statusOf s cell)
  if !(barUseOk s g cell.pa) then barFault s g h va oid
  else match s.bar? cell.pa with
    | some o =>
      if o.valid ∧ o.phase = p then
        s.modBar cell.pa (fun o => { o with
          start := if o.start = 0 then s.now else o.start
          waiters := o.waiters ++ [(g.uid, oid, p)] })
      else answer
    | none => answer

/-- R298, R379 BARRIER_WAIT_TEST: a gang's BARW is evaluated; for a marked straggler it is a kill point instead. -/
def execBarrierWaitTest (gang : Nat) (s : State) : Res :=
  .next (match s.barQ.findIdx? (fun o => o.gang == gang && (match o.item.eff with | .barw .. => true | _ => false)) with
    | none => s
    | some i =>
      match s.barQ[i]?, s.gang? gang with
      | some o, some g =>
        (match o.item.eff, s.blockOf g with
          | .barw va cell _ p dst oid, some b =>
            if barEarly s i o || barStopped s cell.pa then s
            else
              let s1 := { s with barQ := s.barQ.eraseIdx i }
              if isMarked s b then killBlock s1 b.uid 0 o.item.pc
              else if barAsleep s cell then s
              else if isRemote cell.pa then waitRemote s1 g o.item va cell p oid
              else waitLocal s1 g o.item va cell p dst oid
          | _, _ => s)
      | _, _ => s)

/-! ### The watchdog (R301 to R303) -/

/-- R302: the block to capture: the lowest-numbered one of the context with a waiting gang, else that of the latest
arrival, and of a pod object none (R405). -/
def captureBlock (s : State) (o : BarObj) : Option Block :=
  let waits := s.blocks.filter (fun b => b.asid == o.asid && s.gangs.any (fun g => g.block == b.uid && o.waiters.any (fun w => w.1 == g.uid)))
  match waits.foldl (fun a b => match a with | none => some b | some x => if b.idx < x.idx then some b else a) none with
  | some b => some b
  | none => if o.scope = 4 then none else (s.block? o.last).filter (fun b => b.asid == o.asid)

/-- The gang of a block with an index, waiting on an object. -/
def waitsOn (o : BarObj) (g : Gang) : Bool := o.waiters.any (fun w => w.1 == g.uid)

/-- R302: a bit for each gang 0 to 255 of a block that satisfies `p`. -/
def gangBits (s : State) (b : Nat) (p : Gang → Bool) : Nat :=
  (s.gangs.filter (fun g => g.block == b && p g)).foldl (fun x g => x + 2 ^ g.idx) 0

/-- R302: the PC of a gang's lowest non-exited lane. -/
def gangPc (g : Gang) : Nat :=
  let l := lowestLane g.regs.alive
  if l = 32 then 0 else (g.regs.lane l).pc.toNat

/-- R302: the diagnostic record. -/
def diagRecord (s : State) (o : BarObj) : List Byte :=
  let bk := captureBlock s o
  let u := (bk.map (·.uid)).getD 0
  let gangs := (bk.map (fun b => ceilDiv b.threads 32)).getD 0
  let live := gangBits s u (fun _ => true)
  let pcs := (List.range 32).foldl (fun x i => x + ((gangOfBlock s u i).elim 0 gangPc) * 2 ^ (64 * i)) 0
  let ended := (List.range (min 256 gangs)).foldl (fun x i => if live.testBit i then x else x + 2 ^ i) 0
  let arrived := (List.range 256).foldl (fun x i => if o.arrivals.contains (0, u, i) then x + 2 ^ i else x) 0
  let waiting := gangBits s u (waitsOn o)
  let ws := s.gangs.filter (fun g => gangAsid (s.blockOf g) == o.asid && waitsOn o g)
  let wb := ((ws.map (·.block)).eraseDups).length
  leBytes 512 ((if u = 0 then 0 else pcs * 2 ^ 2048 + ended * 2 ^ 1792 + arrived * 2 ^ 1536 + waiting * 2 ^ 1280) +
    wb % 2 ^ 32 * 2 ^ 992 + ws.length % 2 ^ 32 * 2 ^ 960 + (bk.map (·.idx)).getD 0 % 2 ^ 32 * 2 ^ 928 +
    (bk.map (·.launch)).getD 0 % 2 ^ 32 * 2 ^ 896 + s.now % 2 ^ 64 * 2 ^ 832 + o.va % 2 ^ 64 * 2 ^ 768 +
    o.asid % 2 ^ 11 * 2 ^ 757 + barImage o)

/-- R303: the fault record of an expiry, for the capture block. -/
def expiryFault (s : State) (o : BarObj) : FaultReq :=
  let base : FaultReq :=
    { asid := o.asid, cause := 0x30, detail := o.va % 2 ^ 32, pc := 0, addr := BitVec.ofNat 64 o.va, last := 0, time := s.now,
      lanes := 0, commits := 0, block := 0, launch := 0, gang := 0, core := 0, deferred := false, replayable := false,
      forced := false, waited := false, guid := none, buid := none, op := none, inert := true, host := true }
  match captureBlock s o with
  | none => base
  | some b =>
    let g := ((List.range 256).findSome? (fun i => (gangOfBlock s b.uid i).filter (waitsOn o)))
    let oid := (g.bind (fun g => (o.waiters.find? (fun w => w.1 == g.uid)).map (·.2.1))).getD 0
    { blockFault s b 0x30 (o.va % 2 ^ 32)
        ((g.bind (fun g => (g.out.find? (fun x => x.id == oid)).map (·.pc))).getD 0) (BitVec.ofNat 64 o.va) with
      gang := (g.map (·.idx)).getD 0, inert := true, host := true }

/-- R301: whether a block of a context is saved by pre-emption. -/
def contextSaved (s : State) (asid : Nat) : Bool := s.blocks.any (fun b => b.asid == asid && b.phase == .saved)

/-- R301: whether an object's time is up. -/
def barDue (s : State) (o : BarObj) : Bool :=
  o.valid && !o.expired && o.start != 0 && !(isRemote o.cell.pa) && decide (o.start + 1000 * o.timeout < s.now) &&
    !(contextSaved s o.asid)

/-- R302, R303, R405: AN OBJECT EXPIRES: captured, its image written, recorded, its context terminated; packages that
take part are told. -/
def expireBar (s : State) (o : BarObj) : State :=
  let s1 := writeBar (s.modBar o.cell.pa (fun o => { o with expired := true })) o
  let s2 := { s1 with
    diagQ := s1.diagQ ++ [(diagKey o.asid o.va, diagRecord s o)]
    outbox := s1.outbox ++ (o.senders.eraseDups).map (fun a => (a.1, RemoteResp.expired a.2.1 a.2.2)) }
  terminate (raiseFault s2 (expiryFault s o)) o.asid

/-- R301 BARRIER_WATCHDOG_EXPIRY: the network detects that an object has expired. -/
def execBarrierWatchdogExpiry (obj : Nat) (s : State) : Res :=
  .next (match s.bars[obj]? with
    | none => s
    | some o => if barDue s o then expireBar s o else s)

/-! ### The pod network (R404, R405) -/

/-- Whether a waiting gang is a saved one of a marked straggler, whose `BARW` is evaluated when it resumes (R305, R379). -/
def savedMarked (s : State) (u : Nat) : Bool :=
  s.blocks.any (fun b => isMarked s b && b.savedGangs.any (fun g => g.uid == u))

/-- R404: the waits on another package's object that a release ends: those in another phase. -/
def podReady (s : State) (o : BarObj) (phase : BitVec 32) : List (Nat × Nat × BitVec 32) :=
  o.waiters.filter (fun w => w.2.2 != phase && ((s.gang? w.1).isSome || !(savedMarked s w.1)))

/-- R404: the release of an object of another package reaches the gangs that wait on it, resident and saved. -/
def podRelease (s : State) (pa : Nat) (phase : BitVec 32) : State :=
  match s.bar? pa with
  | none => s
  | some o =>
    let ready := podReady s o phase
    (ready.foldl (fun s w => onGang s w.1 (fun s => wakeWaiter s (barStatus phase.toNat true 0) w)) s).modBar pa (fun o => { o with
      phase := phase, count := 0, arrivals := [], waiters := o.waiters.filter (fun w => !(ready.contains w)) })

/-- R404 POD_BARRIER_RELEASE_NOTICE: a release of an object of another package: the gangs here that wait on it go on. -/
def execPodBarrierReleaseNotice (acc asid va : Nat) (phase : BitVec 32) (s : State) : Res :=
  .next (podRelease s (remoteAddr acc asid va) phase)

/-- R405 POD_EXPIRY_NOTICE: an object of another package has expired: the context here is terminated, without a
diagnostic record. -/
def execPodExpiryNotice (acc asid va : Nat) (s : State) : Res :=
  .next (if tabGet false s.dead asid then s
    else
      let o := (s.bar? (remoteAddr acc asid va)).getD (proxyBar va (physCell 0) asid)
      terminate (raiseFault s (expiryFault s o)) asid)

end Sys2Proof.Machine
end

