-- ==== Sys2Proof/Machine/Joins.lean ====
section
/-! DEFINITION. Machine/Joins.lean: quorum joins: the check and the arming of a join (R370 to R373), the four words at
issue (R375), arrivals, waits, kill points and status reads (R376, R377), the release (R378), the end of the grace period
(R379) and completion (R380).
-/
namespace Sys2Proof.Machine

/-! ### Issue (R375) -/

/-- R375 JARR. -/
def execJarr (f : EF) (s : State) : Res :=
  .next (barrierWord 128 f .write f.d
    (fun va _ oid => .jarr va (BitVec.ofNat 32 ((s.gang? s.cx.gang).elim 0 (fun g => gangSrc s g f.b))) f.d oid) (fun _ _ => []) s)

/-- R377 JWAIT: the gang parks at the run's end. -/
def execJwait (f : EF) (s : State) : Res :=
  .next (barrierWord 128 f .read f.d (fun va x oid => .jwait va x.cell f.d oid) (fun oid run => [.jwait oid run]) s)

/-- R375, R377 KILLPT: held, of variable latency: a park seam and the end of its gang wait until it has been performed (R82,
R120). -/
def execKillpt (_ : EF) (s : State) : Res :=
  .next (onceForGang s (fun _ s => s.onIssuer (fun g => (g.await s.cx.pc .unit [] [] false true).hold s.cx.pc (.killpt g.nextId))))

/-- R377 JSTAT. -/
def execJstat (f : EF) (s : State) : Res :=
  .next (barrierWord 128 f .read f.d (fun va x oid => .jstat va x.cell f.d oid) (fun _ _ => []) s)

/-! ### Records -/

/-- A field of a number replaced. -/
def putBits (x hi lo v : Nat) : Nat := x - bitsOf x hi lo * 2 ^ lo + v % 2 ^ (hi + 1 - lo) * 2 ^ lo

/-- R370: TREC. -/
def joinTrec (x : BitVec 1024) : Nat := joinBits x 1023 960
/-- R370: FBASE. -/
def joinFbase (x : BitVec 1024) : Nat := joinBits x 895 832
/-- R370: FWGT. -/
def joinFwgt (x : BitVec 1024) : Nat := joinBits x 831 768
/-- R370: BMAP. -/
def joinBmap (x : BitVec 1024) : Nat := joinBits x 767 704
/-- R370: DLIST. -/
def joinDlist (x : BitVec 1024) : Nat := joinBits x 703 640
/-- R370: DCOUNT. -/
def joinDcount (x : BitVec 1024) : Nat := joinBits x 403 399
/-- R370: FILL. -/
def joinFill (x : BitVec 1024) : Nat := joinBits x 398 397
/-- R370: GRACE in ns. -/
def joinGrace (x : BitVec 1024) : Nat := 1000 * joinBits x 543 512
/-- R370: the bytes of the bitmap. -/
def joinMapLen (x : BitVec 1024) : Nat := ceilDiv (joinTasks x) 512 * 64

/-- R373: the record image with the fields that the Cistern writes. -/
def joinImage (j : Join) (state : Nat) : BitVec 1024 :=
  let b := fun (x : Bool) => if x then 1 else 0
  let x := putBits j.image.toNat 575 544 j.warr.toNat
  let x := putBits x 511 480 j.launch
  let x := putBits (putBits x 440 428 j.arrived) 427 415 j.killed
  let x := putBits (putBits x 414 404 j.asid) 396 392 j.flags.toNat
  let x := putBits (putBits x 391 391 (b j.short)) 390 390 (b j.poison)
  BitVec.ofNat 1024 (putBits x 389 388 state)

/-- R376: whether the commit of a task's arrival is still under way. -/
def arrivalPending (s : State) (launch i : Nat) : Bool :=
  s.blocks.any (fun b => b.launch == launch && b.idx == i && b.pipeline.any (fun c => c.who == .arrival))

/-- R376: the tasks that any party sees as arrived: those whose commit is complete, with which their arrival is one event
(DEDUCED, log 82). -/
def arrivedTasks (s : State) (j : Join) : List Nat := (j.withState .arrived).filter (fun i => !(arrivalPending s j.launch i))

/-- R376: a join as the record image and a status word show it. -/
def shownJoin (s : State) (j : Join) : Join := { j with arrived := (arrivedTasks s j).length }

/-- R373: the image and the bitmap are written: of the record the fields that are the Cistern's (R370), so that a program's
store to another field of a live record stands. -/
def writeJoin (s : State) (launch state : Nat) : State :=
  match s.join? launch with
  | none => s
  | some j =>
    let img := joinImage (shownJoin s j) state
    let map := (arrivedTasks s j).foldl (fun x i => x + 2 ^ i) 0
    let s1 := s.modJoin launch (fun j => { j with image := img })
    j.write (j.writeBits s1 j.va (leBytes 128 img.toNat) (leBytes 128 joinRoBits)) (joinBmap img) (leBytes (joinMapLen img) map)

/-! ### The check at enqueue (R371, R372) -/

/-- A range of virtual memory that a join uses: whether it is written, whether its pages must have SCOPE `pkg`, and the
FMT that they must have: 0 for what the Cistern reads raw, the target's own for the target (R230). -/
structure JoinUse where
  va : Nat
  n : Nat
  write : Bool
  pkg : Bool
  fmt : Option Nat
  deriving DecidableEq, Repr

/-- The pages that `n` bytes touch. -/
def pagesIn (va n : Nat) : List Nat :=
  if n = 0 then [] else (List.range ((va + n - 1) / 2 ^ 16 - va / 2 ^ 16 + 1)).map (fun k => va / 2 ^ 16 + k)

/-- One page of a range: the cell of its first byte; `none` where R372 rejects it. -/
def joinPage (s : State) (asid : Nat) (u : JoinUse) (page : Nat) : Option (Nat × Cell) :=
  match xlateWalk s asid (page * 2 ^ 16) .read false with
  | .ok x =>
    let w := if u.write then xlateWalk s asid (page * 2 ^ 16) .write false else .ok x
    (match w with
      | .ok _ =>
        if isRemote x.cell.pa || (u.pkg && x.scope != 3) || (u.fmt.map (fun f => x.fmt != f || (f != 0 && x.blk != 0))).getD false then none else some (page, x.cell)
      | _ => none)
  | _ => none

/-- Every page of the ranges. -/
def joinPages (s : State) (asid : Nat) (us : List JoinUse) : Option (List (Nat × Cell)) :=
  us.foldlM (fun acc u => ((pagesIn u.va u.n).mapM (joinPage s asid u)).map (fun l => acc ++ l.filter (fun p => !(acc.contains p)))) []

/-- R370, R372: what is wrong with a record's own fields, for a launch of `blocks` blocks. -/
def joinFieldsBad (x : BitVec 1024) (blocks : Nat) (coop : Bool) : Bool :=
  let sub := joinFill x == 2
  let n := joinTasks x
  let den := joinBits x 453 441
  let num := joinBits x 466 454
  joinBits x 387 0 != 0 || decide (n < 1 ∨ 4096 < n ∨ den < 1 ∨ 4096 < den ∨ num < 1 ∨ den < num ∨ 16 < joinDcount x) ||
    (joinDcount x == 0 && joinDlist x != 0) || (joinBits x 389 388 == 1 || joinBits x 389 388 == 2) || n != blocks || coop ||
    joinFill x == 3 || ((joinFbase x == 0) == sub) || ((joinFwgt x == 0) == sub) ||
    joinTrec x % 64 != 0 || joinCbase x % 64 != 0 || joinFbase x % 64 != 0 || joinFwgt x % 4 != 0 || joinBmap x % 64 != 0 ||
    joinDlist x % 8 != 0

/-- R371: what is wrong with the target's shape record. -/
def joinShapeBad (x : BitVec 1024) (v : Nat) : Bool :=
  let e := shDim v 0 * shDim v 1
  (shapeBad (joinTrec x) v false).isSome || shFmt v != 2 || shBlk v != 0 || shDist v || shDim v 2 != 1 || shDim v 3 != 1 ||
    shStride v 1 != (4 * shDim v 0 : Nat) || decide (e > 16384) || decide (shBase v < 8) ||
    decide (joinStride x < 4 * e)

/-- R371: whether the target and its version word lie within one page, of whatever size. -/
def targetInPage (s : State) (asid v : Nat) : Bool :=
  match xlateWalk s asid (shBase v - 8) .write false with
  | .ok x => decide (shBase v + 4 * (shDim v 0 * shDim v 1) ≤ x.base + x.size)
  | _ => false

/-- R371: the ranges that a join uses. -/
def joinUses (x : BitVec 1024) (va v : Nat) : List JoinUse :=
  let e := shDim v 0 * shDim v 1
  let slots := fun base => (List.range (joinTasks x)).map (fun i => (⟨base + joinStride x * i, 4 * e, true, true, some 0⟩ : JoinUse))
  [⟨va, 128, true, true, none⟩, ⟨joinTrec x, 192, false, false, none⟩, ⟨shBase v - 8, 8 + 4 * e, true, false, some 2⟩,
    ⟨joinBmap x, joinMapLen x, true, true, some 0⟩] ++ slots (joinCbase x) ++
    (if joinFill x = 2 then slots (joinFbase x) ++ [⟨joinFwgt x, 4 * joinTasks x, false, false, none⟩] else []) ++
    (if joinDcount x = 0 then [] else [⟨joinDlist x, 4 * joinDcount x, false, false, none⟩])

/-- R372: THE CHECK OF A JOIN for a launch: the join as it would be armed, or `none` (reason 6). -/
def checkJoin (s : State) (asid va blocks : Nat) (coop : Bool) (launch : Nat) : Option Join :=
  if va % 128 ≠ 0 ∨ (joinAt s asid va).isSome then none
  else match virtCells (fun a => xlateWalk s asid a .read false) va 128 with
    | .error _ => none
    | .ok cs =>
      let x : BitVec 1024 := BitVec.ofNat 1024 (leValue (readCells s cs))
      if joinFieldsBad x blocks coop then none
      else match virtCells (fun a => xlateWalk s asid a .read false) (joinTrec x) 192 with
        | .error _ => none
        | .ok ts =>
          let bs := readCells s ts
          let v := shapeNat bs
          if joinShapeBad x v || !(targetInPage s asid v) then none
          else match joinPages s asid (joinUses x va v) with
            | none => none
            | some pages =>
              some { launch := launch, va := va, asid := asid, image := x, shape := bs, tasks := [], spoiled := [], weights := [],
                     arrived := 0, killed := 0, warr := 0, flags := 0, short := false, poison := false, released := false,
                     visible := false, releaseNs := 0, pages := pages, pins := pinsOf (pages.map (·.2)) }

/-- R342: whether the check of a join reads, or walks, on a stack in self-refresh. -/
def joinAsleep (s : State) (asid va : Nat) : Bool :=
  !s.selfRefresh.isEmpty && (
    let walks := fun (a n : Nat) => (pagesIn a n).any (fun p => walkAsleep s asid (p * 2 ^ 16))
    let cells := fun (a n : Nat) => (virtCells (fun x => xlateWalk s asid x .read false) a n).toOption.getD []
    let sleeps := fun (a n : Nat) => walks a n || (cells a n).any (fun c => readAsleep s c.pa)
    let x : BitVec 1024 := BitVec.ofNat 1024 (leValue (readCells s (cells va 128)))
    sleeps va 128 || sleeps (joinTrec x) 192 ||
      (joinUses x va (shapeNat (readCells s (cells (joinTrec x) 192)))).any (fun u => walks u.va u.n))

/-- R372: A JOIN IS ARMED: pinned, and its record and bitmap written. -/
def armJoin (s : State) (j : Join) : State :=
  writeJoin (pinAll { j.ask s [(joinTrec j.image, 192)] with joins := s.joins ++ [j] } j.pins) j.launch 1

/-! ### The status word (R375) -/

/-- QUORUM as a status word shows it. -/
def statusQuorum (x : BitVec 1024) : Nat :=
  let q := joinQuorum x
  if joinBits x 453 441 = 0 ∨ 2 ^ 13 ≤ q then (Config.openQuorum (joinBits x 466 454) (joinBits x 453 441) (joinTasks x)).toNat else q

/-- R375: a status word from an image. -/
def imageStatus (x : BitVec 1024) (mine : Bool) (state : Nat) : Nat :=
  joinBits x 440 428 * 2 ^ 51 + statusQuorum x * 2 ^ 38 + joinTasks x * 2 ^ 25 + joinBits x 396 392 * 2 ^ 8 +
    joinBits x 391 391 * 8 + (if mine then 4 else 0) + state

/-- The status word of a live join for a block. -/
def liveStatus (s : State) (j : Join) (b : Block) : Nat :=
  let st := if j.released then 2 else 1
  imageStatus (joinImage (shownJoin s j) st) (j.launch == b.launch && (arrivedTasks s j).contains b.idx) st

/-- The cells of a record at a place. -/
def recordCells (c : Cell) : List Cell := (List.range 128).map (fun i => { c with pa := c.pa + i, va := c.va + i })

/-- The status word of the record at a place that no live join holds. -/
def homeStatus (s : State) (c : Cell) : Nat :=
  let x : BitVec 1024 := BitVec.ofNat 1024 (leValue (readCells s (recordCells c)))
  imageStatus x false (joinBits x 389 388)

/-- R336: the read of such a record. -/
def statusAsk (s : State) (b : Block) (va : Nat) (c : Cell) : State :=
  if (joinAt s b.asid va).isSome then s else ownRead s ownUnit (some b.asid) (recordCells c)

/-- R342: whether that read has to wait for a stack in self-refresh. -/
def statusAsleep (s : State) (b : Block) (o : UnitOp) : Bool :=
  match o.item.eff with
  | .jwait va cell .. | .jstat va cell .. =>
    (joinAt s b.asid va).isNone && (recordCells cell).any (fun c => readAsleep s c.pa)
  | _ => false

/-- R377: the status of the record at an address, as the arbiter holds it. -/
def joinStatus (s : State) (b : Block) (va : Nat) (c : Cell) : Nat :=
  match joinAt s b.asid va with
  | some j => liveStatus s j b
  | none => homeStatus s c

/-! ### The input arbiter (R376, R377) -/

/-- R376: an accepted arrival: it commits the block, contributions included, and at the quorum releases the join. -/
def acceptArrival (s : State) (b : Block) (j : Join) (w : BitVec 32) (pc : W64) : State × Nat :=
  let s1 := s.modJoin b.launch (fun j => { j.setTask b.idx .arrived with
    arrived := j.arrived + 1, weights := tabPut 0 j.weights b.idx w })
  let s2 := commitBlock s1 b.uid pc .arrival true
  if j.arrived + 1 = joinQuorum j.image ∧ !j.released then (markStragglers s2 b.launch false, 1) else (s2, 0)

/-- R376: a JARR at the arbiter. -/
def arrive (s : State) (g : Gang) (b : Block) (va : Nat) (w : BitVec 32) (dst : Opd) (oid : Nat) (pc : W64) : State :=
  match (joinAt s b.asid va).filter (fun j => j.launch == b.launch) with
  | none => barAnswer s g.uid oid dst 4
  | some j =>
    match j.task b.idx, j.spoiled.contains b.idx with
    | .arrived, _ => barAnswer s g.uid oid dst 2
    | _, true => barAnswer s g.uid oid dst 3
    | .marked, false => killBlock s b.uid 1 pc
    | .pending, false | .failed, false =>
      let r := acceptArrival s b j w pc
      barAnswer r.1 g.uid oid dst r.2

/-- R377: whether a JWAIT may complete. -/
def waitTestOk (s : State) (asid va : Nat) : Bool := ((joinAt s asid va).map (·.visible)).getD true

/-- What one operation of a gang does at the arbiter; the others wait. -/
def joinOp (s : State) (i : Nat) (g : Gang) (b : Block) (o : UnitOp) : State :=
  let s1 := { s with joinQ := s.joinQ.eraseIdx i }
  match o.item.eff with
  | .jarr va w dst oid => arrive s1 g b va w dst oid o.item.pc
  | .jwait va cell dst oid =>
    if waitTestOk s b.asid va then barAnswer (statusAsk s1 b va cell) g.uid oid dst (joinStatus s b va cell)
    else { s with joinQ := s.joinQ.set i { o with tested := true } }
  | .jstat va cell dst oid => barAnswer (statusAsk s1 b va cell) g.uid oid dst (joinStatus s b va cell)
  | .killpt oid => if isMarked s b then killBlock s1 b.uid 0 o.item.pc else s1.modGang g.uid (fun g => g.arrive oid [])
  | _ => s1

/-- R376, R377 JOIN_ARRIVAL: an operation on a join reaches the input arbiter; those of one gang in order. -/
def execJoinArrival (i : Nat) (s : State) : Res :=
  .next (match s.joinQ[i]? with
    | none => s
    | some o =>
      if (s.joinQ.take i).any (fun x => x.gang == o.gang && !x.tested) then s
      else match s.gang? o.gang, (s.gang? o.gang).bind s.blockOf with
        | some g, some b => if statusAsleep s b o then s else joinOp s i g b o
        | _, _ => s)

/-! ### The release (R378) -/

/-- binary32 of a value, rounded to nearest even, with its flags. -/
def toF32 (x : FVal × FFlags) : BitVec 32 × FFlags :=
  let y := roundVal (fmtOf .f32) .rne false x.1
  (BitVec.ofNat 32 y.1, x.2 ||| y.2)

/-- The value of binary32 bits. -/
def f32Val (b : BitVec 32) : FVal := fvalue (fmtOf .f32) false b.toNat

/-- R378: one fused step of the reduction. -/
def reduceStep (acc : BitVec 32 × FFlags) (w x : BitVec 32) : BitVec 32 × FFlags :=
  let y := toF32 (ffmaV .rne (f32Val w) (f32Val x) (f32Val acc.1))
  (y.1, acc.2 ||| y.2)

/-- R378: a binary32 word at home; uncorrectable data reads as the canonical NaN, with IV. -/
def slotWord (j : Join) (s : State) (va : Nat) : BitVec 32 × Bool :=
  let r := j.read s va 4
  if r.2 then (0x7FC00000, true) else (BitVec.ofNat 32 (leValue r.1), false)

/-- What the reduction has so far: the element, its flags, whether it met uncorrectable data. -/
structure ReduceAcc where
  val : BitVec 32
  flags : FFlags
  poison : Bool
  deriving DecidableEq, Repr

/-- One contribution or fallback taken in. -/
def ReduceAcc.take (a : ReduceAcc) (w x : BitVec 32 × Bool) : ReduceAcc :=
  let bad := w.2 || x.2
  let y := reduceStep (a.val, a.flags) w.1 x.1
  ⟨y.1, y.2 ||| (if bad then flIV else flNone), a.poison || bad⟩

/-- R378: W_arr. -/
def arrivedWeight (j : Join) : BitVec 32 × FFlags :=
  let ws := (j.withState .arrived).map (fun i => f32Val (tabGet 0 j.weights i))
  let r := toF32 (sumV (zeroNegOf .rne ws) ws)
  (r.1, ws.foldl (fun f x => f ||| nanFlags x) r.2)

/-- R378: r. -/
def rescaleBy (j : Join) (warr : BitVec 32) : BitVec 32 × FFlags :=
  toF32 (fdivV (f32Val (BitVec.ofNat 32 (joinBits j.image 607 576))) (f32Val warr))

/-- R378: element `e` of the target. -/
def reduceElem (s : State) (j : Join) (r : BitVec 32) (e : Nat) : ReduceAcc :=
  let x := j.image
  let a := (j.withState .arrived).foldl (fun (a : ReduceAcc) i =>
    a.take (tabGet 0 j.weights i, false) (slotWord j s (joinCbase x + joinStride x * i + 4 * e))) ⟨0, flNone, false⟩
  if joinFill x = 1 then
    let y := toF32 (fmulV (f32Val a.val) (f32Val r))
    { a with val := y.1, flags := a.flags ||| y.2 }
  else if joinFill x = 2 then
    ((List.range (joinTasks x)).filter (fun i => j.task i != .arrived)).foldl (fun (a : ReduceAcc) i =>
      a.take (slotWord j s (joinFwgt x + 4 * i)) (slotWord j s (joinFbase x + joinStride x * i + 4 * e))) a
  else a

/-- R378 step 2: the release's results kept. -/
def reduceJoin (s : State) (j : Join) : Join × List (BitVec 32) :=
  let w := arrivedWeight j
  let r := rescaleBy j w.1
  let es := (List.range (joinElems j)).map (reduceElem s j r.1)
  let fl := es.foldl (fun f a => f ||| a.flags) (w.2 ||| (if joinFill j.image = 1 then r.2 else flNone))
  ({ j with warr := w.1, flags := fl, poison := es.any (·.poison), visible := true }, es.map (·.val))

/-- R378 step 4: the target as an all-or-nothing tile. -/
def drainTarget (s : State) (j : Join) (vals : List (BitVec 32)) : State :=
  let base := shBase (shapeNat j.shape)
  let s1 := j.write s base (vals.flatMap (fun x => leBytes 4 x.toNat))
  let s2 := match j.cell (base - 8) with
    | none => s1
    | some v => drainVersion s1 v
  let cells := j.cells base (4 * vals.length)
  clearPoison s2 (fullSectors (cells.map (fun c => ⟨c, 0, 0xFF, 0, 0, false⟩)))

/-- R378 step 5: the dependent launches. -/
def freeDependents (s : State) (j : Join) : State :=
  (List.range (joinDcount j.image)).foldl (fun s i => waitLess s (leValue (j.read s (joinDlist j.image + 4 * i) 4).1)) s

/-- R378: the ranges that a release reads: the contributions of the arrived tasks, the fallbacks and weights of the others,
the list of dependent launches. -/
def joinReads (j : Join) : List (Nat × Nat) :=
  let x := j.image
  let n := 4 * joinElems j
  ((j.withState .arrived).map (fun i => (joinCbase x + joinStride x * i, n))) ++
    (if joinFill x = 2 then
      (((List.range (joinTasks x)).filter (fun i => j.task i != .arrived)).flatMap (fun i =>
        [(joinFwgt x + 4 * i, 4), (joinFbase x + joinStride x * i, n)])) else []) ++
    (if joinDcount x = 0 then [] else [(joinDlist x, 4 * joinDcount x)])

/-- R378 JOIN_RELEASE: steps 2 to 5, once the commit of every accepted arrival is complete. -/
def execJoinRelease (launch : Nat) (s : State) : Res :=
  .next (match s.join? launch with
    | none => s
    | some j =>
      if !j.released || j.visible || j.pages.any (fun p => stackAsleep s p.2.pa) ||
          s.blocks.any (fun b => b.launch == launch && b.pipeline.any (fun c => c.who == .arrival)) then s
      else
        let r := reduceJoin s j
        let s1 := writeJoin ((j.ask s (joinReads j)).modJoin launch (fun _ => r.1)) launch 2
        freeDependents (drainTarget s1 r.1 r.2) r.1)

/-- R379 STRAGGLER_GRACE_EXPIRY: a marked straggler is killed when its grace period ends. -/
def execStragglerGraceExpiry (block : Nat) (s : State) : Res :=
  .next (match s.block? block with
    | none => s
    | some b =>
      match s.join? b.launch with
      | none => s
      | some j =>
        if isMarked s b && j.released && decide (j.releaseNs + joinGrace j.image ≤ s.now) then killBlock s block 2 0 else s)

/-- R380: the join of a launch that completes: its pins are released and its record says so. -/
def completeJoin (s : State) (launch : Nat) : State :=
  match s.join? launch with
  | none => s
  | some j =>
    let s1 := writeJoin (unpin s j.pins) launch 3
    { s1 with joins := s1.joins.filter (fun j => j.launch != launch) }

end Sys2Proof.Machine
end

