-- ==== Sys2Proof/Machine/Placement.lean ====
section
/-! DEFINITION. Machine/Placement.lean: where blocks may stand and how they start and resume: the choice of cores (R24, R25,
R208, R210, R260, R289, R307, R325, R333), entry state (R36), replies to fault records (R178, R227, R316, R332), and the
saving and restoring of blocks (R228, R250, R284, R329 to R331).
-/
namespace Sys2Proof.Machine

/-! ### Replies (R178, R227, R316, R332) -/

/-- R178: what a reply does with an engine request or command that waits for one: retry walks it afresh, resume after
fails it. -/
def replyEngine (s : State) (op action : Nat) : State :=
  { s with
    copies := s.copies.map (fun c =>
      if c.id = op ∧ c.phase = .waitReply then
        (if action = 0 then { c with phase := .fetched, cause := 0 } else { c with phase := .failed })
      else c)
    mats := s.mats.map (fun m =>
      if m.id = op ∧ m.waitReply then
        (if action = 0 then { m with waitReply := false, cause := 0, detail := 0 } else { m with walked := true })
      else m)
    gaths := s.gaths.map (fun g =>
      if g.id = op ∧ g.phase = .waitReply then
        (if action = 0 then { g with phase := .accepted, cause := 0 } else { g with phase := .folded, told := true })
      else g) }

/-- The lane that a reply lets go on: from the faulting word, or after it (R19); a deferred record's from where it parked.
One that a deferred fault parked while its gathering was `open_` waits for it again: R150 and R178 leave the combination
open, and R151's litmus lets no lane go on with nothing delivered (DESIGN CHOICE, log 89). A lane parked under two records
goes on with the first reply, which R178 leaves open (DESIGN CHOICE, log 89). -/
def replyLane (r : FaultReq) (action run : Nat) (open_ : Bool) (l : Lane) : Lane :=
  if l.status = .parked then
    { l with
      status := if open_ then .waiting else .runnable
      stamp := run
      pc := if r.deferred then l.pc else if action = 0 then r.pc else nextPc r.pc }
  else l

/-- Whether a deferred fault of a gang is the one that a record tells of. -/
def DeferredFault.isOf (d : DeferredFault) (r : FaultReq) : Bool :=
  { d.req with waited := r.waited, lanes := r.lanes } == r && d.raised

/-- R178: the parked lanes of a record go on; those of a deferred record that have not parked yet never do. Their ready
stamp is the gang's run counter as it stands: beside a run in issue, the counter before that run is counted (DESIGN CHOICE,
log 85). -/
def Gang.reply (g : Gang) (r : FaultReq) (action : Nat) : Gang :=
  let kept := g.deferred.filter (fun d => !(d.isOf r))
  if g.deferred.any (fun d => d.isOf r && d.taken == 0) then { g with deferred := kept }
  else { g with
    deferred := kept
    regs := (lanesOf r.lanes).foldl (fun t i => t.modLane i (replyLane r action g.run (g.inOpenGathering i))) g.regs }

/-- R178, R332: THE ACTION OF A REPLY (0 retry, 1 resume after, 2 kill) to a record. A saved block's lanes act on it at
resumption; a kill reaches it in place. -/
def actOnReply (s : State) (r : FaultReq) (action : Nat) : State :=
  if r.inert || tabGet false s.dead r.asid then s
  else match r.buid with
    | none => s
    | some u =>
      if action = 2 then killPlain s u
      else match r.op with
        | some op => replyEngine s op action
        | none =>
          if ((s.block? u).map (fun b => b.phase == .saved)).getD false then
            s.modBlock u (fun b => { b with replies := b.replies ++ [(r, action)] })
          else match r.guid with
            | none => s
            | some g => s.modGang g (fun g => g.reply r action)

/-- R316: A REPLY takes effect: it frees the slot that it names; one that matches no occupied slot is discarded. -/
def replySlot (s : State) (action asid slot seq : Nat) : State :=
  match s.slots.find? (fun x => x.asid == asid && x.slot == slot && x.seq == seq) with
  | none => s
  | some x =>
    let s1 := { s with slots := s.slots.filter (fun y => !(y.asid == asid && y.slot == slot)) }
    if action = 3 then s1 else actOnReply s1 x.req action

/-- R316 FREPLY_RETRY. -/
def execFreplyRetry (asid slot : Nat) (seq : BitVec 32) (s : State) : Res := .next (replySlot s 0 asid slot seq.toNat)

/-- R316 FREPLY_RESUME_AFTER. -/
def execFreplyResumeAfter (asid slot : Nat) (seq : BitVec 32) (s : State) : Res := .next (replySlot s 1 asid slot seq.toNat)

/-- R316 FREPLY_KILL. -/
def execFreplyKill (asid slot : Nat) (seq : BitVec 32) (s : State) : Res := .next (replySlot s 2 asid slot seq.toNat)

/-- R316 FREPLY_FREE: the slot is freed with no action. -/
def execFreplyFree (asid slot : Nat) (seq : BitVec 32) (s : State) : Res := .next (replySlot s 3 asid slot seq.toNat)

/-! ### The span of a block (R25, R208, R289, R307) -/

/-- R14: 1 MiB. -/
def mib : Nat := 2 ^ 20

/-- R23: the gangs of a block. -/
def launchGangs (l : Launch) : Nat := ceilDiv l.threads 32

/-- R24: S, the gangs on each of n cores. -/
def spanStride (l : Launch) (n : Nat) : Nat := 16 * ceilDiv (launchGangs l) (16 * n)

/-- R25: the gangs of the block that a partition can hold. -/
def partLimit (l : Launch) : Nat := min 16 (min (1024 / l.vregs) (4096 / l.sregs))

/-- R208: whether a core can hold `k` gangs of a block. -/
def coreHolds (s : State) (c k : Nat) : Bool :=
  !(s.core c).disabled && (List.range (max 1 (min k 16))).all (fun p => !((s.core c).fenced.getLsbD p))

/-- The cores of a quad. -/
def quadCores (q : Nat) : List Nat := (List.range 4).map (fun i => 4 * q + i)

/-- R307: the usable cores of a quad for a block on n cores (log 38). -/
def quadUsable (s : State) (l : Launch) (n q : Nat) : List Nat :=
  (quadCores q).filter (fun c => coreHolds s c (min (launchGangs l) (spanStride l n)))

/-- Whether some quad, but for one, can hold the span with no resident. -/
def spanHeld (s : State) (l : Launch) (n : Nat) (avoid : Option Nat) : Bool :=
  decide (ceilDiv (launchGangs l) (16 * n) ≤ partLimit l) &&
    (List.range 16).any (fun q => avoid != some q && decide (n ≤ (quadUsable s l n q).length))

/-- R289: the number of cores of a block; `none` where no quad can hold it. -/
def spanOf (s : State) (l : Launch) : Option Nat := [1, 2, 4].find? (fun n => spanHeld s l n none)

/-! ### Room (R25, R210, R260, R325, R333) -/

/-- The place of one gang in a block that is to be placed. -/
structure Seat where
  idx : Nat
  vregs : Nat
  sregs : Nat
  deriving DecidableEq, Repr

/-- The gangs of a block about to start. -/
def freshSeats (l : Launch) : List Seat := (List.range (launchGangs l)).map (fun i => ⟨i, l.vregs, l.sregs⟩)

/-- The gangs of a saved block. -/
def savedSeats (b : Block) : List Seat := b.savedGangs.map (fun g => ⟨g.idx, g.vregs, g.sregs⟩)

/-- A sum. -/
def total (l : List Nat) : Nat := l.foldl (· + ·) 0

/-- R25, R186: whether a partition has room for more gangs beside its residents. -/
def partRoom (s : State) (core part : Nat) (mine : List Seat) : Bool :=
  let res := partGangs s core part
  decide (res.length + mine.length ≤ 16 ∧ total (res.map (·.vregs)) + total (mine.map (·.vregs)) ≤ 1024 ∧
    total (res.map (·.sregs)) + total (mine.map (·.sregs)) ≤ 4096)

/-- The blocks on a core. -/
def coreBlocks (s : State) (c : Nat) : List Block := s.blocks.filter (fun b => b.resident && b.cores.contains c)

/-- R210, R260: whether a core's scratchpad and tiles have room for a block. -/
def localRoom (s : State) (l : Launch) (c : Nat) : Bool :=
  let bs := coreBlocks s c
  let split := if (s.core c).l1size = 0 then l.l1 else (s.core c).l1size
  decide (l.l1 ≤ split ∧ total (bs.map (·.localLen)) + l.localLen ≤ (8 - split) * mib ∧ total (bs.map (·.tilesT)) + l.tiles ≤ 8)

/-- R330: whether a block of a launch drains on a core: the requester waits for no other block of the launch there. -/
def drainsOn (s : State) (launch c : Nat) : Bool :=
  s.blocks.any (fun b => b.launch == launch && b.drain && b.phase == .running && b.cores.contains c)

/-- R325, R330: whether a core has room for the gangs of a block-local number. -/
def coreRoom (s : State) (l : Launch) (n : Nat) (seats : List Seat) (pos c : Nat) : Bool :=
  let S := spanStride l n
  l.dies.testBit (dieOf c) && !(drainsOn s l.id c) && coreHolds s c (min (launchGangs l) S) && localRoom s l c &&
    (List.range 16).all (fun p => partRoom s c p (seats.filter (fun x => x.idx / S == pos && x.idx % 16 == p)))

/-- R313: the bytes of a domain's store buffer pool. -/
def poolSize : Nat := 128 * mib

/-- R333: the bytes reserved in a domain's pool by blocks other than one. -/
def poolUse (s : State) (dom : Nat) (other : Option Nat) : Nat :=
  total ((s.blocks.filter (fun b =>
    b.pool == dom && b.phase != .unplaced && b.phase != .ended && some b.uid != other)).map (·.limit))

/-- R333, R244: the store buffer limit of a launch's blocks. -/
def launchLimit (l : Launch) : Nat := (if l.sbuf = 0 then 1 else l.sbuf) * mib

/-- The free vector registers of a core. -/
def freeRegs (s : State) (c : Nat) : Nat :=
  total ((usableParts (s.core c)).map (fun p => 1024 - total ((partGangs s c p).map (·.vregs))))

/-- R325: how much a core is preferred: the requester's quad, its die, the other die; for a host launch the queue's die
first. -/
def coreRank (l : Launch) (c : Nat) : Nat :=
  match l.byCore with
  | some r => if quadOf c = quadOf r then 0 else if dieOf c = dieOf r then 1 else 2
  | none => if dieOf c = l.queue / 2048 then 0 else 1

/-- A place that a block could take, in one quad. -/
structure Cand where
  quad : Nat
  cores : List Nat
  rank : Nat
  free : Nat
  own : Nat
  deriving DecidableEq, Repr

/-- The choices of `n` among some cores, in order. -/
def choices : Nat → List Nat → List (List Nat)
  | 0, _ => [[]]
  | _ + 1, [] => []
  | n + 1, x :: xs => (choices n xs).map (fun l => x :: l) ++ choices (n + 1) xs

/-- The places in one quad. -/
def quadCands (s : State) (l : Launch) (n : Nat) (seats : List Seat) (q : Nat) : List Cand :=
  let cs := (choices n (quadCores q)).filter (fun cs => (cs.mapIdx (fun i c => coreRoom s l n seats i c)).all id)
  cs.map (fun cs =>
    let own := total (cs.map (freeRegs s))
    ⟨q, cs, coreRank l ((cs.head?).getD 0), if n = 1 then own else total ((quadCores q).map (freeRegs s)), own⟩)

/-- Whether the first place is preferred: the better group, then the core or quad with the more free registers; within
one quad the cores with the more (log 31). -/
def betterCand (a b : Cand) : Bool :=
  if a.rank ≠ b.rank then decide (a.rank < b.rank)
  else if a.free ≠ b.free then decide (b.free < a.free)
  else a.quad == b.quad && decide (b.own < a.own)

/-- R325: THE CORES on which a block is placed; a lower core number wins a tie. -/
def findPlace (s : State) (l : Launch) (n : Nat) (seats : List Seat) (block : Option Nat) (avoid : Option Nat) : Option (List Nat) :=
  let qs := (List.range 16).filter (fun q =>
    avoid != some q && decide (poolUse s (q / 8) block + launchLimit l ≤ poolSize))
  ((qs.flatMap (quadCands s l n seats)).foldl (fun (a : Option Cand) c =>
    match a with
    | none => some c
    | some x => if betterCand c x then some c else a) none).map (·.cores)

/-! ### Starting (R36) -/

/-- R36: a thread at entry. -/
def entryLane (l : Launch) (t : Nat) : Lane :=
  if t < l.threads then { Lane.empty with pc := l.entry, v := tabPut 0 [] 0 (BitVec.ofNat 32 t), status := .runnable }
  else Lane.empty

/-- R36: the scalars at entry, as far as the allocation goes. -/
def entryScalars (l : Launch) (idx : Nat) : List (Nat × W64) :=
  let xs : List W64 := l.params ++ [BitVec.ofNat 64 idx, BitVec.ofNat 64 l.blocks, BitVec.ofNat 64 l.threads]
  (xs.mapIdx (fun i x => (i, x))).foldl (fun t p => if p.1 < l.sregs then tabPut 0 t p.1 p.2 else t) []

/-- R36, R41, R187: a gang at its start on a core. Its run counter starts at 1, above the entry stamps of 0 (DESIGN
CHOICE, log 102). -/
def entryGang (s : State) (l : Launch) (b : Block) (core idx : Nat) : Gang :=
  let regs : GangRegs :=
    ⟨(List.range 32).map (fun i => entryLane l (32 * idx + i)), entryScalars l b.idx, fsrDefault, [], 0, 0, 0⟩
  { uid := 0, block := b.uid, idx := idx, core := core, core0 := core, pkgtag := ctxPkgtag (ctxRec s b.asid), accel := accelId s, part := 0, slot := 0, vregs := l.vregs, sregs := l.sregs, regs := regs,
    run := 1, replays := 0, inActive := false, ageBase := 0, wasReady := false, yielded := false, seam := false, waits := [],
    donation := none, out := [], applied := [], relq := [], runs := [], gath := [], issue := none, replayQ := [], ops := [],
    doneCopy := 0, doneMat := 0, doneGath := 0, follow := 0, ord := 1, nextId := 1, deferred := [], scales := [],
    pairSent := 0, pairLost := [] }

/-- R186: the lowest free slot of a partition. -/
def freeGangSlot (s : State) (core part : Nat) : Nat :=
  ((List.range 16).find? (fun i => !((partGangs s core part).any (fun g => g.slot == i)))).getD 0

/-- R186: the slots of the pending set. -/
def pendingSlots : Nat := 8

/-- R186: whether a partition's pending set is full. -/
def pendingFull (s : State) (core part : Nat) : Bool :=
  decide (pendingSlots ≤ ((partGangs s core part).filter (fun g => !g.inActive)).length)

/-- R24: a gang takes its place on its block's cores: in the pending set, or in the active one where that is full; R186
does not say which (DESIGN CHOICE, log 91). -/
def seatGang (l : Launch) (cores : List Nat) (n : Nat) (s : State) (g : Gang) : State :=
  let core := cores.getD (g.idx / spanStride l n) 0
  let part := g.idx % 16
  { s with gangs := s.gangs ++ [{ g with
      core := core, part := part, slot := freeGangSlot s core part, inActive := pendingFull s core part, wasReady := false
      ageBase := ((s.core core).part part).bounds }] }

/-- R210: the split of cores that held no block. -/
def splitCores (s : State) (l : Launch) (cores : List Nat) : State :=
  cores.foldl (fun s c => s.modCore c (fun k => if k.l1size = 0 then { k with l1size := l.l1 } else k)) s

/-- A block of a launch before it is placed. -/
def newBlock (l : Launch) (uid idx : Nat) : Block :=
  { uid := uid, launch := l.id, asid := l.asid, idx := idx, nblocks := l.blocks, threads := l.threads, cores := [], span := 0,
    localLen := l.localLen, tilesT := l.tiles, vregs0 := l.vregs, sregs0 := l.sregs, phase := .unplaced, commits := 0,
    lastPc := 0, forced := false, limit := launchLimit l, sb := [], sbTiles := [], scads := [], pipeline := [], progress := 0,
    consumed := 0, consumption := [], lastExit := none, avoidQuad := none, lastQuad := none, startedNs := 0, pool := 0, scratch := [], upset := [],
    commons := [], tiles := [], nextUnit := 1, savedGangs := [], savedBytes := 0, drain := false, replies := [] }

/-- R327: a launch has run since its first block was placed. -/
def Launch.started (l : Launch) (now : Nat) : Launch := { l with startNs := l.startNs.orElse (fun _ => some now) }

/-- A block stands on its cores. -/
def standOn (s : State) (l : Launch) (u : Nat) (cores : List Nat) (n : Nat) : State :=
  let s1 := splitCores (s.modBlock u (fun b => { b with
    cores := cores, span := n, phase := .running, avoidQuad := none, lastQuad := (cores.head?).map quadOf, startedNs := s.now, drain := false
    pool := dieOf ((cores.head?).getD 0) })) l cores
  markSaved (s1.modLaunch l.id (fun l => l.started s.now)) l.id

/-- R36: A BLOCK STARTS, with its entry state. -/
def startBlock (s : State) (l : Launch) (b : Block) (cores : List Nat) (n : Nat) : State :=
  let s1 := standOn s l b.uid cores n
  (List.range (launchGangs l)).foldl (fun s i =>
    let s' := seatGang l cores n s { entryGang s l b (cores.getD (i / spanStride l n) 0) i with uid := s.nextUid }
    { s' with nextUid := s.nextUid + 1 }) s1

/-! ### Saving (R228, R250, R284, R331) -/

/-- R195: whether a result will write a commons register. -/
def Outst.toCommons (o : Outst) : Bool := o.dsts.any (fun d => match d with | .c _ => true | _ => false)

/-- Whether an outstanding result lets its gang be saved: one that only has to come back does, unless it writes the
commons, whose writes are all arbitrated first (R195). -/
def Outst.quiet (o : Outst) : Bool :=
  o.arrived || (match o.kind with
    | .load r => r.got.isSome && !o.toCommons
    | .value => !o.toCommons
    | .ldl _ | .pgq .. => false
    | .afterQuar | .unit => true)

/-- Whether a gang stands at a run boundary with nothing under way but what is saved with it. -/
def gangQuiet (g : Gang) : Bool :=
  g.issue.isNone && g.runs.isEmpty && g.relq.all isKick && (readyCommons g).isEmpty && g.out.all Outst.quiet

/-- Whether an operation of a gang may wait at its unit while the gang is saved. -/
def mayStay (o : UnitOp) : Bool :=
  match o.item.eff with
  | .migr _ _ _ _ page _ _ => page.isSome
  | .jwait .. => o.tested
  | _ => false

/-- Whether a remote request keeps gangs from being saved. -/
def remoteBusy (gs : List Nat) (r : RemOut) : Bool :=
  match r.kind with
  | .load g _ | .atom g _ _ => gs.contains g
  | .barrier g _ wait _ _ _ => gs.contains g && !wait
  | _ => false

/-- R331: whether a block can be saved now. -/
def blockQuiet (s : State) (b : Block) : Bool :=
  let gs := s.gangs.filter (fun g => g.block == b.uid)
  let us := gs.map (·.uid)
  let mine := fun (q : List UnitOp) => q.any (fun o => us.contains o.gang && !mayStay o)
  gs.all gangQuiet && s.copies.all (fun c => c.block != b.uid || c.phase == .gone) && s.mats.all (fun m => m.block != b.uid) &&
    s.gaths.all (fun g => g.block != b.uid || (g.scad && !g.sent && g.phase == .accepted && !g.shape.isEmpty)) && !(mine s.cisQ || mine s.barQ || mine s.joinQ) &&
    !(s.remOut.any (remoteBusy us)) &&
    b.cores.all (fun c => (s.core c).matQ.all (fun e => !(us.contains e.1)) && (s.core c).gathQ.all (fun e => !(us.contains e.1)) &&
      (s.core c).arbDone.all (fun w => w.block != b.uid))

/-- The requests not yet fetched, back in their gang (R228). -/
def Gang.unkick (g : Gang) (es : List KickEntry) : Gang :=
  { g with relq := (es.filter (fun e => e.gang == g.uid)).map (fun e =>
      (⟨e.ord, 0, e.pc, .kick (e.first + e.taken) (e.count - e.taken), 0⟩ : HeldItem)) ++ g.relq }

/-- R34, R331: a gang as it is saved: resumed, it forms its clutches afresh. -/
def Gang.toSave (g : Gang) (es : List KickEntry) : Gang := { g.unkick es with replayQ := [] }

/-- R331: where a block's save stands in its context's area (log 9). -/
def saveBase (s : State) (b : Block) : Nat := ctxSave (ctxRec s b.asid) + (tabGet 0 s.saveUsed b.asid - b.savedBytes)

/-- R342: whether the area in which a context saves reaches a stack in self-refresh, as far as it is used. -/
def saveAsleep (s : State) (asid : Nat) : Bool := areaAsleep s (ctxSave (ctxRec s asid)) (tabGet 0 s.saveUsed asid)

/-- R331: A BLOCK IS SAVED; the layout of its bytes in the save area is open (log 9). -/
def saveBlock (s : State) (b : Block) : State :=
  let es := b.cores.flatMap (fun c => (s.core c).kickQ)
  let gs := (s.gangs.filter (fun g => g.block == b.uid)).map (fun g => g.toSave es)
  let us := gs.map (·.uid)
  let s1 := b.cores.foldl (fun s c => s.modCore c (fun k => { k with kickQ := k.kickQ.filter (fun e => !(us.contains e.gang)) })) s
  let s2 := (removeGangs s1 b).modBlock b.uid (fun b => { b with phase := .saved, cores := [], savedGangs := gs })
  let s3 := writePhys { s2 with copies := s2.copies.filter (fun c => c.block != b.uid), free := s2.free + 1 } ownUnit (some b.asid)
    (saveBase s b)
    ((List.range b.savedBytes).map (Config.saveByte s.free))
  markSaved (freeCores (dropOwned s3 b.uid b.cores) b.cores) b.launch

/-- The blocks being pre-empted by save that are ready are saved; one whose area lies on a stack in self-refresh waits for its
exit (R342). -/
def finishSaves (s : State) : State :=
  (s.blocks.filter (fun b => b.phase == .preempting)).foldl (fun s b =>
    match s.block? b.uid with
    | none => s
    | some b => if b.phase = .preempting ∧ blockQuiet s b ∧ ¬ saveAsleep s b.asid then saveBlock s b else s) s

/-! ### Resuming (R331, R332, R301) -/

/-- R301: START of a context's objects begins anew when its last saved block resumes. -/
def restartTimers (s : State) (asid : Nat) : State :=
  if s.blocks.any (fun b => b.asid == asid && b.phase == .saved) then s
  else { s with bars := s.bars.map (fun o => if o.asid = asid ∧ o.start ≠ 0 then { o with start := s.now } else o) }

/-- R240, R250: the clean bytes of a core leave it, so that a block that resumes there starts with an empty snapshot. -/
def emptySnapshots (s : State) (cores : List Nat) : State :=
  cores.foldl (fun s c => s.modCore c (fun k => { k with l1 := [] })) s

/-- R331, R332: A SAVED BLOCK RESUMES; replies that came meanwhile act now, and its barrier waits are evaluated again. -/
def resumeBlock (s : State) (l : Launch) (b : Block) (cores : List Nat) (n : Nat) : State :=
  let s0 := ownRead s ownUnit (some b.asid) (physLines (saveBase s b) b.savedBytes)
  let s1 := (standOn (emptySnapshots (freeSave s0 b) cores) l b.uid cores n).modBlock b.uid (fun b => { b with savedGangs := [], savedBytes := 0, replies := [] })
  let s2 := b.savedGangs.foldl (seatGang l cores n) { s1 with
    gaths := s1.gaths.map (fun g => if g.block = b.uid then { g with core := cores.getD g.blkpos 0 } else g) }
  let s3 := b.replies.foldl (fun s r => actOnReply s r.1 r.2) s2
  let s4 := (b.savedGangs.map (·.uid)).foldl releaseGang s3
  let s5 := restartTimers s4 b.asid
  ((s5.bars.filter (fun o => o.waiters.any (fun w => b.savedGangs.any (fun g => g.uid == w.1)))).map (fun o => o.cell.pa)).foldl wakeBar s5

end Sys2Proof.Machine
end

