-- ==== Sys2Proof/Machine/Cistern.lean ====
section
/-! DEFINITION. Machine/Cistern.lean: the work-queue and dispatch unit: queues (R317), launch records and their checks (R318,
R319), enqueue (R321, R323), completion (R320), dispatch (R324, R325), pre-emption (R328 to R330), time limits (R327) and
what becomes of a block that consumes an uncorrectable error (R334).
-/
namespace Sys2Proof.Machine

/-! ### Issue (R321, R322) -/

/-- R321 LAUNCH: the enqueue is held; its result is outstanding. -/
def execLaunch (f : EF) (s : State) : Res :=
  .next (onceForGang s (fun g s =>
    s.onIssuer (fun x =>
      (x.await s.cx.pc .unit (gangDsts f.d) [] false true).hold s.cx.pc
        (.launch (gangSrc s g f.a) (gangSrc s g f.b % 2 ^ 12) f.d x.nextId))))

/-- R322 PROG: the block's progress is held. -/
def execProg (f : EF) (s : State) : Res :=
  .next (onceForGang s (fun g s =>
    s.onIssuer (fun x => x.hold s.cx.pc (.prog (min (bitsOf (gangSrc s g f.a) 16 0) 65536)))))

/-! ### Queues (R317) -/

/-- A queue's QCTL. -/
def queueCtl (s : State) (q : Nat) : Nat := (tabGet qctlReset s.qctl q).toNat

/-- R317: the records of a queue's ring. -/
def ringSize (s : State) (q : Nat) : Nat := 2 ^ bitsOf (queueCtl s q) 11 8

/-- R317: the context of a queue. -/
def queueAsid (s : State) (q : Nat) : Nat := bitsOf (tabGet 0 s.qctx q).toNat 10 0

/-- R317 QTAIL_WRITE: TAIL, no more than a ring ahead of HEAD. -/
def execQtailWrite (q : Nat) (tail : BitVec 32) (s : State) : Res :=
  let head := tabGet 0 s.qhead q
  let t := if (tail - head).toNat > ringSize s q then head + BitVec.ofNat 32 (ringSize s q) else tail
  .next (if q < 4096 then { s with qtail := tabPut 0 s.qtail q t } else s)

/-! ### The launch record (R318, R319) -/

/-- R318: PARAMS. -/
def lrParams (v : Nat) : Nat := bitsOf v 1023 960
/-- R318: ENTRY. -/
def lrEntry (v : Nat) : Nat := bitsOf v 959 896
/-- R318: COMPL. -/
def lrCompl (v : Nat) : Nat := bitsOf v 895 832
/-- R318: JOIN. -/
def lrJoin (v : Nat) : Nat := bitsOf v 831 768

/-- R319 reason 1, as far as the record's own fields tell. -/
def recordBad (v : Nat) : Bool :=
  let out := fun (x lo hi : Nat) => decide (x < lo ∨ hi < x)
  let vr := bitsOf v 623 615
  let sr := bitsOf v 614 605
  let l1 := bitsOf v 600 598
  bitsOf v 566 0 != 0 || decide (lrParams v ≥ 2 ^ 57) || lrParams v % 8 != 0 || decide (lrEntry v ≥ 2 ^ 57) ||
    lrEntry v % 8 != 0 || decide (lrCompl v ≥ 2 ^ 57) || lrCompl v % 8 != 0 || bitsOf v 735 704 == 0 ||
    out (bitsOf v 639 624) 1 8192 || out vr 8 256 || vr % 8 != 0 || out sr 16 512 || sr % 16 != 0 ||
    out (bitsOf v 604 601) 0 8 || out l1 1 7 || out (bitsOf v 597 593) 0 16 || decide (bitsOf v 592 570 > (8 - l1) * mib)

/-- R318: the launch that a record describes, with its parameters, priority and place in the order of enqueues. -/
def launchOf (v : Nat) (params : List W64) (id asid queue prio seq : Nat) (prov byCore : Option Nat) : Launch :=
  { id := id, asid := asid, queue := queue, prio := prio, seq := seq, entry := BitVec.ofNat 64 (lrEntry v), compl := lrCompl v,
    join := lrJoin v, depid := bitsOf v 767 736, blocks := bitsOf v 735 704, wait := bitsOf v 703 688,
    expdur := bitsOf v 687 672, tlimit := bitsOf v 671 656, pbound := bitsOf v 655 640, threads := bitsOf v 639 624,
    vregs := bitsOf v 623 615, sregs := bitsOf v 614 605, tiles := bitsOf v 604 601, l1 := bitsOf v 600 598,
    sbuf := bitsOf v 597 593, localLen := bitsOf v 592 570, dies := bitsOf v 569 568, coop := bitsOf v 567 567 == 1,
    params := params, next := 0, ended := 0, killed := 0, provisional := prov, byCore := byCore, startNs := none,
    pausedNs := 0, savedSince := none, skipped := [] }

/-- The remote translation that a failed read waits for (R399). -/
def waitOf : XRes × Nat → Option (Nat × Nat)
  | (.wait t p, _) => some (t, p)
  | _ => none

/-- What the Cistern finds of a record: the launch's fields and parameters, a reason to reject it, or a remote translation
that it waits for. -/
inductive RecordRes where
  | ok (v : Nat) (params : List W64)
  | reject (reason : Nat)
  | wait (target page : Nat)
  deriving DecidableEq, Repr

/-- Cells for a use, or what the use comes to without them: a wait, or reason 1. -/
def orReject (r : Except (XRes × Nat) (List Cell)) (f : List Cell → RecordRes) : RecordRes :=
  match r with
  | .ok cs => f cs
  | .error e =>
    match waitOf e with
    | some w => .wait w.1 w.2
    | none => .reject 1

/-- R319 reason 1: a record's fields, its parameter block and its completion word. -/
def readRecord (s : State) (asid v : Nat) : RecordRes :=
  if recordBad v then .reject 1
  else
    let xl := fun acc a => xlateWalk s asid a acc false
    orReject (awake s (virtCells (xl .read) (lrParams v) 128)) (fun cs =>
      let bs := readCells s cs
      let ps := (List.range 16).map (fun i => BitVec.ofNat 64 (leValue ((bs.drop (8 * i)).take 8)))
      if lrCompl v = 0 then .ok v ps else orReject (virtCells (xl .write) (lrCompl v) 8) (fun _ => .ok v ps))

/-- R321: the record that a LAUNCH names. -/
def readLaunch (s : State) (asid va : Nat) : RecordRes :=
  if va ≥ 2 ^ 57 ∨ va % 128 ≠ 0 then .reject 1
  else orReject (awake s (virtCells (fun a => xlateWalk s asid a .read false) va 128)) (fun cs =>
    readRecord s asid (leValue (readCells s cs)))

/-- R336: the reads, and their walks, of 128 bytes that the Cistern is given the address of. -/
def recordAsk (s : State) (asid va : Nat) : State :=
  ownRead (askWalks s ownUnit false asid [va]) ownUnit (some asid)
    (match virtCells (fun a => xlateWalk s asid a .read false) va 128 with
      | .ok cs => cs
      | .error _ => [])

/-- R319 reason 4: the queue is disabled, or its context is not live or not the enqueuing gang's. -/
def queueBad (s : State) (q : Nat) (asid : Option Nat) : Bool :=
  !((queueCtl s q).testBit 0) || !(ctxLive s (queueAsid s q)) || asid.any (fun a => a != queueAsid s q)

/-! ### Placing blocks (R324, R325) -/

/-- R378: the launch's next task that is to be placed. -/
def nextIndex (l : Launch) : Option Nat :=
  (List.range (l.blocks - l.next)).findSome? (fun i => if l.skipped.contains (l.next + i) then none else some (l.next + i))

/-- R334: the quad to avoid, while another could hold the block even with no resident. -/
def avoidOf (s : State) (l : Launch) (n : Nat) (b : Block) : Option Nat :=
  match b.avoidQuad with
  | none => none
  | some q => if spanHeld s l n (some q) then some q else none

/-- A saved or unplaced block placed again. -/
def replaceBlock (s : State) (l : Launch) (b : Block) : Option State :=
  if b.phase = .saved then
    (findPlace s l b.span (savedSeats b) (some b.uid) none).map (fun cs => resumeBlock s l b cs b.span)
  else match spanOf s l with
    | none => none
    | some n => (findPlace s l n (freshSeats l) (some b.uid) (avoidOf s l n b)).map (fun cs => startBlock s l b cs n)

/-- The launch's block `i` placed for the first time. -/
def placeNew (s : State) (l : Launch) (i : Nat) : Option State :=
  match spanOf s l with
  | none => none
  | some n =>
    (findPlace s l n (freshSeats l) none none).map (fun cs =>
      let b := newBlock l s.nextUid i
      let s1 := ({ s with blocks := s.blocks ++ [b], nextUid := s.nextUid + 1 } : State).modLaunch l.id (fun l => { l with next := i + 1 })
      startBlock s1 l b cs n)

/-- R331, R334: the launch's blocks that wait to be placed again. -/
def waitingBlocks (s : State) (l : Launch) : List Block :=
  s.blocks.filter (fun b => b.launch == l.id && (b.phase == .saved || b.phase == .unplaced))

/-- R39: every block of a co-operative grid placed, or none. -/
def placeGrid (s : State) (l : Launch) : Option State :=
  if s.blocks.any (fun b => b.launch == l.id && b.phase == .preempting) then none
  else
    let s1 := (waitingBlocks s l).foldl (fun (a : Option State) b => a.bind (fun s => replaceBlock s l b)) (some s)
    (List.range (l.blocks - l.next)).foldl (fun (a : Option State) i => a.bind (fun s => placeNew s l (l.next + i))) s1

/-- Whether a launch has a block to place. -/
def hasNext (s : State) (l : Launch) : Bool := !(waitingBlocks s l).isEmpty || (nextIndex l).isSome

/-- R324: THE LAUNCH'S NEXT BLOCK PLACED, saved and relaunched ones first; `none` where it fits nowhere at present. -/
def placeNext (s : State) (l : Launch) : Option State :=
  if l.coop then placeGrid s l
  else match waitingBlocks s l, nextIndex l with
    | b :: _, _ => replaceBlock s l b
    | [], some i => placeNew s l i
    | [], none => none

/-- R319 reason 3: the package with no resident. -/
def emptyPackage (s : State) : State :=
  { s with gangs := [], blocks := [], cores := s.cores.map (fun c => (c.1, { c.2 with l1size := 0 })) }

/-- R319, R39: whether a whole grid fits the remaining cores at once; DIES is not asked (log 30). -/
def gridFits (s : State) (l : Launch) : Bool :=
  let l' := { l with dies := 3, next := 0 }
  (placeGrid { emptyPackage s with launches := [l'] } l').isSome

/-! ### Enqueue (R319 to R323) -/

/-- R321: identifiers go up from 1, wrap, and are unique among the live launches. -/
def freshLaunch (s : State) : Nat :=
  let next := fun (i : Nat) => (s.nextLaunch - 1 + i) % (2 ^ 32 - 1) + 1
  (((List.range (s.launches.length + 1)).map next).find? (fun x => !(s.launches.any (fun l => l.id == x)))).getD s.nextLaunch

/-- R313: the pending-launch slots of a domain. -/
def launchSlots : Nat := 16384

/-- R313: whether a queue's domain has no free slot. -/
def slotsFull (s : State) (q : Nat) : Bool :=
  decide (launchSlots ≤ (s.launches.filter (fun l => l.queue / 2048 == q / 2048)).length)

/-- R315: notices counted on the queue that an accepted launch takes. -/
def takeNotices (s : State) (l : Launch) : State :=
  let n := min (tabGet 0 s.qnotices l.queue) l.wait
  { s with
    launches := s.launches ++ [{ l with wait := l.wait - n }]
    qnotices := tabPut 0 s.qnotices l.queue (tabGet 0 s.qnotices l.queue - n) }

/-- R319: an enqueue's outcome: the launch accepted, with its join armed (R372); or a reason. A page in motion that the
join names, or a stack in self-refresh that its check reads (R342), keeps it waiting (`none`). -/
def enqueue (s : State) (q v : Nat) (params : List W64) (who : Option (Gang × Block)) : Option (Except Nat (State × Nat)) :=
  let asid := queueAsid s q
  let prov := who.bind (fun w => if w.2.commits = 0 then some w.2.uid else none)
  let id := freshLaunch s
  let l := launchOf v params id asid q (max (bitsOf (queueCtl s q) 7 5) (ctxMaxPri (ctxRec s asid))) s.nextSeq prov
    (who.map (fun w => w.1.core))
  let accept := fun (s : State) =>
    takeNotices { s with nextLaunch := id % (2 ^ 32 - 1) + 1, nextSeq := s.nextSeq + 1 } l
  if (spanOf s l).isNone then some (.error 2)
  else if l.coop && !(gridFits s l) then some (.error 3)
  else if who.isSome && slotsFull s q then some (.error 5)
  else if l.join = 0 then some (.ok (accept s, id))
  else if joinAsleep s asid l.join then none
  else match checkJoin s asid l.join l.blocks l.coop id with
    | none => some (.error 6)
    | some j => if inMotion s (j.pages.map (·.2)) then none else some (.ok (armJoin (accept (recordAsk s asid l.join)) j, id))

/-- R319: the record of a rejected host launch. -/
def rejectRecord (s : State) (asid reason addr : Nat) : State :=
  raiseFault s { asid := asid, cause := 0x40, detail := reason, pc := 0, addr := BitVec.ofNat 64 addr, last := 0, time := s.now,
                 lanes := 0, commits := 0, block := 0xFFFFFFFF, launch := 0, gang := 0, core := 0, deferred := false,
                 replayable := false, forced := false, waited := false, guid := none, buid := none, op := none,
                 inert := true, host := false }

/-- R317, R319: the queue's next host record is accepted or rejected, and HEAD advances. -/
def hostEnqueue (s : State) (q : Nat) : State :=
  let head := tabGet 0 s.qhead q
  let asid := queueAsid s q
  if head = tabGet 0 s.qtail q ∨ slotsFull s q then s
  else
    let addr := bitsOf (queueCtl s q) 63 12 * 4096 + 128 * (head.toNat % ringSize s q)
    let up := fun (s : State) => { s with qhead := tabPut 0 s.qhead q (head + 1) }
    let refuse := fun r => rejectRecord (up s) asid r addr
    if queueBad s q none then refuse 4
    else if areaAsleep s addr 128 then s
    else
      let v := physWord s addr 128
      let ask := fun (s : State) => recordAsk (ownRead s ownUnit (some asid) (physLines addr 128)) asid (lrParams v)
      match readRecord s asid v with
      | .wait t p => askTrans s 0 asid [(t, p)]
      | .reject r => ask (refuse r)
      | .ok v ps =>
        match enqueue s q v ps none with
        | none => s
        | some (.error r) => ask (refuse r)
        | some (.ok (s1, _)) => ask (up s1)

/-- R321: a rejected LAUNCH's result. -/
def rejectValue (reason : Nat) : Nat := 0xFFFFFFFF00000000 + reason

/-- The item of a LAUNCH. -/
def isLaunch (q : Nat) (o : UnitOp) : Bool :=
  match o.item.eff with
  | .launch _ x .. => x == q
  | _ => false

/-- R321: the oldest LAUNCH that has reached the Cistern for the queue. -/
def deviceEnqueue (s : State) (q : Nat) : State :=
  match s.cisQ.find? (isLaunch q) with
  | none => s
  | some o =>
    match o.item.eff, s.gang? o.gang, (s.gang? o.gang).bind s.blockOf with
    | .launch va _ dst oid, some g, some b =>
      let done := fun (s : State) (x : Nat) =>
        barAnswer { s with cisQ := s.cisQ.eraseIdx ((s.cisQ.findIdx? (isLaunch q)).getD s.cisQ.length) } g.uid oid dst x
      if queueBad s q (some b.asid) then done s (rejectValue 4)
      else
        let ask := fun (s : State) => recordAsk s b.asid va
        match readLaunch s b.asid va with
        | .wait t p => askTrans s g.core b.asid [(t, p)]
        | .reject r => ask (done s (rejectValue r))
        | .ok v ps =>
          match enqueue s q v ps (some (g, b)) with
          | none => s
          | some (.error r) => ask (done s (rejectValue r))
          | some (.ok (s1, id)) => recordAsk (ask (done s1 id)) b.asid (lrParams v)
    | _, _, _ => s

/-- R319 LAUNCH_ENQUEUE: a host's record, or a gang's LAUNCH. -/
def execLaunchEnqueue (q : Nat) (dev : Bool) (s : State) : Res :=
  .next (if 4096 ≤ q then s else if dev then deviceEnqueue s q else hostEnqueue s q)

/-! ### Completion (R320, R380) -/

/-- R320: the end of a launch whose completion is told: its dependent launch waits for one less; a DEPID of all ones names
none (R318). -/
def finishLaunch (s : State) (id : Nat) : State :=
  match s.launch? id with
  | none => s
  | some l =>
    let s1 := { s with launches := s.launches.filter (fun x => x.id != id) }
    if l.depid = 0xFFFFFFFF then s1 else waitLess s1 l.depid

/-- R320: COMPL written at home as one unit, and the launch ended; a home on another package has to answer first (log 37).
Where the page is not there any more nothing is written. -/
def writeDone (s : State) (l : Launch) (cs : List Cell) : State :=
  let bs := leBytes 8 (l.killed % 2 ^ 32 * 2 ^ 32 + 1)
  match cs with
  | c :: _ =>
    if isRemote c.pa then (sendRemote s (.compl l.id cs bs) (remoteTarget c.pa) l.asid).1
    else finishLaunch (ownWrite (askWalks s ownUnit false l.asid [l.compl]) ownUnit (some l.asid) (stCells cs bs)) l.id
  | [] => finishLaunch s l.id

/-- Whether a launch waits for the answer to the write of its COMPL. -/
def complSent (s : State) (id : Nat) : Bool :=
  s.remOut.any (fun r => match r.kind with | .compl i .. => i == id | _ => false)

/-- R320: whether every block of a launch has ended or been killed, its join's release included (R378). -/
def launchOver (s : State) (l : Launch) : Bool :=
  l.ended + l.killed == l.blocks && !((s.join? l.id).map (fun j => j.released && !j.visible)).getD false

/-- R320 LAUNCH_COMPLETE: the join, COMPL, then the dependent launch. A stack in self-refresh keeps COMPL until its exit
(R342). -/
def execLaunchComplete (id : Nat) (s : State) : Res :=
  .next (match s.launch? id with
    | none => s
    | some l =>
      if !(launchOver s l) || complSent s id then s
      else if l.compl = 0 then finishLaunch (completeJoin s id) id
      else
        match virtCells (fun a => xlateWalk s l.asid a .write false) l.compl 8 with
        | .error (.wait t p, _) => askTrans s 0 l.asid [(t, p)]
        | .error _ => finishLaunch (completeJoin s id) id
        | .ok cs => if cs.any (fun c => stackAsleep s c.pa) then s else writeDone (completeJoin s id) l cs)

/-! ### Pre-emption (R328 to R330) -/

/-- R330: the options, in the order of preference among equal costs. -/
inductive PreOpt where
  | flush | save | drain
  deriving DecidableEq, Repr

/-- R329: S of a block. -/
def saveBytes (s : State) (b : Block) : Nat :=
  total ((s.gangs.filter (fun g => g.block == b.uid)).map (fun g => 128 * g.vregs + 8 * g.sregs + 512)) +
    b.cores.length * (b.localLen + 65536 * b.tilesT + 256)

/-- R329: what is saved in each domain so far. -/
abbrev SaveLoad := Nat × Nat

/-- More to save in a domain. -/
def SaveLoad.add (a : SaveLoad) (dom n : Nat) : SaveLoad := if dom = 0 then (a.1 + n, a.2) else (a.1, a.2 + n)

/-- What a domain saves. -/
def SaveLoad.at (a : SaveLoad) (dom : Nat) : Nat := if dom = 0 then a.1 else a.2

/-- The lowest core of a block. -/
def lowCore (b : Block) : Nat := (b.cores.head?).getD 0

/-- The greatest of some costs. -/
def greatest (l : List Nat) : Nat := l.foldl max 0

/-- R329: the costs in ns of the options available for blocks that go together: one block, or a co-operative grid. -/
def optionCosts (s : State) (bs : List Block) (load : SaveLoad) : List (PreOpt × Nat) :=
  let asid := ((bs.head?).map (·.asid)).getD 0
  let r := ctxRec s asid
  let run := bs.foldl (fun (a : SaveLoad × List Nat) b =>
    let l := a.1.add (dieOf (lowCore b)) (saveBytes s b)
    (l, a.2 ++ [ceilDiv (l.at (dieOf (lowCore b))) 1000 + 2000])) (load, [])
  let dur := fun (b : Block) => ((s.launch? b.launch).map (·.expdur)).getD 0
  (if bs.all Block.replayable then [(.flush, 1000)] else []) ++
    (if ctxSave r != 0 && decide (tabGet 0 s.saveUsed asid + total (bs.map (saveBytes s)) ≤ ctxSaveLen r) then
      [(.save, greatest run.2)] else []) ++
    (if bs.all (fun b => dur b != 0) then
      [(.drain, greatest (bs.map (fun b => ceilDiv (1000 * dur b * (65536 - b.progress)) 65536)))] else [])

/-- R330: the option: the cheapest within the bound, else the cheapest. -/
def chooseOption (costs : List (PreOpt × Nat)) (bound : Nat) : Option PreOpt :=
  let within := costs.filter (fun c => decide (c.2 ≤ bound))
  ((if within.isEmpty then costs else within).foldl (fun (a : Option (PreOpt × Nat)) c =>
    match a with
    | none => some c
    | some x => if c.2 < x.2 then some c else a) none).map (·.1)

/-- R330: the option acts on one block. A save reserves its room at once (log 32). -/
def actOption (s : State) (o : PreOpt) (b : Block) : State :=
  match o with
  | .flush => relaunchBlock s b.uid none
  | .drain => s.modBlock b.uid (fun b => { b with drain := true })
  | .save =>
    let n := saveBytes s b
    { s.modBlock b.uid (fun b => { b with phase := .preempting, savedBytes := n }) with
      saveUsed := tabPut 0 s.saveUsed b.asid (tabGet 0 s.saveUsed b.asid + n) }

/-- The blocks that are pre-empted with a block (R328). -/
def withGrid (s : State) (b : Block) : List Block :=
  if ((s.launch? b.launch).map (·.coop)).getD false then s.blocks.filter (fun x => x.launch == b.launch && x.phase == .running)
  else [b]

/-- Victims in ascending core order. -/
def byLowCore (bs : List Block) : List Block :=
  (List.range 64).flatMap (fun c => bs.filter (fun b => lowCore b == c))

/-- R330: what has been done to some victims so far, what is to be saved, and those that turned out to have no option. -/
structure PreAcc where
  s : State
  load : SaveLoad
  none : List Nat

/-- R329, R330: one victim's option is chosen and acts; save costs accumulate. -/
def preemptOne (bound : Nat) (a : PreAcc) (v : Block) : PreAcc :=
  match a.s.block? v.uid with
  | none => a
  | some v =>
    if v.phase ≠ .running ∨ v.drain then a
    else
      let bs := byLowCore (withGrid a.s v)
      match chooseOption (optionCosts a.s bs a.load) bound with
      | none => { a with none := a.none ++ [v.uid] }
      | some o =>
        let load := if o = .save then bs.foldl (fun (l : SaveLoad) b => l.add (dieOf (lowCore b)) (saveBytes a.s b)) a.load else a.load
        { a with s := bs.foldl (fun s b => actOption s o b) a.s, load := load }

/-- R329, R330: some victims are pre-empted; those with no option are none. -/
def preempt (s : State) (victims : List Block) (bound : Nat) : PreAcc :=
  (byLowCore victims).foldl (preemptOne bound) ⟨s, (0, 0), []⟩

/-- The sets of elements of a list. -/
def subsets {A : Type} : List A → List (List A)
  | [] => [[]]
  | x :: xs => let r := subsets xs; r ++ r.map (fun l => x :: l)

/-- The package without some blocks. -/
def without (s : State) (bs : List Block) : State :=
  bs.foldl (fun s b => freeCores { removeGangs s b with blocks := s.blocks.filter (fun x => x.uid != b.uid) } b.cores) s

/-- R328: a set of victims, as the choice among sets sees it. -/
structure VictimSet where
  blocks : List Block
  prio : Nat
  started : Nat
  deriving DecidableEq, Repr

/-- R328: whether the first set is chosen before the second: fewer blocks, then lower priority, then the more recently
started (log 31). -/
def betterSet (a b : VictimSet) : Bool :=
  if a.blocks.length ≠ b.blocks.length then decide (a.blocks.length < b.blocks.length)
  else if a.prio ≠ b.prio then decide (b.prio < a.prio)
  else decide (b.started < a.started)

/-- The priority of a block's launch. -/
def blockPrio (s : State) (b : Block) : Nat := ((s.launch? b.launch).map (·.prio)).getD 0

/-- R328: the candidates for a launch: running blocks of launches of numerically higher priority with an option. -/
def candidates (s : State) (l : Launch) : List Block :=
  s.blocks.filter (fun b => b.phase == .running && !b.drain && decide (l.prio < blockPrio s b) &&
    !(optionCosts s (withGrid s b) (0, 0)).isEmpty)

/-- R328, R330: the sets of victims on one core, or on one quad for a launch that spans, without the blocks of `skip`. -/
def victimSets (s : State) (l : Launch) (skip : List Nat) : List VictimSet :=
  let cs := (candidates s l).filter (fun b => !((withGrid s b).any (fun x => skip.contains x.uid)))
  let places := if spanOf s l = some 1 then (List.range 64).map (fun c => [c]) else (List.range 16).map quadCores
  let sets := places.flatMap (fun p => subsets (cs.filter (fun b => b.cores.any (fun c => p.contains c))))
  (sets.filter (fun v => !v.isEmpty && (placeNext (without s (v.flatMap (withGrid s))) l).isSome)).map (fun v =>
    ⟨v, v.foldl (fun m b => min m (blockPrio s b)) 8, greatest (v.map (·.startedNs))⟩)

/-- R328: whether what is being pre-empted already makes room. -/
def roomComing (s : State) (l : Launch) : Bool :=
  (placeNext (without s (s.blocks.filter (fun b => b.phase == .preempting || (b.phase == .running && b.drain)))) l).isSome

/-- R328: the best of the sets of victims. -/
def bestSet (sets : List VictimSet) : Option VictimSet :=
  sets.foldl (fun (a : Option VictimSet) v =>
    match a with
    | none => some v
    | some x => if betterSet v x then some v else a) none

/-- R330: the sets tried one after another: where a block of one turns out to have no option, the set is chosen again without
it, `n` times at most. -/
def tryVictims (s : State) (l : Launch) : List Nat → Nat → Option State
  | _, 0 => none
  | skip, n + 1 =>
    match bestSet (victimSets s l skip) with
    | none => none
    | some v =>
      let a := preempt s v.blocks (1000 * l.pbound)
      if a.none.isEmpty then some a.s else tryVictims s l (a.none ++ skip) n

/-- R328, R330: a launch whose next block fits nowhere asks for pre-emption; `none` where it finds no victims, or room is
made already. -/
def askPreemption (s : State) (l : Launch) : Option State :=
  if l.pbound = 0 ∨ roomComing s l then none else tryVictims s l [] (s.blocks.length + 1)

/-! ### Dispatch (R324) -/

/-- R320: whether a launch may have blocks placed; a saved one waits for the exit of a stack in self-refresh that holds what
was saved (R342). -/
def dispatchable (s : State) (l : Launch) : Bool :=
  l.wait == 0 && l.provisional.isNone && ctxLive s l.asid && !(tabGet false s.paused l.asid) && hasNext s l &&
    !((waitingBlocks s l).any (fun b => b.phase == .saved) && saveAsleep s l.asid)

/-- A launch put in the dispatcher's order: priority, then enqueue. -/
def insertLaunch (l : Launch) : List Launch → List Launch
  | [] => [l]
  | x :: xs => if l.prio < x.prio ∨ (l.prio = x.prio ∧ l.seq < x.seq) then l :: x :: xs else x :: insertLaunch l xs

/-- R324: the dispatchable launches of a domain, in order. -/
def dispatchOrder (s : State) (dom : Nat) : List Launch :=
  (s.launches.filter (fun l => l.queue / 2048 == dom && dispatchable s l)).foldl (fun a l => insertLaunch l a) []

/-- R324: the first launch whose next block has a place gets it; one that has none is passed over, or asks for pre-emption. -/
def dispatchFirst (s : State) : List Launch → State
  | [] => s
  | l :: rest =>
    match placeNext s l with
    | some s' => s'
    | none =>
      match askPreemption s l with
      | some s' => s'
      | none => dispatchFirst s rest

/-- R324, R325 DISPATCH_BLOCK: blocks that pre-emption stopped are saved once they can be; the dispatcher places the next
block, or asks for pre-emption. -/
def execDispatchBlock (dom : Nat) (s : State) : Res :=
  .next (let s1 := finishSaves s; dispatchFirst s1 (dispatchOrder s1 dom))

/-! ### Time limits (R327) -/

/-- R327: the time that a launch has run. -/
def launchElapsed (s : State) (l : Launch) : Nat :=
  match l.startNs with
  | none => 0
  | some t => s.now - t - l.pausedNs - (l.savedSince.map (fun u => s.now - u)).getD 0

/-- The launch's live block of lowest index. -/
def lowestBlock (s : State) (id : Nat) : Option Block :=
  (s.blocks.filter (fun b => b.launch == id && b.phase != .ended)).foldl (fun a b =>
    match a with
    | none => some b
    | some x => if b.idx < x.idx then some b else a) none

/-- R327 TIME_LIMIT_EXPIRY: the context of a launch that has used its time is terminated. -/
def execTimeLimitExpiry (id : Nat) (s : State) : Res :=
  .next (match s.launch? id with
    | none => s
    | some l =>
      if l.tlimit = 0 ∨ launchElapsed s l < 1000000 * l.tlimit ∨ tabGet false s.dead l.asid then s
      else
        let r : FaultReq := match lowestBlock s id with
          | some b => { blockFault s b 0x41 0 0 0 with host := true, inert := true, core := 0 }
          | none =>
            { asid := l.asid, cause := 0x41, detail := 0, pc := 0, addr := 0, last := 0, time := s.now, lanes := 0, commits := 0,
              block := 0, launch := id, gang := 0, core := 0, deferred := false, replayable := false, forced := false,
              waited := false, guid := none, buid := none, op := none, inert := true, host := true }
        terminate (raiseFault s r) l.asid)

/-! ### Uncorrectable errors (R334) -/

/-- R34: whether a strike report could still discard the run that met an error. -/
def Consumption.unsure (s : State) (c : Consumption) : Bool := ((s.gang? c.guid).map (fun g => g.runLive c.run)).getD false

/-- R334: the error that a block consumes now: one that it has met, in a run that has left quarantine (R178), or the loss
of an entry of its store buffer, if it has one. -/
def consumptionOf (s : State) (b : Block) : Option Consumption :=
  (b.consumption.find? (fun c => !(c.unsure s))).orElse (fun _ => if b.layers.isEmpty then none else some ⟨0, 0, 0, 0, 0, 0⟩)

/-- The quad that a block stands on, or stood on when it was saved. -/
def Block.quad (b : Block) : Option Nat := ((b.cores.head?).map quadOf).orElse (fun _ => b.lastQuad)

/-- R334 UNCORRECTABLE_CONSUMPTION: a replayable block is relaunched; one that has committed, or meets its fourth error, is
killed. -/
def execUncorrectableConsumption (block : Nat) (s : State) : Res :=
  .next (match s.block? block with
    | none => s
    | some b =>
      match consumptionOf s b with
      | none => s
      | some c =>
        if b.over || b.phase == .unplaced then s.modBlock block (fun b => { b with consumption := [] })
        else
          let s1 := s.modBlock block (fun b => { b with consumption := [], consumed := b.consumed + 1 })
          let base := { blockFault s b 0x19 0 c.pc c.addr with gang := c.gang }
          if !b.replayable ∨ 4 ≤ b.consumed + 1 then
            killPlain (raiseFault s1 { base with detail := 1, deferred := true, lanes := c.lanes }) block
          else relaunchBlock (raiseFault s1 { base with inert := true, deferred := c.lanes != 0#32 }) block b.quad)

end Sys2Proof.Machine
end

