-- ==== Sys2Proof/Machine/Control.lean ====
section
/-! DEFINITION. Machine/Control.lean: control flow, meeting points, NOP and YIELD (R115 to R122). A control-flow word
stands last in its run; what it decides for a lane is kept in the run and taken at its end (R32).
-/
namespace Sys2Proof.Machine

/-- R115: an address that a PC may hold. -/
def pcLegal (t : W64) : Bool := t.toNat < 2 ^ 57 && t.toNat % 8 == 0

/-- R73: the target of a J word. -/
def jTarget (pc : W64) (off : BitVec 32) : W64 := pc + (off.signExtend 64) * 8

/-- The lanes of a set with the address each goes to. -/
def laneTargets (s : State) (f : Nat → W64) : List (Nat × W64) := (lanesOf s.act).map (fun i => (i, f i))

/-- R115: each lane whose target is legal will go there at the run's end; the others park with the branch-target cause. -/
def jumpTo (f : Nat → W64) (s : State) : State :=
  let ts := laneTargets s f
  let bad := ts.filter (fun p => !pcLegal p.2)
  let good := ts.filter (fun p => pcLegal p.2)
  let s1 := takeFaults s (bad.map (fun p => ⟨p.1, 0x05, 0, p.2⟩))
  s1.onIssuer (fun g => g.modIssue (fun r => { r with targets := r.targets ++ good }))

/-- The 64-bit value of a register named by AUX, in a lane (R117). -/
def auxVal (s : State) (aux : Opd) (lane : Nat) : W64 :=
  match s.gang? s.cx.gang with
  | none => 0
  | some g => BitVec.ofNat 64 ((Ctx.mk s g (s.blockOf g)).src lane aux true)

/-- The value of a register named by AUX, one vector register wide, in a lane (R121). -/
def auxNarrow (s : State) (aux : Opd) (lane : Nat) : W64 :=
  match s.gang? s.cx.gang with
  | none => 0
  | some g => BitVec.ofNat 64 ((Ctx.mk s g (s.blockOf g)).src lane aux false)

/-- R116 BRA. -/
def execBra (f : JF) (s : State) : Res := .next (jumpTo (fun _ => jTarget s.cx.pc f.offset) s)

/-- R117 JMPR. -/
def execJmpr (f : JF) (s : State) : Res := .next (jumpTo (fun i => auxVal s f.aux i) s)

/-- R117 RET: as JMPR. -/
def execRet (f : JF) (s : State) : Res := .next (jumpTo (fun i => auxVal s f.aux i) s)

/-- The lanes that act a word's write of `x` to a register: each, or the gang once. -/
def auxWrite (s : State) (aux : Opd) (x : Nat → Nat) : State :=
  match s.gang? s.cx.gang with
  | none => s
  | some g =>
    let c : Ctx := ⟨s, g, s.blockOf g⟩
    let who := if opdUniform aux then (lanesOf s.act).take 1 else lanesOf s.act
    s.onIssuer (fun g => g.deliver s.cx.pc s.cx.pos (some 1) (who.flatMap (fun i => c.dst i aux .n64 (x i))))

/-- R118 CALL: as BRA, and the address of the next word to AUX with latency 1. -/
def execCall (f : JF) (s : State) : Res :=
  let s1 := jumpTo (fun _ => jTarget s.cx.pc f.offset) s
  .next (auxWrite s1 f.aux (fun _ => (nextPc s.cx.pc).toNat))

/-- R119: the meeting register of each lane takes a value and its met bit clears, from the next word. -/
def setMeet (s : State) (f : Nat → W64) : State :=
  s.onIssuer (fun g => g.emit (s.dueAt 1) ((lanesOf s.act).map (fun i => .mr i (f i))))

/-- R119 MEET: the old value goes to AUX. -/
def execMeet (f : JF) (s : State) : Res :=
  let s1 := setMeet s (fun _ => jTarget s.cx.pc f.offset)
  .next (match s.gang? s.cx.gang with
    | none => s1
    | some g => auxWrite s1 f.aux (fun i => (g.regs.lane i).mr.toNat))

/-- R119 MEET.r: none gives all ones. -/
def execMeetR (f : JF) (s : State) : Res :=
  .next (setMeet s (fun i => if f.aux = .none then mrNone else auxVal s f.aux i))

/-- R120 EXIT: each guard-true lane exits at the end of the run. -/
def execExit (_f : JF) (s : State) : Res :=
  .next (if s.acts then
    s.onIssuer (fun g => (g.modIssue (fun r => { r with exits := r.exits ||| s.act })).hold s.cx.pc (.exit s.act))
  else s)

/-- R121 TRAP: the lanes park at the word; one record carries the code, and AUX of the lowest lane in ADDR. -/
def execTrap (f : JF) (s : State) : Res :=
  .next (if s.acts then
    takeFault s s.act 0x06 f.jmod.toNat (if f.aux = .none then 0 else auxNarrow s f.aux (lowestLane s.act))
  else s)

/-- R122 NOP. -/
def execNop (_f : JF) (s : State) : Res := .next s

/-- R122 YIELD: the gang counts as served most recently at the next boundary. -/
def execYield (_f : JF) (s : State) : Res :=
  .next (if s.acts then s.onIssuer (fun g => g.modIssue (fun r => { r with yielded := true })) else s)

end Sys2Proof.Machine
end

