-- ==== Sys2Proof/Machine/Memory.lean ====
section
/-! DEFINITION. Machine/Memory.lean: the memory service: channel scheduling and deadlines (R336 to R339), refresh
(R338, R342), the patrol scrubber (R340, R341).
-/
namespace Sys2Proof.Machine

/-! ### Channels (R336, R338, R339, R342) -/

/-- The key of a subarray in the table of subarrays being refreshed. -/
def refreshKey (stack chan sub : Nat) : Nat := (32 * stack + chan) * 65536 + sub % 65536

/-- R338: whether a subarray being refreshed is the request's or shares sense amplifiers with it. -/
def refreshBlocks (s : State) (r : ChanReq) : Bool :=
  s.refreshing.any (fun k => k.1 / 65536 == 32 * r.stack + r.chan &&
    (k.1 % 65536 == r.sub % 65536 || Config.sharesAmps (k.1 % 65536) r.sub))

/-- R336: whether a request comes before another that was accepted earlier. -/
def ChanReq.before (a b : ChanReq) : Bool :=
  decide (a.cls < b.cls) || (a.cls == b.cls && a.stamp != 0 && (b.stamp == 0 || decide (a.stamp < b.stamp)))

/-- R336: the place in the list of accepted requests of the one that a channel serves next. A refresh makes it wait and
lets no other pass it (R338). -/
def nextRequest (s : State) (ctl chan : Nat) : Option Nat :=
  ((s.chanQ.zipIdx.foldl (fun (a : Option (ChanReq × Nat)) p =>
    if p.1.stack ≠ ctl ∨ p.1.chan ≠ chan then a
    else match a with
      | none => some p
      | some q => if p.1.before q.1 then some p else a) none).filter (fun p => !(refreshBlocks s p.1))).map (·.2)

/-- The die domain, or CXL port, of a memory controller. -/
def controllerDom (ctl : Nat) : Nat := if ctl < 16 then ctl % 8 / 4 else ctl - 16

/-- R339: a 32-bit counter one higher, saturating. -/
def satInc (x : BitVec 32) : BitVec 32 := if x = 0xFFFFFFFF then x else x + 1

/-- R339: a request completed now; past its stamp it is counted. -/
def countMiss (s : State) (r : ChanReq) : State :=
  let k := missKey (controllerDom r.stack) r.who r.cls
  if r.stamp ≠ 0 ∧ r.stamp < s.now then { s with misses := tabPut 0 s.misses k (satInc (tabGet 0 s.misses k)) } else s

/-- R336 MEMORY_CHANNEL_SERVE: a channel serves one request: class 0 first, then the earliest stamp, then arrival; a stack
in self-refresh serves none (R342). -/
def execMemoryChannelServe (stack chan : Nat) (s : State) : Res :=
  .next (if tabGet false s.selfRefresh stack then s
    else match nextRequest s stack chan with
      | none => s
      | some i =>
        match s.chanQ[i]? with
        | none => s
        | some r => countMiss { s with chanQ := s.chanQ.eraseIdx i } r)

/-- R338 SUBARRAY_REFRESH: the refresh of a subarray begins or ends. -/
def execSubarrayRefresh (stack chan sub : Nat) (on : Bool) (s : State) : Res :=
  .next (if stack < 8 ∧ chan < 32 then { s with refreshing := tabPut false s.refreshing (refreshKey stack chan sub) on } else s)

/-- R342 HBM_THERMAL_SELF_REFRESH: a stack at its critical temperature keeps what it has accepted and serves nothing
(log 42). -/
def execHbmThermalSelfRefresh (stack thbm : Nat) (s : State) : Res :=
  .next (if stack ≥ 8 ∨ tabGet false s.selfRefresh stack then s
    else
      let s1 := { s with
        selfRefresh := tabPut false s.selfRefresh stack true
        therm := { s.therm with thbm := thbm } }
      setNotice (elogWrite s1 7 0 thbm) 2)

/-- R342 HBM_SELF_REFRESH_EXIT: the stack serves again what has queued. -/
def execHbmSelfRefreshExit (stack : Nat) (s : State) : Res :=
  .next { s with selfRefresh := tabPut false s.selfRefresh stack false }

/-! ### The patrol scrubber (R340, R341) -/

/-- R391: WHERE of an entry about a sector: the packed place in a stack, or the local address. -/
def sectorPlace (s : State) (sector : Nat) : Nat :=
  match placeOf s (32 * sector) with
  | some p => if p.tier = 0 then p.slot * 2 ^ 61 + (Config.packPlace (32 * sector)).toNat else 32 * sector
  | none => 32 * sector

/-- 24 hours in nanoseconds. -/
def dayNs : Nat := 86400000000000

/-- R340: a correction is logged; the eighth of its row within 24 hours adds a row alert. -/
def logCorrection (s : State) (sector : Nat) : State :=
  let row := Config.rowOf (32 * sector)
  let recent := s.corrections.filter (fun c => decide (s.now < c.2 + dayNs))
  let n := (recent.filter (fun c => c.1 == row)).length
  let s1 := elogWrite { s with corrections := recent ++ [(row, s.now)] } 1 (sectorPlace s sector) 0
  if n = 7 then elogWrite s1 2 (sectorPlace s sector) 0 else s1

/-- R340, R341: what a patrol read of a sector found: a corrected one is logged and its write-back scheduled, which a
later write has made stale where it has reached the sector; an uncorrectable one is marked poisoned (R360). -/
def patrolFound (s : State) (sector : Nat) (stale : Bool) (res : PatrolResult) : State :=
  match res with
  | .clean => s
  | .corrected => let s1 := logCorrection s sector; { s1 with patrols := s1.patrols ++ [⟨sector, stale⟩] }
  | .uncorrectable => { s with poison := tabPut false s.poison sector true }

/-- R340: whether a read of a checkpoint region has covered the row of an address within 24 hours. -/
def rowCovered (s : State) (pa : Nat) : Bool :=
  let t := tabGet 0 s.covered (Config.rowOf pa)
  t != 0 && decide (s.now + 1 < t + dayNs)

/-- R340 GECKO_PATROL: what a checkpoint read that doubled as a patrol found of a sector (log 83); else the scrubber reads
the sector itself, where no such read has covered its row for 24 hours. -/
def execGeckoPatrol (sector : Nat) (res : PatrolResult) (s : State) : Res :=
  .next (match placeOf s (32 * sector) with
    | none => s
    | some p =>
      if p.tier ≥ 3 ∨ (p.tier = 0 ∧ tabGet false s.selfRefresh p.slot) then s
      else match s.scrubs.find? (fun x => x.sector == sector) with
        | some x => patrolFound { s with scrubs := s.scrubs.erase x } sector x.stale res
        | none => if rowCovered s (32 * sector) then s else patrolFound s sector false res)

/-- R341 CORRECTED_WRITEBACK: the oldest scheduled write-back of a sector goes or is suppressed; the value that it
rewrites is the one that reads return already, so that memory is as before in both cases. -/
def execCorrectedWriteback (sector : Nat) (s : State) : Res :=
  .next { s with patrols := s.patrols.eraseP (fun p => p.sector == sector) }

end Sys2Proof.Machine
end

