-- ==== Sys2Proof/Machine/Pages.lean ====
section
/-! DEFINITION. Machine/Pages.lean: the Skink: MIGR and PGQ (R363 to R366), pages in motion from start to release (R354 to
R360), rings of frames (R362), hotness and promotion (R353, R361).
-/
namespace Sys2Proof.Machine

/-! ### Issue (R363) -/

/-- R363 MIGR: held through quarantine; its status is outstanding. -/
def execMigr (f : EF) (s : State) : Res :=
  .next (onceForGang s (fun g s =>
    s.onIssuer (fun x =>
      (x.await s.cx.pc .unit (gangDsts f.d) [] false true).hold s.cx.pc
        (.migr ((s.blockOf g).elim 0 (·.asid)) g.core (gangSrc s g f.a) (BitVec.ofNat 64 (gangSrc s g f.b)) none f.d x.nextId))))

/-- R363, R365 PGQ: the page word comes back by itself. -/
def execPgq (f : EF) (s : State) : Res :=
  .next (onceForGang s (fun g s =>
    s.onIssuer (fun x => x.await s.cx.pc (.pgq (gangSrc s g f.a) f.d) (gangDsts f.d) [] false true)))

/-! ### Every place where a byte's home is known (R257) -/

/-- A byte to store, moved. -/
def StCell.mapCell (f : Cell → Cell) (x : StCell) : StCell := { x with cell := f x.cell }

/-- An atomic, moved. -/
def AtomReq.mapCell (f : Cell → Cell) (a : AtomReq) : AtomReq :=
  { a with lanes := a.lanes.map (fun l => { l with cells := l.cells.map f }) }

/-- A held effect, moved. -/
def Held.mapCell (f : Cell → Cell) : Held → Held
  | .store cells lane contribLanes => .store (cells.map (StCell.mapCell f)) lane contribLanes
  | .atom a => .atom (a.mapCell f)
  | .bari va cell scope arg oid => .bari va (f cell) scope arg oid
  | .bara va cell scope dst oid => .bara va (f cell) scope dst oid
  | .barw va cell scope ph dst oid => .barw va (f cell) scope ph dst oid
  | .bart va cell scope dst oid => .bart va (f cell) scope dst oid
  | .jwait va cell dst oid => .jwait va (f cell) dst oid
  | .jstat va cell dst oid => .jstat va (f cell) dst oid
  | h => h

/-- A held item, moved. -/
def HeldItem.mapCell (f : Cell → Cell) (h : HeldItem) : HeldItem := { h with eff := h.eff.mapCell f }

/-- An outstanding result, moved. -/
def Outst.mapCell (f : Cell → Cell) (o : Outst) : Outst :=
  match o.kind with
  | .load r => { o with kind := .load { r with cells := r.cells.map f } }
  | _ => o

/-- A gang, moved. -/
def Gang.mapCell (f : Cell → Cell) (g : Gang) : Gang :=
  let held := fun (l : List HeldItem) => l.map (HeldItem.mapCell f)
  { g with
    out := g.out.map (Outst.mapCell f)
    applied := g.applied.map (Outst.mapCell f)
    relq := held g.relq
    runs := g.runs.map (fun r => { r with held := held r.held })
    issue := g.issue.map (fun r => { r with held := held r.held }) }

/-- A byte of a store buffer, moved. -/
def SbCell.mapCell (f : Cell → Cell) (x : SbCell) : SbCell := { x with cell := f x.cell }

/-- A sector that a commit covers, moved with the bytes of the commit that are there; one that it has written already stays. -/
def sectorHomes (f : Cell → Cell) (c : Commit) (x : Nat) : List Nat :=
  let here := (c.units.flatMap (fun u => u.cells.map (·.cell))).filter (fun y => sectorOf y.pa == x)
  if here.isEmpty then [x] else here.map (fun y => sectorOf (f y).pa)

/-- A block, moved. -/
def Block.mapCell (f : Cell → Cell) (b : Block) : Block :=
  { b with
    sb := b.sb.map (SbCell.mapCell f)
    sbTiles := b.sbTiles.map (fun t => { t with ver := f t.ver })
    pipeline := b.pipeline.map (fun c => { c with
      units := c.units.map (fun u => { u with cells := u.cells.map (SbCell.mapCell f), vers := u.vers.map f })
      sectors := c.sectors.flatMap (fun x => (sectorHomes f c x).eraseDups) })
    savedGangs := b.savedGangs.map (Gang.mapCell f) }

/-- The place of an element, moved. -/
def ElemPlace.mapCell (f : Cell → Cell) (p : ElemPlace) : ElemPlace := { p with scale := p.scale.map f, cells := p.cells.map f }

/-- An operation that has reached its unit, moved. -/
def UnitOp.mapCell (f : Cell → Cell) (o : UnitOp) : UnitOp := { o with item := o.item.mapCell f }

/-- The place that a cell of the L1 stands for, moved. -/
def L1Cell.move (e : L1Cell) (f : Nat → Nat) : L1Cell := { e with pa := f e.pa }

/-- Whatever names a byte by the place of its home names it anew. -/
def State.mapCells (s : State) (f : Cell → Cell) : State :=
  { s with
    gangs := s.gangs.map (Gang.mapCell f)
    blocks := s.blocks.map (Block.mapCell f)
    copies := s.copies.map (fun c => { c with
      ver := c.ver.map f
      got := c.got.map (fun x => (f x.1, x.2))
      granules := c.granules.map (fun g => { g with elems := g.elems.map (ElemPlace.mapCell f) }) })
    mats := s.mats.map (fun m => { m with places := m.places.map (ElemPlace.mapCell f) })
    bars := s.bars.map (fun o => { o with cell := f o.cell })
    barQ := s.barQ.map (UnitOp.mapCell f)
    cisQ := s.cisQ.map (UnitOp.mapCell f)
    joinQ := s.joinQ.map (UnitOp.mapCell f)
    joins := s.joins.map (fun j => { j with pages := j.pages.map (fun p => (p.1, f p.2)) }) }

/-- Whether a cell is one of a motion's page, found through the leaf that the motion changes; a byte of the frame that
another mapping found is not (R347). -/
def Motion.owns (m : Motion) (c : Cell) : Bool := m.covers c.pa && c.leaf == some m.leafPa

/-- A page's bytes are at the motion's destination from now on, for whatever found them through its leaf; what the L1s held
of the new frame goes, and so do the translations of the old one (log 44). What was there of instruction words is known of
both frames (R85). -/
def movePage (s : State) (m : Motion) : State :=
  let pa := fun (a : Nat) => if m.covers a then m.dst + (a - m.src) else a
  let s1 := s.mapCells (fun c => if m.owns c then { c with pa := pa c.pa } else c)
  let isDst := fun (a : Nat) => decide (m.dst ≤ a ∧ a < m.dst + m.size)
  { s1 with
    codeLog := s1.codeLog.map (fun v => { v with
      bytes := v.bytes ++ (v.bytes.filter (fun p => m.covers p.1)).map (fun p => (pa p.1, p.2)) })
    cores := s1.cores.map (fun k => (k.1, { k.2 with
      l1 := (k.2.l1.filter (fun e => !isDst e.pa)).map (fun e => e.move pa)
      tlb := k.2.tlb.filter (fun e => e.leafPa != m.leafPa) })) }

/-! ### Rings of frames (R362) -/

/-- R362: a ring: its base, entries, TAIL and HEAD. -/
structure Ring where
  base : Nat
  size : Nat
  tail : BitVec 32
  head : BitVec 32
  deriving DecidableEq, Repr

/-- R362, R317: a ring as its registers stand. -/
def ringOf (s : State) (dom ring : Nat) : Ring :=
  let w := fun (k : Nat) => (tabGet 0 s.rings (ringKey dom ring k)).toNat
  ⟨bitsOf (w 0) 63 12 * 4096, 2 ^ bitsOf (w 0) 11 8, BitVec.ofNat 32 (w 1), BitVec.ofNat 32 (w 2)⟩

/-- A counter of a ring set. -/
def setRing (s : State) (dom ring word : Nat) (x : BitVec 32) : State :=
  { s with rings := tabPut 0 s.rings (ringKey dom ring word) (x.setWidth 64) }

/-- R362: the frame of a free-ring entry, if the entry is good for the ring. -/
def entryFrame (s : State) (dom tier : Nat) (big : Bool) (e : Nat) : Option Nat :=
  let frame := bitsOf e 45 16 * 65536
  let size := if big then 2 ^ 21 else 2 ^ 16
  if bitsOf e 63 46 = 0 ∧ bitsOf e 15 2 = 0 ∧ bitsOf e 1 1 = 0 ∧ (bitsOf e 0 0 = 1 ↔ big = true) ∧ frame % size = 0 ∧
      rangeIn s frame size 2 ∧ (placeOf s frame).map (fun p => (p.tier, p.dom)) = some (tier, dom)
  then some frame else none

/-- R362: a frame from a free ring, for a page of a context; entries that are not good are skipped and logged, `n` at most. -/
def takeFrame (s : State) (asid dom tier : Nat) (big : Bool) : Nat → State × Option Nat
  | 0 => (s, none)
  | n + 1 =>
    let ring := 2 * tier + bitNat big
    let r := ringOf s dom ring
    if r.tail = r.head then (s, none)
    else
      let a := r.base + 8 * (r.head.toNat % r.size)
      let s1 := setRing (ownRead s skinkUnit (some asid) (physLines a 8)) dom ring 2 (r.head + 1)
      match entryFrame s dom tier big (physWord s a 8) with
      | some f => (s1, some f)
      | none => takeFrame (elogWrite s1 5 a 0) asid dom tier big n

/-- R342: whether a ring lies on a stack in self-refresh. -/
def ringAsleep (s : State) (r : Ring) : Bool := areaAsleep s r.base (8 * r.size)

/-- R362: a frame of a context's page on a domain's released ring; none while the ring is full, or on a stack in self-refresh
(R342). -/
def releaseFrame (s : State) (asid dom frame : Nat) (big bad : Bool) : Option State :=
  let r := ringOf s dom 6
  if (r.tail - r.head).toNat ≥ r.size ∨ ringAsleep s r then none
  else
    some (setRing (writePhys s skinkUnit (some asid) (r.base + 8 * (r.tail.toNat % r.size))
      (leBytes 8 (frame + 2 * bitNat bad + bitNat big))) dom 6 1 (r.tail + 1))

/-! ### The leaf (R345, R357) -/

/-- Bits of one byte of a leaf entry written with a mask. -/
def leafMask (s : State) (leafPa i : Nat) (val mask : Byte) : State :=
  ownWrite s skinkUnit none [⟨physCell (leafPa + i), val, mask⟩]

/-- R345: MST written with a bit mask. -/
def setMst (s : State) (leafPa : Nat) (x : Nat) : State := leafMask s leafPa 14 (BitVec.ofNat 8 (64 * x)) 0xC0

/-! ### Start (R354, R355, R364) -/

/-- How an attempt to start a motion ends. -/
inductive StartRes where
  | started (s : State)
  | refused (s : State) (status : Nat)
  | wait

/-- R354: the pages that one die domain's Skink moves at most at a time. -/
def motionSlots : Nat := 64

/-- R354, R364: whether the Skink never moves the page of a leaf. -/
def neverMoved (s : State) (e : BitVec 128) (size : Nat) : Bool :=
  size == 2 ^ 30 || globalAcc (entAddr e) != accelId s || ((placeOf s (globalLocal (entAddr e))).map (fun p => p.tier == 3)).getD true

/-- R364: the status that refuses a motion at once, if one does (log 45); whether a page is in motion is asked of its frame
(R354). -/
def refusal (s : State) (size tier dom : Nat) (e : BitVec 128) : Option Nat :=
  if tier = 3 then some 9
  else if neverMoved s e size then some 3
  else if s.motions.any (fun m => m.holds (globalLocal (entAddr e))) then some 8
  else if entPins e ∨ entPoi e ∨ entMst e = 2 then some 2
  else if (placeOf s (globalLocal (entAddr e))).map (fun p => (p.tier, p.dom)) = some (tier, dom) then some 1
  else none

/-- R355: whether a frame of a page is pinned, under whichever leaf entry names it. -/
def framePinned (s : State) (src size : Nat) : Bool :=
  s.pins.any (fun p => p.2 != 0 &&
    (let a := globalLocal (entAddr (BitVec.ofNat 128 (physWord s p.1 16))); decide (src ≤ a ∧ a < src + size)))

/-- R354 to R356: A MOTION STARTS, once its page has no pin and its home domain has a slot; it waits for a stack in
self-refresh that holds the leaf or the free ring (R342). -/
def startMotion (s : State) (asid leafPa base size tier dom : Nat) (who : Option (Nat × Nat)) : StartRes :=
  let e : BitVec 128 := BitVec.ofNat 128 (physWord s leafPa 16)
  if areaAsleep s leafPa 16 then .wait
  else if !entV e then .refused s 7
  else match refusal s size tier dom e with
    | some x => .refused s x
    | none =>
      let src := globalLocal (entAddr e)
      let home := (placeOf s src).elim 0 (·.dom)
      let big := size == 2 ^ 21
      if tabGet 0 s.pins leafPa ≠ 0 ∨ framePinned s src size ∨ motionSlots ≤ (s.motions.filter (fun m => m.dom == home)).length then .wait
      else
        let r := ringOf s dom (2 * tier + bitNat big)
        if ringAsleep s r then .wait
        else match takeFrame s asid dom tier big (r.tail - r.head).toNat with
        | (s0, none) => .refused s0 4
        | (s0, some f) =>
          let s1 := ownRead s0 skinkUnit (some asid) (physCells leafPa 16)
          .started (setMst { s1 with motions := s1.motions ++
            [{ src := src, dst := f, big := big, mark := 0, recopy := [], leafPa := leafPa, leaf := e, asid := asid, va := base,
               tier := tier, dom := home, stage := 0, status := 0, bad := false, requester := who, abandoned := false }] } leafPa 1)

/-- R366: a MIGR's status reaches its gang, resident or saved; one that is gone gets none. -/
def migrAnswer (s : State) (u oid status : Nat) : State :=
  onGang s u (fun s => s.modGang u (fun g => g.arrive oid (gangEffs (g.ordOf oid) (waitDst g oid) status)))

/-- R364: the leaf of a MIGR's page, found through the core's TLB, or the fault. -/
def migrLeaf (s : State) (core asid va : Nat) : Except (Nat × Nat) Leaf :=
  if va ≥ 2 ^ 57 then .error (0x12, 0)
  else match lookup s core asid va with
    | .error c => .error (c, 0)
    | .ok l =>
      if entScope l.entry ≥ 5 then .error (0x15, entScope l.entry)
      else if !entW l.entry then .error (0x11, Access.write.detail)
      else .ok l

/-- R364 MIGRATION_START: the `i`-th operation at the Cistern is a MIGR that translates, if it has not yet, and starts its
motion, is refused, or waits (log 39, 45). It stands whatever becomes of its block (R323, R366). -/
def execMigrationStart (i : Nat) (s : State) : Res :=
  .next (match s.cisQ[i]? with
    | none => s
    | some o =>
      match o.item.eff with
      | .migr asid core va ctl page dst oid =>
        let gone := { s with cisQ := s.cisQ.eraseIdx i }
        let go := fun (gone : State) (leafPa base size : Nat) =>
          let c := ctl.toNat
          let tier := if bitsOf c 63 4 = 0 then bitsOf c 1 0 else 3
          let later := bitsOf c 3 3 == 1
          match startMotion gone asid leafPa base size tier (bitsOf c 2 2) (if later then some (o.gang, oid) else none) with
          | .wait =>
            { s with cisQ := s.cisQ.set i { o with item := { o.item with eff := .migr asid core va ctl (some (leafPa, base, size)) dst oid } } }
          | .refused s1 x => migrAnswer s1 o.gang oid x
          | .started s1 => if later then s1 else migrAnswer s1 o.gang oid 0
        match page with
        | some (leafPa, base, size) => go gone leafPa base size
        | none =>
          if (tlbFind s core asid va).isNone && walkAsleep s asid va then s
          else match migrLeaf s core asid va, s.gang? o.gang with
          | .ok l, _ => go (askWalks gone core true asid [va]) l.leafPa l.base l.size
          | .error _, none => gone
          | .error (c, d), some g =>
            (deferFault gone g.uid o.item.run (faultFor s g c d o.item.pc (BitVec.ofNat 64 va) 0) o.item.lanes).modGang g.uid
              (fun g => g.arrive oid [])
      | _ => s)

/-! ### Copying (R356, R359, R360) -/

/-- The number of copy units of a page. -/
def Motion.units (m : Motion) : Nat := m.size / 256

/-- Change of the motion of a source frame. -/
def State.modMotion (s : State) (src : Nat) (f : Motion → Motion) : State :=
  { s with motions := s.motions.map (fun m => if m.src = src then f m else m) }

/-- R357 step 4, R359, R360: the frame that a motion gives up goes to the released ring, when there is room; that ends the
motion, and its status is delivered. -/
def finishMotion (s : State) (src : Nat) : State :=
  match s.motions.find? (fun m => m.src == src && m.stage == 2) with
  | none => s
  | some m =>
    match releaseFrame s m.asid m.dom (if m.status = 0 then m.src else m.dst) m.big m.bad with
    | none => s
    | some s1 =>
      let s2 := { s1 with motions := s1.motions.filter (fun x => x.src != src) }
      match m.requester with
      | none => s2
      | some (u, oid) => migrAnswer s2 u oid m.status

/-- R359, R360: the record of a motion that met an error. -/
def motionFault (s : State) (m : Motion) (cause detail : Nat) : FaultReq :=
  { asid := m.asid, cause := cause, detail := detail, pc := 0, addr := BitVec.ofNat 64 m.va, last := 0, time := s.now, lanes := 0,
    commits := 0, block := 0xFFFFFFFF, launch := 0, gang := 0, core := 0, deferred := false, replayable := false,
    forced := false, waited := false, guid := none, buid := none, op := none, inert := true, host := false }

/-- R360: a page becomes poisoned; whatever knows its bytes knows that, and no L1 serves them any more. -/
def poisonPage (s : State) (m : Motion) : State :=
  let s1 := leafMask s m.leafPa 14 0x20 0xE0
  let s2 := s1.mapCells (fun c => if m.owns c then { c with poi := true } else c)
  { s2 with cores := s2.cores.map (fun k => (k.1, { k.2 with
      tlb := k.2.tlb.filter (fun e => e.leafPa != m.leafPa)
      l1 := k.2.l1.filter (fun e => !(m.covers e.pa)) })) }

/-- R360: an error at the source. -/
def sourceError (s : State) (m : Motion) : State :=
  finishMotion ((raiseFault (poisonPage s m) (motionFault s m 0x17 0)).modMotion m.src
    (fun m => { m with stage := 2, status := 6 })) m.src

/-- R359: an error at the destination. -/
def destinationError (s : State) (m : Motion) : State :=
  finishMotion ((raiseFault (setMst s m.leafPa 2) (motionFault s m 0x18 m.tier)).modMotion m.src
    (fun m => { m with stage := 2, status := 5, bad := true })) m.src

/-- R336, R339: a request of the Skink for a line: requester 64, class 3 of the page's context (log 99). -/
def skinkAsk (s : State) (asid pa : Nat) : State :=
  match placeOf s pa with
  | some p => askChannel s p (Cell.serve skinkUnit (serviceOf s asid 3) (physCell pa))
  | none => s

/-- The requests of one copy unit: its lines read at the source and written at the destination. -/
def unitAsks (s : State) (m : Motion) (u : Nat) : State :=
  [m.src, m.src + 128, m.dst, m.dst + 128].foldl (fun s a => skinkAsk s m.asid (a + 256 * u)) s

/-- R356, R367: one copy unit read at the source and written at the destination, under the page's own view. -/
def copyUnit (s0 : State) (m : Motion) (u : Nat) : State :=
  let view := pageView s0 m.asid m.leaf
  let a := unitAsks s0 m u
  let s := if view = 0 then a else keepStored a [lineOf (m.dst + 256 * u), lineOf (m.dst + 256 * u) + 1]
  let s1 := (List.range 256).foldl (fun s i =>
    let o := 256 * u + i
    putByte s view (m.dst + o) (viewByte s view (m.src + o)) 0xFF) s
  clearPoison s1 ((List.range 8).map (fun i => (m.dst + 256 * u) / 32 + i))

/-- The unit to copy next: the one at the watermark, else a second copy. -/
def Motion.next (m : Motion) : Option Nat := if m.mark < m.units then some m.mark else m.recopy.head?

/-- Whether a sector of a source unit is marked, or its port's link is down. -/
def sourceBad (s : State) (m : Motion) (u : Nat) : Bool :=
  linkDown s m.src || (List.range 8).any (fun i => tabGet false s.poison ((m.src + 256 * u) / 32 + i))

/-- R342: whether a frame or the leaf of a motion lies on a stack in self-refresh. -/
def motionAsleep (s : State) (m : Motion) : Bool := stackAsleep s m.src || stackAsleep s m.dst || areaAsleep s m.leafPa 16

/-- R359: whether a motion's destination has failed: behind a dead link, at a forwarded write, or at a read that it served. -/
def destinationDead (s : State) (m : Motion) : Bool := m.bad || linkDown s m.dst

/-- R356 MIGRATION_COPY_UNIT: the Skink copies one unit; `err` is an uncorrectable error that it meets; one at the
destination may also be that of a forwarded write or a read, once every unit is copied (R359). A stack in self-refresh keeps
the unit until its exit (R342). -/
def execMigrationCopyUnit (src : Nat) (err : CopyErr) (s : State) : Res :=
  .next (match s.motions.find? (fun m => m.src == src && m.stage == 0 && !m.abandoned) with
    | none => s
    | some m =>
      if motionAsleep s m then s
      else if err = .destination || destinationDead s m then destinationError s m
      else match m.next with
      | none => s
      | some u =>
        if err = .source ∨ sourceBad s m u then sourceError s m
        else (copyUnit s m u).modMotion src (fun m =>
          if u = m.mark then { m with mark := m.mark + 1 } else { m with recopy := m.recopy.filter (· != u) }))

/-! ### Invalidation (R350, R351) -/

/-- Whether an invalidation covers a page of a context that holds the address. -/
def Inval.covers (k : Inval) (asid base size : Nat) : Bool :=
  match k.kind with
  | .page => k.asid == asid && decide (base ≤ k.va ∧ k.va < base + size)
  | .asid => k.asid == asid
  | .all => true

/-- Whether an engine's byte lies in a page that an invalidation covers. -/
def Inval.uses (k : Inval) (c : Cell) : Bool := k.covers c.asid (c.va / 2 ^ c.lg * 2 ^ c.lg) (2 ^ c.lg)

/-- R234: whether a copy request holds the translations of its walk, of local pages and of other packages'. -/
def CopyOp.holds (c : CopyOp) : Bool :=
  match c.phase with
  | .moving | .landed | .failed | .following => true
  | .fetched | .waitReply | .gone => false

/-- R234: whether a command of the array holds the translations of its walk. -/
def MatOp.holds (m : MatOp) : Bool := m.walked && !m.waitReply

/-- R234, R351: the engine requests with a translation of their walk that an invalidation covers. -/
def coveredOps (s : State) (k : Inval) : List Nat :=
  (s.copies.filter (fun c => c.holds && c.granules.any (fun g => g.elems.any (fun e => e.all.any k.uses)))).map (·.id) ++
    (s.mats.filter (fun m => m.holds && m.places.any (fun e => e.all.any k.uses))).map (·.id)

/-- R351, R399: the packages to which an invalidation goes. -/
def holdersFor (s : State) (k : Inval) : List Nat :=
  ((s.holders.filter (fun h => k.kind == .all || h.1 == k.asid)).map (·.2)).eraseDups

/-- R351: the first requested invalidation begins: the cores drop what matches and acknowledge, the holders are told. -/
def beginInval (s : State) : State :=
  match s.invals with
  | [] => s
  | k :: rest =>
    let targets := holdersFor s k
    let s1 := { s with
      invals := { k with holders := targets, ops := coveredOps s k } :: rest
      cores := s.cores.map (fun c => (c.1, { c.2 with tlb := c.2.tlb.filter (fun e => !(k.covers e.asid e.base e.size)) }))
      holders := if k.kind = .page then s.holders else s.holders.filter (fun h => k.kind != .all && h.1 != k.asid) }
    targets.foldl (fun s a => (sendRemote s (.inval a) a k.asid).1) s1

/-- R350: a request reaches the invalidation arbiter. -/
def requestInval (s : State) (k : Inval) : State :=
  let s1 := { s with invals := s.invals ++ [k] }
  if s.invals.isEmpty then beginInval s1 else s1

/-- R350: INVADDR and INVCTL written with GO. -/
def invByReg (s : State) (kind : InvKind) (asid va : Nat) : State :=
  let code := match kind with | .page => 0 | .asid => 1 | .all => 2
  requestInval { s with invCtl := BitVec.ofNat 64 (asid % 2 ^ 11 * 2 ^ 31 + code * 2 + 1) }
    ⟨kind, asid % 2 ^ 11, va % 2 ^ 57, [], [], none, true, false⟩

/-- R350 INVALIDATE_PAGE: INVADDR and INVCTL written for one page. -/
def execInvalidatePage (asid va : Nat) (s : State) : Res :=
  .next (invByReg { s with invAddr := BitVec.ofNat 64 (va % 2 ^ 57) } .page asid va)

/-- R350 INVALIDATE_ASID. -/
def execInvalidateAsid (asid : Nat) (s : State) : Res := .next (invByReg s .asid asid s.invAddr.toNat)

/-- R350 INVALIDATE_ALL: the ASID field stays as it was. -/
def execInvalidateAll (s : State) : Res := .next (invByReg s .all (bitsOf s.invCtl.toNat 41 31) s.invAddr.toNat)

/-- R351: whether an engine request goes on. -/
def opPinned (s : State) (id : Nat) : Bool :=
  s.copies.any (fun c => c.id == id && c.holds) || s.mats.any (fun m => m.id == id && m.holds)

/-- R369: a key whose destroy goes on is destroyed; one that has been installed since is not touched. -/
def destroyed (keys : List (Nat × KeySt)) (asid : Nat) : List (Nat × KeySt) :=
  let k := tabGet KeySt.reset keys asid
  if k.kst = 3 then tabPut KeySt.reset keys asid { k with kst := 2 } else keys

/-- R351 INVALIDATION_COMPLETE: every holder has acknowledged and every covered request is over; whoever asked goes on,
and the next request begins. -/
def execInvalidationComplete (s : State) : Res :=
  .next (match s.invals with
    | [] => s
    | k :: rest =>
      if !k.holders.isEmpty || k.ops.any (opPinned s) then s
      else
        let s1 := { s with
          invals := rest
          invCtl := if k.sys ∧ !(rest.any (·.sys)) then s.invCtl &&& ~~~1#64 else s.invCtl
          keys := if k.key && !(rest.any (fun x => x.key && x.asid == k.asid)) then destroyed s.keys k.asid else s.keys }
        let s2 := match k.motion with
          | none => s1
          | some src => s1.modMotion src (fun m => if m.stage = 1 then { m with stage := 2 } else m)
        beginInval s2)

/-! ### End (R357, R358) -/

/-- R358, R369: a motion is abandoned: the leaf stays as it is, with MST clear. -/
def abandonMotion (s : State) (src : Nat) : State :=
  match s.motions.find? (fun m => m.src == src && m.stage == 0) with
  | none => s
  | some m =>
    finishMotion ((setMst s m.leafPa 0).modMotion src (fun m => { m with stage := 2, status := 7, abandoned := true })) src

/-- R357 step 1: the first word of the leaf with the destination's address. -/
def movedWord (m : Motion) : Nat :=
  let low := bitsOf m.leaf.toNat 63 0
  low - bitsOf low 55 9 * 512 + (globalAcc (entAddr m.leaf) * 2 ^ 46 + m.dst) % 2 ^ 56

/-- R357 steps 1 to 3: the leaf is swapped, MST cleared and the page's translations invalidated. -/
def swapLeaf (s : State) (m : Motion) : State :=
  let s0 := ownRead s skinkUnit (some m.asid) (physLines m.leafPa 8)
  let s1 := setMst (writePhys s0 skinkUnit (some m.asid) m.leafPa (leBytes 8 (movedWord m))) m.leafPa 0
  let s2 := (movePage s1 m).modMotion m.src (fun m => { m with stage := 1 })
  requestInval s2 ⟨.page, m.asid, m.va, [], [], some m.src, false, false⟩

/-- R357 MIGRATION_END: a page whose every unit is at the destination is swapped, or its motion abandoned where software
has rewritten the leaf (R358); a frame that waits for the released ring goes there when it has room. -/
def execMigrationEnd (src : Nat) (s : State) : Res :=
  .next (match s.motions.find? (fun m => m.src == src) with
    | none => s
    | some m =>
      if m.stage = 0 then
        (if m.next.isSome || motionAsleep s m then s
        else if destinationDead s m then destinationError s m
        else if physWord s m.leafPa 8 = bitsOf m.leaf.toNat 63 0 then swapLeaf s m
        else abandonMotion s src)
      else finishMotion s src)

/-! ### Hotness and promotion (R353, R361) -/

/-- The die domain, or port, of the page of a leaf entry at home; a page of the register window is homed in none (R348). -/
def leafDom (s : State) (leafPa : Nat) : Option Nat :=
  let e : BitVec 128 := BitVec.ofNat 128 (physWord s leafPa 16)
  if globalAcc (entAddr e) = accelId s then
    ((placeOf s (globalLocal (entAddr e))).filter (fun p => p.tier != 3)).map (·.dom)
  else none

/-- R346, R353: the leaf entries present below a table, as a walk would accept them. -/
def tableLeaves (s : State) (table : Nat) : List Level → List Nat
  | [] => []
  | l :: rest =>
    if tableOk s table l.width then
      (List.range (2 ^ l.width)).flatMap (fun i =>
        let pa := globalLocal table + 16 * i
        let e : BitVec 128 := BitVec.ofNat 128 (physWord s pa 16)
        if !entV e then []
        else if l.num = 0 ∨ entLeaf e then
          (if l.num ≥ 3 ∨ !leafRsvZero e ∨ !leafAddrOk s e (2 ^ l.lo) then [] else [pa])
        else if nodeRsvZero e then tableLeaves s (entAddr e) rest
        else [])
    else []

/-- R353: the leaf entries present in the directories of the package's contexts. -/
def presentLeaves (s : State) : List Nat :=
  (s.roots.flatMap (fun r => if r.2.getLsbD 0 then tableLeaves s (bitsOf r.2.toNat 55 13 * 8192) levels else [])).eraseDups

/-- R353: one leaf's counter halved, and written into HOT. -/
def halveHot (s : State) (leafPa : Nat) : State :=
  let h := tabGet 0 s.hot leafPa / 2
  leafMask { s with hot := tabPut 0 s.hot leafPa h } leafPa 15 (BitVec.ofNat 8 h) 0xFF

/-- R353 HOTNESS_HALVING: every counter of the pages homed in a domain is halved and written into its leaf; a candidate
that has not started is dropped (R361). -/
def execHotnessHalving (dom : Nat) (s : State) : Res :=
  let s1 := ((presentLeaves s).filter (fun l => leafDom s l == some dom)).foldl halveHot s
  .next { s1 with promos := s1.promos.filter (fun p => p.dom != dom) }

/-- R361: what a candidate comes to: its motion to the domain's HBM4E starts, or is refused for now. -/
def promote (s : State) (p : Promo) : StartRes :=
  if walkAsleep s p.asid p.va then .wait
  else match walk s p.asid p.va with
  | .error _ => .wait
  | .ok l => startMotion (askWalks s skinkUnit false p.asid [p.va]) p.asid l.leafPa l.base l.size 0 p.dom none

/-- R361, R362: the first of some candidates that can start does; what a refused one has found on its free ring stays
skipped. -/
def promoteFirst (s : State) : List Promo → State
  | [] => s
  | p :: rest =>
    match promote s p with
    | .started s1 => { s1 with promos := s1.promos.erase p }
    | .refused s1 _ => promoteFirst s1 rest
    | .wait => promoteFirst s rest

/-- R361 PROMOTION_START: the first candidate of the domain that can start does. -/
def execPromotionStart (dom : Nat) (s : State) : Res := .next (promoteFirst s (s.promos.filter (fun p => p.dom == dom)))

/-! ### Keys (R368, R369) -/

/-- R368 KEY_INSTALL: a key is installed unless one is live or being destroyed; then the attempt is logged. -/
def execKeyInstall (asid : Nat) (keys : BitVec 512) (s : State) : Res :=
  let k := tabGet KeySt.reset s.keys asid
  .next (if 2048 ≤ asid then s
    else if k.kst = 1 ∨ k.kst = 3 then elogWrite s 6 0 0
    else { s with
      keys := tabPut KeySt.reset s.keys asid ⟨1, s.nextKey, keys⟩
      keyBits := tabPut 0 s.keyBits s.nextKey keys
      nextKey := s.nextKey + 1 })

/-- R369: what home has of a line under a key when that is dropped: its present value, if that was written back, or by free
choice one that it stored before (log 4). -/
def pickStored (s : State) : List (List Byte) → Option (List Byte) × State
  | [] => (none, s)
  | x :: rest =>
    let c := s.choose
    if c.1 then pickStored c.2 rest else (some x, c.2)

/-- The bytes that a home stores of a line are some bytes as they are. -/
def storeRaw (s : State) (line : Nat) (bs : List Byte) : State :=
  { s with
    mem := (placed (128 * line) bs).foldl (fun m p => tabPut 0 m p.1 p.2) s.mem
    lineKey := tabPut 0 s.lineKey line 0 }

/-- R369 step 3: one line under a key is dropped: home keeps the bytes last written back, as it stores them. -/
def dropLine (s : State) (line : Nat) : State :=
  let keep := s.choose
  let r : Option (List Byte) × State := if keep.1 then (none, keep.2) else pickStored keep.2 (tabGet [] s.dirty line)
  let s1 := match r.1 with
    | none => r.2
    | some bs => storeRaw r.2 line bs
  { s1 with dirty := tabPut [] s1.dirty line [] }

/-- R369 step 2: the store buffer entries of an ASID dropped, those of its commits under way too (log 43). -/
def dropStores (s : State) (asid : Nat) : State :=
  { s with blocks := s.blocks.map (fun b =>
      if b.asid = asid then
        { b with sb := [], sbTiles := [], scads := [], pipeline := b.pipeline.map (fun c => { c with units := [], sectors := [] }) }
      else b) }

/-- R369 KEY_DESTROY: the context is terminated, its stores and cached lines dropped and its motions abandoned; its walks
fail from now on, and KST is 2 once its translations are invalidated. -/
def execKeyDestroy (asid : Nat) (s : State) : Res :=
  let k := tabGet KeySt.reset s.keys asid
  .next (if 2048 ≤ asid ∨ k.kst = 3 then s
    else
      let s1 := if ctxLive s asid then terminate s asid else s
      let s2 := dropStores s1 asid
      let lines := (s2.dirty.filter (fun d => lineKeyOf s2 d.1 == k.num && k.num != 0)).map (·.1)
      let s3 := lines.foldl dropLine s2
      let s4 := ((s3.motions.filter (fun m => m.asid == asid)).map (·.src)).foldl abandonMotion s3
      requestInval { s4 with keys := tabPut KeySt.reset s4.keys asid { k with kst := if k.kst = 2 then 2 else 3 } }
        ⟨.asid, asid, 0, [], [], none, false, true⟩)

end Sys2Proof.Machine
end

