-- ==== Sys2Proof/Machine/Xmss.lean ====
section
/-! DEFINITION. Machine/Xmss.lean: XMSS-SHAKE256_20_256 (R392 to R394): keys, signatures and their verification. The manual
names the parameter set, RFC 8391 and NIST SP 800-208; the algorithm is theirs (PRESUMED, log 5). Strings are byte lists, numbers
in them stand most significant byte first.
-/
namespace Sys2Proof.Machine

/-- A number as `n` bytes, most significant first. -/
def beBytes (n x : Nat) : List Byte := (leBytes n x).reverse

/-- SHAKE256 with 32 bytes of output; the function itself is open here (log 5). -/
def shake (m : List Byte) : List Byte := leBytes 32 (Config.shake256 m).toNat

/-- One of the four keyed hashes: F (0), H (1), H_msg (2), PRF (3). -/
def keyedHash (which : Nat) (key m : List Byte) : List Byte := shake (beBytes 32 which ++ key ++ m)

/-- An address of layer 0 and tree 0: its type, three words of the type's own, and the word that picks a key or a mask. -/
def hashAddr (type a b c pick : Nat) : List Byte :=
  beBytes 4 0 ++ beBytes 8 0 ++ beBytes 4 type ++ beBytes 4 a ++ beBytes 4 b ++ beBytes 4 c ++ beBytes 4 pick

/-- Strings combined bit by bit. -/
def xorBytes (a b : List Byte) : List Byte := List.zipWith (· ^^^ ·) a b

/-- Two nodes hashed to their parent, at an address, under the public seed. -/
def randHash (pub : List Byte) (addr : Nat → List Byte) (l r : List Byte) : List Byte :=
  keyedHash 1 (keyedHash 3 pub (addr 0))
    (xorBytes l (keyedHash 3 pub (addr 1)) ++ xorBytes r (keyedHash 3 pub (addr 2)))

/-- `n` steps of the chain `i` of a leaf, from step `start` on. -/
def wotsChain (pub : List Byte) (leaf i : Nat) (x : List Byte) (start : Nat) : Nat → List Byte
  | 0 => x
  | n + 1 =>
    let y := wotsChain pub leaf i x start n
    let addr := hashAddr 0 leaf i (start + n)
    keyedHash 0 (keyedHash 3 pub (addr 0)) (xorBytes y (keyedHash 3 pub (addr 1)))

/-- The base-16 digits of a string, most significant first. -/
def nibbles (m : List Byte) : List Nat := m.flatMap (fun b => [b.toNat / 16, b.toNat % 16])

/-- The 67 digits that a one-time signature shows of a 32-byte string: its own, and three of their checksum. -/
def wotsDigits (m : List Byte) : List Nat :=
  let ds := (nibbles m).take 64
  ds ++ (nibbles (beBytes 2 (16 * ds.foldl (fun a d => a + (15 - d)) 0))).take 3

/-- The chains of a one-time signature. -/
def wotsLen : Nat := 67

/-- The secret start of a chain. -/
def wotsSecret (seed : BitVec 768) (leaf i : Nat) : List Byte := leBytes 32 (Config.wotsSecret seed leaf i).toNat

/-- One level of the tree over a leaf's chains: pairs hashed, an odd one kept. -/
def lTreeLevel (pub : List Byte) (leaf height : Nat) : Nat → List (List Byte) → List (List Byte)
  | k, a :: b :: rest => randHash pub (hashAddr 1 leaf height k) a b :: lTreeLevel pub leaf height (k + 1) rest
  | _, l => l

/-- A leaf of the tree from the ends of its chains: seven levels make one node of 67. -/
def lTree (pub : List Byte) (leaf : Nat) (ends : List (List Byte)) : List Byte :=
  ((List.range 7).foldl (fun l h => lTreeLevel pub leaf h 0 l) ends).headD []

/-- The public seed of a seed's key pair. -/
def xmssPubSeed (seed : BitVec 768) : List Byte := leBytes 32 (Config.xmssPubSeed seed).toNat

/-- A node of the tree of a seed's key pair. -/
def xmssNode (seed : BitVec 768) : Nat → Nat → List Byte
  | 0, i => lTree (xmssPubSeed seed) i ((List.range wotsLen).map (fun k => wotsChain (xmssPubSeed seed) i k (wotsSecret seed i k) 0 15))
  | h + 1, i => randHash (xmssPubSeed seed) (hashAddr 2 0 h i) (xmssNode seed h (2 * i)) (xmssNode seed h (2 * i + 1))

/-- The height of the tree. -/
def xmssHeight : Nat := 20

/-- The root of a seed's key pair. -/
def xmssRoot (seed : BitVec 768) : List Byte := xmssNode seed xmssHeight 0

/-- R394: the public key of a seed: the identifier of XMSS-SHAKE256_20_256, then the root and the public seed. -/
def xmssPublicOf (seed : BitVec 768) : List Byte := beBytes 4 0x12 ++ xmssRoot seed ++ xmssPubSeed seed

/-- The digest of a message that a leaf's one-time key signs. -/
def xmssDigest (root r : List Byte) (leaf : Nat) (msg : List Byte) : List Byte := keyedHash 2 (r ++ root ++ beBytes 32 leaf) msg

/-- R394: a signature: the leaf's index, the randomizer, the one-time signature, the leaf's authentication path. -/
def xmssSigOf (seed : BitVec 768) (leaf : Nat) (msg : List Byte) : List Byte :=
  let pub := xmssPubSeed seed
  let r := keyedHash 3 (leBytes 32 (Config.xmssPrfKey seed).toNat) (beBytes 32 leaf)
  let ds := wotsDigits (xmssDigest (xmssRoot seed) r leaf msg)
  beBytes 4 leaf ++ r ++ ds.zipIdx.flatMap (fun d => wotsChain pub leaf d.2 (wotsSecret seed leaf d.2) 0 d.1) ++
    (List.range xmssHeight).flatMap (fun h => xmssNode seed h (Nat.xor (leaf / 2 ^ h) 1))

/-- A string cut into `n` nodes of 32 bytes. -/
def nodesOf (bs : List Byte) (n : Nat) : List (List Byte) := (List.range n).map (fun i => (bs.drop (32 * i)).take 32)

/-- The root that a leaf and its authentication path lead to. -/
def pathRoot (pub : List Byte) (leaf : Nat) (node : List Byte) (path : List (List Byte)) : List Byte :=
  path.zipIdx.foldl (fun x p =>
    let addr := hashAddr 2 0 p.2 (leaf / 2 ^ (p.2 + 1))
    if leaf / 2 ^ p.2 % 2 = 0 then randHash pub addr x p.1 else randHash pub addr p.1 x) node

/-- R394: whether a signature of a message verifies under a public key. -/
def xmssVerify (key msg sig : List Byte) : Bool :=
  let root := (key.drop 4).take 32
  let pub := key.drop 36
  let leaf := leValue (sig.take 4).reverse
  let r := (sig.drop 4).take 32
  let ds := wotsDigits (xmssDigest root r leaf msg)
  let ends := ((nodesOf (sig.drop 36) wotsLen).zip ds).zipIdx.map (fun p => wotsChain pub leaf p.2 p.1.1 p.1.2 (15 - p.1.2))
  pathRoot pub leaf (lTree pub leaf ends) (nodesOf (sig.drop (36 + 32 * wotsLen)) xmssHeight) == root

end Sys2Proof.Machine
end

