-- ==== Sys2Proof/Machine/Manage.lean ====
section
/-! DEFINITION. Machine/Manage.lean: the host link, boot, attestation, thermal events, management commands (R385 to R395,
R209) and what a write of the register window does (R386).
-/
namespace Sys2Proof.Machine

/-! ### Notices (R389) -/

/-- R389 NOTICE_CLEAR. -/
def execNoticeClear (bits : BitVec 64) (s : State) : Res := .next { s with notice := s.notice &&& ~~~(bits.setWidth 5) }

/-! ### Management commands (R390, R209) -/

/-- R390: GO. -/
def mcmdBusy (s : State) : Bool := s.mcmd.getLsbD 0

/-- R390: a command over: GO reads 0, MDONE is set. -/
def mcmdOver (s : State) : State := setNotice { s with mcmd := s.mcmd &&& ~~~1#64 } 4

/-- R390 OP 1: every placed block of the context is a victim, and its queues dispatch nothing. -/
def mcmdPreempt (s : State) (asid bound : Nat) : State :=
  if !(ctxLive s asid) || tabGet false s.paused asid then mcmdOver s
  else
    (preempt { s with paused := tabPut false s.paused asid true }
      (s.blocks.filter (fun b => b.asid == asid && b.phase == .running)) (1000 * bound)).s

/-- R390 OP 2. -/
def mcmdResume (s : State) (asid : Nat) : State := { s with paused := tabPut false s.paused asid false }

/-- R209: the partitions that fail the Chorus pass of a core reset: free choices, one for each (log 49). A partition that
fails leaves no entry in the error log: R209 does not say that R205's are written (DESIGN CHOICE, log 93). -/
def chorusPass (s : State) : BitVec 16 × State :=
  (List.range 16).foldl (fun (a : BitVec 16 × State) p =>
    let (bad, s1) := a.2.choose
    (if bad then a.1 ||| (1#16 <<< p) else a.1, s1)) (0, s)

/-- R209, R11 OP 3: every resident block of the core is relaunched or killed, and the core begins anew; partitions that
the configuration disables or that fail the pass are fenced. -/
def mcmdReset (s : State) (core : Nat) : State :=
  let s1 := evictBlocks s (s.blocks.filter (fun b => b.resident && b.cores.contains core)) 0x26 16
  let (bad, s2) := chorusPass s1
  s2.modCore core (fun c => { CoreSt.reset with
    fenced := c.off ||| bad, off := c.off, disabled := c.disabled
    parts := List.replicate 16 { Part.reset with chorus := List.replicate 8 s.cycle } })

/-- R390: MCMD written with GO: the command begins. -/
def mcmdStart (s : State) (v : W64) : State :=
  let s1 := { s with mcmd := v }
  let asid := bitsOf v.toNat 47 37
  match bitsOf v.toNat 2 1 with
  | 1 => mcmdPreempt s1 asid (bitsOf v.toNat 63 48)
  | 2 => mcmdResume s1 asid
  | 3 => mcmdReset s1 (bitsOf v.toNat 36 31)
  | _ => s1

/-- R390: MCMD's fields written; nothing while a command goes on. -/
def mcmdWrite (s : State) (v : W64) : State :=
  let x : W64 := v &&& 0xFFFFFFFF80000007
  if mcmdBusy s then s else if x.getLsbD 0 then mcmdStart s x else { s with mcmd := x }

/-- R390 MCMD_PREEMPT_CONTEXT: OP 1. -/
def execMcmdPreemptContext (asid bound : Nat) (s : State) : Res :=
  .next (mcmdWrite s (BitVec.ofNat 64 (bound % 2 ^ 16 * 2 ^ 48 + asid % 2 ^ 11 * 2 ^ 37 + 3)))

/-- R390 MCMD_RESUME_CONTEXT: OP 2. -/
def execMcmdResumeContext (asid : Nat) (s : State) : Res :=
  .next (mcmdWrite s (BitVec.ofNat 64 (asid % 2 ^ 11 * 2 ^ 37 + 5)))

/-- R390, R209 MCMD_RESET_CORE: OP 3. -/
def execMcmdResetCore (core : Nat) (s : State) : Res := .next (mcmdWrite s (BitVec.ofNat 64 (core % 2 ^ 6 * 2 ^ 31 + 7)))

/-- R390: whether a block of a pre-empted context is still to be saved or drained. -/
def stillVictim (b : Block) : Bool :=
  b.phase == .preempting || (b.drain && (b.phase == .running || b.phase == .ending))

/-- R390 MCMD_DONE: blocks that can be saved are; the command is over once every victim is flushed, saved or drained. -/
def execMcmdDone (s : State) : Res :=
  .next (if !(mcmdBusy s) then s
    else
      let s1 := finishSaves s
      let v := s1.mcmd.toNat
      if bitsOf v 2 1 = 1 ∧ s1.blocks.any (fun b => b.asid == bitsOf v 47 37 && stillVictim b) then s1 else mcmdOver s1)

/-! ### Attestation (R393, R394) -/

/-- R393: the signatures that a key may make. -/
def leafLimit : Nat := 2 ^ 20

/-- R394 steps 2 and 3: the nonce is captured and LEAF advanced in flash, where a leaf is left and the write succeeds, which
is a free choice (log 50). -/
def execAttestationRequest (s : State) : Res :=
  .next (if s.att.go then s
    else
      let (failed, s1) := s.choose
      let pend := if leafLimit ≤ s.att.leaf then 2 else if failed then 1 else 0
      { s1 with att := { s1.att with
          go := true, pend := pend, captured := s.att.nonce, units := BitVec.ofNat 64 (unitsWord s)
          leaf := if pend = 0 then s.att.leaf + 1 else s.att.leaf } })

/-- R394: the first 128 bytes of a report. -/
def reportHead (s : State) : List Byte :=
  let a := s.att
  a.captured ++ leBytes 32 a.digest.toNat ++ leBytes 4 (bitsOf s.bootstat.toNat 63 32) ++
    leBytes 4 (if a.pend = 0 then a.leaf - 1 else 0xFFFFFFFF) ++ leBytes 8 a.units.toNat ++ leBytes 4 a.pend ++ leBytes 44 0

/-- R393, R394: the device's signature of the first bytes of a report. -/
def xmssSig (leaf : Nat) (head : List Byte) : List Byte := xmssSigOf Config.deviceSeed leaf head

/-- R393, R394: ATTPUB: the public key of the pair that signs. -/
def attPublic : List Byte := xmssPublicOf Config.deviceSeed

/-- R394 steps 3 and 4, ATTESTATION_REPORT_DONE: the report stands in ATTREP, signed if a leaf was taken; STATUS is set and
GO cleared. -/
def execAttestationReportDone (s : State) : Res :=
  .next (if !s.att.go then s
    else
      let head := reportHead s
      let sig := if s.att.pend = 0 then xmssSig (s.att.leaf - 1) head else leBytes 2820 0
      { s with att := { s.att with report := head ++ sig, status := s.att.pend, go := false } })

/-! ### Boot (R392) -/

/-- R392 step 4: the disabled units applied. -/
def applyUnits (cfg : BootConfig) (s : State) : State :=
  let s1 := cfg.disabledCores.foldl (fun s c => if c < 64 then s.modCore c (fun k => { k with disabled := true }) else s) s
  cfg.disabledParts.foldl (fun s p =>
    if p.1 < 64 then s.modCore p.1 (fun k => { k with fenced := k.fenced ||| (1#16 <<< p.2), off := k.off ||| (1#16 <<< p.2) })
    else s) s1

/-- R13, R348: 2 TB. -/
def cxlLimit : Nat := 2000000000000

/-- R392 step 4: the configuration record applied. -/
def applyConfig (cfg : BootConfig) (s : State) : State :=
  { applyUnits cfg s with
    chans := min 256 cfg.channels
    stations := cfg.offStations.foldl (fun m i => m &&& ~~~(1#16 <<< i)) s.stations
    chorusSigs := (List.range 8).map (fun i => cfg.signatures.getD i 0)
    therm := { s.therm with limit := cfg.powerLimit }
    att := { s.att with digest := cfg.digest } }

/-- R392 step 5: the memories trained: what they find unusable is gone (R388), and the expanders' capacities are known. -/
def trainMemory (cfg : BootConfig) (s : State) : State :=
  { s with
    chans := s.chans - cfg.badChannels
    cxlBytes := [0, 1].map (fun i => min cxlLimit (cfg.cxlBytes.getD i 0)) }

/-- R392 step 5: a full Chorus pass on every core: the partitions that fail it are fenced (R209). -/
def chorusAll (s : State) : State :=
  (List.range 64).foldl (fun s c =>
    let (bad, s1) := chorusPass s
    s1.modCore c (fun k => { k with fenced := k.fenced ||| bad })) s

/-- R392, R393: the package as power comes: everything as reset leaves it but what replay-protected flash holds, which
never goes back. The schedule and the free choices are the model's own and go on (log 51). -/
def powerOn (cfg : BootConfig) (s : State) : State :=
  { State.reset with
    sched := s.sched, focus := s.focus, free := s.free
    att := { State.reset.att with
      leaf := max s.att.leaf (min leafLimit cfg.leaf)
      rollback := if s.att.rollback ≤ cfg.rollback then cfg.rollback else s.att.rollback } }

/-- R392: the step of the boot sequence that fails, 0 for none: a record older than the anti-rollback counter fails step 3. -/
def failingStep (cfg : BootConfig) (s : State) : Nat :=
  let f := cfg.failStep.val
  if (f = 0 ∨ 3 < f) ∧ cfg.version < s.att.rollback then 3 else f

/-- R392 BOOT_SEQUENCE: power is good: the steps are done in order; one that fails stops the sequence and is reported. -/
def execBootSequence (cfg : BootConfig) (s : State) : Res :=
  let s0 := powerOn cfg s
  let f := failingStep cfg s0
  let s1 := if f = 1 then s0 else { s0 with att := { s0.att with pub := attPublic } }
  let s2 := if f = 0 ∨ f = 5 then applyConfig cfg s1 else s1
  let s3 := if f = 0 then chorusAll (trainMemory cfg s2) else s2
  let version := if f = 0 ∨ f = 5 then cfg.version.toNat * 2 ^ 32 else 0
  .next { s3 with bootstat := BitVec.ofNat 64 (version + f * 16 + (if f = 0 then 1 else 0)) }

/-! ### Power and temperature (R395) -/

/-- R395: a thermal limit crossed: a notice and an entry with the temperature (log 42). -/
def thermalNotice (s : State) (t : Nat) : State := setNotice (elogWrite s 7 0 t) 2

/-- R395: at 115 °C the package stops: nothing further issues or commits, and nothing that has not taken effect does. -/
def shutDown (s : State) : State :=
  if s.therm.tdie < 115 then s else { s with regQ := [], therm := { s.therm with shutdown := true } }

/-- R395 CLOCK_STEP: the averages of 10 ms are taken; over the limit the clock steps down, below it back up. -/
def execClockStep (power tdie thbm : Nat) (s : State) : Res :=
  let old := s.therm
  let clock :=
    if old.limit < power ∨ 105 ≤ tdie then max 1000 (old.clockMHz - 100)
    else if power < old.limit then min 2000 (old.clockMHz + 100)
    else old.clockMHz
  let s1 := { s with therm := { old with power := power, tdie := tdie, thbm := thbm, clockMHz := clock } }
  .next (shutDown (if (old.tdie < 105 ∧ 105 ≤ tdie) ∨ (old.tdie < 115 ∧ 115 ≤ tdie) then thermalNotice s1 tdie else s1))

/-- R395 THERMAL_SHUTDOWN: at 115 °C the package stops; nothing further issues or commits. -/
def execThermalShutdown (tdie : Nat) (s : State) : Res :=
  .next (if tdie < 115 then s else shutDown (thermalNotice { s with therm := { s.therm with tdie := tdie } } tdie))

/-! ### The host link (R385) -/

/-- R392: whether BAR2 is there. -/
def bootReady (s : State) : Bool := s.bootstat.getLsbD 0

/-- R339: the channel requests of a host access, which no context stands behind (DEDUCED, log 99). -/
def hostTouch (s : State) (cs : List Cell) : State := ownAsk s 66 none cs

/-- R385: the cells of a host access, at populated addresses. -/
def hostCells (s : State) (pa n : Nat) : List Cell :=
  ((List.range n).map (fun i => physCell (pa + i))).filter (fun c => (placeOf s c.pa).isSome)

/-- R385 HOST_MEMORY_WRITE: a posted write through BAR2, plain text at home; in the window it is a register write. One to a stack
in self-refresh takes its place in the order sent, and completes at the exit, before which no read there does (R342; DEDUCED,
log 109). -/
def execHostMemoryWrite (pa : Nat) (bytes : List (BitVec 8)) (s : State) : Res :=
  .next (if !(bootReady s) then s
    else
      let xs := (stCells ((List.range bytes.length).map (fun i => physCell (pa + i))) bytes).filter (fun x => (placeOf s x.cell.pa).isSome)
      writeHome (hostTouch s (hostCells s pa bytes.length)) false xs)

/-- R385: a byte that a host read returns: what is stored; a free value where nothing is or the data is poisoned (log 6). -/
def hostByte (s : State) (pa : Nat) : Byte :=
  match placeOf s pa with
  | none => Config.poisonByte s.free pa
  | some _ => let y := readHome s (physCell pa); if y.2 then Config.poisonByte s.free pa else y.1

/-- R385 HOST_MEMORY_READ; a stack in self-refresh keeps it until its exit (R342). -/
def execHostMemoryRead (pa n : Nat) (s : State) : Res :=
  .next (if !(bootReady s) || (hostCells s pa n).any (fun c => readAsleep s c.pa) then s
    else { checkpointRead (hostTouch (meetDest s (hostCells s pa n)) (hostCells s pa n)) (hostCells s pa n) with
      hostRead := (List.range n).map (fun i => hostByte s (pa + i)), free := s.free + 1 })

/-- R385, R391 CXL_LINK_DOWN: every later access to the port's range returns poisoned data. -/
def execCxlLinkDown (port : Nat) (s : State) : Res :=
  .next (if 2 ≤ port ∨ s.cxlDown.contains port then s else elogWrite { s with cxlDown := s.cxlDown ++ [port] } 8 0 0)

/-! ### FABID (R397) -/

/-- R397: FABID written; ID stays while EN is 1. -/
def fabidSet (s : State) (v : W64) : State :=
  let id : W64 := if s.fabid.getLsbD 10 then s.fabid &&& 0x3FF else v &&& 0x3FF
  { s with fabid := (v &&& 0xF00400) ||| id }

/-- R397 FABID_WRITE. -/
def execFabidWrite (v : BitVec 64) (s : State) : Res := .next (fabidSet s v)

/-! ### Writes of the register window (R386, R387) -/

/-- The written bits of a word over the old ones. -/
def mergeWord (old val mask : W64) : W64 := (old &&& ~~~mask) ||| (val &&& mask)

/-- A field of a wide register replaced at a word. -/
def putWord (w : Nat) (old : BitVec w) (k : Nat) (val mask : W64) : BitVec w :=
  let m := (mask.setWidth w) <<< (64 * k)
  (old &&& ~~~m) ||| (((val &&& mask).setWidth w) <<< (64 * k))

/-- R394: bytes of ATTNONCE. -/
def nonceWrite (s : State) (o : Nat) (val mask : W64) : State :=
  if s.att.go then s
  else
    let bs := s.att.nonce.mapIdx (fun i b =>
      if o ≤ i ∧ i < o + 8 then maskByte b (BitVec.ofNat 8 (val.toNat / 2 ^ (8 * (i - o)))) (BitVec.ofNat 8 (mask.toNat / 2 ^ (8 * (i - o)))) else b)
    { s with att := { s.att with nonce := bs } }

/-- R387: a word of the management block. -/
def manageWrite (s : State) (o : Nat) (val mask : W64) : Res :=
  if o = 0x18 then execNoticeClear (val &&& mask) s
  else if o = 0x20 then .next (mcmdWrite s (mergeWord s.mcmd val mask))
  else if o = 0x28 then .next { s with elog := { s.elog with ctl := mergeWord s.elog.ctl val mask &&& 0xFFFFFFFFFFFFFF00 } }
  else if o = 0x30 then
    .next { s with elog := { s.elog with head := (mergeWord (BitVec.ofNat 64 (elogHeadWord s)) val mask).extractLsb' 32 32 } }
  else if o = 0x100 then (if (val &&& mask).getLsbD 0 then execAttestationRequest s else .next s)
  else if 0x140 ≤ o ∧ o < 0x160 then .next (nonceWrite s (o - 0x140) val mask)
  else .next s

/-- R316: FREPLY: a write that covers the upper half makes the reply take effect. -/
def freplyWrite (s : State) (val mask : W64) : State :=
  let v := mergeWord s.freply val mask
  let s1 := { s with freply := v }
  if bitsOf mask.toNat 63 32 = 0 then s1
  else replySlot s1 (bitsOf v.toNat 63 62) (bitsOf v.toNat 61 51) (bitsOf v.toNat 50 41) (bitsOf v.toNat 31 0)

/-- R350: INVCTL: GO starts the request; KIND 3 is ignored. -/
def invctlWrite (s : State) (val mask : W64) : State :=
  let v := mergeWord s.invCtl val mask &&& 0x3FF80000006
  let s1 := { s with invCtl := v ||| (s.invCtl &&& 1) }
  let asid := bitsOf v.toNat 41 31
  if !((val &&& mask).getLsbD 0) then s1
  else match bitsOf v.toNat 2 1 with
    | 0 => invByReg s1 .page asid s.invAddr.toNat
    | 1 => invByReg s1 .asid asid s.invAddr.toNat
    | 2 => invByReg s1 .all asid s.invAddr.toNat
    | _ => s1

/-- R314: a word of a context record; word 0 written anew makes a context that was terminated a new one. -/
def ctxWrite (s : State) (asid k : Nat) (val mask : W64) : State :=
  let s1 := { s with ctxs := tabPut ctxReset s.ctxs asid (putWord 512 (ctxRec s asid) k val mask) }
  if k = 0 ∧ tabGet false s.dead asid then
    { s1 with dead := tabPut false s1.dead asid false, paused := tabPut false s1.paused asid false }
  else s1

/-- R368: a word of KEYCTL: OP in the first, KEYS in the others. -/
def keyctlWrite (s : State) (asid k : Nat) (val mask : W64) : Res :=
  let key := tabGet KeySt.reset s.keys asid
  if k = 0 then
    match bitsOf (val &&& mask).toNat 1 0 with
    | 1 => execKeyInstall asid key.key s
    | 2 => execKeyDestroy asid s
    | _ => .next s
  else if k ≤ 8 then
    .next { s with keys := tabPut KeySt.reset s.keys asid { key with key := putWord 512 key.key (k - 1) val mask } }
  else .next s

/-- R317: a queue's registers; QHEAD is read only. -/
def queueWrite (s : State) (q k : Nat) (val mask : W64) : Res :=
  match k with
  | 0 => .next { s with qctl := tabPut qctlReset s.qctl q (mergeWord (tabGet qctlReset s.qctl q) val mask &&& 0xFFFFFFFFFFFFFFE1) }
  | 1 => .next { s with qctx := tabPut 0 s.qctx q (mergeWord (tabGet 0 s.qctx q) val mask &&& 0x7FF) }
  | 2 => execQtailWrite q ((mergeWord ((tabGet 0 s.qtail q).setWidth 64) val mask).setWidth 32) s
  | _ => .next s

/-- R362: a word of a Skink ring: control, TAIL of a free ring, HEAD of the released ring. -/
def ringWrite (s : State) (d j k : Nat) (val mask : W64) : State :=
  let old := tabGet 0 s.rings (ringKey d j k)
  let v := mergeWord old val mask
  let put := fun (x : W64) => { s with rings := tabPut 0 s.rings (ringKey d j k) x }
  if k = 0 then put (v &&& 0xFFFFFFFFFFFFFF00)
  else if k = 1 ∧ j < 6 then
    let r := ringOf s d j
    let t : BitVec 32 := v.setWidth 32
    put ((if (t - r.head).toNat > r.size then r.head + BitVec.ofNat 32 r.size else t).setWidth 64)
  else if k = 2 ∧ j = 6 then put (v &&& 0xFFFFFFFF)
  else s

/-- R339: two miss counters. -/
def missWrite (s : State) (k : Nat) (val mask : W64) : State :=
  let old : W64 := (tabGet 0 s.misses (k + 1)) ++ (tabGet 0 s.misses k)
  let v := mergeWord old val mask
  { s with misses := tabPut 0 (tabPut 0 s.misses k (v.setWidth 32)) (k + 1) (v.extractLsb' 32 32) }

/-- R340: a word of a checkpoint region. -/
def regionWrite (s : State) (d o : Nat) (val mask : W64) : State :=
  let i := d * 16 + o / 16
  let keep : BitVec 128 := 0xFFFFFFFFFFFF0000FFFFFFFFFFFF0001
  { s with regions := tabPut 0 s.regions i (putWord 128 (tabGet 0 s.regions i) (o % 16 / 8) val mask &&& keep) }

/-- The registers of a die domain. -/
def domWrite (s : State) (d o : Nat) (val mask : W64) : State :=
  if o < 68 * 16 then missWrite s (missKey d (o / 16) (o % 16 / 4)) val mask
  else if o = 0x1000 then { s with skpol := tabPut 0 s.skpol d (mergeWord (tabGet 0 s.skpol d) val mask &&& 0xFF) }
  else if 0x2000 ≤ o ∧ o < 0x2100 then regionWrite s d (o - 0x2000) val mask
  else if 0x3000 ≤ o ∧ o < 0x30E0 then ringWrite s d ((o - 0x3000) / 32) (o % 32 / 8) val mask
  else s

/-- R386: the aligned word at `o` written where `mask` has ones. -/
def wordWrite (s : State) (o : Nat) (val mask : W64) : Res :=
  if o < 0x8000 then manageWrite s o val mask
  else if o = 0x8000 then .next (fabidSet s (mergeWord s.fabid val mask))
  else if 0x9000 ≤ o ∧ o < 0xB000 then
    let k := (o - 0x9000) / 8
    .next { s with peers := tabPut 0 s.peers k (mergeWord (tabGet 0 s.peers k) val mask &&& 0xFFF003FF800003FF) }
  else if o = 0x10000 then .next (freplyWrite s val mask)
  else if o = 0x10008 then .next { s with invAddr := mergeWord s.invAddr val mask &&& 0x1FFFFFFFFFFFFFF }
  else if o = 0x10010 then .next (invctlWrite s val mask)
  else if 0x100000 ≤ o ∧ o < 0x120000 then .next (ctxWrite s ((o - 0x100000) / 64) (o % 64 / 8) val mask)
  else if 0x200000 ≤ o ∧ o < 0x204000 then
    let a := (o - 0x200000) / 8
    .next { s with roots := tabPut 0 s.roots a (mergeWord (tabGet 0 s.roots a) val mask &&& 0xFFFFFFFFFFE001) }
  else if 0x300000 ≤ o ∧ o < 0x340000 then keyctlWrite s ((o - 0x300000) / 128) (o % 128 / 8) val mask
  else if 0x400000 ≤ o ∧ o < 0x420000 then queueWrite s ((o - 0x400000) / 32) (o % 32 / 8) val mask
  else if 0x800000 ≤ o ∧ o < 0x1000000 then .next (domWrite s ((o - 0x800000) / 0x400000) ((o - 0x800000) % 0x400000) val mask)
  else .next s

/-- The aligned words that `n` bytes from an offset touch. -/
def wordsOf (off n : Nat) : List Nat :=
  if n = 0 then [] else (List.range ((off + n - 1) / 8 - off / 8 + 1)).map (fun i => 8 * (off / 8 + i))

/-- Whether a word is the first of a KEYCTL, whose OP acts on the KEYS written with it. -/
def isKeyOp (o : Nat) : Bool := decide (0x300000 ≤ o ∧ o < 0x340000) && o % 128 == 0

/-- The value and mask that written bytes, each with the mask of its bits, give a word. -/
def wordPart (off : Nat) (xs : List (Byte × Byte)) (o : Nat) : W64 × W64 :=
  let at' := fun (i : Nat) => (if off ≤ o + i then xs[o + i - off]? else none).getD (0, 0)
  (BitVec.ofNat 64 (leValue ((List.range 8).map (fun i => (at' i).1))),
    BitVec.ofNat 64 (leValue ((List.range 8).map (fun i => (at' i).2))))

/-- R386: bytes written at an offset of the register window, each with the mask of its bits: each register takes them as
its own rule says; a word of which no bit is written takes nothing, and what the window does not list ignores them. -/
def windowWrite (off : Nat) (xs : List (Byte × Byte)) (s : State) : Res :=
  let ws := (wordsOf off xs.length).filter (fun o => (wordPart off xs o).2 != 0#64)
  let order := ws.filter (fun o => !isKeyOp o) ++ ws.filter isKeyOp
  order.foldl (fun (r : Res) o =>
    match r with
    | .next s => let p := wordPart off xs o; wordWrite s o p.1 p.2
    | r => r) (.next s)

/-- R386 REGISTER_WRITE: whole bytes written at an offset of the register window. -/
def execRegisterWrite (off : Nat) (bytes : List (BitVec 8)) (s : State) : Res :=
  windowWrite off (bytes.map (fun b => (b, 0xFF))) s

end Sys2Proof.Machine
end

