-- ==== Sys2Proof/Machine/Gather.lean ====
section
/-! DEFINITION. Machine/Gather.lean: index-vector requests: GATH and SCAD at issue and at acceptance (R407 to R409), the fold
(R411), sub-requests and the row engines (R412, R413, R416), merging and completion (R410, R414, R415, R417).
-/
namespace Sys2Proof.Machine

/-! ### Issue (R407) -/

/-- R407: an index-vector word: it is counted, held and stalls at the counter's bound. -/
def gatherWord (scad : Bool) (f : EF) (s : State) : State :=
  onceForGang s (fun g s =>
    if g.counter 2 + 1 > counterMax then s.stalled
    else s.onIssuer (fun x =>
      let oid := x.nextId
      let g1 := (x.await s.cx.pc .unit [] [] false true).hold s.cx.pc (.gath scad (gangSrc s g f.a / 64 * 64) oid)
      { g1 with
        regs := { g1.regs with issuedGath := g1.regs.issuedGath + 1 }
        ops := g1.ops ++ [⟨2, oid, false, x.run, 0⟩] }))

/-- R407 GATH. -/
def execGath (f : EF) (s : State) : Res := .next (gatherWord false f s)

/-- R407 SCAD. -/
def execScad (f : EF) (s : State) : Res := .next (gatherWord true f s)

/-! ### The descriptor (R408) -/

/-- A field of a descriptor. -/
def gathBits (d : BitVec 512) (hi lo : Nat) : Nat := bitsOf d.toNat hi lo
/-- R408: TREC. -/
def gTrec (d : BitVec 512) : Nat := gathBits d 511 448
/-- R408: IDX, in bytes. -/
def gIdx (d : BitVec 512) : Nat := 16 * gathBits d 447 428
/-- R408: DST, in bytes. -/
def gDst (d : BitVec 512) : Nat := 16 * gathBits d 427 408
/-- R408: MASK. -/
def gMask (d : BitVec 512) : Nat := gathBits d 407 388
/-- R408: SEG. -/
def gSeg (d : BitVec 512) : Nat := gathBits d 387 368
/-- R408: CW. -/
def gCw (d : BitVec 512) : Nat := gathBits d 367 348
/-- R408: DSTR, in bytes. -/
def gDstr (d : BitVec 512) : Nat := 16 * gathBits d 347 336
/-- R408: the number of indices. -/
def gNidx (d : BitVec 512) : Nat := gathBits d 335 326 + 1
/-- R408: the number of segments. -/
def gNseg (d : BitVec 512) : Nat := gathBits d 325 317 + 1
/-- R408: POOL. -/
def gPool (d : BitVec 512) : Nat := gathBits d 316 315
/-- R408: DFMT. -/
def gDfmt (d : BitVec 512) : Nat := gathBits d 314 311
/-- R408: SVC. -/
def gSvc (d : BitVec 512) : Nat := gathBits d 310 309

/-- R409: the sum of some lengths. -/
def sumNat (l : List Nat) : Nat := l.foldl (· + ·) 0

/-- R409: the offset of the lowest field that offends by the descriptor and its lists alone (log 52). -/
def gathBad (scad : Bool) (d : BitVec 512) (segs : List Nat) : Option Nat :=
  let pool := gPool d
  leastOf [
    (gathBits d 308 0 != 0, 0),
    (if scad then gDfmt d < 2 || 4 < gDfmt d else 6 < gDfmt d || (pool != 0 && gDfmt d == 0), 38),
    (pool == 3 || (scad && pool != 0), 39),
    (pool == 0 && gNseg d != 1, 39),
    (pool != 0 && sumNat segs != gNidx d, 39),
    (decide (512 < gNidx d), 40),
    (pool == 0 && gSeg d != 0, 46)]

/-- The bytes of a row of `w` elements of a format. -/
def rowBytes (fmt w : Nat) : Nat := ceilDiv (w * elemBits fmt) 8

/-- The bytes of a row of the tile. -/
def tileRow (d : BitVec 512) (v : Nat) : Nat :=
  if gDfmt d = 0 then rowBytes (shFmt v) (shDim v 0) else rowBytes (gDfmt d) (shDim v 0)

/-- R409: the offset of the lowest field that offends beside the record (log 52). -/
def gathShapeBad (d : BitVec 512) (v : Nat) : Option Nat :=
  leastOf [
    (gDfmt d == 0 && shBlk v != 0, 38),
    (decide (gDstr d < tileRow d v), 42),
    (decide (4096 < shDim v 0), 56)]

/-- R409: whether the table's format is one that the request takes. -/
def gathTableOk (scad : Bool) (d : BitVec 512) (v : Nat) : Bool :=
  if scad then (shFmt v == 2 || shFmt v == 4) && shBlk v == 0
  else if gPool d = 0 then true
  else decide (2 ≤ shFmt v ∧ shFmt v ≤ 9)

/-! ### Acceptance (R409) -/

/-- Change of one index-vector request. -/
def State.modGath (s : State) (id : Nat) (f : GathOp → GathOp) : State :=
  { s with gaths := s.gaths.map (fun g => if g.id = id then f g else g) }

/-- R409: a request that fails whole. -/
def gathFail (s : State) (id cause detail : Nat) : State :=
  s.modGath id (fun g => { g with phase := .folded, cause := cause, detail := detail })

/-- R244: a SCAD that is in its block's store buffer already has its record: where the buffer holds too much with its rows, the
rest is committed first. -/
def scadGrow (s : State) (id : Nat) : State :=
  match (s.gath? id).bind (fun g => (s.block? g.block).map (fun b => (g, b))) with
  | none => s
  | some (g, b) =>
    if b.scads.contains id && decide (b.limit < bufferUse s b []) then
      (forceCommit (s.modBlock b.uid (fun b => { b with scads := b.scads.erase id })) b.uid g.pc).modBlock b.uid
        (fun b => { b with scads := b.scads ++ [id] })
    else s

/-- R409: the record is known: it is checked; of a SCAD's source rows their own bytes stay (R244). -/
def gathShape (s : State) (g : GathOp) (bs : List Byte) : State :=
  let v := shapeNat bs
  match shapeBad (gTrec g.desc) v true with
  | some o => gathFail s g.id 0x21 o
  | none =>
    if !(gathTableOk g.scad g.desc v) then gathFail s g.id 0x14 (shFmt v + 16 * shBlk v)
    else match gathShapeBad g.desc v with
      | some o => gathFail s g.id 0x53 o
      | none => scadGrow (s.modGath g.id (fun g => { g with shape := bs, rows := g.rows.map (fun r => r.take (tileRow g.desc v)) })) g.id

/-- R409: the walk-ahead of a request: its record is read; a fault waits for a reply; an uncorrectable record fails it (R360;
DEDUCED, log 111). -/
def gathWalk (s : State) (g : GathOp) : State :=
  let trec := gTrec g.desc
  let xl := fun a => xlateWalk s g.asid a .read false
  let ask := recAsk (askWalks s g.core false g.asid [trec]) g.core g.asid trec xl
  if trec % 64 ≠ 0 then gathFail s g.id 0x21 0
  else match recRead s g.core g.asid trec xl with
  | .error (.wait t p, _) => askTrans s g.core g.asid [(t, p)]
  | .error (.late 0x19 d, _) => gathFail ask g.id 0x19 d
  | .error (.fault cause d, a) | .error (.late cause d, a) =>
    let s1 := forgetFailed (ask.modGath g.id (fun g => { g with phase := .waitReply, cause := cause, detail := d })) g.asid
    raiseEngine s1 (engineFault s g.gang g.block g.core cause d g.pc (BitVec.ofNat 64 a)) (some g.id)
  | .error (.ok _, _) => s
  | .ok bs => gathShape (recKeep { ask with free := ask.free + 1 } g.core g.asid trec bs) g bs

/-- R408: `n` little-endian values of `k` bytes. -/
def valuesOf (b : Block) (pos off n k : Nat) : List Nat := (List.range n).map (fun i => leValue (scratchBytes b pos (off + k * i) k))

/-- R409: what a request whose descriptor offends by itself reports: the lowest offending field, those that only the record
tells among them where the record can be read and breaks no rule (log 52). -/
def gathDetail (s : State) (g : GathOp) (o : Nat) : Nat :=
  match recRead s g.core g.asid (gTrec g.desc) (fun a => xlateWalk s g.asid a .read false) with
  | .error _ => o
  | .ok bs =>
    let v := shapeNat bs
    if (shapeBad (gTrec g.desc) v true).isSome then o else (gathShapeBad g.desc v).elim o (min o)

/-- R244, R417: a SCAD enters its block's store buffer as one entry, after a forced commit where it would exceed the
limit. -/
def scadEnter (s : State) (id : Nat) : State :=
  match s.gath? id, (s.gath? id).bind (fun g => s.block? g.block) with
  | some g, some b =>
    if !g.scad || g.phase == .folded then s
    else
      let s1 := if bufferUse s b [] + g.held > b.limit then forceCommit s b.uid g.pc else s
      s1.modBlock b.uid (fun b => { b with scads := b.scads ++ [id] })
  | _, _ => s

/-- R409: a request accepted: descriptor, lists and source rows are read whole; a SCAD enters the store buffer (R417). -/
def acceptGath (s : State) (g : Gang) (b : Block) (h : HeldItem) (scad : Bool) (off oid : Nat) : State :=
  let pos := b.posOf g.core
  let d : BitVec 512 := BitVec.ofNat 512 (leValue (scratchBytes b pos off 64))
  let n := min 512 (gNidx d)
  let segs := if gPool d = 0 then [] else valuesOf b pos (16 * gSeg d) (gNseg d) 2
  let op : GathOp :=
    { id := s.nextOp, oid := oid, run := h.run, gang := g.uid, block := b.uid, core := g.core, blkpos := pos, asid := b.asid, pc := h.pc, cls := gSvc d,
      scad := scad, desc := d, idxs := valuesOf b pos (gIdx d) n 4, segs := segs,
      rows := if scad then (List.range n).map (fun p => scratchBytes b pos (gDst d + gDstr d * p) (gDstr d)) else [],
      shape := [], phase := .accepted, entries := [], flags := 0, cause := 0, detail := 0, told := false, sent := false }
  let s1 := State.modGang { s with gaths := s.gaths ++ [op], nextOp := s.nextOp + 1 } g.uid (fun g => g.arrive oid [])
  let s2 := match gathBad scad d segs with
    | some o => gathFail s1 op.id 0x53 (gathDetail s1 op o)
    | none => gathWalk s1 op
  releaseGang (scadEnter s2 op.id) g.uid

/-- R342: whether the record of a request lies on a stack in self-refresh. -/
def gathAsleep (s : State) (g : Gang) (b : Block) (off : Nat) : Bool :=
  !s.selfRefresh.isEmpty &&
    recAsleep s g.core b.asid (gTrec (BitVec.ofNat 512 (leValue (scratchBytes b (b.posOf g.core) off 64))))
      (fun a => xlateWalk s b.asid a .read false)

/-- R409 GATHER_ACCEPT: a released request is accepted, each gang's in order, once the gang's earlier scratchpad writes have
been made. -/
def execGatherAccept (core i : Nat) (s : State) : Res :=
  .next (match (s.core core).gathQ[i]? with
    | none => s
    | some (u, h) =>
      match s.gang? u, (s.gang? u).bind s.blockOf, h.eff with
      | some g, some b, .gath scad off oid =>
        if ((s.core core).gathQ.take i).any (fun e => e.1 == u) || writesBefore g h.ord || gathAsleep s g b off then s
        else acceptGath (s.modCore core (fun k => { k with gathQ := k.gathQ.eraseIdx i })) g b h scad off oid
      | _, _, _ => s)

/-! ### The fold (R411) -/

/-- R410: the segment of a position. -/
def segOf : List Nat → Nat → Nat
  | [], _ => 0
  | n :: rest, p => if p < n then 0 else 1 + segOf rest (p - n)

/-- R409, R411: the package of a row. -/
def rowPkg (s : State) (v r : Nat) : Nat := if shDist v then shPkg v (shapeRow v r).1 else accelId s

/-- R411: one position folded into the entries. -/
def foldPos (s : State) (g : GathOp) (v : Nat) (es : List FoldEntry) (p : Nat) : List FoldEntry :=
  let r := g.idxs.getD p 0
  let sg := if gPool g.desc = 0 then 0 else segOf g.segs p
  if es.any (fun e => e.row == r && e.seg == sg) then
    es.map (fun e => if e.row = r ∧ e.seg = sg then { e with positions := e.positions ++ [p] } else e)
  else
    let bad := decide (shDim v 1 ≤ r)
    es ++ [⟨r, sg, [p], if bad then 0 else rowPkg s v r, if bad then 0x12 else 0, bad, none⟩]

/-- R411: the fold entries of a request, in order of first position. -/
def foldAll (s : State) (g : GathOp) (v : Nat) : List FoldEntry := (List.range g.idxs.length).foldl (foldPos s g v) []

/-- R411, R412: the sub-request for a package. -/
def subRequest (s : State) (g : GathOp) (v pkg tag : Nat) (es : List FoldEntry) : SubRequest :=
  let flat := !(shDist v)
  { station := 0, flat := flat, tag := tag, sacc := accelId s, sasid := g.asid, age := 0, scad := g.scad,
    dbase0 := if flat then shBase v else shDbase v 0, dbase1 := if flat then shBase v else shDbase v 1,
    stride1 := BitVec.ofNat 64 (bitsOf v 319 256), scales := shScales v, chunk := if flat then shDim v 1 else shChunk v,
    width := shDim v 0, efmt := shFmt v, eblk := shBlk v, sfmt := gDfmt g.desc, pool := gPool g.desc,
    npkg := if flat then 1 else shNpkg v
    entries := (es.filter (fun e => !e.answered && e.pkg == pkg)).map (fun e =>
      ⟨e.row, (e.positions.head?).getD 0, e.positions.length, e.seg,
        if g.scad then e.positions.map (fun p => g.rows.getD p []) else []⟩) }

/-- R412: the header of a sub-request. -/
def subHeader (q : SubRequest) : Nat :=
  q.dbase0 % 2 ^ 64 * 2 ^ 448 + q.dbase1 % 2 ^ 64 * 2 ^ 384 + q.stride1.toNat * 2 ^ 320 + q.scales % 2 ^ 64 * 2 ^ 256 +
    q.chunk % 2 ^ 32 * 2 ^ 224 + (q.width - 1) % 2 ^ 12 * 2 ^ 212 + q.efmt % 2 ^ 4 * 2 ^ 208 + q.eblk % 2 ^ 2 * 2 ^ 206 +
    q.pool % 2 ^ 2 * 2 ^ 204 + bitNat q.scad * 2 ^ 203 + (q.entries.length - 1) % 2 ^ 10 * 2 ^ 193 + q.npkg % 2 ^ 6 * 2 ^ 187 +
    q.sasid % 2 ^ 11 * 2 ^ 176 + q.sacc % 2 ^ 10 * 2 ^ 166 + q.tag % 2 ^ 16 * 2 ^ 150 + q.age % 2 ^ 16 * 2 ^ 134

/-- R412: an entry of a sub-request. -/
def subEntryBits (e : SubEntry) : Nat :=
  e.row % 2 ^ 32 * 2 ^ 96 + e.pos % 2 ^ 9 * 2 ^ 87 + e.mult % 2 ^ 10 * 2 ^ 77 + e.segx % 2 ^ 9 * 2 ^ 68

/-- R411, R412: the bytes of a sub-request: the header, then the entries, of a SCAD each with its source rows after it. -/
def subPacket (q : SubRequest) : List Byte :=
  leBytes 64 (subHeader q) ++ q.entries.flatMap (fun e => leBytes 16 (subEntryBits e) ++ e.rows.flatten)

/-- The entries of a request with those of a package failed. -/
def failEntries (pkg cause : Nat) (es : List FoldEntry) : List FoldEntry :=
  es.map (fun e => if !e.answered ∧ e.pkg = pkg then { e with cause := cause, answered := true } else e)

/-- R411, R397: one package's sub-request: delivered here, sent, or failed where the fabric is off. -/
def sendSub (id v : Nat) (s : State) (pkg : Nat) : State :=
  match s.gath? id with
  | none => s
  | some g =>
    if pkg = accelId s then
      let q := subRequest s g v pkg 0 g.entries
      { s with subs := s.subs ++ [⟨s.nextOp, some id, g.asid, q, List.range q.entries.length, []⟩], nextOp := s.nextOp + 1 }
    else if !(s.fabid.getLsbD 10) then s.modGath id (fun g => { g with entries := failEntries pkg 0x52 g.entries })
    else (sendRemote s (.sub id pkg (subPacket (subRequest s g v pkg (freshTag s) g.entries))) pkg g.asid).1

/-- R411: a request folded, its sub-requests on their way. -/
def foldGath (s : State) (g : GathOp) : State :=
  let v := shapeNat g.shape
  let es := foldAll s g v
  let pkgs := ((es.filter (fun e => !e.answered)).map (·.pkg)).eraseDups
  pkgs.foldl (sendSub g.id v) (s.modGath g.id (fun g => { g with phase := .folded, entries := es }))

/-- R417: whether a SCAD's commit is the one that its block now makes visible. -/
def scadTurn (s : State) (g : GathOp) : Bool :=
  ((s.block? g.block).bind (fun b => b.pipeline.head?)).elim false (fun c => c.scads.contains g.id)

/-- R411 SLUICE_FOLD: an accepted request is folded; one whose record was to be read again is walked first; a SCAD waits for
its block's commit (R417). -/
def execSluiceFold (op : Nat) (s : State) : Res :=
  .next (match s.gath? op with
    | none => s
    | some g =>
      if g.phase ≠ .accepted then s
      else if g.shape.isEmpty then gathWalk s g
      else if g.scad && !(scadTurn s g) then s
      else foldGath s g)

/-! ### Rows at home (R413, R416) -/

/-- R231, R409, R410: where a row stands: its first byte and the index of its first scale code. -/
def rowPlace (q : SubRequest) (r : Nat) : Nat × Nat :=
  let n := if blkSize q.eblk = 0 then 0 else q.width / blkSize q.eblk
  if q.flat then (wrapInt ((q.dbase0 : Int) + (r : Int) * q.stride1.toInt) 64, r * n)
  else
    let k := r / q.chunk
    let die := k / q.npkg % 2
    let l := k / (2 * q.npkg) * q.chunk + r % q.chunk
    (wrapInt (((if die = 0 then q.dbase0 else q.dbase1 : Nat) : Int) + (l : Int) * q.stride1.toInt) 64, (2 * l + die) * n)

/-- R410: the cause of a translation that did not give a local place; a row on a third package's page cannot be reached
(log 53). -/
def rowErr : XRes → Nat
  | .fault c _ => c
  | .late c _ => c
  | .wait .. => 0x51
  | .ok _ => 0x51

/-- R410: the cells of `w` bits of a row at an address, translated and checked in a context. -/
def rowCells (s : State) (asid : Nat) (acc : Access) (q : SubRequest) (va bits : Nat) : Except Nat (List Cell) :=
  if bits = 0 then .ok []
  else match walkCells s asid acc (some (q.efmt, q.eblk)) ((8 * va : Nat) : Int) bits with
    | .error e => .error (rowErr e.1)
    | .ok cs => if cs.any (fun c => isRemote c.pa) then .error 0x51 else .ok cs

/-- The cells of a row and of its scale codes. -/
def rowFind (s : State) (asid : Nat) (acc : Access) (q : SubRequest) (r : Nat) : Except Nat (List Cell × List Cell) :=
  let p := rowPlace q r
  match rowCells s asid acc q p.1 (q.width * elemBits q.efmt) with
  | .error c => .error c
  | .ok cs =>
    let n := if blkSize q.eblk = 0 then 0 else q.width / blkSize q.eblk
    match rowCells s asid .read q (wrapInt ((q.scales : Int) + (p.2 : Int)) 64) (8 * n) with
    | .error c => .error c
    | .ok ks => .ok (cs, ks)

/-- R410, R60: the values of a row. -/
def rowVals (fmt blk w : Nat) (raw codes : List Byte) : List FVal :=
  (List.range w).map (fun e =>
    let scale := if blkSize blk = 0 then none else some ((codes.getD (e / blkSize blk) 0).toNat)
    elemValue fmt scale (bitField raw (e * elemBits fmt) (elemBits fmt)))

/-- R413: a value taken several times. -/
def timesV (n : Nat) : FVal → FVal
  | .fin neg m e => .fin neg (m * n) e
  | x => x

/-- R410, R130: the larger of two values; NaN where either is NaN. -/
def maxV (a b : FVal) : FVal :=
  if isNan a ∨ isNan b then .nan false else if fltV a b then b else a

/-- R410: the terms of one element combined: their exact sum, or the largest. -/
def poolTerms (pool : Nat) (ts : List FVal) : FVal :=
  if pool = 1 then (sumV false ts).1
  else match ts with
    | [] => .fin false 0 0
    | x :: xs => xs.foldl maxV x

/-- R413: the class of a term: whether it is +∞, whether −∞. -/
def infClass (x : FVal) : Bool × Bool := (x == .inf false, x == .inf true)

/-- R410, R413: the class of an element among some replies: which infinities are among its terms, whatever partials they came
in. -/
def classAt (rs : List RowReply) (e : Nat) : Bool × Bool :=
  (rs.any (fun r => (r.infs.getD e (false, false)).1), rs.any (fun r => (r.infs.getD e (false, false)).2))

/-- R413: the reply for an entry whose row has been read. -/
def rowReply (q : SubRequest) (e : SubEntry) (raw codes : List Byte) : RowReply :=
  let vals := if q.pool = 0 then [] else rowVals q.efmt q.eblk q.width raw codes
  ⟨e.pos, e.segx, 0, raw, codes, if q.pool = 1 then vals.map (timesV e.mult) else vals,
    vals.foldl (fun f x => f ||| nanFlags x) flNone, vals.map infClass⟩

/-- The reply for an entry that fails. -/
def failReply (e : SubEntry) (cause : Nat) : RowReply := ⟨e.pos, e.segx, cause, [], [], [], flNone, []⟩

/-- R339: the number of the row engines as a requester. -/
def rillUnit : Nat := 65

/-- R336, R339: a row engine's access in a context: requester 65, the request's class where this package knows it, else
class 3 of the peer context, whose deadline stamps it (log 99). -/
def rillServe (s : State) (x : SubOp) : Cell → Cell :=
  match x.own.bind s.gath? with
  | some g => Cell.serve rillUnit (serviceOf s g.asid (Fin.ofNat 4 g.cls))
  | none => Cell.serve rillUnit (serviceOf s x.peer 3)

/-- The addresses that the access of an entry's row translates, one in each page. -/
def rowPages (q : SubRequest) (r : Nat) : List Nat :=
  let p := rowPlace q r
  let n := if blkSize q.eblk = 0 then 0 else q.width / blkSize q.eblk
  (pagesIn p.1 (rowBytes q.efmt q.width) ++ pagesIn (wrapInt ((q.scales : Int) + (p.2 : Int)) 64) n).map (· * 2 ^ 16)

/-- R336: the requests of those walks. -/
def rowAsk (s : State) (x : SubOp) (e : SubEntry) : State := askWalks s rillUnit false x.peer (rowPages x.req e.row)

/-- R342: whether an entry's row, or its walk, meets a stack in self-refresh, for whose exit its access waits. -/
def rowAsleep (s : State) (x : SubOp) (acc : Access) (e : SubEntry) : Bool :=
  !s.selfRefresh.isEmpty && ((rowPages x.req e.row).any (walkAsleep s x.peer) ||
    (match rowFind s x.peer acc x.req e.row with
      | .ok (cs, ks) => (cs ++ ks).any (fun c => if acc = .read then readAsleep s c.pa else stackAsleep s c.pa)
      | .error _ => false))

/-- R413: one entry's row read at home. -/
def readRow (s : State) (x : SubOp) (e : SubEntry) : RowReply × State :=
  match rowFind s x.peer .read x.req e.row with
  | .error c => (failReply e c, rowAsk s x e)
  | .ok (cs, ks) =>
    let s1 := readLines (rowAsk s x e) ((cs ++ ks).map (rillServe s x))
    if (cs ++ ks).any (poisoned s) then (failReply e 0x17, s1)
    else (rowReply x.req e ((cs.map (readHome s)).map (·.1)) ((ks.map (readHome s)).map (·.1)), s1)

/-- R416: the adds of one request to an element, one after another. -/
def addAll (fmt : Nat) (old : Nat) (xs : List FVal) : Nat × FFlags :=
  xs.foldl (fun a x =>
    let y := faddV .rne (elemValue fmt none a.1) x
    let z := encodeElem fmt y.1
    (z.1, a.2 ||| y.2 ||| z.2)) (old, flNone)

/-- R416: a row with a request's adds applied, and the flags. -/
def addRow (q : SubRequest) (e : SubEntry) (raw : List Byte) : List Byte × FFlags :=
  let w := elemBits q.efmt
  let ys := (List.range q.width).map (fun i =>
    addAll q.efmt (bitField raw (i * w) w) (e.rows.map (fun r =>
      elemValue q.sfmt none (bitField r (i * elemBits q.sfmt) (elemBits q.sfmt)))))
  (leBytes raw.length ((ys.zipIdx).foldl (fun v y => v + y.1.1 % 2 ^ w * 2 ^ (w * y.2)) 0), ys.foldl (fun f y => f ||| y.2) flNone)

/-- R85, R417: the block and number of the commit that a row engine's SCAD is part of, where this package knows it. -/
def SubOp.commit (x : SubOp) (s : State) : Option (Nat × Nat) :=
  (x.own.bind s.gath?).bind (fun g => (s.block? g.block).bind (fun b =>
    (b.pipeline.find? (fun c => c.scads.contains g.id)).map (fun c => (b.uid, c.id))))

/-- R416: one entry's adds applied to its row at home, as one step; what it changes is kept for the runs that may still find
the old words (R85). -/
def updateRow (s : State) (x : SubOp) (e : SubEntry) : RowReply × State :=
  match rowFind s x.peer .write x.req e.row with
  | .error c => (failReply e c, rowAsk s x e)
  | .ok (cs, _) =>
    let s1 := touchLines (rowAsk s x e) (cs.map (rillServe s x))
    let old := cs.map (readSource s)
    if old.any (·.2) then (failReply e 0x17, s1)
    else
      let y := addRow x.req e (old.map (·.1))
      (⟨e.pos, e.segx, 0, [], [], [], y.2, []⟩, writeHome (keepOldCode s1 x.peer (x.commit s1) cs) true (stCells cs y.1))

/-! ### Replies (R413, R414, R402) -/

/-- R410, R413: the partial of the rows, or of the partials, of one segment: infinities of both signs among the terms of a sum
raise IV, whatever partials they came in. -/
def segPartial (pool : Nat) (rs : List RowReply) : Option RowReply :=
  match rs with
  | [] => none
  | r :: _ =>
    let es := List.range r.vals.length
    let cs := es.map (classAt rs)
    some { r with
      raw := [], codes := [], infs := cs
      vals := es.map (fun e => poolTerms pool (rs.map (fun t => t.vals.getD e (.fin false 0 0))))
      flags := (if pool = 1 ∧ cs.any (fun c => c.1 && c.2) then flIV else flNone) ||| rs.foldl (fun f t => f ||| t.flags) flNone }

/-- R413: what a sub-request's reply carries: an answer for each entry, or for each failed entry and each segment. -/
def repliesOf (q : SubRequest) (rs : List RowReply) : List RowReply :=
  if q.pool = 0 ∨ q.scad then rs
  else
    let good := rs.filter (fun r => r.cause == 0)
    rs.filter (fun r => r.cause != 0) ++
      ((good.map (·.seg)).eraseDups).filterMap (fun sg => segPartial q.pool (good.filter (fun r => r.seg == sg)))

/-- An entry's reply has come. -/
def FoldEntry.take (e : FoldEntry) (r : RowReply) : FoldEntry := if e.answered ∨ e.reply.isSome then e else { e with reply := some r }

/-- R414: the replies of a package arrive: an answer for an entry, or, with `partials`, a segment's partial, which answers for
all the segment's rows there. -/
def takeReplies (s : State) (id pkg : Nat) (partials : Bool) (rs : List RowReply) : State :=
  s.modGath id (fun g =>
    let es := rs.foldl (fun (es : List FoldEntry) r =>
      es.map (fun e => if e.pkg = pkg ∧ e.positions.head? = some r.pos ∧ e.seg = r.seg then e.take r else e)) g.entries
    if !partials || gPool g.desc == 0 then { g with entries := es }
    else { g with entries := es.map (fun e =>
      if e.pkg = pkg ∧ rs.any (fun r => r.cause == 0 && r.seg == e.seg) then e.take ⟨0, e.seg, 0, [], [], [], flNone, []⟩ else e) })

/-- R402: how long an entry of a reply cache stays. -/
def replyHold : Nat := 200000

/-- R402: the entries of the reply caches that stand now. -/
def liveReplies (s : State) : List ReplyEntry := s.replies.filter (fun r => decide (s.now < r.atNs + replyHold))

/-- R402: the response that a (source, tag) already has. -/
def replyFor (s : State) (src tag : Nat) : Option RemoteResp :=
  ((liveReplies s).find? (fun r => r.src == src && r.tag == tag)).map (·.resp)

/-- R402: the entries of one station. -/
def replyEntries : Nat := 4096

/-- R402: whether a station has no entry free; a SCAD being performed has taken one, and so has each part of a tile that
waits for the others. -/
def replyFull (s : State) (station : Nat) : Bool :=
  decide (replyEntries ≤ ((liveReplies s).filter (fun r => r.station == station)).length +
    (s.subs.filter (fun x => x.own.isNone && x.req.scad && x.req.station == station)).length +
    ((s.peerTiles.flatMap (·.parts)).filter (fun p => p.1.station == station)).length)

/-- R402: a response kept. -/
def keepReply (s : State) (src tag station : Nat) (resp : RemoteResp) : State :=
  { s with replies := liveReplies s ++ [⟨src, tag, station, s.now, resp⟩] }

/-- A response sent. -/
def respond (s : State) (peer : Nat) (resp : RemoteResp) : State := { s with outbox := s.outbox ++ [(peer, resp)] }

/-- R414: a sub-request with an entry less to serve: what it has found goes back when it is over. -/
def subServed (s : State) (x : SubOp) (i : Nat) (r : RowReply) : State :=
  let x1 := { x with left := x.left.filter (· != i), done := x.done ++ [r] }
  match x.own with
  | some id =>
    let s1 := takeReplies s id (accelId s) false [r]
    { s1 with subs := if x1.left.isEmpty then s1.subs.filter (fun y => y.id != x.id)
        else s1.subs.map (fun y => if y.id = x.id then x1 else y) }
  | none =>
    if x1.left.isEmpty then
      let resp := RemoteResp.rows (repliesOf x.req x1.done)
      let s1 := { s with subs := s.subs.filter (fun y => y.id != x.id) }
      respond (if x.req.scad then keepReply s1 x.req.sacc x.req.tag x.req.station resp else s1) x.req.sacc resp
    else { s with subs := s.subs.map (fun y => if y.id = x.id then x1 else y) }

/-- R413 RILL_ROW_READ: a row engine reads the row of an entry. -/
def execRillRowRead (sub i : Nat) (s : State) : Res :=
  .next (match s.subs.find? (fun x => x.id == sub) with
    | none => s
    | some x =>
      match x.req.entries[i]? with
      | none => s
      | some e =>
        if x.req.scad || !(x.left.contains i) || rowAsleep s x .read e then s
        else
          let r := readRow s x e
          subServed r.2 x i r.1)

/-- R416 RILL_ROW_UPDATE: all the adds of one request to a row are applied as one step. -/
def execRillRowUpdate (sub row : Nat) (s : State) : Res :=
  .next (match s.subs.find? (fun x => x.id == sub) with
    | none => s
    | some x =>
      match x.left.find? (fun i => (x.req.entries[i]?).elim false (fun e => e.row == row)) with
      | none => s
      | some i =>
        match x.req.entries[i]? with
        | none => s
        | some e =>
          if !x.req.scad || rowAsleep s x .write e then s
          else
            let r := updateRow s x e
            subServed r.2 x i r.1)

/-! ### Sub-requests of other packages (R413, R398, R402) -/

/-- R398: a peer table entry that names a source. -/
def peerMatch (v : W64) (acc sasid : Nat) : Bool :=
  bitsOf v.toNat 63 63 == 1 && bitsOf v.toNat 9 0 == acc && bitsOf v.toNat 41 31 == sasid

/-- R398: the peer context of a source: that of the lowest entry. -/
def peerOf (s : State) (acc sasid : Nat) : Option Nat :=
  (s.peers.find? (fun p => peerMatch p.2 acc sasid)).map (fun p => bitsOf p.2.toNat 62 52)

/-- R402: what the reply caches say of an arrival; `none` lets it be performed. -/
def replyGate (s : State) (src tag age station : Nat) : Option RemoteResp :=
  match replyFor s src tag with
  | some r => some r
  | none => if 200 ≤ age then some .staleTag else if replyFull s station then some .busy else none

/-- R413 SUBREQUEST_RECEIVE: a sub-request of another package: refused without a peer context, answered from the reply cache
where a SCAD has been here before, else handed to the row engines. -/
def execSubrequestReceive (sub : SubRequest) (s : State) : Res :=
  .next (if !(s.fabid.getLsbD 10) || !(stationUp s sub.station) then s
    else
      let again := sub.scad && s.subs.any (fun x => x.own.isNone && x.req.sacc == sub.sacc && x.req.tag == sub.tag)
      let gate := if sub.scad then replyGate s sub.sacc sub.tag sub.age sub.station else none
      if again then s
      else match gate, peerOf s sub.sacc sub.sasid with
        | some r, _ => respond s sub.sacc r
        | none, none =>
          respond (if sub.scad then keepReply s sub.sacc sub.tag sub.station (.fault 0x10) else s) sub.sacc (.fault 0x10)
        | none, some asid =>
          if sub.entries.isEmpty then respond s sub.sacc (.rows [])
          else { s with
            subs := s.subs ++ [⟨s.nextOp, none, asid, { sub with flat := false }, List.range sub.entries.length, []⟩]
            nextOp := s.nextOp + 1 })

/-! ### Merging and completion (R410, R414, R415) -/

/-- R414 GATHER_MERGE: the reply for an entry is merged. -/
def execGatherMerge (op i : Nat) (s : State) : Res :=
  .next (s.modGath op (fun g =>
    match g.entries[i]? with
    | none => g
    | some e =>
      match e.reply with
      | none => g
      | some r =>
        if e.answered then g
        else { g with entries := g.entries.modify i (fun e => { e with answered := true, cause := r.cause }), flags := g.flags ||| r.flags }))

/-- R410: a row of elements encoded to DFMT. -/
def encodeRow (fmt : Nat) (xs : List FVal) : List Byte × FFlags :=
  let w := elemBits fmt
  let ys := xs.map (encodeElem fmt)
  (leBytes (ceilDiv (xs.length * w) 8) ((ys.zipIdx).foldl (fun v y => v + y.1.1 % 2 ^ w * 2 ^ (w * y.2)) 0),
    ys.foldl (fun f y => f ||| y.2) flNone)

/-- The fold entry of a position. -/
def entryAt (g : GathOp) (p : Nat) : Option FoldEntry := g.entries.find? (fun e => e.positions.contains p)

/-- R410: the cause of a position. -/
def posCause (g : GathOp) (p : Nat) : Nat := ((entryAt g p).map (·.cause)).getD 0

/-- R410: the row of the tile of a position, POOL 0. -/
def plainRow (g : GathOp) (v p : Nat) : List Byte × FFlags :=
  let zero := (leBytes (tileRow g.desc v) 0, flNone)
  match entryAt g p with
  | none => zero
  | some e =>
    match e.reply with
    | none => zero
    | some r =>
      if e.cause ≠ 0 then zero
      else if gDfmt g.desc = 0 then (r.raw, flNone)
      else encodeRow (gDfmt g.desc) (rowVals (shFmt v) (shBlk v) (shDim v 0) r.raw r.codes)

/-- R410: the row of the tile of a segment. -/
def poolRow (g : GathOp) (v sg : Nat) : List Byte × FFlags :=
  let rs := (g.entries.filter (fun e => e.seg == sg && e.cause == 0)).filterMap (·.reply)
  let xs := rs.filter (fun r => !r.vals.isEmpty)
  match segPartial (gPool g.desc) xs with
  | none => (leBytes (tileRow g.desc v) 0, flNone)
  | some r =>
    let y := encodeRow (gDfmt g.desc) r.vals
    (y.1, y.2 ||| r.flags)

/-- R410: the tile's rows, with the flags of their encoding. -/
def tileRows (g : GathOp) (v : Nat) : List (List Byte × FFlags) :=
  if gPool g.desc = 0 then (List.range (gNidx g.desc)).map (plainRow g v) else (List.range (gNseg g.desc)).map (poolRow g v)

/-- R410: the fault mask. -/
def faultMask (g : GathOp) : Nat :=
  (List.range (gNidx g.desc)).foldl (fun m p => if posCause g p ≠ 0 then m + 2 ^ p else m) 0

/-- R415: the completion word. -/
def gathWord (g : GathOp) (fl : FFlags) : Nat :=
  if g.cause ≠ 0 then g.cause * 2 ^ 56 + 2 ^ 15
  else
    let bad := (List.range (gNidx g.desc)).filter (fun p => posCause g p != 0)
    let low := (bad.head?).getD 0
    (if bad.isEmpty then 0 else posCause g low) * 2 ^ 48 + bad.length * 2 ^ 38 + low * 2 ^ 29 + 2 ^ 15 + fl.toNat

/-- R410, R414: what a request that does not fail whole writes: the tile, then the mask. -/
def writeTile (s : State) (g : GathOp) (rows : List (List Byte × FFlags)) : State :=
  let d := g.desc
  let tile := if g.scad then [] else (rows.zipIdx).flatMap (fun r => placed (gDst d + gDstr d * r.2) r.1.1)
  let mask := if gMask d = 0xFFFFF then [] else placed (16 * gMask d) (leBytes 64 (faultMask g))
  s.modBlock g.block (fun b => scratchPut (scratchPut b g.blkpos tile) g.blkpos mask)

/-- R283, R409: the record of a request that fails whole, unless its walk's record was answered. -/
def gathRecord (s : State) (g : GathOp) : State :=
  if g.cause = 0 ∨ g.told then s
  else match s.gang? g.gang with
    | none => s
    | some x =>
      let addr := if g.cause = 0x14 ∨ g.cause = 0x21 then BitVec.ofNat 64 (gTrec g.desc) else 0
      deferCommand s g.gang (faultFor s x g.cause g.detail g.pc addr 0) x.regs.alive

/-- R417: a SCAD's part of its block's commit is done. -/
def ackScad (s : State) (id : Nat) : State :=
  { s with blocks := s.blocks.map (fun b => { b with
      scads := b.scads.filter (· != id)
      pipeline := b.pipeline.map (fun c => { c with scads := c.scads.filter (· != id) }) }) }

/-- R414, R415: a request completes: tile, mask, completion word, flags, record, its place in the gather class. -/
def finishGath (s : State) (g : GathOp) : State :=
  let rows := if g.cause ≠ 0 ∨ g.scad then [] else tileRows g (shapeNat g.shape)
  let fl := if g.cause ≠ 0 then flNone else rows.foldl (fun f r => f ||| r.2) g.flags
  let s1 := if g.cause ≠ 0 then s else writeTile s g rows
  let s2 := gathRecord (writeCompl s1 g.block g.blkpos (gCw g.desc) (gathWord g fl)) g
  let s3 := s2.modGang g.gang (fun x => x.completeOp 2 g.oid fl)
  ackScad { s3 with gaths := s3.gaths.filter (fun x => x.id != g.id) } g.id

/-- R417: whether the commit that a SCAD belongs to, if any, is still to complete. -/
def scadPending (s : State) (g : GathOp) : Bool :=
  g.scad && ((s.block? g.block).map (fun b => b.scads.contains g.id || b.pipeline.any (fun c => c.scads.contains g.id))).getD false

/-- R414 GATHER_COMPLETE: once every entry is merged, for a SCAD after its commit (R417), or the request has failed whole. -/
def execGatherComplete (op : Nat) (s : State) : Res :=
  .next (match s.gath? op with
    | none => s
    | some g =>
      if g.phase ≠ .folded ∨ (g.cause = 0 ∧ (!(g.entries.all (·.answered)) ∨ scadPending s g)) then s else finishGath s g)

end Sys2Proof.Machine
end

