-- ==== Sys2Proof/Machine/Fabric.lean ====
section
/-! DEFINITION. Machine/Fabric.lean: remote access: what this package does as a target (R399, R400, R402, R404) and as a source
(R399, R401 to R404). The other packages of the pod are outside; what they send are events, what is sent to them stands in
`outbox` and `remOut`.
-/
namespace Sys2Proof.Machine

/-! ### Translation at the target (R398, R399) -/

/-- R399: an address of a peer context, for a request of another package: the page must be here and of SCOPE `pod`. Where its
walk has to wait (R342) the request is not looked at before (`peerHeld`). -/
def peerXlate (s : State) (asid va : Nat) (acc : Access) : Except Nat Xl :=
  match xlateWalk s asid va acc false with
  | .fault c _ => .error c
  | .late c _ => .error c
  | .wait .. => .error 0x10
  | .ok x => if isRemote x.cell.pa then .error 0x10 else if x.scope ≠ 4 then .error 0x15 else .ok x

/-- R399: the leaf that a translation request finds, permissions apart. -/
def peerLeaf (s : State) (asid va : Nat) : Except Nat Leaf :=
  if va ≥ 2 ^ 57 then .error 0x12
  else match walk s asid va with
    | .error c => .error c
    | .ok l =>
      if entScope l.entry ≠ 4 then .error 0x15
      else if globalAcc (entAddr l.entry) ≠ accelId s then .error 0x10 else .ok l

/-- R339: the number of the fabric as a requester. -/
def fabricUnit : Nat := 67

/-- R399 REMOTE_TRANSLATION_REQUEST: the peer context is walked; the source joins the context's holders. -/
def execRemoteTranslationRequest (acc sasid va : Nat) (s : State) : Res :=
  .next (if !(s.fabid.getLsbD 10) then s
    else match peerOf s acc sasid with
      | none => respond s acc (.fault 0x10)
      | some asid =>
        if walkAsleep s asid va then s
        else
        let s1 := askWalks s fabricUnit false asid [va]
        match peerLeaf s asid va with
        | .error c => respond s1 acc (.fault c)
        | .ok l =>
          let e := l.entry
          let frame := (globalLocal (entAddr e) + (va - l.base)) / 2 ^ 16
          let hs := if s.holders.contains (asid, acc) then s.holders else s.holders ++ [(asid, acc)]
          respond { s1 with holders := hs } acc (.leaf frame (entFmt e) (entBlk e) (entR e) (entW e) (entX e)))

/-! ### Reads, writes and atomics at the target (R400, R402) -/

/-- R336, R339, R352: the accesses of another package that reach this home: requester 67, class 3 of the peer context, whose
deadline stamps them (log 99). -/
def fabricTouch (s : State) (asid : Nat) (cs : List Cell) : State :=
  touchLines s (cs.map (Cell.serve fabricUnit (serviceOf s asid 3)))

/-- R404, R299: the object of a peer context at an address, and its status. -/
def peerStatus (s : State) (asid va : Nat) : RemoteResp :=
  match peerXlate s asid va .read with
  | .error c => .fault c
  | .ok x => .status (BitVec.ofNat 64 (statusOf s x.cell))

/-- R336: the read at home that such a status takes, where the object is not live. -/
def peerHomeAsk (s : State) (asid va : Nat) : State :=
  match peerXlate s asid va .read with
  | .error _ => s
  | .ok x => homeAsk s asid x.cell

/-- Whether a request is an operation on a barrier object, which one that has expired takes no more (R302). -/
def isBarrierBody : RemoteBody → Bool
  | .arrive .. | .wait .. | .withdraw _ | .init .. | .status _ => true
  | _ => false

/-- R345: what a request needs of its page: reads, waits and the status of an object only R; so does what takes back a wait
(R305, log 63). -/
def bodyAccess : RemoteBody → Access
  | .wait .. | .status _ | .read _ | .withdraw _ => .read
  | _ => .write

/-- R302, R405: whether a request names an object whose network has stopped: it gets no response. -/
def peerStopped (s : State) (req : RemoteReq) : Bool :=
  isBarrierBody req.body && (match (peerOf s req.src req.sasid).map (fun a => peerXlate s a req.va (bodyAccess req.body)) with
    | some (.ok x) => barStopped s x.cell.pa
    | _ => false)

/-- R342: whether a request has to wait for a stack in self-refresh before it is looked at: with its walk, or with the home of
a barrier object that is not live. -/
def peerHeld (s : State) (asid : Nat) (req : RemoteReq) : Bool :=
  walkAsleep s asid req.va || (isBarrierBody req.body &&
    (match peerXlate s asid req.va (bodyAccess req.body) with
      | .ok x => barAsleep s x.cell
      | .error _ => false))

/-- R401 REMOTE_READ_ARRIVAL: a read, or a status of a barrier object, answered afresh; a read of a stack in self-refresh
waits for its exit (R342). On a station that is out of use nothing arrives (R207). -/
def execRemoteReadArrival (req : RemoteReq) (s : State) : Res :=
  .next (if !(s.fabid.getLsbD 10) || !(stationUp s req.station) || peerStopped s req then s
    else match peerOf s req.src req.sasid with
      | none => respond s req.src (.fault 0x10)
      | some asid =>
        if peerHeld s asid req then s
        else
        let s1 := askWalks s fabricUnit false asid [req.va]
        match req.body with
        | .read n =>
          (match peerXlate s asid req.va .read with
            | .error c => respond s1 req.src (.fault c)
            | .ok x =>
              let xs := (x.cells n).map (readHome s)
              if (x.cells n).any (fun c => readAsleep s c.pa) then s
              else respond (fabricTouch (meetDest s1 (x.cells n)) asid (x.cells n)) req.src (if xs.any (·.2) then .poison else .data (xs.map (·.1))))
        | .status _ => respond (peerHomeAsk s1 asid req.va) req.src (peerStatus s asid req.va)
        | _ => s)

/-- R360: the sectors whose every bit some written bytes cover. -/
def coveredSectors (xs : List StCell) : List Nat :=
  ((xs.map (fun x => sectorOf x.cell.pa)).eraseDups).filter (fun k =>
    (List.range 32).all (fun i => xs.any (fun x => x.cell.pa == 32 * k + i && x.mask == 0xFF)))

/-- R400: bytes of a remote commit written at home, and the version words of a tile (R216) with them, in one step; what they
change is kept for the runs that may still find the old words (R85). -/
def peerWrite (s : State) (asid : Nat) (vers : List Cell) (xs : List StCell) : State :=
  let cs := xs.map (·.cell)
  let s1 := vers.foldl drainVersion (writeHome (keepOldCode s asid none (cs ++ vers.flatMap verCells)) false xs)
  clearPoison (fabricTouch s1 asid (cs ++ vers)) (coveredSectors xs)

/-- The bytes that a remote write carries, at their places. -/
def peerCells (x : Xl) (bytes masks : List Byte) : List StCell :=
  ((x.cells bytes.length).zip (bytes.zip masks)).map (fun p => ⟨p.1, p.2.1, p.2.2⟩)

/-- R404, R405: who takes part in a phase: the package, with the context and address that it named. -/
def joinPhase (s : State) (pa : Nat) (req : RemoteReq) : State :=
  let x := (req.src, req.sasid, req.va)
  s.modBar pa (fun o => { o with senders := if o.senders.contains x then o.senders else o.senders ++ [x] })

/-- R404, R297: an arrival from another package, of a gang of one of its blocks. -/
def peerArrive (s : State) (req : RemoteReq) (block gang : Nat) (x : Xl) : RemoteResp × State :=
  let pa := x.cell.pa
  if !(barLive s pa) then (.fault 0x31, s)
  else
    let phase := ((s.bar? pa).map (fun b => b.phase.toNat)).getD 0
    (.status (BitVec.ofNat 64 phase), countArrival (joinPhase s pa req) pa (req.src + 1) block gang)

/-- R404, R298: a wait from another package: acknowledged when it has to wait for the release, else answered. -/
def peerWait (s : State) (asid : Nat) (req : RemoteReq) (block : Nat) (x : Xl) (phase : BitVec 32) : RemoteResp × State :=
  let pa := x.cell.pa
  match s.bar? pa with
  | some o =>
    if o.valid ∧ o.phase = phase then
      let w : PeerWait := ⟨req.src, req.sasid, req.va, block, phase⟩
      (.ack, (joinPhase s pa req).modBar pa (fun o => { o with
        start := if o.start = 0 then s.now else o.start
        remote := if o.remote.contains w then o.remote else o.remote ++ [w] }))
    else (.status (BitVec.ofNat 64 (statusOf s x.cell)), homeAsk s asid x.cell)
  | none => (.status (BitVec.ofNat 64 (statusOf s x.cell)), homeAsk s asid x.cell)

/-- R305: a block of another package withdraws its arrivals and its waits from an object (log 63). -/
def peerWithdraw (s : State) (src block : Nat) (x : Xl) : State :=
  s.modBar x.cell.pa (fun o => { o.withdraw (src + 1) block with
    remote := o.remote.filter (fun w => !(w.src == src && w.block == block)) })

/-- R404, R296: an initialisation from another package. -/
def peerInit (s : State) (asid va : Nat) (x : Xl) (arg : W64) : RemoteResp × State :=
  let busy := barLive s x.cell.pa && ((s.bar? x.cell.pa).map (fun o => !o.waiters.isEmpty || !o.remote.isEmpty)).getD false
  if bitsOf arg.toNat 31 24 ≠ 0 ∨ busy then (.fault 0x31, s) else (.ack, initBar s asid 0 va x.cell x.scope arg)

/-- One lane of an atomic of another package, performed at home: the old value and the flags. -/
def peerAtomOne (asid : Nat) (aop : Aop) (size : MSize) (cs : List Cell) (acc : State × List (BitVec 128 × BitVec 5)) (l : BitVec 128 × BitVec 128) :
    State × List (BitVec 128 × BitVec 5) :=
  let old : BitVec 128 := BitVec.ofNat 128 (leValue (cs.map (fun c => (readSource acc.1 c).1)))
  let y := atomNew aop size old l.1 l.2
  (if aopWrites aop then writeHome (keepOldCode acc.1 asid none cs) true (stCells cs (leBytes (sizeBytes size) y.1.toNat)) else acc.1, acc.2 ++ [(old, y.2)])

/-- R400, R253: an atomic of another package: the lanes that name the location are performed one directly after another. -/
def peerAtomic (s : State) (asid : Nat) (x : Xl) (aop : Aop) (size : MSize) (lanes : List (BitVec 128 × BitVec 128)) :
    RemoteResp × State :=
  let cs := x.cells (sizeBytes size)
  if cs.any (fun c => (readSource s c).2) then (.poison, lanes.foldl (fun t _ => fabricTouch t asid cs) s)
  else
    let r := lanes.foldl (peerAtomOne asid aop size cs) (s, [])
    (.old r.2, lanes.foldl (fun t _ => fabricTouch t asid cs) r.1)

/-- What a write, an atomic or a barrier operation of another package does here, and its response, as its address has been
translated. A part of a tile is no affair of this operation (R216). -/
def peerPerform (s : State) (asid : Nat) (req : RemoteReq) (place : Except Nat Xl) : RemoteResp × State :=
  match place with
  | .error c => (.fault c, s)
  | .ok x =>
    match req.body with
    | .write bytes masks => (.ack, peerWrite s asid [] (peerCells x bytes masks))
    | .tile .. => (.ack, s)
    | .atomic aop size lanes => peerAtomic s asid x aop size lanes
    | .arrive block gang => peerArrive s req block gang x
    | .wait block _ phase => peerWait s asid req block x phase
    | .withdraw block => (.ack, peerWithdraw s req.src block x)
    | .init _ arg => peerInit s asid req.va x arg
    | .read _ | .status _ => (.status (BitVec.ofNat 64 (statusOf s x.cell)), s)

/-- R402: a request of another package is over: its response is kept and sent. -/
def answerPeer (s : State) (req : RemoteReq) (r : RemoteResp) : State :=
  respond (keepReply s req.src req.tag req.station r) req.src r

/-- The bytes that a write of another package names, where its page is here. -/
def peerTargets (s : State) (asid : Nat) (req : RemoteReq) : Except Nat (List StCell) :=
  (peerXlate s asid req.va .write).map (fun x => match req.body with
    | .write bytes masks => peerCells x bytes masks
    | .tile _ _ _ _ bytes masks => peerCells x bytes masks
    | .atomic _ size _ => (x.cells (sizeBytes size)).map (fun c => ⟨c, 0, 0⟩)
    | _ => [])

/-- The version words of a tile's part. -/
def tileVers (req : RemoteReq) : List Nat :=
  match req.body with
  | .tile _ _ _ vers _ _ => vers
  | _ => []

/-- R342: whether a write or an atomic of another package has to wait for a stack in self-refresh. -/
def peerAsleep (s : State) (asid : Nat) (req : RemoteReq) : Bool :=
  (match peerTargets s asid req with
    | .ok xs => xs.any (fun x => stackAsleep s x.cell.pa)
    | .error _ => false) || (tileVers req).any (fun v => walkAsleep s asid v ||
      (match peerXlate s asid v .write with
        | .ok x => (verCells x.cell).any (fun c => readAsleep s c.pa)
        | .error _ => false))

/-- The tile that a part of one belongs to, and how many parts it has. -/
def tileKeyOf (req : RemoteReq) : Option (Nat × Nat × Nat) :=
  match req.body with
  | .tile block unit parts _ _ _ => some (block, unit, parts)
  | _ => none

/-- R401: the nanoseconds after its first attempt at which a request has ended at its source. -/
def sourceGivesUp : Nat := 1000000

/-- The tiles whose parts their source has not given up yet. -/
def liveTiles (s : State) : List PeerTile :=
  s.peerTiles.filter (fun t => t.parts.all (fun p => decide (s.now < p.2 + sourceGivesUp)))

/-- R216: EVERY PART OF A TILE HAS COME: its bytes become visible in one step between the odd and even values of its version
words; each part is answered. A part or a version word that cannot be stored to refuses the whole tile. -/
def tilePerform (s : State) (asid : Nat) (parts : List RemoteReq) : State :=
  let vers := (parts.flatMap tileVers).eraseDups
  match parts.mapM (peerTargets s asid), vers.mapM (fun v => peerXlate s asid v .write) with
  | .ok xs, .ok vs =>
    parts.foldl (fun s r => answerPeer s r .ack) (peerWrite s asid (vs.map (·.cell)) xs.flatten)
  | .error c, _ | _, .error c => parts.foldl (fun s r => answerPeer s r (.fault c)) s

/-- R216, R242: a part of a tile of another package: kept, without a response, until the tile is whole. One that has come
before is kept once. -/
def stagePart (s0 : State) (asid : Nat) (req : RemoteReq) (key : Nat × Nat × Nat) : State :=
  let s := { s0 with peerTiles := liveTiles s0 }
  let mine := fun (t : PeerTile) => t.src == req.src && t.sasid == req.sasid && t.block == key.1 && t.unit == key.2.1
  let old := ((s.peerTiles.find? mine).map (·.parts)).getD []
  let rest := s.peerTiles.filter (fun t => !mine t)
  if old.any (fun p => p.1.tag == req.tag && p.1.va == req.va) then s
  else
    let parts := old ++ [(req, s.now - 1000 * req.age)]
    match peerXlate s asid req.va .write with
    | .error c => (parts.map (·.1)).foldl (fun s r => answerPeer s r (.fault c)) { s with peerTiles := rest }
    | .ok _ =>
      if parts.length < key.2.2 then { s with peerTiles := rest ++ [⟨req.src, req.sasid, asid, key.1, key.2.1, parts⟩] }
      else tilePerform { s with peerTiles := rest } asid (parts.map (·.1))

/-- R402 REMOTE_WRITE_ARRIVAL: a write, an atomic or a barrier operation of another package: answered from the reply cache,
turned away, or performed once; every response of the last kind is kept. A barrier operation whose object's network has
stopped gets none (R302), and one on a stack in self-refresh waits (R342). -/
def execRemoteWriteArrival (req : RemoteReq) (s : State) : Res :=
  .next (if !(s.fabid.getLsbD 10) || !(stationUp s req.station) then s
    else match replyGate s req.src req.tag req.age req.station with
      | some r => respond s req.src r
      | none =>
        if peerStopped s req then s
        else match peerOf s req.src req.sasid with
        | none => answerPeer s req (.fault 0x10)
        | some asid =>
          if peerHeld s asid req || peerAsleep s asid req then s
          else
            let s1 := askWalks s fabricUnit false asid [req.va]
            match tileKeyOf req with
            | some key => stagePart s1 asid req key
            | none => 
              let r := peerPerform s1 asid req (peerXlate s asid req.va (bodyAccess req.body))
              answerPeer r.2 req r.1)

/-! ### Invalidation at a holder (R399) -/

/-- R399: whether an entry of the remote translation cache matches an invalidation; a page may be as large as 1 GiB
(log 46). -/
def rtcMatch (acc : Nat) (kind : InvKind) (asid va : Nat) (r : RtcEntry) : Bool :=
  r.target == acc && (match kind with
    | .page => r.asid == asid && r.page / 2 ^ 14 == va / 2 ^ 30
    | .asid => r.asid == asid
    | .all => true)

/-- R399: a request whose translation an invalidation may cover. -/
def usesRtc (acc : Nat) (kind : InvKind) (asid : Nat) (r : RemOut) : Bool :=
  r.target == acc && (kind == .all || r.asid == asid) && (match r.kind with
    | .load .. | .scale .. | .write .. | .atom .. | .barrier .. | .compl .. => true
    | _ => false)

/-- R399 REMOTE_INVALIDATION: the matching entries are dropped; once the requests that used them are answered, the holder
acknowledges (log 54). -/
def execRemoteInvalidation (acc : Nat) (kind : InvKind) (asid va : Nat) (s : State) : Res :=
  let s1 := { s with rtc := s.rtc.filter (fun r => !(rtcMatch acc kind asid va r)) }
  .next (if !(s.fabid.getLsbD 10) then s
    else if s1.remOut.any (usesRtc acc kind asid) then s1 else respond s1 acc .ack)

/-! ### Ends of requests of this package (R401, R403) -/

/-- R399: the entries of the remote translation cache. -/
def rtcEntries : Nat := 4096

/-- An entry of the remote translation cache; the oldest gives way. -/
def rtcPut (s : State) (e : RtcEntry) : State :=
  let others := s.rtc.filter (fun r => !(r.asid == e.asid && r.page == e.page && r.target == e.target))
  { s with rtc := (others ++ [e]).drop (others.length + 1 - rtcEntries) }

/-- How a request of this package ends badly: the cause and detail of R403. -/
structure BadEnd where
  cause : Nat
  detail : Nat
  deriving DecidableEq, Repr

/-- The load that a request carries. -/
def loadOf (g : Gang) (oid : Nat) : Option (Outst × LoadReq) :=
  g.out.findSome? (fun o => if o.id = oid then (match o.kind with | .load r => some (o, r) | _ => none) else none)

/-- R403: a load ends badly: its lanes park, nothing is delivered. -/
def loadEnds (s : State) (u oid : Nat) (e : BadEnd) : State :=
  match s.gang? u with
  | none => s
  | some g =>
    match loadOf g oid with
    | none => s
    | some (o, r) =>
      let addr := ((r.cells.find? (fun c => isRemote c.pa)).map (·.va)).getD 0
      let s1 := s.modGang u (fun g => g.gotLoad oid [] true)
      if o.blocks then deferFault s1 u o.run (faultFor s1 g e.cause e.detail o.pc (BitVec.ofNat 64 addr) 0) r.lanes else s1

/-- R400: the bytes that a target gave for a load, unless it has to ask again (R240). -/
def loadGets (s : State) (u oid target : Nat) (bs : List Byte) : State :=
  s.modGang u (fun g => { g with out := g.out.map (fun o =>
    if o.id = oid then
      match o.kind with
      | .load r =>
        { o with kind := .load { r with
            redo := false
            part := if r.redo then r.part else r.part ++ ((r.asks target).zip bs).map (fun p => (p.1.pa, p.2)) } }
      | _ => o
    else o) })

/-- R360: a load's data came poisoned. -/
def loadPoisoned (s : State) (u oid : Nat) : State :=
  match s.gang? u with
  | none => s
  | some g =>
    match loadOf g oid with
    | none => s
    | some (o, r) =>
      let s1 := s.modGang u (fun g => g.gotLoad oid [] true)
      if o.blocks then consumeAt s1 g o.run o.pc (((r.cells.find? (fun c => isRemote c.pa)).map (·.va)).getD 0) r.lanes else s1

/-- The atomic that a request carries, with the lane's part. -/
def atomOf (g : Gang) (oid lane : Nat) : Option (HeldItem × AtomReq × AtomLane) :=
  g.relq.findSome? (fun h => match h.eff with
    | .atom a => if a.oid = oid then (atomLane a lane).map (fun x => (h, a, x)) else none
    | _ => none)

/-- The lanes of an atomic's group are done, each with its effects. -/
def Gang.addAtoms (g : Gang) (h : HeldItem) (a : AtomReq) (xs : List (AtomLane × List Eff)) : Gang :=
  (xs.foldl (fun (acc : Gang × AtomReq) x =>
    let a1 := acc.2.finish x.1
    (acc.1.addAtom h a1 .atom x.2, a1)) (g, a)).1

/-- The lanes that a group of an atomic's requests stands for. -/
def groupLanes (h : HeldItem) (xs : List AtomLane) : LaneMask :=
  xs.foldl (fun m x => m ||| (x.lane.map laneBit).getD h.lanes) 0

/-- The atomic of the lanes that name one location is over, with some effects, by their places; `f` is what else happens. -/
def atomEnds (s : State) (u oid lane : Nat) (es : Gang → AtomReq → AtomLane → Nat → List Eff)
    (f : State → Gang → HeldItem → AtomReq → List AtomLane → State) : State :=
  match s.gang? u with
  | none => s
  | some g =>
    match atomOf g oid lane with
    | none => s
    | some (h, a, x) =>
      let xs := atomGroup a x
      releaseGang (f (s.modGang u (fun t => t.addAtoms h a (xs.zipIdx.map (fun p => (p.1, es g a p.1 p.2))))) g h a xs) u

/-- R400: a target has performed an atomic. -/
def atomGets (s : State) (u oid lane : Nat) (olds : List (BitVec 128 × BitVec 5)) : State :=
  atomEnds s u oid lane
    (fun g a x k =>
      let y := olds.getD k (0, 0)
      atomEffs a ((g.out.find? (fun o => o.id == a.oid)).getD Outst.absent) x (leBytes (sizeBytes a.size) y.1.toNat) y.2)
    (fun s g _ a _ => if a.acq then acquire s g.core else s)

/-- The address of a group's location. -/
def groupAddr (xs : List AtomLane) : Nat := (((xs.flatMap (·.cells)).head?).map (·.va)).getD 0

/-- R403: an atomic ends badly: its destination keeps its value. -/
def atomBad (s : State) (u oid lane : Nat) (e : BadEnd) : State :=
  atomEnds s u oid lane (fun _ _ _ _ => []) (fun s g h _ xs =>
    deferFault s u h.run (faultFor s g e.cause e.detail h.pc (BitVec.ofNat 64 (groupAddr xs)) 0) (groupLanes h xs))

/-- R360: an atomic met poisoned data. -/
def atomPoisoned (s : State) (u oid lane : Nat) : State :=
  atomEnds s u oid lane (fun _ _ _ _ => []) (fun s g h _ xs => consumeAt s g h.run h.pc (groupAddr xs) (groupLanes h xs))

/-- R240: a load that would take bytes from before a write which its thread has seen asks for them again; so does one whose
request is `sent` already. -/
def Outst.askAgain (cells : List SbCell) (sent : Bool) (o : Outst) : Outst :=
  match o.kind with
  | .load r =>
    if r.got.isNone ∧ r.cells.any (fun c => cells.any (fun e => e.cell.pa == c.pa)) then
      { o with kind := .load { r with part := [], redo := r.redo || sent } }
    else o
  | _ => o

/-- R239, R242, R400: a remote write of a commit is over: its bits are clean in the cores that stored them. -/
def writeEnds (s : State) (block commit tag : Nat) : State :=
  match s.block? block with
  | none => s
  | some b =>
    let cells := (b.pipeline.filter (fun c => c.id == commit)).flatMap (fun c => (c.sent.filter (fun p => p.1 == tag)).flatMap (·.2))
    let s1 := (cleanBytes s b cells).modBlock block (fun b => { b with
      pipeline := b.pipeline.map (fun c => if c.id = commit then { c with sent := c.sent.filter (fun p => p.1 != tag) } else c) })
    { s1 with gangs := s1.gangs.map (fun g =>
        if g.block = block then { g with out := g.out.map (fun o => o.askAgain cells (loadSent s1 g.uid o.id)) } else g) }

/-- R403: a remote write of a commit ends badly. -/
def writeBad (s : State) (block commit tag : Nat) (cells : List SbCell) (e : BadEnd) : State :=
  let low := cells.foldl (fun (a : Option Nat) c => match a with
    | none => some c.cell.va
    | some v => some (min v c.cell.va)) none
  let s1 := writeEnds s block commit tag
  match s1.block? block with
  | none => s1
  | some b => raiseFault s1 { blockFault s1 b e.cause e.detail b.lastPc (BitVec.ofNat 64 (low.getD 0)) with deferred := true }

/-- A barrier operation's wait at the object's stand-in is withdrawn. -/
def dropWaiter (s : State) (u oid : Nat) : State :=
  { s with bars := s.bars.map (fun o => { o with waiters := o.waiters.filter (fun w => !(w.1 == u && w.2.1 == oid)) }) }

/-- R404, R305: a barrier operation on another package's object is answered, for a gang resident or saved. -/
def barrierGets (s : State) (u oid : Nat) (x : Nat) : State :=
  onGang (dropWaiter s u oid) u (fun s => match s.gang? u with
    | none => s
    | some g => barAnswer s u oid (waitDst g oid) x)

/-- R403, R295: a barrier operation on another package's object ends badly. -/
def barrierBad (s : State) (u oid : Nat) (lanes : LaneMask) (pc : W64) (va : Nat) (e : BadEnd) : State :=
  onGang (dropWaiter s u oid) u (fun s => match s.gang? u with
    | none => s
    | some g =>
      (deferFault s u 0 (faultFor s g e.cause e.detail pc (BitVec.ofNat 64 va) 0) lanes).modGang u (fun g => g.arrive oid []))

/-- R166: a scale byte, or how its request ended, is known to the gang that asked for it, if it is still the same word. -/
def scaleGets (s : State) (u replays : Nat) (x : ScaleByte) : State :=
  s.modGang u (fun g => if g.replays = replays then { g with scales := g.scales ++ [x] } else g)

/-- R401, R403: a request of this package that ends badly. -/
def endsBadly (s : State) (r : RemOut) (e : BadEnd) : State :=
  match r.kind with
  | .load g oid => loadEnds s g oid e
  | .scale g n c => scaleGets s g n ⟨c.pa, 0, e.cause, e.detail⟩
  | .write block commit _ _ cells => writeBad s block commit r.tag cells e
  | .atom g oid lane => atomBad s g oid lane e
  | .trans _ asid va target => rtcPut s ⟨asid, va / 2 ^ 16, target, 0, 0, false, false, false, e.cause, e.detail⟩
  | .barrier g oid _ lanes pc va => barrierBad s g oid lanes pc va e
  | .sub op pkg _ => s.modGath op (fun g => { g with entries := failEntries pkg e.cause g.entries })
  | .compl id .. => finishLaunch s id
  | .inval _ | .withdraw .. | .cancelled => s

/-- R403: how a refusal by the target is recorded; an invalid barrier object has a cause of its own (R295). -/
def refusalEnd (c : Nat) : BadEnd := if c = 0x31 then ⟨0x31, 0⟩ else ⟨0x51, c⟩

/-- R401: a request whose response has come. -/
def endsWell (s : State) (r : RemOut) (resp : RemoteResp) : State :=
  match r.kind, resp with
  | .load g oid, .data bs => loadGets s g oid r.target bs
  | .load g oid, .poison => loadPoisoned s g oid
  | .scale g n c, .data bs => scaleGets s g n ⟨c.pa, bs.getD 0 0, 0, 0⟩
  | .scale g n c, .poison => scaleGets s g n ⟨c.pa, 0, 0x19, 0⟩
  | .write block commit _ _ _, .ack => writeEnds s block commit r.tag
  | .atom g oid lane, .old xs => atomGets s g oid lane xs
  | .atom g oid lane, .poison => atomPoisoned s g oid lane
  | .trans _ asid va target, .leaf _ fmt blk rd wr ex => rtcPut s ⟨asid, va / 2 ^ 16, target, fmt, blk, rd, wr, ex, 0, 0⟩
  | .barrier g oid _ _ _ _, .status x => barrierGets s g oid x.toNat
  | .barrier g oid wait _ _ _, .ack => if wait then s else s.modGang g (fun g => g.arrive oid [])
  | .sub op pkg _, .rows l => takeReplies s op pkg true l
  | .compl id .., .ack => finishLaunch s id
  | .inval acc, .ack =>
    { s with invals := s.invals.modify 0 (fun k => { k with holders := k.holders.filter (· != acc) }) }
  | _, _ => s

/-- R412: a sub-request's bytes under another tag. -/
def retagPacket (packet : List Byte) (t : Nat) : List Byte :=
  let v := leValue (packet.take 64)
  leBytes 64 (v - bitsOf v 165 150 * 2 ^ 150 + t * 2 ^ 150) ++ packet.drop 64

/-- R412: a sub-request's bytes under another AGE. -/
def reagePacket (packet : List Byte) (age : Nat) : List Byte :=
  let v := leValue (packet.take 64)
  leBytes 64 (v - bitsOf v 149 134 * 2 ^ 134 + age % 2 ^ 16 * 2 ^ 134) ++ packet.drop 64

/-- The packet of a sub-request changed. -/
def RemKind.repack (f : List Byte → List Byte) : RemKind → RemKind
  | .sub op pkg packet => .sub op pkg (f packet)
  | k => k

/-- R397: the station of an attempt that is made now; with the fabric off it leaves on none. -/
def stationNow (s : State) (station : Nat) : Nat := if s.fabid.getLsbD 10 && stationUp s station then station else noStation

/-- R401: a request that waited for a tag has one, and makes its first attempt now. -/
def RemOut.sendAs (r : RemOut) (s : State) (t : Nat) : RemOut :=
  { r with tag := t, firstNs := s.now, lastNs := s.now, station := firstStation s, kind := r.kind.repack (fun p => retagPacket p t) }

/-- R401: a tag that is free goes to the request that has waited longest for one. -/
def handTag (s : State) : State :=
  match s.remOut.find? (fun r => !r.hasTag), freeTag s with
  | some r, some t =>
    { s with
      remOut := s.remOut.map (fun x => if x.tag = r.tag then x.sendAs s t else x)
      blocks := s.blocks.map (fun b => { b with pipeline := b.pipeline.map (fun c =>
        { c with sent := c.sent.map (fun x => if x.1 = r.tag then (t, x.2) else x) }) }) }
  | _, _ => s

/-- R401: an outstanding request is over: its tag is free. -/
def dropRequest (s : State) (tag : Nat) : State := { s with remOut := s.remOut.filter (fun x => x.tag != tag) }

/-- R397, R401: the request that is outstanding under a tag and has been sent. -/
def sentRequest (s : State) (tag : Nat) : Option RemOut :=
  (s.remOut.find? (fun r => r.tag == tag)).filter (fun r => r.hasTag && r.station != noStation)

/-- R401 REMOTE_RESPONSE: a response completes a request; BUSY makes the source try again (R402). -/
def execRemoteResponse (tag : Nat) (resp : RemoteResp) (s : State) : Res :=
  .next (match sentRequest s tag with
    | none => s
    | some r =>
      match resp with
      | .busy => { s with remOut := s.remOut.map (fun x => if x.tag = tag then { x with busy := true, lastNs := s.now } else x) }
      | .staleTag => handTag (endsBadly (dropRequest s tag) r ⟨0x50, r.station⟩)
      | .fault c => handTag (endsBadly (dropRequest s tag) r (refusalEnd c))
      | _ => handTag (endsWell (dropRequest s tag) r resp))

/-- R401: AGE of a request, in whole µs. -/
def remAge (s : State) (r : RemOut) : Nat := (s.now - r.firstNs) / 1000

/-- R401, R412: a request makes another attempt now, under its present AGE; with the fabric off it is not sent (R397). -/
def RemOut.sendAgain (r : RemOut) (s : State) (station : Nat) : RemOut :=
  { r with busy := false, lastNs := s.now, station := stationNow s station, kind := r.kind.repack (fun p => reagePacket p (remAge s r)) }

/-- R401 REMOTE_RETRANSMIT: 20 µs without a response: the request goes again under its tag, on a usable station, until AGE reaches 180. -/
def execRemoteRetransmit (tag station : Nat) (s : State) : Res :=
  .next (if (sentRequest s tag).isNone || !(stationUp s station) then s
    else { s with remOut := s.remOut.map (fun r =>
      if r.tag = tag ∧ r.kind ≠ .cancelled ∧ ¬ r.busy ∧ r.lastNs + 20000 ≤ s.now ∧ remAge s r < 180 then r.sendAgain s station else r) })

/-- R402 REMOTE_BUSY_RETRY: 5 µs after BUSY the source tries again. -/
def execRemoteBusyRetry (tag : Nat) (s : State) : Res :=
  .next { s with remOut := s.remOut.map (fun r =>
    if r.tag = tag ∧ r.kind ≠ .cancelled ∧ r.busy ∧ r.lastNs + 5000 ≤ s.now ∧ remAge s r < 180 then r.sendAgain s r.station else r) }

/-- R397, R401 REMOTE_TIMEOUT: no response by AGE 1,000, or never sent because the fabric was off. -/
def execRemoteTimeout (tag : Nat) (s : State) : Res :=
  .next (match s.remOut.find? (fun r => r.tag == tag) with
    | none => s
    | some r =>
      if r.station ≠ noStation ∧ (!r.hasTag ∨ remAge s r < 1000) then s
      else handTag (endsBadly (dropRequest s tag) r ⟨0x52, r.station⟩))

end Sys2Proof.Machine
end

