-- ==== Sys2Proof/Machine/Special.lean ====
section
/-! DEFINITION. Machine/Special.lean: the special functions FRSQ, FEX2, FLG2, FSIN and FCOS (R137, R138).

Each value is computed in fixed point, far below any rounding position, with its last bit set where digits were
dropped; R138's exact cases come first.
-/
namespace Sys2Proof.Machine

/-- R137: the five forms. -/
inductive SForm where
  | frsq | fex2 | flg2 | fsin | fcos
  deriving DecidableEq, Repr

/-- ⌊π · 2^1400⌋. -/
def piFixed : Nat := 0x3243f6a8885a308d313198a2e03707344a4093822299f31d0082efa98ec4e6c89452821e638d01377be5466cf34e90c6cc0ac29b7c97c50dd3f84d5b5b54709179216d5d98979fb1bd1310ba698dfb5ac2ffd72dbd01adfb7b8e1afed6a267e96ba7c9045f12c7f9924a19947b3916cf70801f2e2858efc16636920d871574e69a458fea3f4933d7e0d95748f728eb658718bcd5882154aee7b54a41dc25a59b59c30d5392af26013c5d1b023286085

/-- ⌊ln 2 · 2^320⌋. -/
def ln2Fixed : Nat := 0xb17217f7d1cf79abc9e3b39803f2f6af40f343267298b62d8a0d175b8baafa2be7b876206debac98

/-- The exponential series from term `n` on, `P` fractional bits. -/
def expSeries (P t : Nat) : (fuel n term acc : Nat) → Nat
  | 0, _, _, acc => acc
  | fuel + 1, n, term, acc =>
    let term' := ((term * t) >>> P) / n
    expSeries P t fuel (n + 1) term' (acc + term')

/-- 2^x for a finite x that is not zero: 2^⌊x⌋ times the exponential series of the fraction. -/
def exp2V (neg : Bool) (m : Nat) (e : Int) : FVal :=
  if (bitLen m : Int) + e > 13 then .fin false 1 (if neg then -6000 else 6000)
  else
    let x : Int := if e ≥ -320 then signedM neg (m <<< (e + 320).toNat)
      else signedM neg m / (2 ^ (-(e + 320)).toNat : Nat)
    let k := x / (2 ^ 320 : Nat)
    let fr := (x % (2 ^ 320 : Nat)).toNat
    if fr = 0 ∧ e ≥ -320 then .fin false 1 k
    else
      let t := (fr * ln2Fixed) >>> 320
      let y := expSeries 320 t 120 1 (2 ^ 320) (2 ^ 320)
      .fin false (2 * y + 1) (k - 321)

/-- The series Σ y^(2j+1)/(2j+1) from term `j` on, `y2` being y². -/
def atanhSeries (P y2 : Nat) : (fuel j pw acc : Nat) → Nat
  | 0, _, _, acc => acc
  | fuel + 1, j, pw, acc =>
    atanhSeries P y2 fuel (j + 1) ((pw * y2) >>> P) (acc + pw / (2 * j + 1))

/-- log₂ of m · 2^e, m > 0; an integer where m is a power of two. -/
def log2V (m : Nat) (e : Int) : FVal :=
  let L := bitLen m
  let k : Int := e + L - 1
  if m = 2 ^ (L - 1) then ofSigned false k 0
  else
    let one := 2 ^ 320
    let z := (m <<< 320) >>> (L - 1)
    let y := ((z - one) <<< 320) / (z + one)
    let ln := 2 * atanhSeries 320 ((y * y) >>> 320) 110 0 y 0
    let v : Int := k * (one : Nat) + ((ln <<< 320) / ln2Fixed : Nat)
    .fin (decide (v < 0)) (2 * v.natAbs + 1) (-321)

/-- The alternating series of sine and cosine: each term is the one before times −r²/(n(n+1)). -/
def trigSeries (P r2 : Nat) : (fuel n : Nat) → (term acc : Int) → Int
  | 0, _, _, acc => acc
  | fuel + 1, n, term, acc =>
    let term' := -((term * (r2 : Int)) / ((2 ^ P * (n * (n + 1)) : Nat) : Int))
    trigSeries P r2 fuel (n + 2) term' (acc + term')

/-- sin (`isCos = false`) or cos of an x with 0 < |x| < 2^-400: a value just below |x|, or just below 1. -/
def trigTiny (isCos neg : Bool) (m : Nat) (e : Int) : FVal :=
  if isCos then .fin false (2 ^ 1402 - 1) (-1402)
  else .fin neg (m * 2 ^ 400 - 1) (e - 400)

/-- sin (`isCos = false`) or cos of a finite x that is not zero, in radians: exact reduction modulo π/2. -/
def trigV (isCos neg : Bool) (m : Nat) (e : Int) : FVal :=
  if (bitLen m : Int) + e ≤ -400 then trigTiny isCos neg m e else
  let x2 := shiftInt m (e + 1401)
  let q := x2 / piFixed + (if isCos then 1 else 0)
  let r := x2 % piFixed
  let r2 := (r * r) >>> 1401
  let s := trigSeries 1401 r2 170 2 r r
  let c := trigSeries 1401 r2 170 1 (2 ^ 1401 : Nat) (2 ^ 1401 : Nat)
  let v := if q % 2 = 0 then s else c
  let v := if q / 2 % 2 = 0 then v else -v
  let v := if neg && !isCos then -v else v
  .fin (decide (v < 0)) (2 * v.natAbs + 1) (-1402)

/-- 1/√(m · 2^e), m > 0. -/
def rsqrtV (m : Nat) (e : Int) : FVal :=
  let m' := if e % 2 = 0 then m else 2 * m
  let e' := if e % 2 = 0 then e else e - 1
  let r := isqrt ((1 <<< 800) / m')
  .fin false (2 * r + (if r * r * m' = 1 <<< 800 then 0 else 1)) (-(e' / 2) - 401)

/-- The value of an encoding's magnitude as a multiple of 2^(emin − mbits), its ordinal being the encoding
without its sign; ordinals beyond the format's range go on with greater exponents. -/
def ordValue (f : FFmt) (o : Nat) : Nat × Int :=
  let ex := o >>> f.mbits
  let m := o % 2 ^ f.mbits
  if ex = 0 then (m, fmtEmin f - f.mbits) else (2 ^ f.mbits + m, (ex : Int) - f.bias - f.mbits)

/-- R137: |cand − f| ≤ bound · ulp(f), for a signed candidate of ordinal `o` and f = m · 2^e with sign `neg`. -/
def withinUlp (f : FFmt) (bound : Nat) (o : Int) (neg : Bool) (m : Nat) (e : Int) : Bool :=
  let c := ordValue f o.natAbs
  let ex : Int := (bitLen m : Int) - 1 + e
  let top : Int := (2 ^ f.ebits - 2 : Nat) - f.bias
  let u := min (max ex (fmtEmin f)) top - f.mbits
  let lo := min (min c.2 e) u
  let cv := signedM (decide (o < 0)) (c.1 <<< (c.2 - lo).toNat)
  let fv := signedM neg (m <<< (e - lo).toNat)
  decide ((cv - fv).natAbs ≤ bound * (1 <<< (u - lo).toNat))

/-- R137: the ordinal of f rounded to nearest in an unbounded range; a value below the least subnormal is
chosen between zero and it by the mode. -/
def refOrd (f : FFmt) (mode : Rnd) (neg : Bool) (m : Nat) (e : Int) : Nat :=
  let least := fmtEmin f - f.mbits
  let qe := max ((bitLen m : Int) - 1 + e - f.mbits) least
  let md := if magLt m e 1 least then mode else .rne
  packFin f false (roundAt md neg m e qe).1 qe

/-- R137: a result that need not be correctly rounded, for an inexact value with sign `neg` and magnitude
m · 2^e: the correctly rounded one, moved by the device's own offset where the bound allows it. Below the least subnormal
it is zero or the least subnormal as RND says, whatever the offset (DESIGN CHOICE, log 1). -/
def specialRound (f : FFmt) (bound : Nat) (mode : Rnd) (ftz : Bool) (off : Int) (neg : Bool) (m : Nat) (e : Int) :
    Nat × FFlags :=
  let ref : Int := signedM neg (refOrd f mode neg m e)
  let tinier := magLt m e 1 (fmtEmin f - f.mbits)
  let cand := if !tinier && withinUlp f bound (ref + off) neg m e then ref + off else ref
  let sgn := if cand = 0 then neg else decide (cand < 0)
  if cand.natAbs > fmaxEnc f false then (overflowEnc f mode sgn, flOF ||| flIX)
  else if cand.natAbs < 2 ^ f.mbits then
    (if ftz then fsignBit f sgn else fsignBit f sgn + cand.natAbs, flUF ||| flIX)
  else (fsignBit f sgn + cand.natAbs, flIX)

/-- The number of a form, as `Config.specialOffset` takes it. -/
def SForm.num : SForm → Nat
  | .frsq => 0 | .fex2 => 1 | .flg2 => 2 | .fsin => 3 | .fcos => 4

/-- R137: the error bound in ulp; `none` is "cr". -/
def specialBound (fm : SForm) (t : Ty) : Option Nat :=
  if t = .f16 ∨ t = .bf16 then none else if fm = .frsq then some 1 else some 2

/-- R138: the tabled cases, as a value and its flags; `none` where the table has no case but for powers. -/
def specialTable (fm : SForm) (x : FVal) : Option (FVal × FFlags) :=
  match fm, x with
  | _, .nan s => some (.nan false, nanFlags (.nan s))
  | .frsq, .inf neg => some (if neg then (.nan false, flIV) else (.fin false 0 0, flNone))
  | .frsq, .fin neg m _ => if m = 0 then some (.inf neg, flDZ) else if neg then some (.nan false, flIV) else none
  | .fex2, .inf neg => some (if neg then .fin false 0 0 else .inf false, flNone)
  | .fex2, .fin _ m _ => if m = 0 then some (.fin false 1 0, flNone) else none
  | .flg2, .inf neg => some (if neg then (.nan false, flIV) else (.inf false, flNone))
  | .flg2, .fin neg m _ => if m = 0 then some (.inf true, flDZ) else if neg then some (.nan false, flIV) else none
  | .fsin, .inf _ => some (.nan false, flIV)
  | .fsin, .fin neg m _ => if m = 0 then some (.fin neg 0 0, flNone) else none
  | .fcos, .inf _ => some (.nan false, flIV)
  | .fcos, .fin _ m _ => if m = 0 then some (.fin false 1 0, flNone) else none

/-- The function's value at a finite operand outside R138's table. -/
def specialValue (fm : SForm) (neg : Bool) (m : Nat) (e : Int) : FVal :=
  match fm with
  | .frsq => rsqrtV m e
  | .fex2 => exp2V neg m e
  | .flg2 => log2V m e
  | .fsin => trigV false neg m e
  | .fcos => trigV true neg m e

/-- R138: whether the value is one that the table delivers exactly, or rounded as R46: a power of two. -/
def specialExact (fm : SForm) (f : FFmt) (v : FVal) : Bool :=
  match fm, v with
  | .flg2, .fin _ m e => decide (e ≥ 0) || m == 0
  | .frsq, .fin _ m e => m == 2 ^ (bitLen m - 1) && (roundFin f .rne false false m e).2 == flNone
  | .fex2, .fin _ m e => m == 1 && (roundFin f .rne false false m e).2 == flNone
  | _, _ => false

/-- R137, R138: a special function of an encoding. `rnd` is the field's code, `mode` the mode it resolves to. -/
def fspecial (fm : SForm) (t : Ty) (rnd : Nat) (mode : Rnd) (daz ftz : Bool) (a : Nat) : Nat × FFlags :=
  let f := fmtOf t
  let x := fvalue f daz a
  match specialTable fm x with
  | some (v, fl) => ((roundVal f mode ftz v).1, fl)
  | none =>
    match x with
    | .fin neg m e =>
      let v := specialValue fm neg m e
      match specialBound fm t, v with
      | some bound, .fin vn vm ve =>
        if specialExact fm f v then roundVal f mode ftz v
        else specialRound f bound mode ftz (Config.specialOffset fm.num (tyWidth t) rnd (BitVec.ofNat 64 a)) vn vm ve
      | _, _ => roundVal f mode ftz v
    | _ => (canonNan f, flNone)

end Sys2Proof.Machine
end

