-- ==== Sys2Proof/Machine/Floating.lean ====
section
/-! DEFINITION. Machine/Floating.lean: the floating-point and conversion instructions (R124 to R145).
-/
namespace Sys2Proof.Machine

/-- R74: latency 8 where an operand or result is `.f64`, otherwise 4. -/
def fpLat (t : Ty) : Nat := if t = .f64 then 8 else 4

/-- An operand's value in the format of the word, under DAZ of the governing register. -/
def fpVal (f : RRR) (i : LaneIn) (x : Nat) : FVal := fvalue (fmtOf f.ty) (fsrDaz i.fsr) (x % 2 ^ tyWidth f.ty)

/-- R53: the word's mode. -/
def fpMode (f : RRR) (i : LaneIn) : Rnd := modeOf f.rnd i.fsr

/-- R126: an exact value with its flags, rounded once to the word's type. -/
def fpRound (f : RRR) (i : LaneIn) (x : FVal × FFlags) : LaneOut :=
  let r := roundVal (fmtOf f.ty) (fpMode f i) (fsrFtz i.fsr) x.1
  ⟨some r.1, none, x.2 ||| r.2⟩

/-- A result that needs no rounding, with its flags. -/
def fpOut (r : Nat × FFlags) : LaneOut := ⟨some r.1, none, r.2⟩

/-- A floating-point word of fixed latency. -/
def fpShape (f : RRR) (third : Bool) : OpShape := rrrShape f third (some (fpLat f.ty))

/-- R128 FADD. -/
def execFadd (f : RRR) (s : State) : Res :=
  .next (runLanes (fpShape f false) (fun i => fpRound f i (faddV (fpMode f i) (fpVal f i i.a) (fpVal f i i.b))) s)

/-- R128 FSUB. -/
def execFsub (f : RRR) (s : State) : Res :=
  .next (runLanes (fpShape f false) (fun i => fpRound f i (faddV (fpMode f i) (fpVal f i i.a) (fnegV (fpVal f i i.b)))) s)

/-- R128 FMUL. -/
def execFmul (f : RRR) (s : State) : Res :=
  .next (runLanes (fpShape f false) (fun i => fpRound f i (fmulV (fpVal f i i.a) (fpVal f i i.b))) s)

/-- R128 FFMA: the addend is the old D. -/
def execFfma (f : RRR) (s : State) : Res :=
  .next (runLanes (fpShape f true) (fun i => fpRound f i (ffmaV (fpMode f i) (fpVal f i i.a) (fpVal f i i.b) (fpVal f i i.d))) s)

/-- R129: one half of FFMA2. -/
def ffma2Half (f : RRR) (i : LaneIn) (h : Nat) : LaneOut :=
  let part := fun x => fpVal f i (bitsOf x (16 * h + 15) (16 * h))
  fpRound f i (ffmaV (fpMode f i) (part i.a) (part i.b) (part i.d))

/-- R129: both halves, in 32 bits. -/
def ffma2Out (f : RRR) (i : LaneIn) : LaneOut :=
  let lo := ffma2Half f i 0
  let hi := ffma2Half f i 1
  ⟨some (lo.res.getD 0 + 2 ^ 16 * hi.res.getD 0), none, lo.fl ||| hi.fl⟩

/-- R129 FFMA2: the result is 32 bits. -/
def execFfma2 (f : RRR) (s : State) : Res :=
  .next (runLanes ({ fpShape f true with t := .n32 }) (fun i => ffma2Out f i) s)

/-- R130 FMIN. -/
def execFmin (f : RRR) (s : State) : Res :=
  .next (runLanes (fpShape f false) (fun i => fpOut (fminmax (fmtOf f.ty) (fsrDaz i.fsr) true false i.a i.b)) s)

/-- R130 FMAX. -/
def execFmax (f : RRR) (s : State) : Res :=
  .next (runLanes (fpShape f false) (fun i => fpOut (fminmax (fmtOf f.ty) (fsrDaz i.fsr) true true i.a i.b)) s)

/-- R130 FMINM. -/
def execFminm (f : RRR) (s : State) : Res :=
  .next (runLanes (fpShape f false) (fun i => fpOut (fminmax (fmtOf f.ty) (fsrDaz i.fsr) false false i.a i.b)) s)

/-- R130 FMAXM. -/
def execFmaxm (f : RRR) (s : State) : Res :=
  .next (runLanes (fpShape f false) (fun i => fpOut (fminmax (fmtOf f.ty) (fsrDaz i.fsr) false true i.a i.b)) s)

/-- R131 FABS: latency 1, no flag. -/
def execFabs (f : RRR) (s : State) : Res :=
  .next (runLanes (rrrShape f false (some 1)) (fun i => valOut (fsetSign (fmtOf f.ty) i.a false)) s)

/-- R131 FNEG. -/
def execFneg (f : RRR) (s : State) : Res :=
  .next (runLanes (rrrShape f false (some 1)) (fun i => valOut (fsetSign (fmtOf f.ty) i.a (!fsign (fmtOf f.ty) i.a))) s)

/-- R131 FCPYS. -/
def execFcpys (f : RRR) (s : State) : Res :=
  .next (runLanes (rrrShape f false (some 1)) (fun i => valOut (fsetSign (fmtOf f.ty) i.a (fsign (fmtOf f.ty) i.b))) s)

/-- R134 FCMP: quiet; IV for a signalling NaN alone. A scalar pair is compared once, under `%sfsr` (log 71). -/
def execFcmp (f : RRR) (s : State) : Res :=
  .next (runLanes { fpShape f false with d := fcmpGov f } (fun i => ⟨none, some (relFlags (frel (fpVal f i i.a) (fpVal f i i.b))), nanFlags (fpVal f i i.a) ||| nanFlags (fpVal f i i.b)⟩) s)

/-- R135 FCLASS: a 32-bit result under the mask B, 32 bits wide for every type (DESIGN CHOICE, log 73); none is all
ones. -/
def execFclass (f : RRR) (s : State) : Res :=
  .next (runLanes ({ fpShape f false with wb := false, wd := false, t := .n32 }) (fun i => valOut (Nat.land (fclass (fmtOf f.ty) (i.a % 2 ^ tyWidth f.ty)) (if f.b = .none then 2 ^ 32 - 1 else i.b))) s)

/-- R136 FDIV. -/
def execFdiv (f : RRR) (s : State) : Res :=
  .next (runLanes (rrrShape f false none) (fun i => fpRound f i (fdivV (fpVal f i i.a) (fpVal f i i.b))) s)

/-- R136 FSQRT. -/
def execFsqrt (f : RRR) (s : State) : Res :=
  .next (runLanes (rrrShape f false none) (fun i => fpRound f i (fsqrtV (fpVal f i i.a))) s)

/-- R136 FRCP: the reciprocal. -/
def execFrcp (f : RRR) (s : State) : Res :=
  .next (runLanes (rrrShape f false none) (fun i => fpRound f i (fdivV (.fin false 1 0) (fpVal f i i.a))) s)

/-- R137: a special function of the word's operand. -/
def specialOut (f : RRR) (fm : SForm) (i : LaneIn) : LaneOut :=
  fpOut (fspecial fm f.ty (f.rnd.elim 0 rndCode) (fpMode f i) (fsrDaz i.fsr) (fsrFtz i.fsr) (i.a % 2 ^ tyWidth f.ty))

/-- R137, R138 FRSQ. -/
def execFrsq (f : RRR) (s : State) : Res :=
  .next (runLanes (rrrShape f false none) (fun i => specialOut f .frsq i) s)

/-- R137, R138 FEX2. -/
def execFex2 (f : RRR) (s : State) : Res :=
  .next (runLanes (rrrShape f false none) (fun i => specialOut f .fex2 i) s)

/-- R137, R138 FLG2. -/
def execFlg2 (f : RRR) (s : State) : Res :=
  .next (runLanes (rrrShape f false none) (fun i => specialOut f .flg2 i) s)

/-- R137, R138 FSIN. -/
def execFsin (f : RRR) (s : State) : Res :=
  .next (runLanes (rrrShape f false none) (fun i => specialOut f .fsin i) s)

/-- R137, R138 FCOS. -/
def execFcos (f : RRR) (s : State) : Res :=
  .next (runLanes (rrrShape f false none) (fun i => specialOut f .fcos i) s)

/-- R133 FRINT. -/
def execFrint (f : RRR) (s : State) : Res :=
  .next (runLanes (fpShape f false) (fun i => fpOut (frint (fmtOf f.ty) (fpMode f i) (fpVal f i i.a))) s)

/-- R132 FSCALE: B is one 32-bit integer. -/
def execFscale (f : RRR) (s : State) : Res :=
  .next (runLanes ({ fpShape f false with wb := false }) (fun i => fpRound f i (fscaleV (fpVal f i i.a) (signExt i.b 32))) s)

/-- R74: the shape of a conversion: 8 words where either type is `.f64`. -/
def cvtShape (f : RRR) (src : Ty) : OpShape :=
  { rrrShape f false (some (if f.ty = .f64 ∨ src = .f64 then 8 else 4)) with wa := wideTy src }

/-- R139: FCVT of one element. -/
def fcvtOut (f : RRR) (src : Ty) (i : LaneIn) : LaneOut :=
  fpOut (fcvtV f.ty (fpMode f i) f.sat (fsrFtz i.fsr) (fcvtSrc src f.ty (fsrDaz i.fsr) i.a))

/-- R140: FTOI of one element. -/
def ftoiOut (f : RRR) (src : Ty) (i : LaneIn) : LaneOut :=
  let r := ftoiV f.ty (fpMode f i) (fvalue (fmtOf src) (fsrDaz i.fsr) (i.a % 2 ^ tyWidth src))
  ⟨some (wrapInt r.1 (tyWidth f.ty)), none, r.2⟩

/-- R141: ITOF of one element. -/
def itofOut (f : RRR) (src : Ty) (i : LaneIn) : LaneOut :=
  fpOut (roundVal (fmtOf f.ty) (fpMode f i) (fsrFtz i.fsr) (ofIntV (extOf src i.a)))

/-- R139 FCVT. -/
def execFcvt (f : RRR) (src : Ty) (s : State) : Res :=
  .next (runLanes (cvtShape f src) (fcvtOut f src) s)

/-- R140 FTOI. -/
def execFtoi (f : RRR) (src : Ty) (s : State) : Res :=
  .next (runLanes (cvtShape f src) (ftoiOut f src) s)

/-- R141 ITOF. -/
def execItof (f : RRR) (src : Ty) (s : State) : Res :=
  .next (runLanes (cvtShape f src) (itofOut f src) s)

/-- R142 FDOT4: a binary32 accumulator in D. -/
def execFdot4 (f : RRR) (s : State) : Res :=
  .next (runLanes ({ rrrShape f true (some 4) with t := .f32 }) (fun i => fpOut (fdot4 f.ty (fpMode f i) (fsrDaz i.fsr) (fsrFtz i.fsr) i.a i.b i.d)) s)

/-- R143 QDS8: B none means scale 1. -/
def execQds8 (f : RRR) (s : State) : Res :=
  .next (runLanes (rrrShape f false (some 4)) (fun i => fpOut (qds8 i.a (if f.b = .none then 0x7F else i.b % 256))) s)

/-- R144: FGSR.n64 delivers a 64-bit value; FGSR.n32 the register of each lane. -/
def execFgsr (f : RRR) (s : State) : Res :=
  .next (match s.gang? s.cx.gang with
    | none => s
    | some g =>
      runLanes (rrrShape f false (some 1))
        (fun i => valOut (if f.ty = .n64 then g.regs.sfsr.toNat else i.fsr.toNat)) s)

/-- R145: the mask of FSSR; none is all ones. -/
def fssrMask (f : RRR) (b : Nat) : W32 := if f.b = .none then 0xFFFFFFFF#32 else BitVec.ofNat 32 b

/-- R145 FSSR of `%fsr`: in each active lane. -/
def fssrLanes (f : RRR) (s : State) : State :=
  let sh := rrrShape f false (some 1)
  let s1 := runLanes sh (fun i => valOut i.fsr.toNat) s
  match s.gang? s.cx.gang with
  | none => s1
  | some g =>
    let c : Ctx := ⟨s, g, s.blockOf g⟩
    s1.onIssuer (fun g => g.emit (s.dueAt 1) ((lanesOf s1.act).map (fun i =>
      let x := sh.input c i
      .fsrSet i (fsrWrite (c.g.regs.lane i).fsr (fssrMask f x.b) (BitVec.ofNat 32 x.a)))))

/-- R145 FSSR of `%sfsr`: once for the gang. -/
def fssrGang (f : RRR) (s : State) : State :=
  onceForGang s (fun g s =>
    let new := fsrWrite g.regs.sfsr (fssrMask f (gangSrc s g f.b)) (BitVec.ofNat 32 (gangSrc s g f.a))
    let c : Ctx := ⟨s, g, s.blockOf g⟩
    s.onIssuer (fun g => g.deliver s.cx.pc s.cx.pos (some 1) (.sfsrSet new :: c.dst 0 f.d .n64 g.regs.sfsr.toNat)))

/-- R145 FSSR. -/
def execFssr (f : RRR) (s : State) : Res := .next (if f.ty = .n64 then fssrGang f s else fssrLanes f s)

end Sys2Proof.Machine
end

