-- ==== Sys2Proof/Machine/Paired.lean ====
section
/-! DEFINITION. Machine/Paired.lean: the short instructions of a paired word (R75 to R77). A slot's guard and its place
in the word are the issue's affair.
-/
namespace Sys2Proof.Machine

/-- R77: an immediate S, sign-extended to 32 bits. -/
def slotImm (x : BitVec 8) : Nat := wrapInt x.toInt 32

/-- R77: an immediate S, converted exactly to binary32. -/
def slotImmF (x : BitVec 8) : Nat := (roundVal (fmtOf .f32) .rne false (ofIntV x.toInt)).1

/-- The shape of a slot: D is the first operand, S the second; `d` is what it writes. -/
def slotShape (f : Slot) (d : Opd) (float : Bool) (lat : Nat) : OpShape :=
  { d := d, a := sdstOpd f.d, b := ssrcOpd f.s
    imm := match f.s with
      | .imm x => some (if float then slotImmF x else slotImm x)
      | _ => none
    wa := false, wb := false, wd := false, third := false, t := if float then .f32 else .i32, lat := some lat
    ccd := f.qual }

/-- An integer slot D = D op S. -/
def slotInt (f : Slot) (lat : Nat) (op : Nat → Nat → Nat) (s : State) : Res :=
  .next (runLanes (slotShape f (sdstOpd f.d) false lat) (fun i => valOut (op i.a i.b)) s)

/-- R77: a compare slot acts once only where D and S are scalar or S an immediate; else in each lane. -/
def slotCmpDst (f : Slot) : Opd :=
  if opdUniform (sdstOpd f.d) && !(opdLanes (ssrcOpd f.s)) then sdstOpd f.d else .none

/-- A compare slot: flags to `k`(QUAL). -/
def slotFlags (f : Slot) (float : Bool) (lat : Nat) (op : LaneIn → LaneOut) (s : State) : Res :=
  .next (runLanes (slotShape f (slotCmpDst f) float lat) op s)

/-- R77: the mode of QUAL: the governing register's, RNE or RTZ. -/
def slotMode (f : Slot) (i : LaneIn) : Rnd :=
  match f.qual with
  | 1 => .rne
  | 2 => .rtz
  | _ => fsrRm i.fsr

/-- The exact value of a binary32 operand, under DAZ. -/
def slotVal (i : LaneIn) (x : Nat) : FVal := fvalue (fmtOf .f32) (fsrDaz i.fsr) (x % 2 ^ 32)

/-- A floating-point slot, rounded once. -/
def slotFloat (f : Slot) (op : Rnd → FVal → FVal → FVal × FFlags) (s : State) : Res :=
  .next (runLanes (slotShape f (sdstOpd f.d) true 4) (fun i =>
    let x := op (slotMode f i) (slotVal i i.a) (slotVal i i.b)
    let y := roundVal (fmtOf .f32) (slotMode f i) (fsrFtz i.fsr) x.1
    ⟨some y.1, none, x.2 ||| y.2⟩) s)

/-- R77 NOP. -/
def execPairedNop (_f : Slot) (s : State) : Res := .next s
/-- R77 IADD. -/
def execPairedIadd (f : Slot) (s : State) : Res := slotInt f 1 (fun a b => (aluAdd .i32 a b false true).r) s
/-- R77 ISUB. -/
def execPairedIsub (f : Slot) (s : State) : Res := slotInt f 1 (fun a b => (aluSub .i32 a b true true).r) s
/-- R77 IMUL. -/
def execPairedImul (f : Slot) (s : State) : Res := slotInt f 3 (fun a b => (aluMul .i32 false a b).r) s
/-- R77 IMIN: QUAL 0 signed, 1 unsigned. -/
def execPairedImin (f : Slot) (s : State) : Res :=
  slotInt f 1 (fun a b => (aluMin (if f.qual = 0 then .i32 else .n32) a b).r) s
/-- R77 IMAX. -/
def execPairedImax (f : Slot) (s : State) : Res :=
  slotInt f 1 (fun a b => (aluMax (if f.qual = 0 then .i32 else .n32) a b).r) s
/-- R77 AND. -/
def execPairedAnd (f : Slot) (s : State) : Res := slotInt f 1 (fun a b => Nat.land a b % 2 ^ 32) s
/-- R77 OR. -/
def execPairedOr (f : Slot) (s : State) : Res := slotInt f 1 (fun a b => Nat.lor a b % 2 ^ 32) s
/-- R77 XOR. -/
def execPairedXor (f : Slot) (s : State) : Res := slotInt f 1 (fun a b => Nat.xor a b % 2 ^ 32) s
/-- R77 ANDN: D and not S. -/
def execPairedAndn (f : Slot) (s : State) : Res :=
  slotInt f 1 (fun a b => Nat.land (a % 2 ^ 32) (2 ^ 32 - 1 - b % 2 ^ 32)) s
/-- R77 SHL: by S mod 32. -/
def execPairedShl (f : Slot) (s : State) : Res := slotInt f 1 (fun a b => a * 2 ^ (b % 32) % 2 ^ 32) s
/-- R77 SHR. -/
def execPairedShr (f : Slot) (s : State) : Res := slotInt f 1 (fun a b => a % 2 ^ 32 / 2 ^ (b % 32)) s
/-- R77 SAR. -/
def execPairedSar (f : Slot) (s : State) : Res :=
  slotInt f 1 (fun a b => wrapInt (signExt a 32 / ((2 ^ (b % 32) : Nat) : Int)) 32) s
/-- R77 MOV: D = S. -/
def execPairedMov (f : Slot) (s : State) : Res :=
  .next (runLanes { slotShape f (sdstOpd f.d) false 1 with a := .none } (fun i => valOut (i.b % 2 ^ 32)) s)
/-- R77 CMP: the flags of D − S. -/
def execPairedCmp (f : Slot) (s : State) : Res :=
  slotFlags f false 1 (fun i => kOut (aluSub .i32 i.a i.b true true).k) s
/-- R77 TST: the flags of D and S. -/
def execPairedTst (f : Slot) (s : State) : Res := slotFlags f false 1 (fun i => kOut (aluTst .i32 i.a i.b).k) s
/-- R77 FADD. -/
def execPairedFadd (f : Slot) (s : State) : Res := slotFloat f faddV s
/-- R77 FSUB. -/
def execPairedFsub (f : Slot) (s : State) : Res := slotFloat f (fun m a b => faddV m a (fnegV b)) s
/-- R77 FMUL. -/
def execPairedFmul (f : Slot) (s : State) : Res := slotFloat f (fun _ a b => fmulV a b) s
/-- R77 FMIN. -/
def execPairedFmin (f : Slot) (s : State) : Res :=
  .next (runLanes (slotShape f (sdstOpd f.d) true 4)
    (fun i => fpOut (fminmax (fmtOf .f32) (fsrDaz i.fsr) true false i.a i.b)) s)
/-- R77 FMAX. -/
def execPairedFmax (f : Slot) (s : State) : Res :=
  .next (runLanes (slotShape f (sdstOpd f.d) true 4)
    (fun i => fpOut (fminmax (fmtOf .f32) (fsrDaz i.fsr) true true i.a i.b)) s)
/-- R77 FCMP. -/
def execPairedFcmp (f : Slot) (s : State) : Res :=
  slotFlags f true 4 (fun i => ⟨none, some (relFlags (frel (slotVal i i.a) (slotVal i i.b))),
    nanFlags (slotVal i i.a) ||| nanFlags (slotVal i i.b)⟩) s

end Sys2Proof.Machine
end

