-- ==== Sys2Proof/Machine/Dispatch.lean ====
section
/-! DEFINITION. Machine/Dispatch.lean: one arm for each operation of the table, a direct call of its meaning.
-/
namespace Sys2Proof.Machine

/-- What an instruction does to the machine, or an event. -/
def exec (i : Instr) (s : State) : Host.Outcome State Fault Refusal :=
  match i with
  | .iadd f => Sys2Proof.Machine.execIadd f s
  | .iaddc f => Sys2Proof.Machine.execIaddc f s
  | .iadds f => Sys2Proof.Machine.execIadds f s
  | .isub f => Sys2Proof.Machine.execIsub f s
  | .isubb f => Sys2Proof.Machine.execIsubb f s
  | .isubs f => Sys2Proof.Machine.execIsubs f s
  | .ineg f => Sys2Proof.Machine.execIneg f s
  | .iabs f => Sys2Proof.Machine.execIabs f s
  | .imin f => Sys2Proof.Machine.execImin f s
  | .imax f => Sys2Proof.Machine.execImax f s
  | .imul f => Sys2Proof.Machine.execImul f s
  | .imulh f => Sys2Proof.Machine.execImulh f s
  | .imad f => Sys2Proof.Machine.execImad f s
  | .imadw f => Sys2Proof.Machine.execImadw f s
  | .idiv f => Sys2Proof.Machine.execIdiv f s
  | .irem f => Sys2Proof.Machine.execIrem f s
  | .and f => Sys2Proof.Machine.execAnd f s
  | .or f => Sys2Proof.Machine.execOr f s
  | .xor f => Sys2Proof.Machine.execXor f s
  | .andn f => Sys2Proof.Machine.execAndn f s
  | .orn f => Sys2Proof.Machine.execOrn f s
  | .shl f => Sys2Proof.Machine.execShl f s
  | .shr f => Sys2Proof.Machine.execShr f s
  | .sar f => Sys2Proof.Machine.execSar f s
  | .rol f => Sys2Proof.Machine.execRol f s
  | .fshl f => Sys2Proof.Machine.execFshl f s
  | .fshr f => Sys2Proof.Machine.execFshr f s
  | .bfx f => Sys2Proof.Machine.execBfx f s
  | .bfxImm f => Sys2Proof.Machine.execBfxImm f s
  | .bfi f => Sys2Proof.Machine.execBfi f s
  | .brev f => Sys2Proof.Machine.execBrev f s
  | .popc f => Sys2Proof.Machine.execPopc f s
  | .clz f => Sys2Proof.Machine.execClz f s
  | .ctz f => Sys2Proof.Machine.execCtz f s
  | .permb f => Sys2Proof.Machine.execPermb f s
  | .sext f => Sys2Proof.Machine.execSext f s
  | .zext f => Sys2Proof.Machine.execZext f s
  | .mov f => Sys2Proof.Machine.execMov f s
  | .movi f => Sys2Proof.Machine.execMovi f s
  | .movh f => Sys2Proof.Machine.execMovh f s
  | .sel f => Sys2Proof.Machine.execSel f s
  | .cmp f => Sys2Proof.Machine.execCmp f s
  | .cmpImm f => Sys2Proof.Machine.execCmpImm f s
  | .tst f => Sys2Proof.Machine.execTst f s
  | .setk f => Sys2Proof.Machine.execSetk f s
  | .getk f => Sys2Proof.Machine.execGetk f s
  | .iaddImm f => Sys2Proof.Machine.execIaddImm f s
  | .andImm f => Sys2Proof.Machine.execAndImm f s
  | .orImm f => Sys2Proof.Machine.execOrImm f s
  | .xorImm f => Sys2Proof.Machine.execXorImm f s
  | .shlImm f => Sys2Proof.Machine.execShlImm f s
  | .shrImm f => Sys2Proof.Machine.execShrImm f s
  | .sarImm f => Sys2Proof.Machine.execSarImm f s
  | .imulImm f => Sys2Proof.Machine.execImulImm f s
  | .bra f => Sys2Proof.Machine.execBra f s
  | .jmpr f => Sys2Proof.Machine.execJmpr f s
  | .call f => Sys2Proof.Machine.execCall f s
  | .ret f => Sys2Proof.Machine.execRet f s
  | .meet f => Sys2Proof.Machine.execMeet f s
  | .meetR f => Sys2Proof.Machine.execMeetR f s
  | .exit f => Sys2Proof.Machine.execExit f s
  | .trap f => Sys2Proof.Machine.execTrap f s
  | .nop f => Sys2Proof.Machine.execNop f s
  | .yield f => Sys2Proof.Machine.execYield f s
  | .fadd f => Sys2Proof.Machine.execFadd f s
  | .fsub f => Sys2Proof.Machine.execFsub f s
  | .fmul f => Sys2Proof.Machine.execFmul f s
  | .ffma f => Sys2Proof.Machine.execFfma f s
  | .ffma2 f => Sys2Proof.Machine.execFfma2 f s
  | .fmin f => Sys2Proof.Machine.execFmin f s
  | .fmax f => Sys2Proof.Machine.execFmax f s
  | .fminm f => Sys2Proof.Machine.execFminm f s
  | .fmaxm f => Sys2Proof.Machine.execFmaxm f s
  | .fabs f => Sys2Proof.Machine.execFabs f s
  | .fneg f => Sys2Proof.Machine.execFneg f s
  | .fcpys f => Sys2Proof.Machine.execFcpys f s
  | .fcmp f => Sys2Proof.Machine.execFcmp f s
  | .fclass f => Sys2Proof.Machine.execFclass f s
  | .fdiv f => Sys2Proof.Machine.execFdiv f s
  | .fsqrt f => Sys2Proof.Machine.execFsqrt f s
  | .frcp f => Sys2Proof.Machine.execFrcp f s
  | .frsq f => Sys2Proof.Machine.execFrsq f s
  | .fex2 f => Sys2Proof.Machine.execFex2 f s
  | .flg2 f => Sys2Proof.Machine.execFlg2 f s
  | .fsin f => Sys2Proof.Machine.execFsin f s
  | .fcos f => Sys2Proof.Machine.execFcos f s
  | .frint f => Sys2Proof.Machine.execFrint f s
  | .fscale f => Sys2Proof.Machine.execFscale f s
  | .fcvt f src => Sys2Proof.Machine.execFcvt f src s
  | .ftoi f src => Sys2Proof.Machine.execFtoi f src s
  | .itof f src => Sys2Proof.Machine.execItof f src s
  | .fdot4 f => Sys2Proof.Machine.execFdot4 f s
  | .qds8 f => Sys2Proof.Machine.execQds8 f s
  | .fgsr f => Sys2Proof.Machine.execFgsr f s
  | .fssr f => Sys2Proof.Machine.execFssr f s
  | .shflIdx f => Sys2Proof.Machine.execShflIdx f s
  | .shflUp f => Sys2Proof.Machine.execShflUp f s
  | .shflDown f => Sys2Proof.Machine.execShflDown f s
  | .shflXor f => Sys2Proof.Machine.execShflXor f s
  | .ballot f => Sys2Proof.Machine.execBallot f s
  | .voteEvery f => Sys2Proof.Machine.execVoteEvery f s
  | .voteSome f => Sys2Proof.Machine.execVoteSome f s
  | .voteAgree f => Sys2Proof.Machine.execVoteAgree f s
  | .voteCount f => Sys2Proof.Machine.execVoteCount f s
  | .bcast f => Sys2Proof.Machine.execBcast f s
  | .elect f => Sys2Proof.Machine.execElect f s
  | .matchL f => Sys2Proof.Machine.execMatch f s
  | .qmx f => Sys2Proof.Machine.execQmx f s
  | .scan f op excl => Sys2Proof.Machine.execScan f op excl s
  | .reduce f op => Sys2Proof.Machine.execReduce f op s
  | .gatheringDelivery gang gix => Sys2Proof.Machine.execGatheringDelivery gang gix s
  | .ld f => Sys2Proof.Machine.execLd f s
  | .pref f => Sys2Proof.Machine.execPref f s
  | .st f => Sys2Proof.Machine.execSt f s
  | .lde f => Sys2Proof.Machine.execLde f s
  | .ldeSc f => Sys2Proof.Machine.execLdeSc f s
  | .ste f => Sys2Proof.Machine.execSte f s
  | .steSc f => Sys2Proof.Machine.execSteSc f s
  | .ldl f => Sys2Proof.Machine.execLdl f s
  | .stl f => Sys2Proof.Machine.execStl f s
  | .atom f => Sys2Proof.Machine.execAtom f s
  | .atoml f => Sys2Proof.Machine.execAtoml f s
  | .sbind f => Sys2Proof.Machine.execSbind f s
  | .spos f port => Sys2Proof.Machine.execSpos f port s
  | .pairedNop f => Sys2Proof.Machine.execPairedNop f s
  | .pairedIadd f => Sys2Proof.Machine.execPairedIadd f s
  | .pairedIsub f => Sys2Proof.Machine.execPairedIsub f s
  | .pairedImul f => Sys2Proof.Machine.execPairedImul f s
  | .pairedImin f => Sys2Proof.Machine.execPairedImin f s
  | .pairedImax f => Sys2Proof.Machine.execPairedImax f s
  | .pairedAnd f => Sys2Proof.Machine.execPairedAnd f s
  | .pairedOr f => Sys2Proof.Machine.execPairedOr f s
  | .pairedXor f => Sys2Proof.Machine.execPairedXor f s
  | .pairedAndn f => Sys2Proof.Machine.execPairedAndn f s
  | .pairedShl f => Sys2Proof.Machine.execPairedShl f s
  | .pairedShr f => Sys2Proof.Machine.execPairedShr f s
  | .pairedSar f => Sys2Proof.Machine.execPairedSar f s
  | .pairedMov f => Sys2Proof.Machine.execPairedMov f s
  | .pairedCmp f => Sys2Proof.Machine.execPairedCmp f s
  | .pairedTst f => Sys2Proof.Machine.execPairedTst f s
  | .pairedFadd f => Sys2Proof.Machine.execPairedFadd f s
  | .pairedFsub f => Sys2Proof.Machine.execPairedFsub f s
  | .pairedFmul f => Sys2Proof.Machine.execPairedFmul f s
  | .pairedFmin f => Sys2Proof.Machine.execPairedFmin f s
  | .pairedFmax f => Sys2Proof.Machine.execPairedFmax f s
  | .pairedFcmp f => Sys2Proof.Machine.execPairedFcmp f s
  | .rgive f n8 => Sys2Proof.Machine.execRgive f n8 s
  | .rtake f n8 => Sys2Proof.Machine.execRtake f n8 s
  | .rdsp f sp => Sys2Proof.Machine.execRdsp f sp s
  | .kick f count => Sys2Proof.Machine.execKick f count s
  | .cati f n => Sys2Proof.Machine.execCati f n s
  | .catw f => Sys2Proof.Machine.execCatw f s
  | .waitc f cls n => Sys2Proof.Machine.execWaitc f cls n s
  | .recf f => Sys2Proof.Machine.execRecf f s
  | .recp f => Sys2Proof.Machine.execRecp f s
  | .pub f => Sys2Proof.Machine.execPub f s
  | .acq f => Sys2Proof.Machine.execAcq f s
  | .phase f => Sys2Proof.Machine.execPhase f s
  | .fence f => Sys2Proof.Machine.execFence f s
  | .mma f pair => Sys2Proof.Machine.execMma f pair s
  | .mmax f pair => Sys2Proof.Machine.execMmax f pair s
  | .mmas f pair => Sys2Proof.Machine.execMmas f pair s
  | .mzero f => Sys2Proof.Machine.execMzero f s
  | .mlda f => Sys2Proof.Machine.execMlda f s
  | .mdrain f => Sys2Proof.Machine.execMdrain f s
  | .spcomp f => Sys2Proof.Machine.execSpcomp f s
  | .bari f => Sys2Proof.Machine.execBari f s
  | .bara f => Sys2Proof.Machine.execBara f s
  | .barw f => Sys2Proof.Machine.execBarw f s
  | .bart f => Sys2Proof.Machine.execBart f s
  | .launch f => Sys2Proof.Machine.execLaunch f s
  | .prog f => Sys2Proof.Machine.execProg f s
  | .migr f => Sys2Proof.Machine.execMigr f s
  | .pgq f => Sys2Proof.Machine.execPgq f s
  | .jarr f => Sys2Proof.Machine.execJarr f s
  | .jwait f => Sys2Proof.Machine.execJwait f s
  | .killpt f => Sys2Proof.Machine.execKillpt f s
  | .jstat f => Sys2Proof.Machine.execJstat f s
  | .gath f => Sys2Proof.Machine.execGath f s
  | .scad f => Sys2Proof.Machine.execScad f s
  | .runBoundary core part => Sys2Proof.Machine.execRunBoundary core part s
  | .tlbWalk core asid va => Sys2Proof.Machine.execTlbWalk core asid va s
  | .variableResultReturn gang ix => Sys2Proof.Machine.execVariableResultReturn gang ix s
  | .parkSeamComplete gang => Sys2Proof.Machine.execParkSeamComplete gang s
  | .quarantineExit gang => Sys2Proof.Machine.execQuarantineExit gang s
  | .strikeReport core => Sys2Proof.Machine.execStrikeReport core s
  | .commonsArbitration core => Sys2Proof.Machine.execCommonsArbitration core s
  | .commonsOverlayRetire core => Sys2Proof.Machine.execCommonsOverlayRetire core s
  | .donationTakeEffect gang => Sys2Proof.Machine.execDonationTakeEffect gang s
  | .chorusCheck core part cls ok => Sys2Proof.Machine.execChorusCheck core part cls ok s
  | .chorusCheckDue core part => Sys2Proof.Machine.execChorusCheckDue core part s
  | .faultRecordWrite asid => Sys2Proof.Machine.execFaultRecordWrite asid s
  | .spillwayFetch core => Sys2Proof.Machine.execSpillwayFetch core s
  | .walkAheadTranslate op => Sys2Proof.Machine.execWalkAheadTranslate op s
  | .copyGranuleTransfer op granule => Sys2Proof.Machine.execCopyGranuleTransfer op granule s
  | .tileLoadAttempt op => Sys2Proof.Machine.execTileLoadAttempt op s
  | .copyRequestComplete op => Sys2Proof.Machine.execCopyRequestComplete op s
  | .commandAccept core ix => Sys2Proof.Machine.execCommandAccept core ix s
  | .commandComplete op => Sys2Proof.Machine.execCommandComplete op s
  | .pairTimeout op => Sys2Proof.Machine.execPairTimeout op s
  | .storeBufferAccept gang => Sys2Proof.Machine.execStoreBufferAccept gang s
  | .homeWrite block ix => Sys2Proof.Machine.execHomeWrite block ix s
  | .commitComplete block => Sys2Proof.Machine.execCommitComplete block s
  | .loadHomeRead gang ix keep => Sys2Proof.Machine.execLoadHomeRead gang ix keep s
  | .l1Evict core line => Sys2Proof.Machine.execL1Evict core line s
  | .atomPerform gang lane => Sys2Proof.Machine.execAtomPerform gang lane s
  | .gangEnd gang => Sys2Proof.Machine.execGangEnd gang s
  | .barrierNetworkInit ix => Sys2Proof.Machine.execBarrierNetworkInit ix s
  | .barrierNetworkArrival ix => Sys2Proof.Machine.execBarrierNetworkArrival ix s
  | .barrierWaitTest gang => Sys2Proof.Machine.execBarrierWaitTest gang s
  | .barrierStatusRead ix => Sys2Proof.Machine.execBarrierStatusRead ix s
  | .barrierWatchdogExpiry obj => Sys2Proof.Machine.execBarrierWatchdogExpiry obj s
  | .qtailWrite q tail => Sys2Proof.Machine.execQtailWrite q tail s
  | .launchEnqueue q dev => Sys2Proof.Machine.execLaunchEnqueue q dev s
  | .dispatchBlock dom => Sys2Proof.Machine.execDispatchBlock dom s
  | .launchComplete id => Sys2Proof.Machine.execLaunchComplete id s
  | .timeLimitExpiry id => Sys2Proof.Machine.execTimeLimitExpiry id s
  | .uncorrectableConsumption block => Sys2Proof.Machine.execUncorrectableConsumption block s
  | .freplyRetry asid slot seq => Sys2Proof.Machine.execFreplyRetry asid slot seq s
  | .freplyResumeAfter asid slot seq => Sys2Proof.Machine.execFreplyResumeAfter asid slot seq s
  | .freplyKill asid slot seq => Sys2Proof.Machine.execFreplyKill asid slot seq s
  | .freplyFree asid slot seq => Sys2Proof.Machine.execFreplyFree asid slot seq s
  | .memoryChannelServe stack chan => Sys2Proof.Machine.execMemoryChannelServe stack chan s
  | .subarrayRefresh stack chan sub on => Sys2Proof.Machine.execSubarrayRefresh stack chan sub on s
  | .geckoPatrol sector res => Sys2Proof.Machine.execGeckoPatrol sector res s
  | .correctedWriteback sector => Sys2Proof.Machine.execCorrectedWriteback sector s
  | .hbmThermalSelfRefresh stack thbm => Sys2Proof.Machine.execHbmThermalSelfRefresh stack thbm s
  | .hotnessHalving dom => Sys2Proof.Machine.execHotnessHalving dom s
  | .promotionStart dom => Sys2Proof.Machine.execPromotionStart dom s
  | .migrationStart ix => Sys2Proof.Machine.execMigrationStart ix s
  | .migrationCopyUnit src err => Sys2Proof.Machine.execMigrationCopyUnit src err s
  | .migrationEnd src => Sys2Proof.Machine.execMigrationEnd src s
  | .invalidatePage asid va => Sys2Proof.Machine.execInvalidatePage asid va s
  | .invalidateAsid asid => Sys2Proof.Machine.execInvalidateAsid asid s
  | .invalidateAll => Sys2Proof.Machine.execInvalidateAll s
  | .invalidationComplete => Sys2Proof.Machine.execInvalidationComplete s
  | .keyInstall asid keys => Sys2Proof.Machine.execKeyInstall asid keys s
  | .keyDestroy asid => Sys2Proof.Machine.execKeyDestroy asid s
  | .mcmdPreemptContext asid bound => Sys2Proof.Machine.execMcmdPreemptContext asid bound s
  | .mcmdResumeContext asid => Sys2Proof.Machine.execMcmdResumeContext asid s
  | .mcmdResetCore core => Sys2Proof.Machine.execMcmdResetCore core s
  | .mcmdDone => Sys2Proof.Machine.execMcmdDone s
  | .noticeClear bits => Sys2Proof.Machine.execNoticeClear bits s
  | .attestationRequest => Sys2Proof.Machine.execAttestationRequest s
  | .attestationReportDone => Sys2Proof.Machine.execAttestationReportDone s
  | .bootSequence cfg => Sys2Proof.Machine.execBootSequence cfg s
  | .clockStep power tdie thbm => Sys2Proof.Machine.execClockStep power tdie thbm s
  | .thermalShutdown tdie => Sys2Proof.Machine.execThermalShutdown tdie s
  | .hostMemoryWrite pa bytes => Sys2Proof.Machine.execHostMemoryWrite pa bytes s
  | .hostMemoryRead pa n => Sys2Proof.Machine.execHostMemoryRead pa n s
  | .cxlLinkDown port => Sys2Proof.Machine.execCxlLinkDown port s
  | .fabidWrite v => Sys2Proof.Machine.execFabidWrite v s
  | .registerWrite off bytes => Sys2Proof.Machine.execRegisterWrite off bytes s
  | .remoteTranslationRequest acc sasid va => Sys2Proof.Machine.execRemoteTranslationRequest acc sasid va s
  | .remoteInvalidation acc kind asid va => Sys2Proof.Machine.execRemoteInvalidation acc kind asid va s
  | .remoteReadArrival req => Sys2Proof.Machine.execRemoteReadArrival req s
  | .remoteWriteArrival req => Sys2Proof.Machine.execRemoteWriteArrival req s
  | .remoteResponse tag resp => Sys2Proof.Machine.execRemoteResponse tag resp s
  | .remoteRetransmit tag station => Sys2Proof.Machine.execRemoteRetransmit tag station s
  | .remoteTimeout tag => Sys2Proof.Machine.execRemoteTimeout tag s
  | .podBarrierReleaseNotice acc asid va phase => Sys2Proof.Machine.execPodBarrierReleaseNotice acc asid va phase s
  | .podExpiryNotice acc asid va => Sys2Proof.Machine.execPodExpiryNotice acc asid va s
  | .gatherAccept core ix => Sys2Proof.Machine.execGatherAccept core ix s
  | .sluiceFold op => Sys2Proof.Machine.execSluiceFold op s
  | .subrequestReceive sub => Sys2Proof.Machine.execSubrequestReceive sub s
  | .rillRowRead sub ix => Sys2Proof.Machine.execRillRowRead sub ix s
  | .rillRowUpdate sub row => Sys2Proof.Machine.execRillRowUpdate sub row s
  | .gatherMerge op ix => Sys2Proof.Machine.execGatherMerge op ix s
  | .gatherComplete op => Sys2Proof.Machine.execGatherComplete op s
  | .joinArrival ix => Sys2Proof.Machine.execJoinArrival ix s
  | .joinRelease launch => Sys2Proof.Machine.execJoinRelease launch s
  | .stragglerGraceExpiry block => Sys2Proof.Machine.execStragglerGraceExpiry block s
  | .hbmSelfRefreshExit stack => Sys2Proof.Machine.execHbmSelfRefreshExit stack s
  | .remoteBusyRetry tag => Sys2Proof.Machine.execRemoteBusyRetry tag s

end Sys2Proof.Machine
end

