-- ==== Sys2Proof/Machine/Turns.lean ====
section
/-! DEFINITION. Machine/Turns.lean: what one step of the package does: time passes, a partition issues a word or has a
run boundary, a unit acts, or a write of the register window takes effect (log 11, 26).
-/
namespace Sys2Proof.Machine

/-- The machine `ex` of instructions and events, run on one turn of the schedule. -/
def runTurn (ex : Instr → State → Res) (t : Turn) (s : State) : Res :=
  match t with
  | .tick cycles ns => .next { s with cycle := s.cycle + cycles, now := s.now + ns }
  | .issue core part =>
    match issuingGang s core part with
    | some _ => if partUsable s core part then issueWord ex core part s else .next s
    | none => ex (.runBoundary core part) s
  | .event i => ex i { s with cx := Cx.idle }
  | .sram gang idx => .next (sramTake s gang idx)
  -- what the byte reads as from now on is open (log 100)
  | .upset block pos off =>
    .next ({ s with free := s.free + 1 }.modBlock block (fun b => b.upsetAt pos off (Config.poisonByte s.free off)))

/-- R395: after a thermal shutdown nothing in the package acts; only time passes and the part can be booted again. -/
def offTurn (t : Turn) : Bool :=
  match t with
  | .tick .. | .event (.bootSequence _) => false
  | _ => true

/-- The next turn: a write of the register window that has reached the window's arbiter, which `wr` makes, else the
schedule's next turn, else an issue on the partition in focus. After a thermal shutdown no write is made (R395). -/
def takeTurn (ex : Instr → State → Res) (wr : Nat → List (Byte × Byte) → State → Res) (s : State) : Res :=
  match s.therm.shutdown, s.regQ with
  | false, (off, bytes) :: rest => wr off bytes { s with regQ := rest, cx := Cx.idle }
  | _, _ =>
    let t := (s.sched.head?).getD (.issue s.focus.1 s.focus.2)
    let s1 := { s with sched := s.sched.drop 1 }
    if s.therm.shutdown && offTurn t then .next s1 else runTurn ex t s1

/-! ### Placing an instruction for the next step -/

/-- A lane about to run at an address. -/
def Lane.fresh (pc : W64) : Lane := { Lane.empty with pc := pc, status := .runnable }

/-- A gang of 32 runnable threads on core 0, partition 0, whose run in issue holds one word, the last of its run. -/
def placedGang (uid : Nat) (w : W64) : Gang :=
  let regs : GangRegs := ⟨List.replicate 32 (Lane.fresh 0), [], fsrDefault, [], 0, 0, 0⟩
  { uid := uid, block := 0, idx := 0, core := 0, core0 := 0, pkgtag := 0, accel := 0, part := 0, slot := 0, vregs := 256, sregs := 512, regs := regs, run := 1,
    replays := 0, inActive := true, ageBase := 0, wasReady := true, yielded := false, seam := false, waits := [],
    donation := none, out := [], applied := [], relq := [], runs := [], gath := [],
    issue := some { start := 0, words := [w], idx := 0, clutch := 0xFFFFFFFF, gone := 0, pends := [], held := [],
                    snapshot := regs, targets := [], exits := 0, waits := [], waiters := 0, yielded := false },
    replayQ := [], ops := [], doneCopy := 0, doneMat := 0, doneGath := 0, follow := 0, ord := 1, nextId := 1,
    deferred := [], scales := [], pairSent := 0, pairLost := [] }

/-- The package with a word as the next one to issue: the gang that holds it alone is resident, and nothing else is due
first (log 27). -/
def placeWord (s : State) (w : W64) : State :=
  { s with gangs := [placedGang s.nextUid w], nextUid := s.nextUid + 1, sched := [], regQ := [], focus := (0, 0) }

end Sys2Proof.Machine
end

