-- ==== Sys2Proof/Safety.lean ====
section
/-! DEFINITION. Safety.lean: what a safe state is, in the terms the statements use. -/
namespace Sys2Proof.Machine

/-- The memory's canonical form: addresses strictly rising, and no listed byte equal to what an unlisted one reads as. -/
abbrev Memory.wf (m : List (Nat × Byte)) : Bool := tabWf 0 m

end Sys2Proof.Machine
end

