-- ==== Sys2Proof/Certificates/Slice0/Obligations.lean ====
section
/-! DEFINITION. Certificates/Slice0/Obligations.lean: the statements about this machine, and the terms they are written
in (namespace Sys2Proof.Claim).
-/
namespace Sys2Proof.Claim
open Sys2Proof.Machine

/-! ### Terms: words of lanes -/

/-- An operand's low bits, as many as its type is wide (R91). -/
def val (t : Ty) (n : Nat) : BitVec (tyWidth t) := BitVec.ofNat _ n

/-- The value of a bit pattern by the signedness of a type. -/
def num (t : Ty) (x : BitVec (tyWidth t)) : Int := if tySigned t then x.toInt else x.toNat

/-- A result with its condition code where CCE asks for it: S its top bit, Z that it is zero, C and V as given (R93). -/
def word {w : Nat} (f : RRR) (r : BitVec w) (c v : Bool) : LaneOut :=
  ⟨some r.toNat, if f.cce then some ⟨r.msb, r == 0, c, v⟩ else none, 0⟩

/-- A result alone. -/
def only {w : Nat} (r : BitVec w) : LaneOut := ⟨some r.toNat, none, 0⟩

/-- A condition code alone. -/
def code (k : Flags) : LaneOut := ⟨none, some k, 0⟩

/-- An exact value that is cut to a type's width, or under SAT clamped to its range (R87). -/
def fit (t : Ty) (sat : Bool) (x : Int) : BitVec (tyWidth t) :=
  BitVec.ofInt _ (if sat then max (intMin t) (min (intMax t) x) else x)

/-- Whether an exact value lies outside a type's range. -/
def outside (t : Ty) (x : Int) : Bool := decide (x < intMin t) || decide (intMax t < x)

/-- The state after a word of lanes has computed `f` in every lane that acts (R66): the results and condition codes are
delivered at the latency of the shape, and each stream port that the word names moves on by one element. -/
def laneState (sh : OpShape) (f : LaneIn → LaneOut) (s : State) (g : Gang) : State :=
  let c : Ctx := ⟨s, g, s.blockOf g⟩
  let lanes := lanesOf s.act
  let who := if opdUniform sh.d then lanes.take 1 else lanes
  let es := who.flatMap (fun i => sh.effects c i (if opdUniform sh.d then lanes else [i]) (f (sh.input c i)))
  if who = [] then s
  else s.onIssuer (fun g => who.foldl (fun g i => g.advancePorts i sh.ports) (g.deliver s.cx.pc s.cx.pos sh.lat es))

/-- THE WORD COMPLETES: issued for a resident gang, it computes `f` in each lane that acts. A lane with an unbound or too
narrow stream port faults and parks first (R36, R173) and takes no part. -/
def Answers (i : Instr) (sh : OpShape) (f : LaneIn → LaneOut) : Prop :=
  ∀ (s : State) (g : Gang), s.gang? s.cx.gang = some g →
    ∃ g1, (takeFaults s (sh.faults g (lanesOf s.act))).gang? s.cx.gang = some g1 ∧
      exec i s = .next (laneState sh f (takeFaults s (sh.faults g (lanesOf s.act))) g1)

/-- The shape of an RRR word of an integer: all operands of the word's type. -/
def intShape (f : RRR) (third : Bool) (lat : Option Nat) : OpShape :=
  { d := f.d, a := f.a, b := f.b, imm := none, wa := tyWidth f.ty == 64, wb := tyWidth f.ty == 64,
    wd := tyWidth f.ty == 64, third := third, t := f.ty, lat := lat, ccd := f.ccd }

/-- The type of an RI word: 64 bits for a scalar or commons D, else 32, read as signed (R72, R114). -/
def immTy (f : RI) : Ty := if opdUniform f.d then .i64 else .i32

/-- The shape of an RI word: B is its immediate, sign-extended. -/
def immShape (f : RI) (lat : Nat) : OpShape :=
  { d := f.d, a := f.a, b := .none, imm := some (f.imm.signExtend 64).toNat, wa := opdUniform f.d, wb := false,
    wd := opdUniform f.d, third := false, t := immTy f, lat := some lat, ccd := 0 }

end Sys2Proof.Claim

open Sys2Proof Sys2Proof.Machine Sys2Proof.Claim

/-! ### Words and their encodings -/

/-- R64 to R77: words that the manual writes out, or that follow bit by bit from its encoding tables, decode to the
instruction they stand for. -/
def Obligations.WordsOfTheManualDecode : Prop :=
  decode 0x0000028020100085#64 = .ok (.full .cont ⟨0, 0⟩ (.iadd ⟨.v 10, .v 2, .v 4, .n32, none, false, true, 1⟩)) ∧
  decode 0x200002C030141085#64 = .ok (.full .endRun ⟨0, 0⟩ (.iaddc ⟨.v 11, .v 3, .v 5, .n32, none, false, true, 1⟩)) ∧
  decode 0x000F413FF0000001#64 = .ok (.full .cont ⟨0, 0⟩ (.movi ⟨.s 4, .none, 1#28⟩)) ∧
  decode 0x0018008000000002#64 = .ok (.full .cont ⟨0, 0⟩ (.shlImm ⟨.v 2, .v 0, 2#28⟩)) ∧
  decode 0x4058011010080020#64 = .ok (.full .park ⟨0, 0⟩ (.ld ⟨.v 4, .s 1, .v 2, 0#12, .b32, false, 0⟩)) ∧
  decode 0x3128FFFFFFFBFFC0#64 = .ok (.full .endRun ⟨2, 2⟩ (.bra ⟨0xFFFFFFFB#32, .none, 0#6⟩)) ∧
  decode 0x002F00000000FFC0#64 = .ok (.full .cont ⟨0, 0⟩ (.nop ⟨0#32, .none, 0#6⟩)) ∧
  decode 0x0032010050180400#64 = .ok (.full .cont ⟨0, 0⟩ (.ffma ⟨.v 4, .v 5, .v 6, .f32, none, false, false, 0⟩)) ∧
  decode 0x003B01005FFC8590#64 =
    .ok (.full .cont ⟨0, 0⟩ (.fcvt ⟨.v 4, .v 5, .none, .bf16, some .rne, false, false, 0⟩ .f32)) ∧
  decode 0x0050010034501086#64 = .ok (.full .cont ⟨0, 0⟩ (.shflUp ⟨.v 4, .v 3, .s 20, .n32, none, false, true, 2⟩)) ∧
  decode 0x005142003FF40080#64 = .ok (.full .cont ⟨0, 0⟩ (.ballot ⟨.s 8, .v 3, .ones, .n32, none, false, false, 0⟩)) ∧
  decode 0x405E015020182820#64 =
    .ok (.full .park ⟨0, 0⟩ (.atom ⟨.v 5, .s 2, .v 6, .add, false, true, .b32, 0⟩)) ∧
  decode 0x2060FFD09FFC1400#64 = .ok (.full .endRun ⟨0, 0⟩ (.rtake ⟨.none, .s 9, .none⟩ 8)) ∧
  decode 0x0062413FFFFC0008#64 = .ok (.full .cont ⟨0, 0⟩ (.rdsp ⟨.s 4, .none, .none⟩ .part)) ∧
  decode 0x0067FFFFFFFC2000#64 = .ok (.full .cont ⟨0, 0⟩ (.phase ⟨.none, .none, .none⟩)) ∧
  decode 0x0070CA10AFFC0800#64 = .ok (.full .cont ⟨0, 0⟩ (.mma ⟨.m 0, .s 10, .none⟩ true)) ∧
  decode 0x0072CA50C0200000#64 = .ok (.full .cont ⟨0, 0⟩ (.mmas ⟨.m 1, .s 12, .v 8⟩ false)) ∧
  decode 0x4065FFFFFFFC0400#64 = .ok (.full .park ⟨0, 0⟩ (.waitc ⟨.none, .none, .none⟩ .matrix 0)) ∧
  decode 0x407AFFD044180000#64 = .ok (.full .park ⟨0, 0⟩ (.barw ⟨.none, .s 4, .s 6⟩)) ∧
  decode 0x407C415044182000#64 = .ok (.full .park ⟨0, 0⟩ (.migr ⟨.s 5, .s 4, .s 6⟩)) ∧
  decode 0x407D41D04FFC1000#64 = .ok (.full .park ⟨0, 0⟩ (.jwait ⟨.s 7, .s 4, .none⟩)) ∧
  decode 0x207EFFD0AFFC1000#64 = .ok (.full .endRun ⟨0, 0⟩ (.scad ⟨.none, .s 10, .none⟩)) ∧
  decode 0xA084008402120210#64 =
    .ok (.pair .endRun ⟨0, 0⟩ (.pairedIadd ⟨.v 8, .imm 1, 0⟩) ⟨0, 0⟩ (.pairedIadd ⟨.v 9, .imm 1, 0⟩))

/-- R64 to R77: EVERY WORD'S ENCODING DECODES TO IT: a word that no static check refuses, of any instruction with any
operands, fields, guard and seam, or of any legal pair, has an encoding, and that decodes to it. -/
def Obligations.EncodedWordsDecodeToThemselves : Prop :=
  ∀ d : DWord, d.wf = true → ∃ w, encode d = some w ∧ decode w = .ok d

/-- R64 to R78: NO BIT OF A WORD IS IGNORED: a word that decodes is the encoding of what it decodes to, so two different
words never decode to the same instruction. -/
def Obligations.DecodedWordsEncodeToThemselves : Prop :=
  ∀ (w : W64) (d : DWord), decode w = .ok d → encode d = some w

/-- R64, R65, R68, R76, R78: RESERVED FIELDS ARE REFUSED: SEAM 11 in any word, COND 15 in a full word, RND 6 or 7 in an
RRR word (a word of OPC 0x00 to 0x0E, 0x11 to 0x13 or 0x30 to 0x57), bit 0 of a paired word. -/
def Obligations.ReservedFieldsAreRefused : Prop :=
  ∀ w : W64,
    (w.extractLsb' 61 2 = 3#2 → decode w = .error .illegalSeam) ∧
    (w.getLsbD 63 = false → w.extractLsb' 61 2 ≠ 3#2 → w.extractLsb' 55 4 = 15#4 →
      decode w = .error .illegalInstruction) ∧
    (let opc := (w.extractLsb' 48 7).toNat;
      w.getLsbD 63 = false → w.extractLsb' 61 2 ≠ 3#2 →
      (opc ≤ 0x0E ∨ (0x11 ≤ opc ∧ opc ≤ 0x13) ∨ (0x30 ≤ opc ∧ opc ≤ 0x57)) → 6#3 ≤ w.extractLsb' 4 3 →
      decode w = .error .illegalInstruction) ∧
    (w.getLsbD 63 = true → w.extractLsb' 61 2 ≠ 3#2 → w.getLsbD 0 = true → decode w = .error .illegalPair)
/-! ### Integer words -/

namespace Sys2Proof.Claim
open Sys2Proof.Machine

/-- R95: a sum with a carry in: the carry out, and whether the signed sum fits. -/
def addWord (f : RRR) (i : LaneIn) (cin zin : Bool) : LaneOut :=
  let x := val f.ty i.a
  let y := val f.ty i.b
  let c : Nat := cin.toNat
  let r := x + y + BitVec.ofNat _ c
  let sx := x.toInt + y.toInt + c
  ⟨some r.toNat,
    if f.cce then some ⟨r.msb, r == 0 && zin, decide (2 ^ tyWidth f.ty ≤ x.toNat + y.toNat + c),
      decide (sx < -2 ^ (tyWidth f.ty - 1) ∨ 2 ^ (tyWidth f.ty - 1) ≤ sx)⟩ else none, 0⟩

/-- R95: the flags and the result of a difference with a not-borrow in. -/
def subFlags (t : Ty) (a b : Nat) (cin zin : Bool) : BitVec (tyWidth t) × Flags :=
  let x := val t a
  let y := val t b
  let c : Nat := (!cin).toNat
  let r := x - y - BitVec.ofNat _ c
  let sx := x.toInt - y.toInt - c
  (r, ⟨r.msb, r == 0 && zin, decide (y.toNat + c ≤ x.toNat),
    decide (sx < -2 ^ (tyWidth t - 1) ∨ 2 ^ (tyWidth t - 1) ≤ sx)⟩)

/-- R95: a difference. -/
def subWord (f : RRR) (i : LaneIn) (cin zin : Bool) : LaneOut :=
  ⟨some (subFlags f.ty i.a i.b cin zin).1.toNat, if f.cce then some (subFlags f.ty i.a i.b cin zin).2 else none, 0⟩

/-- An exact result clamped to the type's range, V telling that it lay outside (R96). -/
def satWord (f : RRR) (x : Int) : LaneOut := word f (fit f.ty true x) false (outside f.ty x)

end Sys2Proof.Claim

/-- R95, R96, R97, R112, R114: ADDITION AND SUBTRACTION complete with the sum or difference modulo 2^w and the four flags;
the saturating forms with the clamped one. -/
def Sys2Proof.Claim.integerAddAndSubtract : Prop :=
  (∀ f : RRR, tyInt f.ty = true →
    Answers (.iadd f) (intShape f false (some 1)) (fun i => addWord f i false true) ∧
    Answers (.iaddc f) (intShape f false (some 1)) (fun i => addWord f i i.k.c i.k.z) ∧
    Answers (.isub f) (intShape f false (some 1)) (fun i => subWord f i true true) ∧
    Answers (.isubb f) (intShape f false (some 1)) (fun i => subWord f i i.k.c i.k.z) ∧
    Answers (.iadds f) (intShape f false (some 1)) (fun i => satWord f (num f.ty (val f.ty i.a) + num f.ty (val f.ty i.b))) ∧
    Answers (.isubs f) (intShape f false (some 1)) (fun i => satWord f (num f.ty (val f.ty i.a) - num f.ty (val f.ty i.b))) ∧
    Answers (.ineg f) (intShape f false (some 1)) (fun i =>
      let x := num f.ty (val f.ty i.a)
      word f (fit f.ty f.sat (-x)) (val f.ty i.a == 0) (outside f.ty (-x))) ∧
    Answers (.cmp f) (intShape f false (some 1)) (fun i => code (subFlags f.ty i.a i.b true true).2)) ∧
  (∀ f : RI,
    Answers (.iaddImm f) (immShape f 1) (fun i => only (val (immTy f) i.a + val (immTy f) i.b)) ∧
    Answers (.cmpImm f)
      { d := f.d, a := f.a, b := .none, imm := some ((f.imm.extractLsb' 0 26).signExtend 64).toNat, wa := false, wb := false,
        wd := false, third := false, t := if opdPerLane f.a then .i32 else .i64, lat := some 1,
        ccd := fin4 (f.imm.extractLsb' 26 2) }
      (fun i => code (subFlags (if opdPerLane f.a then .i32 else .i64) i.a i.b true true).2))

/-- R97, R98, R99, R114: SIGN, ORDER AND PRODUCT. -/
def Sys2Proof.Claim.integerMultiplyAndOrder : Prop :=
  (∀ f : RRR, tyInt f.ty = true →
    Answers (.imin f) (intShape f false (some 1)) (fun i =>
      word f (BitVec.ofInt (tyWidth f.ty) (min (num f.ty (val f.ty i.a)) (num f.ty (val f.ty i.b)))) false false) ∧
    Answers (.imax f) (intShape f false (some 1)) (fun i =>
      word f (BitVec.ofInt (tyWidth f.ty) (max (num f.ty (val f.ty i.a)) (num f.ty (val f.ty i.b)))) false false) ∧
    Answers (.imul f) (intShape f false (some 3)) (fun i =>
      let x := num f.ty (val f.ty i.a) * num f.ty (val f.ty i.b)
      word f (fit f.ty f.sat x) false (outside f.ty x)) ∧
    Answers (.imulh f) (intShape f false (some 3)) (fun i =>
      only (if tySigned f.ty then
          ((val f.ty i.a).signExtend (2 * tyWidth f.ty) * (val f.ty i.b).signExtend (2 * tyWidth f.ty)).extractLsb'
            (tyWidth f.ty) (tyWidth f.ty)
        else
          ((val f.ty i.a).setWidth (2 * tyWidth f.ty) * (val f.ty i.b).setWidth (2 * tyWidth f.ty)).extractLsb'
            (tyWidth f.ty) (tyWidth f.ty))) ∧
    Answers (.imad f) (intShape f true (some 3)) (fun i =>
      let x := num f.ty (val f.ty i.a) * num f.ty (val f.ty i.b) + num f.ty (val f.ty i.d)
      word f (fit f.ty f.sat x) false (outside f.ty x))) ∧
  (∀ f : RRR, tySigned f.ty = true →
    Answers (.iabs f) (intShape f false (some 1)) (fun i =>
      let x := (val f.ty i.a).toInt
      word f (fit f.ty f.sat (max x (-x))) false (val f.ty i.a == BitVec.intMin _))) ∧
  (∀ f : RRR,
    (f.ty = .i32 → Answers (.imadw f) { intShape f true (some 3) with wd := true, t := .i64 } (fun i =>
      only ((BitVec.ofNat 32 i.a).signExtend 64 * (BitVec.ofNat 32 i.b).signExtend 64 + BitVec.ofNat 64 i.d))) ∧
    (f.ty = .n32 → Answers (.imadw f) { intShape f true (some 3) with wd := true, t := .n64 } (fun i =>
      only ((BitVec.ofNat 32 i.a).setWidth 64 * (BitVec.ofNat 32 i.b).setWidth 64 + BitVec.ofNat 64 i.d)))) ∧
  (∀ f : RI, Answers (.imulImm f) (immShape f 3) (fun i => only (val (immTy f) i.a * val (immTy f) i.b)))

/-- R95 to R99, R112, R114: INTEGER ARITHMETIC: sums, differences, signs, order and products, with their flags. -/
def Obligations.IntegerArithmetic : Prop :=
  Sys2Proof.Claim.integerAddAndSubtract ∧ Sys2Proof.Claim.integerMultiplyAndOrder

/-- R100: DIVISION rounds toward zero; a zero divisor gives all ones and the dividend, with V. -/
def Obligations.IntegerDivision : Prop :=
  ∀ f : RRR, tyInt f.ty = true →
    Answers (.idiv f) (intShape f false none) (fun i =>
      let x := val f.ty i.a
      let y := val f.ty i.b
      if y = 0 then word f (BitVec.allOnes (tyWidth f.ty)) false true
      else if tySigned f.ty then word f (x.sdiv y) false (x == BitVec.intMin _ && y == BitVec.allOnes _)
      else word f (x.udiv y) false false) ∧
    Answers (.irem f) (intShape f false none) (fun i =>
      let x := val f.ty i.a
      let y := val f.ty i.b
      if y = 0 then word f x false true
      else if tySigned f.ty then word f (x.srem y) false (x == BitVec.intMin _ && y == BitVec.allOnes _)
      else word f (x.umod y) false false)

/-- R101, R102, R103, R112, R114: LOGIC AND SHIFTS. The amount of a shift is taken modulo the width. -/
def Sys2Proof.Claim.integerLogicAndShifts : Prop :=
  (∀ f : RRR, tyInt f.ty = true →
    Answers (.and f) (intShape f false (some 1)) (fun i => word f (val f.ty i.a &&& val f.ty i.b) false false) ∧
    Answers (.or f) (intShape f false (some 1)) (fun i => word f (val f.ty i.a ||| val f.ty i.b) false false) ∧
    Answers (.xor f) (intShape f false (some 1)) (fun i => word f (val f.ty i.a ^^^ val f.ty i.b) false false) ∧
    Answers (.andn f) (intShape f false (some 1)) (fun i => word f (val f.ty i.a &&& ~~~val f.ty i.b) false false) ∧
    Answers (.orn f) (intShape f false (some 1)) (fun i => word f (val f.ty i.a ||| ~~~val f.ty i.b) false false) ∧
    Answers (.tst f) (intShape f false (some 1)) (fun i =>
      let r := val f.ty i.a &&& val f.ty i.b
      code ⟨r.msb, r == 0, false, false⟩) ∧
    Answers (.shl f) (intShape f false (some 1)) (fun i =>
      let n := i.b % tyWidth f.ty
      word f (val f.ty i.a <<< n) (n != 0 && (val f.ty i.a).getLsbD (tyWidth f.ty - n)) false) ∧
    Answers (.shr f) (intShape f false (some 1)) (fun i =>
      let n := i.b % tyWidth f.ty
      word f (val f.ty i.a >>> n) (n != 0 && (val f.ty i.a).getLsbD (n - 1)) false) ∧
    Answers (.sar f) (intShape f false (some 1)) (fun i =>
      let n := i.b % tyWidth f.ty
      word f ((val f.ty i.a).sshiftRight n) (n != 0 && (val f.ty i.a).getLsbD (n - 1)) false) ∧
    Answers (.rol f) (intShape f false (some 1)) (fun i =>
      let n := i.b % tyWidth f.ty
      let r := (val f.ty i.a).rotateLeft n
      word f r (n != 0 && r.getLsbD 0) false)) ∧
  (∀ f : RRR, tyWord f.ty = true →
    Answers (.fshl f) (intShape f true (some 1)) (fun i =>
      only (((val f.ty i.a ++ val f.ty i.d) <<< (i.b % tyWidth f.ty)).extractLsb' (tyWidth f.ty) (tyWidth f.ty))) ∧
    Answers (.fshr f) (intShape f true (some 1)) (fun i =>
      only (((val f.ty i.a ++ val f.ty i.d) >>> (i.b % tyWidth f.ty)).extractLsb' 0 (tyWidth f.ty)))) ∧
  (∀ f : RI,
    Answers (.andImm f) (immShape f 1) (fun i => only (val (immTy f) i.a &&& val (immTy f) i.b)) ∧
    Answers (.orImm f) (immShape f 1) (fun i => only (val (immTy f) i.a ||| val (immTy f) i.b)) ∧
    Answers (.xorImm f) (immShape f 1) (fun i => only (val (immTy f) i.a ^^^ val (immTy f) i.b)) ∧
    Answers (.shlImm f) (immShape f 1) (fun i => only (val (immTy f) i.a <<< (i.b % tyWidth (immTy f)))) ∧
    Answers (.shrImm f) (immShape f 1) (fun i => only (val (immTy f) i.a >>> (i.b % tyWidth (immTy f)))) ∧
    Answers (.sarImm f) (immShape f 1) (fun i => only ((val (immTy f) i.a).sshiftRight (i.b % tyWidth (immTy f)))))

/-- R104 to R108, R111: FIELDS, COUNTS, BYTES AND SELECTION. -/
def Sys2Proof.Claim.integerFieldsAndCounts : Prop :=
  (∀ f : RRR, tyInt f.ty = true →
    Answers (.bfx f) (intShape f false (some 1)) (fun i =>
      let x := (val f.ty i.a >>> (i.b % 64)).extractLsb' 0 (i.b / 64 % 64)
      word f (if tySigned f.ty then x.signExtend (tyWidth f.ty) else x.setWidth (tyWidth f.ty)) false false) ∧
    Answers (.bfi f) (intShape f true (some 1)) (fun i =>
      let m : BitVec (tyWidth f.ty) := BitVec.ofNat _ (2 ^ (i.b / 64 % 64) - 1) <<< (i.b % 64)
      only ((val f.ty i.d &&& ~~~m) ||| ((val f.ty i.a <<< (i.b % 64)) &&& m))) ∧
    Answers (.brev f) (intShape f false (some 1)) (fun i => word f (val f.ty i.a).reverse false false) ∧
    Answers (.popc f) (intShape f false (some 1)) (fun i => word f (val f.ty i.a).cpop false false) ∧
    Answers (.clz f) (intShape f false (some 1)) (fun i => word f (val f.ty i.a).clz false false) ∧
    Answers (.ctz f) (intShape f false (some 1)) (fun i => word f (val f.ty i.a).ctz false false) ∧
    Answers (.sext f) (intShape f false (some 1)) (fun i =>
      let n := (val f.ty i.b).toNat
      word f (if n < tyWidth f.ty then ((val f.ty i.a).setWidth n).signExtend (tyWidth f.ty) else val f.ty i.a) false false) ∧
    Answers (.zext f) (intShape f false (some 1)) (fun i =>
      let n := (val f.ty i.b).toNat
      word f (if n < tyWidth f.ty then ((val f.ty i.a).setWidth n).setWidth (tyWidth f.ty) else val f.ty i.a) false false) ∧
    Answers (.sel f) (intShape f true (some 1)) (fun i =>
      only ((val f.ty i.a &&& val f.ty i.d) ||| (val f.ty i.b &&& ~~~val f.ty i.d)))) ∧
  (∀ f : RRR, tyWord f.ty = true →
    Answers (.permb f) (intShape f false (some 1)) (fun i =>
      ⟨some (leValue ((List.range (tyWidth f.ty / 8)).map (fun j =>
        let n := ((val f.ty i.b).extractLsb' (4 * j) 4).toNat
        if tyWidth f.ty / 8 ≤ n then 0#8 else (val f.ty i.a).extractLsb' (8 * n) 8))), none, 0⟩)) ∧
  (∀ f : RI, f.imm.toNat < 2 ^ 12 →
    Answers (.bfxImm f) (immShape f 1) (fun i =>
      only (((val (immTy f) i.a >>> (i.b % 64)).extractLsb' 0 (i.b / 64 % 64)).signExtend (tyWidth (immTy f)))))

/-- R101 to R108, R111, R112, R114: LOGIC, SHIFTS, FIELDS, COUNTS, BYTES AND SELECTION. -/
def Obligations.IntegerLogicShiftsAndFields : Prop :=
  Sys2Proof.Claim.integerLogicAndShifts ∧ Sys2Proof.Claim.integerFieldsAndCounts

/-- R109, R110, R113: MOVES, CONSTANTS AND CONDITION CODES. -/
def Obligations.MovesAndConditionCodes : Prop :=
  (∀ f : RRR,
    Answers (.mov f) (intShape f false (some 1)) (fun i => ⟨some i.a, none, 0⟩)) ∧
  (∀ f : RRR, f.ty = .n32 →
    Answers (.setk f) (intShape f false (some 1)) (fun i =>
      code ⟨(val .n32 i.a).getLsbD 3, (val .n32 i.a).getLsbD 2, (val .n32 i.a).getLsbD 1, (val .n32 i.a).getLsbD 0⟩) ∧
    Answers (.getk f) (intShape f false (some 1)) (fun i =>
      only (BitVec.ofBool i.k.s ++ BitVec.ofBool i.k.z ++ BitVec.ofBool i.k.c ++ BitVec.ofBool i.k.v))) ∧
  (∀ f : RI,
    Answers (.movi f) (immShape f 1) (fun _ => only (f.imm.signExtend 64)) ∧
    Answers (.movh f) (immShape f 1) (fun i =>
      only ((val (immTy f) i.a <<< 28) ||| f.imm.setWidth (tyWidth (immTy f)))))
/-! ### Floating-point words -/

namespace Sys2Proof.Claim
open Sys2Proof.Machine

/-- R74: four words, eight for binary64. -/
def fShape (f : RRR) (third : Bool) : OpShape := intShape f third (some (if f.ty = .f64 then 8 else 4))

/-- A word that rounds an exact value once, under the word's or the governing register's mode (R53), with that register's
FTZ; its flags are those of the exact operation and of the rounding (R126). -/
def rounded (f : RRR) (i : LaneIn) (x : FVal × FFlags) : LaneOut :=
  let y := roundVal (fmtOf f.ty) (f.rnd.getD (fsrRm i.fsr)) (fsrFtz i.fsr) x.1
  ⟨some y.1, none, x.2 ||| y.2⟩

/-- An operand's exact value; a subnormal reads as zero under DAZ (R49). -/
def exact (f : RRR) (i : LaneIn) (x : Nat) : FVal := fvalue (fmtOf f.ty) (fsrDaz i.fsr) (val f.ty x).toNat

/-- The value as a rational number; 0 for what is none. -/
def rat : FVal → Rat
  | .fin neg m e => (if neg then -(m : Rat) else m) * (2 : Rat) ^ e
  | _ => 0

/-- Whether a value is finite. -/
def finite : FVal → Bool
  | .fin .. => true
  | _ => false

end Sys2Proof.Claim

/-- R126, R128, R129, R132, R136: FLOATING-POINT ARITHMETIC completes with the exact result of its operands' values, rounded
once. -/
def Obligations.FloatArithmeticRoundsOnce : Prop :=
  ∀ f : RRR, tyFour f.ty = true →
    Answers (.fadd f) (fShape f false) (fun i =>
      rounded f i (faddV (f.rnd.getD (fsrRm i.fsr)) (exact f i i.a) (exact f i i.b))) ∧
    Answers (.fsub f) (fShape f false) (fun i =>
      rounded f i (faddV (f.rnd.getD (fsrRm i.fsr)) (exact f i i.a) (fnegV (exact f i i.b)))) ∧
    Answers (.fmul f) (fShape f false) (fun i => rounded f i (fmulV (exact f i i.a) (exact f i i.b))) ∧
    Answers (.ffma f) (fShape f true) (fun i =>
      rounded f i (ffmaV (f.rnd.getD (fsrRm i.fsr)) (exact f i i.a) (exact f i i.b) (exact f i i.d))) ∧
    ((f.ty = .f16 ∨ f.ty = .bf16) → Answers (.ffma2 f) { fShape f true with t := .n32 } (fun i =>
      let half := fun (h : Nat) (x : Nat) => exact f i ((BitVec.ofNat 32 x).extractLsb' (16 * h) 16).toNat
      let out := fun (h : Nat) => rounded f i (ffmaV (f.rnd.getD (fsrRm i.fsr)) (half h i.a) (half h i.b) (half h i.d))
      ⟨some ((out 0).res.getD 0 + 2 ^ 16 * (out 1).res.getD 0), none, (out 0).fl ||| (out 1).fl⟩)) ∧
    Answers (.fscale f) { fShape f false with wb := false } (fun i =>
      rounded f i (fscaleV (exact f i i.a) (BitVec.ofNat 32 i.b).toInt)) ∧
    Answers (.fdiv f) (intShape f false none) (fun i => rounded f i (fdivV (exact f i i.a) (exact f i i.b))) ∧
    Answers (.frcp f) (intShape f false none) (fun i => rounded f i (fdivV (.fin false 1 0) (exact f i i.a))) ∧
    Answers (.fsqrt f) (intShape f false none) (fun i => rounded f i (fsqrtV (exact f i i.a)))

/-- R130, R131, R133 to R135: ORDER, SIGN AND CLASS of floating-point values. That `%sfsr` governs FCMP of two scalars, which gives
every lane the same flags (R134), is log 71 (DESIGN CHOICE). -/
def Obligations.FloatOrderSignAndClass : Prop :=
  ∀ f : RRR, tyFour f.ty = true →
    Answers (.fmin f) (fShape f false) (fun i => fpOut (fminmax (fmtOf f.ty) (fsrDaz i.fsr) true false i.a i.b)) ∧
    Answers (.fmax f) (fShape f false) (fun i => fpOut (fminmax (fmtOf f.ty) (fsrDaz i.fsr) true true i.a i.b)) ∧
    Answers (.fminm f) (fShape f false) (fun i => fpOut (fminmax (fmtOf f.ty) (fsrDaz i.fsr) false false i.a i.b)) ∧
    Answers (.fmaxm f) (fShape f false) (fun i => fpOut (fminmax (fmtOf f.ty) (fsrDaz i.fsr) false true i.a i.b)) ∧
    Answers (.fabs f) (intShape f false (some 1)) (fun i =>
      let x := val f.ty i.a
      ⟨some (if isNan (fdecode (fmtOf f.ty) x.toNat) then canonNan (fmtOf f.ty) else x.toNat % 2 ^ (tyWidth f.ty - 1)), none, 0⟩) ∧
    Answers (.fneg f) (intShape f false (some 1)) (fun i =>
      let x := val f.ty i.a
      ⟨some (if isNan (fdecode (fmtOf f.ty) x.toNat) then canonNan (fmtOf f.ty)
        else (x ^^^ BitVec.intMin (tyWidth f.ty)).toNat), none, 0⟩) ∧
    Answers (.fcpys f) (intShape f false (some 1)) (fun i =>
      let x := val f.ty i.a
      ⟨some (if isNan (fdecode (fmtOf f.ty) x.toNat) then canonNan (fmtOf f.ty)
        else x.toNat % 2 ^ (tyWidth f.ty - 1) + (if (val f.ty i.b).msb then 2 ^ (tyWidth f.ty - 1) else 0)), none, 0⟩) ∧
    Answers (.fcmp f) { fShape f false with d := fcmpGov f } (fun i =>
      ⟨none, some (relFlags (frel (exact f i i.a) (exact f i i.b))),
        nanFlags (exact f i i.a) ||| nanFlags (exact f i i.b)⟩) ∧
    Answers (.fclass f) { fShape f false with wb := false, wd := false, t := .n32 } (fun i =>
      ⟨some (fclass (fmtOf f.ty) (val f.ty i.a).toNat &&& (if f.b = .none then 2 ^ 32 - 1 else i.b)), none, 0⟩) ∧
    Answers (.frint f) (fShape f false) (fun i =>
      fpOut (frint (fmtOf f.ty) (f.rnd.getD (fsrRm i.fsr)) (exact f i i.a)))

/-- R137, R138: THE SPECIAL FUNCTIONS complete at a park seam with `fspecial` of the operand, the mode and the governing
register's DAZ and FTZ, and with its flags. -/
def Sys2Proof.Claim.specialFunctionsAnswer : Prop :=
  ∀ f : RRR, tyFour f.ty = true →
    Answers (.frsq f) (intShape f false none) (specialOut f .frsq) ∧
    Answers (.fex2 f) (intShape f false none) (specialOut f .fex2) ∧
    Answers (.flg2 f) (intShape f false none) (specialOut f .flg2) ∧
    Answers (.fsin f) (intShape f false none) (specialOut f .fsin) ∧
    Answers (.fcos f) (intShape f false none) (specialOut f .fcos)

/-- R138: THE EXACT CASES of the special functions, in every type and mode and whatever the device's own offset: zeros,
infinities, NaNs, negative operands, and powers whose result is representable, with only the flags of the table; FTZ then
acts as on any result (R49). -/
def Sys2Proof.Claim.specialFunctionsAreExact : Prop :=
  ∀ (t : Ty) (rnd : Nat) (mode : Rnd) (daz ftz : Bool) (a : Nat), tyFour t = true → a < 2 ^ tyWidth t →
    let f := fmtOf t
    let x := fvalue f daz a
    let out := fun (fm : SForm) => fspecial fm t rnd mode daz ftz a
    let one := roundVal f mode ftz (.fin false 1 0)
    (∀ sig, x = .nan sig → ∀ fm, out fm = (canonNan f, if sig then flIV else 0)) ∧
    (∀ neg, x = .inf neg →
      out .frsq = (if neg then (canonNan f, flIV) else (0, 0)) ∧ out .fex2 = (if neg then (0, 0) else (finfEnc f false, 0)) ∧
      out .flg2 = (if neg then (canonNan f, flIV) else (finfEnc f false, 0)) ∧
      out .fsin = (canonNan f, flIV) ∧ out .fcos = (canonNan f, flIV)) ∧
    (∀ neg e, x = .fin neg 0 e →
      out .frsq = (finfEnc f neg, flDZ) ∧ out .fex2 = one ∧ out .flg2 = (finfEnc f true, flDZ) ∧
      out .fsin = (fsignBit f neg, 0) ∧ out .fcos = one) ∧
    (∀ m e, x = .fin true m e → m ≠ 0 → out .frsq = (canonNan f, flIV) ∧ out .flg2 = (canonNan f, flIV)) ∧
    (∀ k : Int, finite x = true → rat x = (2 : Rat) ^ k → out .flg2 = roundVal f mode ftz (ofIntV k)) ∧
    (∀ k : Int, finite x = true → rat x = (4 : Rat) ^ k →
      (∃ b, finite (fdecode f b) = true ∧ rat (fdecode f b) = (2 : Rat) ^ (-k)) →
      out .frsq = roundVal f mode ftz (.fin false 1 (-k))) ∧
    (∀ k : Int, finite x = true → rat x = (k : Rat) → (∃ b, finite (fdecode f b) = true ∧ rat (fdecode f b) = (2 : Rat) ^ k) →
      out .fex2 = roundVal f mode ftz (.fin false 1 k))

/-- R49, R56, R139 to R143: CONVERSIONS, the dot product and the DS8 quantiser. That DAZ spares a subnormal operand converted into an
8-bit or narrower format or DS8 is log 101 (DEDUCED). -/
def Sys2Proof.Claim.floatConversions : Prop :=
  (∀ (f : RRR) (src : Ty),
    let lat := if f.ty = .f64 ∨ src = .f64 then 8 else 4
    let sh := { intShape f false (some lat) with wa := tyWidth src == 64 }
    ((tyInt f.ty = false ∧ tyInt src = false) →
      Answers (.fcvt f src) sh (fun i =>
        let x := if src = .ds8 then ds8Value (val .n8 i.a).toNat else fvalue (fmtOf src) (fsrDaz i.fsr && (f.ty == .f64 || f.ty == .f32 || f.ty == .f16 || f.ty == .bf16)) (val src i.a).toNat
        fpOut (fcvtV f.ty (f.rnd.getD (fsrRm i.fsr)) f.sat (fsrFtz i.fsr) x))) ∧
    ((tyInt f.ty = true ∧ tyFour src = true) →
      Answers (.ftoi f src) sh (fun i =>
        let r := ftoiV f.ty (f.rnd.getD (fsrRm i.fsr)) (fvalue (fmtOf src) (fsrDaz i.fsr) (val src i.a).toNat)
        ⟨some (BitVec.ofInt (tyWidth f.ty) r.1).toNat, none, r.2⟩)) ∧
    ((tyFour f.ty = true ∧ tyInt src = true) →
      Answers (.itof f src) sh (fun i =>
        fpOut (roundVal (fmtOf f.ty) (f.rnd.getD (fsrRm i.fsr)) (fsrFtz i.fsr) (ofIntV (num src (val src i.a))))))) ∧
  (∀ f : RRR,
    ((f.ty = .e4m3 ∨ f.ty = .e5m2) → Answers (.fdot4 f) { intShape f true (some 4) with t := .f32 } (fun i =>
      fpOut (fdot4 f.ty (f.rnd.getD (fsrRm i.fsr)) (fsrDaz i.fsr) (fsrFtz i.fsr) i.a i.b i.d))) ∧
    (f.ty = .ds8 → Answers (.qds8 f) (intShape f false (some 4)) (fun i =>
      fpOut (qds8 i.a (if f.b = .none then 0x7F else i.b % 256)))))

/-- R137 to R143: THE SPECIAL FUNCTIONS AND THE CONVERSIONS. -/
def Obligations.SpecialFunctionsAndConversions : Prop :=
  Sys2Proof.Claim.specialFunctionsAnswer ∧ Sys2Proof.Claim.specialFunctionsAreExact ∧ Sys2Proof.Claim.floatConversions

/-- R126: THE EXACT OPERATIONS ARE EXACT: of finite operands, the sum, difference and product before rounding are those of
the rational numbers, and the relation of two values is that of their numbers. -/
def Sys2Proof.Claim.exactOperationsAreExact : Prop :=
  ∀ (m : Rnd) (a b : FVal), finite a = true → finite b = true →
    finite (faddV m a b).1 = true ∧ rat (faddV m a b).1 = rat a + rat b ∧ (faddV m a b).2 = 0 ∧
    finite (fmulV a b).1 = true ∧ rat (fmulV a b).1 = rat a * rat b ∧ (fmulV a b).2 = 0 ∧
    rat (fnegV a) = -rat a ∧
    (frel a b = .lt ↔ rat a < rat b) ∧ (frel a b = .eq ↔ rat a = rat b) ∧ (frel a b = .gt ↔ rat b < rat a)

/-- R46, R47: ROUNDING OF A FINITE VALUE without a flush: RTZ delivers the number of the format next to it on the side of zero,
RUP and RDN, where they deliver a finite number, the next one above and the next one below, and RNE and RNA, where they
do, the nearest one: of two equally near ones RNE that whose last bit is 0 and RNA that farther from zero. -/
def Sys2Proof.Claim.roundingIsDirected : Prop :=
  ∀ (t : Ty) (neg : Bool) (m : Nat) (e : Int), tyFour t = true →
    let x : FVal := .fin neg m e
    let code := fun (mode : Rnd) => (roundFin (fmtOf t) mode false neg m e).1
    let deliv := fun (mode : Rnd) => fdecode (fmtOf t) (code mode)
    let numbers := fun (p : Rat → Prop) => ∀ b, b < 2 ^ tyWidth t → finite (fdecode (fmtOf t) b) = true → p (rat (fdecode (fmtOf t) b))
    let off := fun (y : Rat) => |rat x - y|
    (finite (deliv .rtz) = true ∧
      (if neg then rat x ≤ rat (deliv .rtz) ∧ rat (deliv .rtz) ≤ 0 ∧ numbers (fun y => rat x ≤ y → rat (deliv .rtz) ≤ y)
        else 0 ≤ rat (deliv .rtz) ∧ rat (deliv .rtz) ≤ rat x ∧ numbers (fun y => y ≤ rat x → y ≤ rat (deliv .rtz)))) ∧
    (finite (deliv .rup) = true → rat x ≤ rat (deliv .rup) ∧ numbers (fun y => rat x ≤ y → rat (deliv .rup) ≤ y)) ∧
    (finite (deliv .rdn) = true → rat (deliv .rdn) ≤ rat x ∧ numbers (fun y => y ≤ rat x → y ≤ rat (deliv .rdn))) ∧
    (finite (deliv .rne) = true → numbers (fun y => off (rat (deliv .rne)) ≤ off y ∧
      (y ≠ rat (deliv .rne) → off y = off (rat (deliv .rne)) → code .rne % 2 = 0))) ∧
    (finite (deliv .rna) = true → numbers (fun y => off (rat (deliv .rna)) ≤ off y ∧
      (y ≠ rat (deliv .rna) → off y = off (rat (deliv .rna)) → |y| < |rat (deliv .rna)|)))

/-- R44, R46: A NUMBER OF THE FORMAT IS ROUNDED TO ITSELF: a finite encoding's value, rounded under any mode without FTZ,
is that encoding again and raises no flag. -/
def Sys2Proof.Claim.roundingKeepsFormatNumbers : Prop :=
  ∀ (t : Ty) (mode : Rnd) (b : Nat), (tyInt t = false ∧ t ≠ .ds8) → b < 2 ^ tyWidth t → finite (fdecode (fmtOf t) b) = true →
    roundVal (fmtOf t) mode false (fdecode (fmtOf t) b) = (b, 0)
/-! ### Short words of a pair -/

/-- R44, R46, R47, R126: EXACT OPERATIONS, AND WHAT ROUNDING DOES TO A NUMBER. -/
def Obligations.ExactnessAndRounding : Prop :=
  Sys2Proof.Claim.exactOperationsAreExact ∧ Sys2Proof.Claim.roundingIsDirected ∧ Sys2Proof.Claim.roundingKeepsFormatNumbers

namespace Sys2Proof.Claim
open Sys2Proof.Machine

/-- R75, R77: the shape of a slot: D is the first operand and S the second, 32 bits each; S may be an immediate, for a
floating-point slot converted exactly. -/
def pairShape (f : Slot) (d : Opd) (float : Bool) (lat : Nat) : OpShape :=
  { d := d, a := sdstOpd f.d, b := ssrcOpd f.s
    imm := match f.s with
      | .imm x => some (if float then (roundVal (fmtOf .f32) .rne false (ofIntV x.toInt)).1 else (x.signExtend 32).toNat)
      | _ => none
    wa := false, wb := false, wd := false, third := false, t := if float then .f32 else .i32, lat := some lat
    ccd := f.qual }

/-- The 32-bit operands of a slot. -/
def pairOp (op : BitVec 32 → BitVec 32 → BitVec 32) (i : LaneIn) : LaneOut :=
  only (op (BitVec.ofNat 32 i.a) (BitVec.ofNat 32 i.b))

/-- A floating-point slot, rounded once by the mode of QUAL: 1 RNE, 2 RTZ, else the governing register's. -/
def pairFloat (f : Slot) (op : Rnd → FVal → FVal → FVal × FFlags) (i : LaneIn) : LaneOut :=
  let m : Rnd := if f.qual = 1 then .rne else if f.qual = 2 then .rtz else fsrRm i.fsr
  let x := op m (fvalue (fmtOf .f32) (fsrDaz i.fsr) (val .f32 i.a).toNat) (fvalue (fmtOf .f32) (fsrDaz i.fsr) (val .f32 i.b).toNat)
  let y := roundVal (fmtOf .f32) m (fsrFtz i.fsr) x.1
  ⟨some y.1, none, x.2 ||| y.2⟩

/-- R77: a compare slot writes its flags once for the gang where D is scalar and S is no operand of the lanes. -/
def pairCmp (f : Slot) : Opd := if opdUniform (sdstOpd f.d) && !(opdLanes (ssrcOpd f.s)) then sdstOpd f.d else .none

end Sys2Proof.Claim

/-- R77: THE SHORT INSTRUCTIONS complete with D = D op S on 32 bits, the compares with flags in `k`(QUAL), a NOP with no
change. -/
def Obligations.ShortInstructionsAnswer : Prop :=
  ∀ f : Slot,
    (∀ s, exec (.pairedNop f) s = .next s) ∧
    Answers (.pairedIadd f) (pairShape f (sdstOpd f.d) false 1) (pairOp (· + ·)) ∧
    Answers (.pairedIsub f) (pairShape f (sdstOpd f.d) false 1) (pairOp (· - ·)) ∧
    Answers (.pairedImul f) (pairShape f (sdstOpd f.d) false 3) (pairOp (· * ·)) ∧
    Answers (.pairedImin f) (pairShape f (sdstOpd f.d) false 1)
      (pairOp (fun x y => if (if f.qual = 0 then y.slt x else y.ult x) then y else x)) ∧
    Answers (.pairedImax f) (pairShape f (sdstOpd f.d) false 1)
      (pairOp (fun x y => if (if f.qual = 0 then x.slt y else x.ult y) then y else x)) ∧
    Answers (.pairedAnd f) (pairShape f (sdstOpd f.d) false 1) (pairOp (· &&& ·)) ∧
    Answers (.pairedOr f) (pairShape f (sdstOpd f.d) false 1) (pairOp (· ||| ·)) ∧
    Answers (.pairedXor f) (pairShape f (sdstOpd f.d) false 1) (pairOp (· ^^^ ·)) ∧
    Answers (.pairedAndn f) (pairShape f (sdstOpd f.d) false 1) (pairOp (fun x y => x &&& ~~~y)) ∧
    Answers (.pairedShl f) (pairShape f (sdstOpd f.d) false 1) (pairOp (fun x y => x <<< (y.toNat % 32))) ∧
    Answers (.pairedShr f) (pairShape f (sdstOpd f.d) false 1) (pairOp (fun x y => x >>> (y.toNat % 32))) ∧
    Answers (.pairedSar f) (pairShape f (sdstOpd f.d) false 1) (pairOp (fun x y => x.sshiftRight (y.toNat % 32))) ∧
    Answers (.pairedMov f) { pairShape f (sdstOpd f.d) false 1 with a := .none } (pairOp (fun _ y => y)) ∧
    Answers (.pairedCmp f) (pairShape f (pairCmp f) false 1) (fun i => code (subFlags .i32 i.a i.b true true).2) ∧
    Answers (.pairedTst f) (pairShape f (pairCmp f) false 1) (fun i =>
      let r := BitVec.ofNat 32 i.a &&& BitVec.ofNat 32 i.b
      code ⟨r.msb, r == 0, false, false⟩) ∧
    Answers (.pairedFadd f) (pairShape f (sdstOpd f.d) true 4) (pairFloat f faddV) ∧
    Answers (.pairedFsub f) (pairShape f (sdstOpd f.d) true 4) (pairFloat f (fun m x y => faddV m x (fnegV y))) ∧
    Answers (.pairedFmul f) (pairShape f (sdstOpd f.d) true 4) (pairFloat f (fun _ x y => fmulV x y)) ∧
    Answers (.pairedFmin f) (pairShape f (sdstOpd f.d) true 4) (fun i =>
      fpOut (fminmax (fmtOf .f32) (fsrDaz i.fsr) true false i.a i.b)) ∧
    Answers (.pairedFmax f) (pairShape f (sdstOpd f.d) true 4) (fun i =>
      fpOut (fminmax (fmtOf .f32) (fsrDaz i.fsr) true true i.a i.b)) ∧
    Answers (.pairedFcmp f) (pairShape f (pairCmp f) true 4) (fun i =>
      let x := fvalue (fmtOf .f32) (fsrDaz i.fsr) (val .f32 i.a).toNat
      let y := fvalue (fmtOf .f32) (fsrDaz i.fsr) (val .f32 i.b).toNat
      ⟨none, some (relFlags (frel x y)), nanFlags x ||| nanFlags y⟩)
/-! ### What a word leaves behind -/

namespace Sys2Proof.Claim
open Sys2Proof.Machine

/-- The words of lanes: those whose results `Answers` describes, and the two that move the status registers. -/
def laneWord : Instr → Bool
  | .iadd _ | .iaddc _ | .iadds _ | .isub _ | .isubb _ | .isubs _ | .ineg _ | .iabs _ | .imin _ | .imax _ | .imul _
  | .imulh _ | .imad _ | .imadw _ | .idiv _ | .irem _ | .and _ | .or _ | .xor _ | .andn _ | .orn _ | .shl _ | .shr _
  | .sar _ | .rol _ | .fshl _ | .fshr _ | .bfx _ | .bfxImm _ | .bfi _ | .brev _ | .popc _ | .clz _ | .ctz _ | .permb _
  | .sext _ | .zext _ | .mov _ | .movi _ | .movh _ | .sel _ | .cmp _ | .cmpImm _ | .tst _ | .setk _ | .getk _
  | .iaddImm _ | .andImm _ | .orImm _ | .xorImm _ | .shlImm _ | .shrImm _ | .sarImm _ | .imulImm _ => true
  | .fadd _ | .fsub _ | .fmul _ | .ffma _ | .ffma2 _ | .fmin _ | .fmax _ | .fminm _ | .fmaxm _ | .fabs _ | .fneg _
  | .fcpys _ | .fcmp _ | .fclass _ | .fdiv _ | .fsqrt _ | .frcp _ | .frsq _ | .fex2 _ | .flg2 _ | .fsin _ | .fcos _
  | .frint _ | .fscale _ | .fcvt _ _ | .ftoi _ _ | .itof _ _ | .fdot4 _ | .qds8 _ | .fgsr _ | .fssr _ => true
  | .pairedNop _ | .pairedIadd _ | .pairedIsub _ | .pairedImul _ | .pairedImin _ | .pairedImax _ | .pairedAnd _
  | .pairedOr _ | .pairedXor _ | .pairedAndn _ | .pairedShl _ | .pairedShr _ | .pairedSar _ | .pairedMov _
  | .pairedCmp _ | .pairedTst _ | .pairedFadd _ | .pairedFsub _ | .pairedFmul _ | .pairedFmin _ | .pairedFmax _
  | .pairedFcmp _ => true
  | _ => false

/-- What a lane holds, its program counter and status apart: registers, condition codes, `%fsr`, meeting state. -/
def sameRegs (l l' : Lane) : Prop :=
  l'.v = l.v ∧ l'.k0 = l.k0 ∧ l'.k1 = l.k1 ∧ l'.k2 = l.k2 ∧ l'.k3 = l.k3 ∧ l'.fsr = l.fsr ∧ l'.mr = l.mr ∧ l'.met = l.met

/-- The state apart from one gang and the standing of the word in issue: everything else is as it was, every byte of
memory among it. -/
def onlyGang (u : Nat) (s t : State) : Prop :=
  t = { s with gangs := t.gangs, cx := { s.cx with parked := t.cx.parked } } ∧
  (∀ v, v ≠ u → t.gang? v = s.gang? v) ∧
  ∀ view pa, viewByte t view pa = viewByte s view pa

/-- A result of a type extended to a width: by its sign for a signed type, else by zeros (R42, R71, R125). -/
def extended (t : Ty) (w x : Nat) : BitVec w := if tySigned t then (val t x).signExtend w else (val t x).setWidth w

/-- What a result `x` of a type writes of the register D in a lane: a vector register, or the even-odd pair for 64 bits, a
scalar or a commons register, a condition-code register. -/
def writesReg (t : Ty) (lane : Nat) (d : Opd) (ord x : Nat) (e : Eff) : Prop :=
  match d with
  | .v n => if tyWidth t = 64 then e = .v lane n (BitVec.ofNat 32 x) ∨ e = .v lane (n + 1) (BitVec.ofNat 32 (x / 2 ^ 32))
      else e = .v lane n (extended t 32 x)
  | .s n => e = .s n (extended t 64 x)
  | .c n => e = .c n (extended t 64 x) ord
  | .k n => e = .k lane n (Flags.ofNat x)
  | _ => False

/-- What a source operand reads in a lane (R70 to R72, R87, R173): its register, or the pair for 64 bits, the next element of
its stream port extended by SGN, or a special. -/
def reads (c : Ctx) (lane : Nat) (o : Opd) (wide : Bool) (x : Nat) : Prop :=
  match o with
  | .v n => x = ((c.g.regs.lane lane).getV n).toNat + (if wide then 2 ^ 32 * ((c.g.regs.lane lane).getV (n + 1)).toNat else 0)
  | .s n => x = (c.g.regs.getS n).toNat
  | .c n => x = (commonsRead c.s c.g n).toNat
  | .rport n => ∀ p, (c.g.regs.lane lane).port? n.val = some p →
      let el : BitVec (8 * 2 ^ p.esz.val) := BitVec.ofNat _ (leValue (c.portBytes p))
      (wide = true → p.esz = 3 → x = el.toNat) ∧ (wide = false → p.esz ≠ 3 → x = if p.sgn then (el.signExtend 32).toNat else el.toNat) ∧
      (wide = false → p.esz = 3 → x = el.toNat % 2 ^ 32)
  | .k n => x = ((c.g.regs.lane lane).getK n).toNat
  | .zero => x = 0
  | .ones => x = 2 ^ 64 - 1
  | .sp r => x = specialVal c.s c.g c.b lane r
  | _ => True

end Sys2Proof.Claim

/-- R80, R176: THE FRAME OF THE WORDS OF LANES. At issue such a word changes no register of its gang yet: scalars, `%sfsr`,
the commons overlay, and in every lane the vector registers, condition codes, `%fsr` and meeting state are as before. Its
results are due later, a used stream port moves on, a lane whose port faults is parked. Every other gang and the rest of
the package, all of memory included, are as before. -/
def Obligations.LaneWordFrame : Prop :=
  ∀ (i : Instr) (s t : State), laneWord i = true → exec i s = .next t →
    onlyGang s.cx.gang s t ∧
    ∀ g g', s.gang? s.cx.gang = some g → t.gang? s.cx.gang = some g' →
      g'.regs.s = g.regs.s ∧ g'.regs.sfsr = g.regs.sfsr ∧ g'.regs.overlay = g.regs.overlay ∧
      ∀ j, sameRegs (g.regs.lane j) (g'.regs.lane j)

/-- R70 to R72, R87, R113, R125: A WORD OF LANES READS THE OPERANDS IT NAMES: A, B or the immediate, D where it is a third source, its
condition-code register, and the governing status register: `%sfsr` for a scalar or commons D, else the lane's `%fsr`, also
for D none (log 71, DESIGN CHOICE). -/
def Sys2Proof.Claim.operandsAreThoseNamed : Prop :=
  ∀ (sh : OpShape) (c : Ctx) (lane : Nat),
    let i := sh.input c lane
    reads c lane sh.a sh.wa i.a ∧ (sh.imm = none → reads c lane sh.b sh.wb i.b) ∧ (∀ x, sh.imm = some x → i.b = x) ∧
    (sh.third = true → reads c lane sh.d sh.wd i.d) ∧ i.k = (c.g.regs.lane lane).getK sh.ccd ∧
    i.fsr = if opdUniform sh.d then c.g.regs.sfsr else (c.g.regs.lane lane).fsr

/-- R20, R42, R66, R71, R80, R125, R173: A RESULT NAMES ITS DESTINATION ALONE: the effects of a word of lanes are these: its result, extended
by its type, on the register of D in its lane, or its low bytes through the write port of D at the port's next element; its condition code
on the register of CCD in the lanes that act; and an OR of its flags into the governing status register, which for D none is
the lane's `%fsr` (log 71, DESIGN CHOICE). -/
def Sys2Proof.Claim.effectsNameTheDestination : Prop :=
  ∀ (sh : OpShape) (c : Ctx) (lane : Nat) (all : List Nat) (o : LaneOut) (e : Eff), e ∈ sh.effects c lane all o ↔
    (∃ x, o.res = some x ∧ (writesReg sh.t lane sh.d c.g.ord x e ∨
      ∃ n p, sh.d = .wport n ∧ (c.g.regs.lane lane).port? (4 + n.val) = some p ∧
        e = .loc (some lane) (placed (scratchMod c.b (portOff p)) (leBytes (2 ^ p.esz.val) (extended sh.t 64 x).toNat)))) ∨
    (∃ j x, j ∈ all ∧ o.k = some x ∧ e = .k j sh.ccd x) ∨
    (o.fl ≠ 0 ∧ e = if opdUniform sh.d then .sfsrOr o.fl else .fsrOr lane o.fl)

/-- R80: A RESULT OF LATENCY n IS VISIBLE FROM THE WORD n POSITIONS LATER, and not before. -/
def Sys2Proof.Claim.resultsBecomeVisible : Prop :=
  ∀ (g : Gang) (r : RunIssue) (pc : W64) (pos lat k : Nat) (es : List Eff),
    g.issue = some r → r.pends = [] → (∀ e ∈ es, e.isLoc = false ∧ e.isCommons = false) →
    ((g.deliver pc pos (some lat) es).settle k).regs =
      if pos + lat ≤ k then es.foldl (fun x e => x.apply e) g.regs else g.regs

/-- R18 to R20, R51: A REGISTER READS WHAT WAS LAST WRITTEN, and a write leaves every other register alone. -/
def Sys2Proof.Claim.registersReadBack : Prop :=
  ∀ (r : GangRegs) (j : Nat), j < r.lanes.length →
    (∀ n x, ((r.apply (.v j n x)).lane j).getV n = x ∧
      (∀ m, m ≠ n → ((r.apply (.v j n x)).lane j).getV m = (r.lane j).getV m) ∧
      (∀ i, i ≠ j → (r.apply (.v j n x)).lane i = r.lane i) ∧ (r.apply (.v j n x)).s = r.s) ∧
    (∀ n x, (r.apply (.s n x)).getS n = x ∧ (∀ m, m ≠ n → (r.apply (.s n x)).getS m = r.getS m) ∧
      (r.apply (.s n x)).lanes = r.lanes) ∧
    (∀ n f, ((r.apply (.k j n f)).lane j).getK n = f ∧
      (∀ m, m ≠ n → ((r.apply (.k j n f)).lane j).getK m = (r.lane j).getK m) ∧
      (∀ i, i ≠ j → (r.apply (.k j n f)).lane i = r.lane i)) ∧
    (∀ fl, ((r.apply (.fsrOr j fl)).lane j).fsr = (r.lane j).fsr ||| fl.setWidth 32 ∧
      (∀ i, i ≠ j → (r.apply (.fsrOr j fl)).lane i = r.lane i))

/-- R18 to R20, R42, R51, R66, R70 to R72, R80, R87, R125: WHAT A WORD READS, WHAT ITS RESULT NAMES, WHEN IT IS VISIBLE, AND THAT IT IS READ BACK. -/
def Obligations.ResultsOfWords : Prop :=
  Sys2Proof.Claim.operandsAreThoseNamed ∧ Sys2Proof.Claim.effectsNameTheDestination ∧ Sys2Proof.Claim.resultsBecomeVisible ∧ Sys2Proof.Claim.registersReadBack

/-- R127, R144, R145: FGSR reads a status register, the lane's under `.n32` and the gang's under `.n64`; FSSR replaces it
under its mask with latency 1, reserved bits zero and a rounding mode of 0, 6 or 7 stored as 1, and gives the old value. The
words complete in every state in which their operands are legal. What A none supplies (log 68), FGSR.n64 with a commons D or
none (log 72) and the lane whose per-thread special FSSR.n64 reads (log 88) are the model's choices. -/
def Obligations.StatusRegisterWords : Prop :=
  (∀ f : RRR, f.ty = .n32 → Answers (.fgsr f) (intShape f false (some 1)) (fun i => ⟨some i.fsr.toNat, none, 0⟩)) ∧
  (∀ (f : RRR) (s : State) (g : Gang), s.gang? s.cx.gang = some g →
    (intShape f false (some 1)).faults g (lanesOf s.act) = [] →
    let c : Ctx := ⟨s, g, s.blockOf g⟩
    let mask := fun (j : Nat) => if f.b = .none then 0xFFFFFFFF#32 else BitVec.ofNat 32 (c.src j f.b false)
    (f.ty = .n64 → exec (.fgsr f) s =
      .next (laneState (intShape f false (some 1)) (fun _ => ⟨some g.regs.sfsr.toNat, none, 0⟩) s g)) ∧
    (f.ty = .n32 → exec (.fssr f) s =
      .next ((laneState (intShape f false (some 1)) (fun i => ⟨some i.fsr.toNat, none, 0⟩) s g).onIssuer (fun g' =>
        g'.emit (s.cx.pos + 1) ((lanesOf s.act).map (fun j =>
          .fsrSet j (fsrWrite (g.regs.lane j).fsr (mask j) (BitVec.ofNat 32 (c.src j f.a false)))))))) ∧
    (f.ty = .n64 → s.acts = true → exec (.fssr f) s =
      .next (s.onIssuer (fun g' => g'.deliver s.cx.pc s.cx.pos (some 1)
        (.sfsrSet (fsrWrite g.regs.sfsr (if f.b = .none then 0xFFFFFFFF#32 else BitVec.ofNat 32 (gangSrc s g f.b))
          (BitVec.ofNat 32 (gangSrc s g f.a))) :: c.dst 0 f.d .n64 g.regs.sfsr.toNat))))) ∧
  (∀ (old mask new : W32), let x := fsrWrite old mask new
    let merged := (old &&& ~~~mask) ||| (new &&& mask)
    let rm := merged.extractLsb' 5 3
    x &&& ~~~0x6FF#32 = 0 ∧ x &&& 0x61F#32 = merged &&& 0x61F#32 ∧
    x.extractLsb' 5 3 = if rm = 0 ∨ rm = 6 ∨ rm = 7 then 1 else rm)
/-! ### Cross-lane words -/

namespace Sys2Proof.Claim
open Sys2Proof.Machine

/-- R148: THE WORD COMPLETES BY JOINING: every lane of the clutch, its guard true or not, is a participant of a gathering at
the word's address, with its guard and its operand. -/
def Joins (i : Instr) (f : RRR) : Prop :=
  ∀ (s : State) (g : Gang), s.gang? s.cx.gang = some g → s.cx.parked = 0#32 →
    (∀ j, maskHas s.act j = true → portFault (g.regs.lane j) f.a false = none ∧ portFault (g.regs.lane j) f.b false = none) →
    ∃ t g', exec i s = .next t ∧ t.gang? s.cx.gang = some g' ∧
      ∀ j, j < 32 → maskHas s.cx.clutch j = true →
        ∃ h ∈ g'.gath, h.pc = s.cx.pc ∧ ∃ p ∈ h.parts, p.lane = j ∧ p.guard = maskHas s.act j ∧
          p.opnd = BitVec.ofNat 64 ((Ctx.mk s g (s.blockOf g)).src j f.a
            (match i with | .qmx _ => false | _ => tyWidth f.ty == 64))

end Sys2Proof.Claim

/-- R147, R148, R150, R155 to R159: A CROSS-LANE WORD JOINS ITS GATHERING. At issue it changes no byte of memory, no block,
no register of its gang and no other gang. -/
def Obligations.CrossLaneWordsJoin : Prop :=
  (∀ (i : Instr) (s t : State), (laneRRR i).isSome = true → exec i s = .next t →
    onlyGang s.cx.gang s t ∧
    ∀ g g', s.gang? s.cx.gang = some g → t.gang? s.cx.gang = some g' →
      g'.regs.s = g.regs.s ∧ g'.regs.sfsr = g.regs.sfsr ∧ g'.regs.overlay = g.regs.overlay ∧
      ∀ j, sameRegs (g.regs.lane j) (g'.regs.lane j)) ∧
  ∀ f : RRR,
    Joins (.shflIdx f) f ∧ Joins (.shflUp f) f ∧ Joins (.shflDown f) f ∧ Joins (.shflXor f) f ∧ Joins (.ballot f) f ∧
    Joins (.voteEvery f) f ∧ Joins (.voteSome f) f ∧ Joins (.voteAgree f) f ∧ Joins (.voteCount f) f ∧
    Joins (.bcast f) f ∧ Joins (.elect f) f ∧ Joins (.matchL f) f ∧ Joins (.qmx f) f ∧
    (∀ op excl, Joins (.scan f op excl) f) ∧ (∀ op, Joins (.reduce f op) f)

/-- R152, R154 to R156: GATHERING_DELIVERY: once every participant's run has left quarantine, the gathering is gone and the result of each
reader has arrived: what its form computes for it, written to D, a scalar D once for the gang; its condition code under CCE;
its flags. That the lowest guard-true participant's result is a scalar D's is the model's choice (log 74, DESIGN CHOICE). -/
def Obligations.GatheringDelivers : Prop :=
  ∀ (s : State) (g : Gang) (gix : Nat) (h : Gathering) (f : RRR),
    s.gang? g.uid = some g → g.gath[gix]? = some h → h.closed = true → laneRRR h.op = some f →
    h.unsure g = false → ((h.parts.filter (·.guard)).map (·.oid)).Nodup → (∀ n, f.d ≠ .k n) →
    ∃ t g', exec (.gatheringDelivery g.uid gix) s = .next t ∧ t.gang? g.uid = some g' ∧
      (∀ x ∈ g'.gath, x.id ≠ h.id) ∧
      (∀ p ∈ h.parts, p.guard = true → p.lane < 32 → ∀ (k : Nat) (o : Outst), g.out[k]? = some o → o.id = p.oid →
        let x := laneResult h.op f ⟨p.lane, p.mask, h.parts, h.absent, opdUniform f.d⟩ p;
        let mine := opdUniform f.d = false ∨ ∀ q ∈ h.parts, q.guard = true → q.lane < 32 → p.lane ≤ q.lane;
        ∃ es, g'.out[k]? = some { o with effs := o.effs ++ es, arrived := true } ∧ ∀ e, e ∈ es ↔
          (mine ∧ writesReg (laneResTy h.op f) p.lane f.d (g.outOrd p.oid) x.r e) ∨ (f.cce = true ∧ e = .k p.lane f.ccd x.k) ∨
          (mine ∧ x.fl ≠ 0 ∧ e = if opdUniform f.d then .sfsrOr x.fl else .fsrOr p.lane x.fl)) ∧
      g'.regs = g.regs ∧ t.mem = s.mem

/-- R155, R156: WHAT A READER RECEIVES. Bit j of a BALLOT tells that lane j contributes with a true guard and a true
predicate; the votes count the predicates of the named lanes; BCAST gives the lowest such lane's value. -/
def Sys2Proof.Claim.ballotsVotesAndBroadcasts : Prop :=
  ∀ (f : RRR) (r : Reader) (own : Participant),
    (∀ j, j < 32 → ((laneResult (.ballot f) f r own).r.testBit j = true ↔
      ∃ p ∈ r.truths, p.lane = j ∧ p.opnd.toNat % 2 ^ 32 ≠ 0)) ∧
    ((laneResult (.voteEvery f) f r own).r = 1 ↔ ∀ b ∈ r.preds, b = true) ∧
    ((laneResult (.voteSome f) f r own).r = 1 ↔ ∃ b ∈ r.preds, b = true) ∧
    ((laneResult (.voteAgree f) f r own).r = 1 ↔ (∀ b ∈ r.preds, b = true) ∨ ∀ b ∈ r.preds, b = false) ∧
    (laneResult (.voteCount f) f r own).r = r.preds.count true ∧
    (∀ p rest, r.truths = p :: rest → (laneResult (.bcast f) f r own).r = p.opnd.toNat % 2 ^ tyWidth f.ty) ∧
    (r.truths = [] → (laneResult (.bcast f) f r own).r = 0 ∧ (laneResult (.bcast f) f r own).k.z = true)

/-- R155: SHFL SELECTS WITHIN THE SEGMENT: of the segments of width W, the selected lane lies in the reader's own, at the
selector's position, the reader's position less or plus the selector, or their exclusive or, modulo W. -/
def Sys2Proof.Claim.shuffleSelectsInItsSegment : Prop :=
  ∀ (f : RRR) (lane ctl : Nat), lane < 32 →
    let wid := ctl / 32 % 8
    let W := if wid ≤ 5 then 2 ^ wid else 32
    let sel := ctl % 32
    (shflLane (.shflIdx f) lane ctl).1 = lane / W * W + sel % W ∧
    (shflLane (.shflUp f) lane ctl).1 = lane / W * W + (lane % W + 32 - sel) % W ∧
    (shflLane (.shflDown f) lane ctl).1 = lane / W * W + (lane % W + sel) % W ∧
    (shflLane (.shflXor f) lane ctl).1 = lane / W * W + ((lane % W) ^^^ sel) % W ∧
    ((shflLane (.shflUp f) lane ctl).2 = true ↔ lane % W < sel) ∧
    ((shflLane (.shflDown f) lane ctl).2 = true ↔ W ≤ lane % W + sel)

/-- R156: ELECTION AND MATCH. ELECT gives 1 in the lowest guard-true contributing lane and 0 elsewhere, to a scalar D that
lane's number, or all ones if there is none; bit j of MATCH tells that lane j contributes with the reference value. -/
def Sys2Proof.Claim.electionsAndMatches : Prop :=
  ∀ (f : RRR) (r : Reader) (own : Participant),
    (∀ p rest, r.truths = p :: rest →
      (laneResult (.elect f) f r own).r = if r.scalar then p.lane else if p.lane = r.lane then 1 else 0) ∧
    (r.truths = [] → (laneResult (.elect f) f r own).r = (if r.scalar then 2 ^ 64 - 1 else 0) ∧
      (laneResult (.elect f) f r own).k.z = true) ∧
    ((r.parts.map (·.lane)).Nodup → ∀ j, j < 32 →
      ((laneResult (.matchL f) f r own).r.testBit j = true ↔
        ∃ x, (if r.scalar then (r.truths.head?).map (·.opnd) = some x else x = own.opnd) ∧
          ∃ p ∈ r.contrib, p.lane = j ∧ val f.ty p.opnd.toNat = val f.ty x.toNat))

/-- R157, R158: SCANS AND REDUCTIONS fold the operands of the guard-true contributing lanes in their range in ascending order:
nothing gives the identity; integers are summed modulo 2^w, compared in their type's order or combined bitwise; of
floating-point values the first stands as it is, with FTZ, and each later one is taken in as by FADD, FMIN or FMAX. -/
def Sys2Proof.Claim.scansAndReductionsFold : Prop :=
  ∀ (f : RRR) (r : Reader) (own : Participant) (op : ScanOp) (hi : Nat),
    let t := f.ty
    let terms := (r.truths.filter (fun p => decide (p.lane < hi))).map (fun p => (val t p.opnd.toNat).toNat)
    let fold := fun (xs : List Nat) => foldTerms op t f.rnd own.fsr xs
    let fm := fmtOf t
    let mode := f.rnd.getD (fsrRm own.fsr)
    let valued := fun (x : Nat) => fvalue fm (fsrDaz own.fsr) x
    let out := fun (i : Instr) => ((laneResult i f r own).r, (laneResult i f r own).fl)
    ((hi = r.lane + 1 → out (.scan f op false) = fold terms) ∧ (hi = r.lane → out (.scan f op true) = fold terms) ∧
      (hi = 32 → out (.reduce f op) = fold terms)) ∧
    fold [] = (scanIdent op t, 0) ∧
    (tyInt t = true → ∀ (x : Nat) (xs : List Nat), (∀ y ∈ x :: xs, y < 2 ^ tyWidth t) →
      let y := (fold (x :: xs)).1
      (fold (x :: xs)).2 = 0 ∧
      (op = .add → y = (x :: xs).sum % 2 ^ tyWidth t) ∧ (op = .and → y = xs.foldl (fun a b => a &&& b) x) ∧
      (op = .or → y = xs.foldl (fun a b => a ||| b) x) ∧ (op = .xor → y = xs.foldl (fun a b => a ^^^ b) x) ∧
      (op = .min → y ∈ x :: xs ∧ ∀ z ∈ x :: xs, num t (val t y) ≤ num t (val t z)) ∧
      (op = .max → y ∈ x :: xs ∧ ∀ z ∈ x :: xs, num t (val t z) ≤ num t (val t y))) ∧
    (tyFour t = true → ∀ x y : Nat, x < 2 ^ tyWidth t → y < 2 ^ tyWidth t →
      (let d := roundVal fm mode (fsrFtz own.fsr) (valued x)
       fold [x] = (d.1, nanFlags (valued x) ||| d.2)) ∧
      (op = .add →
        let s := faddV mode (valued x) (valued y)
        let d := roundVal fm mode (fsrFtz own.fsr) s.1
        fold [x, y] = (d.1, s.2 ||| d.2)) ∧
      (op = .min → fold [x, y] = fminmax fm (fsrDaz own.fsr) true false x y) ∧
      (op = .max → fold [x, y] = fminmax fm (fsrDaz own.fsr) true true x y) ∧
      ∀ xs : List Nat, 2 ≤ xs.length →
        let a := fold xs
        (op = .add →
          let s := faddV mode (fdecode fm a.1) (valued y)
          let d := roundVal fm mode (fsrFtz own.fsr) s.1
          fold (xs ++ [y]) = (d.1, a.2 ||| (s.2 ||| d.2))) ∧
        (op = .min → fold (xs ++ [y]) = ((fminmax fm (fsrDaz own.fsr) true false a.1 y).1,
          a.2 ||| (fminmax fm (fsrDaz own.fsr) true false a.1 y).2)) ∧
        (op = .max → fold (xs ++ [y]) = ((fminmax fm (fsrDaz own.fsr) true true a.1 y).1,
          a.2 ||| (fminmax fm (fsrDaz own.fsr) true true a.1 y).2)))

/-- R57 to R59, R159: QMX QUANTISES THE BLOCK whose position j is lane j's operand where it is named, else zero. A block
with a NaN or an infinity has scale 0xFF and zero elements, one of zeros scale 0 and zero elements; else its scale is the
least power of two, from 2^-127, under which every element lies within the format, and each element is rounded under it. -/
def Sys2Proof.Claim.qmxQuantisesTheBlock : Prop :=
  ∀ (f : RRR) (r : Reader) (own : Participant),
    (f.ty = .e4m3 ∨ f.ty = .e5m2 ∨ f.ty = .e3m2 ∨ f.ty = .e2m3 ∨ f.ty = .e2m1 ∨ f.ty = .ds8) → r.lane < 32 →
    let t := f.ty
    let maxnorm : Rat := match t with | .e5m2 => 57344 | .e4m3 => 448 | .e3m2 => 28 | .e2m3 => 15 / 2 | .e2m1 => 6 | _ => 2
    let at_ := fun (j : Nat) => (r.contrib.find? (fun p => p.lane == j)).elim (.fin false 0 0)
      (fun p => fdecode (fmtOf .f32) (val .f32 p.opnd.toNat).toNat)
    let plus0 := if t = .ds8 then 0x77 else 0
    let out := laneResult (.qmx f) f r own
    ((∃ j, j < 32 ∧ finite (at_ j) = false) → out.r = 256 * 0xFF + plus0 ∧ out.fl = flIV) ∧
    ((∀ j, j < 32 → finite (at_ j) = true ∧ rat (at_ j) = 0) → out.r = plus0 ∧ out.fl = 0) ∧
    ((∀ j, j < 32 → finite (at_ j) = true) → (∃ j, j < 32 ∧ rat (at_ j) ≠ 0) →
      ∃ e : Int, -127 ≤ e ∧ e ≤ 127 ∧ (∀ j, j < 32 → |rat (at_ j)| ≤ maxnorm * (2 : Rat) ^ e) ∧
        (e = -127 ∨ ∃ j, j < 32 ∧ maxnorm * (2 : Rat) ^ (e - 1) < |rat (at_ j)|) ∧
        let scaled := fun (j : Nat) => match at_ j with | .fin n m x => FVal.fin n m (x - e) | v => v
        let q := fun (j : Nat) => if t = .ds8 then ds8Quantise (scaled j) else roundVal (fmtOf t) .rne false (scaled j)
        out.r = 256 * (e + 127).toNat + (q r.lane).1 % 256 ∧
        ∀ k : Nat, k < 5 → (out.fl.getLsbD k = true ↔ ∃ j, j < 32 ∧ (q j).2.getLsbD k = true))
/-! ### Control flow, faults, the run -/

/-- R57 to R59, R155 to R159: WHAT A READER OF A CROSS-LANE WORD RECEIVES. -/
def Obligations.VotesBroadcastsAndShuffles : Prop :=
  Sys2Proof.Claim.ballotsVotesAndBroadcasts ∧ Sys2Proof.Claim.shuffleSelectsInItsSegment ∧ Sys2Proof.Claim.electionsAndMatches ∧ Sys2Proof.Claim.scansAndReductionsFold ∧ Sys2Proof.Claim.qmxQuantisesTheBlock

namespace Sys2Proof.Claim
open Sys2Proof.Machine

/-- R115: an address that a program counter may hold. -/
def legalPc (t : W64) : Bool := decide (t.toNat < 2 ^ 57) && decide (t.toNat % 8 = 0)

/-- R73: the target of a J word: OFFSET words from the word. -/
def target (s : State) (f : JF) : W64 := s.cx.pc + BitVec.ofInt 64 (8 * f.offset.toInt)

/-- R19: the address of the word `n` words after one; the top seven bits of a program counter are zero (log 76). -/
def wordAt (pc : W64) (n : Nat) : W64 := (pc + BitVec.ofNat 64 (8 * n)) &&& 0x01FFFFFFFFFFFFFF#64

/-- R32, R115: a jump: each acting lane whose target is legal goes there at the end of the run; the others park at the word
with the branch-target cause, one record naming the lowest of them and its target. -/
def jumped (s : State) (target : Nat → W64) : State :=
  let all := (lanesOf s.act).map (fun i => (i, target i))
  (takeFaults s ((all.filter (fun p => !legalPc p.2)).map (fun p => ⟨p.1, 0x05, 0, p.2⟩))).onIssuer (fun g =>
    g.modIssue (fun r => { r with targets := r.targets ++ all.filter (fun p => legalPc p.2) }))

end Sys2Proof.Claim

/-- R115 to R122: CONTROL FLOW completes. -/
def Sys2Proof.Claim.controlFlowWords : Prop :=
  ∀ (f : JF) (s : State) (g : Gang), s.gang? s.cx.gang = some g →
    let c : Ctx := ⟨s, g, s.blockOf g⟩
    exec (.bra f) s = .next (jumped s (fun _ => target s f)) ∧
    exec (.jmpr f) s = .next (jumped s (fun i => BitVec.ofNat 64 (c.src i f.aux true))) ∧
    exec (.ret f) s = .next (jumped s (fun i => BitVec.ofNat 64 (c.src i f.aux true))) ∧
    (f.aux = .none → exec (.call f) s = .next (jumped s (fun _ => target s f))) ∧
    (∀ n, f.aux = .s n → legalPc (target s f) = true → s.acts = true →
      exec (.call f) s = .next ((jumped s (fun _ => target s f)).onIssuer (fun g =>
        g.emit (s.cx.pos + 1) [.s n (wordAt s.cx.pc 1)]))) ∧
    (f.aux = .none → exec (.meet f) s = .next (s.onIssuer (fun g =>
      g.emit (s.cx.pos + 1) ((lanesOf s.act).map (fun i => .mr i (target s f)))))) ∧
    (f.aux = .none → exec (.meetR f) s = .next (s.onIssuer (fun g =>
      g.emit (s.cx.pos + 1) ((lanesOf s.act).map (fun i => .mr i 0xFFFFFFFFFFFFFFFF#64))))) ∧
    (f.aux ≠ .none → exec (.meetR f) s = .next (s.onIssuer (fun g =>
      g.emit (s.cx.pos + 1) ((lanesOf s.act).map (fun i => .mr i (BitVec.ofNat 64 (c.src i f.aux true))))))) ∧
    (s.acts = true → exec (.exit f) s = .next (s.onIssuer (fun g =>
      (g.modIssue (fun r => { r with exits := r.exits ||| s.act })).hold s.cx.pc (.exit s.act)))) ∧
    (s.acts = false → exec (.exit f) s = .next s) ∧
    (s.acts = true → exec (.trap f) s = .next (takeFault s s.act 0x06 f.jmod.toNat
      (if f.aux = .none then 0 else BitVec.ofNat 64 (c.src (lowestLane s.act) f.aux false)))) ∧
    exec (.nop f) s = .next s ∧
    (s.acts = true → exec (.yield f) s = .next (s.onIssuer (fun g => g.modIssue (fun r => { r with yielded := true }))))

/-- R118, R119: A CALL OR A MEET THAT NAMES A VECTOR REGISTER: each acting lane's pair takes the address of the next word,
or the lane's old meeting address. -/
def Sys2Proof.Claim.linkAndMeetingRegisters : Prop :=
  ∀ (f : JF) (s : State) (g : Gang) (n : Fin 256) (j : Nat), s.gang? s.cx.gang = some g → g.issue.isSome = true →
    f.aux = .v n → maskHas s.act j = true →
    (legalPc (target s f) = true → ∃ t g' r', exec (.call f) s = .next t ∧ t.gang? s.cx.gang = some g' ∧ g'.issue = some r' ∧
      ⟨s.cx.pos + 1, .v j n ((wordAt s.cx.pc 1).setWidth 32)⟩ ∈ r'.pends ∧
      ⟨s.cx.pos + 1, .v j (n.val + 1) ((wordAt s.cx.pc 1).extractLsb' 32 32)⟩ ∈ r'.pends) ∧
    (∃ t g' r', exec (.meet f) s = .next t ∧ t.gang? s.cx.gang = some g' ∧ g'.issue = some r' ∧
      ⟨s.cx.pos + 1, .mr j (target s f)⟩ ∈ r'.pends ∧
      ⟨s.cx.pos + 1, .v j n ((g.regs.lane j).mr.setWidth 32)⟩ ∈ r'.pends ∧
      ⟨s.cx.pos + 1, .v j (n.val + 1) ((g.regs.lane j).mr.extractLsb' 32 32)⟩ ∈ r'.pends)

/-- R115 to R122: CONTROL FLOW, LINKS AND MEETING REGISTERS. -/
def Obligations.ControlFlow : Prop :=
  Sys2Proof.Claim.controlFlowWords ∧ Sys2Proof.Claim.linkAndMeetingRegisters

/-- R176: TAKING A FAULT at a word: the named lanes park at the word's address, every other lane is as before, and one
record is held through quarantine, with the cause, its detail, the word's address, the given address and the lanes. Memory
is as before. -/
def Obligations.TakingAFaultParksTheLanes : Prop :=
  ∀ (s : State) (g : Gang) (r : RunIssue) (lanes : LaneMask) (cause detail : Nat) (addr : W64),
    s.gang? s.cx.gang = some g → g.issue = some r →
    ∃ g' r' h req, (takeFault s lanes cause detail addr).gang? s.cx.gang = some g' ∧ g'.issue = some r' ∧
      r'.held = r.held ++ [h] ∧ h.eff = .fault req ∧ req.cause = cause ∧ req.detail = detail ∧ req.pc = s.cx.pc ∧
      req.addr = addr ∧ req.lanes = lanes ∧ req.gang = g.idx ∧ req.core = g.core ∧
      (∀ j, j < g.regs.lanes.length → j < 32 → maskHas lanes j = true →
        (g'.regs.lane j).status = .parked ∧ (g'.regs.lane j).pc = s.cx.pc) ∧
      (∀ j, maskHas lanes j = false → g'.regs.lane j = g.regs.lane j) ∧
      (∀ j, sameRegs (g.regs.lane j) (g'.regs.lane j)) ∧
      (takeFault s lanes cause detail addr).cx.parked = s.cx.parked ||| lanes ∧
      onlyGang s.cx.gang s (takeFault s lanes cause detail addr)

/-- R32, R80: AT THE END OF A RUN each lane of the clutch that did not park or wait exits, goes to its target, or goes on behind
the last word; what the run held enters quarantine, and a park seam is asked for. The fixed-latency results still due
become visible for the gang's next run: a register then holds the result due last, of two due at one position that of the
later instruction; one that no result names holds what it held. -/
def Obligations.EndOfRunMovesTheLanes : Prop :=
  ∀ (g : Gang) (r : RunIssue) (cycle bounds : Nat) (after : W64) (park : Bool),
    g.issue = some r → (∀ p ∈ r.pends, p.due ≤ 40) →
    let g' := g.endRun cycle bounds after park
    let last := fun (k : Nat) (p : Pend) => r.pends[k]? = some p ∧ ∀ k' q, r.pends[k']? = some q → q.eff.dst = p.eff.dst →
      k' ≠ k → q.due < p.due ∨ (q.due = p.due ∧ k' < k)
    g'.issue = none ∧ g'.run = g.run + 1 ∧ (park = true → g'.seam = true) ∧
    (∃ q ∈ g'.runs, q.seq = g.run ∧ q.held = r.held ∧ q.endCycle = cycle ∧ q.snapshot = r.snapshot) ∧
    ∀ j, j < g.regs.lanes.length → j < 32 →
      (maskHas (r.clutch &&& ~~~r.gone) j = true →
        (maskHas r.exits j = true → (g'.regs.lane j).status = .exited) ∧
        (maskHas r.exits j = false →
          (g'.regs.lane j).pc = ((r.targets.find? (fun t => t.1 == j)).map (·.2)).getD after)) ∧
      (∀ k p n x, last k p → p.eff = .v j n x → (g'.regs.lane j).getV n = x) ∧
      (∀ n, (∀ p ∈ r.pends, p.eff.dst ≠ .v j n) → (g'.regs.lane j).getV n = (g.regs.lane j).getV n) ∧
      (∀ k p n x, last k p → p.eff = .k j n x → (g'.regs.lane j).getK n = x) ∧
      (∀ n, (∀ p ∈ r.pends, p.eff.dst ≠ .k j n) → (g'.regs.lane j).getK n = (g.regs.lane j).getK n) ∧
      (∀ k p n x, last k p → p.eff = .s n x → g'.regs.getS n = x) ∧
      (∀ n, (∀ p ∈ r.pends, p.eff.dst ≠ .s n) → g'.regs.getS n = g.regs.getS n) ∧
      (r.pends = [] → sameRegs (g.regs.lane j) (g'.regs.lane j))

/-- R64, R65, R80: A STEP RUNS THE DECODED WORD. Where nothing is due first, the gang with a run in issue on the partition in
focus issues its next word: the results due at its position become visible, the lanes of the clutch whose guard holds act,
`exec` of the instruction runs on that state, and the run goes on, or ends after its last word. A word that stalls issues
again. -/
def Sys2Proof.Claim.stepRunsOneWord : Prop :=
  ∀ (s : State) (core part : Nat) (g0 : Gang) (r : RunIssue) (seam : Seam) (gd : Guard) (i : Instr),
    s.regQ = [] → s.therm.shutdown = false → s.sched = [] → s.focus = (core, part) →
    issuingGang s core part = some g0 → partUsable s core part = true → g0.issue = some r →
    decode (r.words.getD r.idx 0) = .ok (.full seam gd i) →
    let pc := wordAt r.start r.idx
    let lanes := r.clutch &&& ~~~r.gone
    let g := (g0.settle r.idx).meet lanes pc
    (usesPort (.full seam gd i) && portWaits g) = false →
    let s2 := { (useCycle (partTurn s core part) core part).modGang g.uid (fun _ => g) with
      cx := (⟨g.uid, pc, r.idx, lanes, guardLanes g lanes gd, false, 0, false⟩ : Cx) }
    ∀ s3, exec i s2 = .next s3 →
      step s = .next { (if s3.cx.stall then s3 else afterWord s3 g seam) with cx := Cx.idle }

/-- R64, R75, R76: A PAIRED WORD runs its two instructions on the same state, the first slot's first; a lane that the second
slot would park takes no part in the first. A step whose next word is such a pair runs it so. -/
def Sys2Proof.Claim.stepRunsBothSlots : Prop :=
  (∀ (s : State) (core part : Nat) (g0 : Gang) (r : RunIssue) (seam : Seam) (ga gb : Guard) (ia ib : Instr),
    s.regQ = [] → s.therm.shutdown = false → s.sched = [] → s.focus = (core, part) →
    issuingGang s core part = some g0 → partUsable s core part = true → g0.issue = some r →
    decode (r.words.getD r.idx 0) = .ok (.pair seam ga ia gb ib) →
    let pc := wordAt r.start r.idx
    let lanes := r.clutch &&& ~~~r.gone
    let g := (g0.settle r.idx).meet lanes pc
    (usesPort (.pair seam ga ia gb ib) && portWaits g) = false →
    let s2 := { (useCycle (partTurn s core part) core part).modGang g.uid (fun _ => g) with
      cx := (⟨g.uid, pc, r.idx, lanes, 0, false, 0, false⟩ : Cx) }
    let actb := guardLanes g lanes gb
    let s3 := takeFaults { s2 with cx := { s2.cx with act := actb } } (slotFaults g actb ib)
    ∀ s4 s5, exec ia { s3 with cx := { s3.cx with act := guardLanes g lanes ga } } = .next s4 →
      exec ib { s4 with cx := { s4.cx with act := actb } } = .next s5 →
      step s = .next { (if s5.cx.stall then s5 else afterWord s5 g seam) with cx := Cx.idle }) ∧
  ∀ (s : State) (g : Gang) (lanes : LaneMask) (seam : Seam) (g0 g1 : Guard) (i0 i1 : Instr) (s2 s3 : State),
    let act1 := guardLanes g lanes g1
    let s1 := takeFaults { s with cx := { s.cx with act := act1 } } (slotFaults g act1 i1)
    exec i0 { s1 with cx := { s1.cx with act := guardLanes g lanes g0 } } = .next s2 →
    exec i1 { s2 with cx := { s2.cx with act := act1 } } = .next s3 →
    issueDecoded exec s g lanes (.pair seam g0 i0 g1 i1) = .next s3

/-- R64, R65, R75, R76, R80: A STEP RUNS THE DECODED WORD, full or paired. -/
def Obligations.StepRunsTheDecodedWord : Prop :=
  Sys2Proof.Claim.stepRunsOneWord ∧ Sys2Proof.Claim.stepRunsBothSlots

/-- R3: OTHER STEPS. A tick of the schedule moves time alone; an event of the schedule is `exec` of it with no word in issue;
a write that waits at the register window's arbiter goes first, one of whole bytes as the register write of those bytes;
after a thermal shutdown nothing but time and the boot acts (R395). -/
def Obligations.StepTakesTheNextTurn : Prop :=
  (∀ (s : State) (cycles ns : Nat) (rest : List Turn), s.regQ = [] → s.sched = .tick cycles ns :: rest →
    step s = .next { s with sched := rest, cycle := s.cycle + cycles, now := s.now + ns }) ∧
  (∀ (s : State) (i : Instr) (rest : List Turn), s.regQ = [] → s.therm.shutdown = false → s.sched = .event i :: rest →
    step s = exec i { s with sched := rest, cx := Cx.idle }) ∧
  (∀ (s : State) (off : Nat) (xs : List (Byte × Byte)) (rest : List (Nat × List (Byte × Byte))), s.therm.shutdown = false →
    s.regQ = (off, xs) :: rest →
    step s = windowWrite off xs { s with regQ := rest, cx := Cx.idle } ∧
    ((∀ x ∈ xs, x.2 = 0xFF#8) →
      step s = exec (.registerWrite off (xs.map (·.1))) { s with regQ := rest, cx := Cx.idle })) ∧
  (∀ (s : State) (t : Turn) (rest : List Turn), s.therm.shutdown = true → s.sched = t :: rest →
    (∀ a b, t ≠ .tick a b) → (∀ cfg, t ≠ .event (.bootSequence cfg)) → step s = .next { s with sched := rest })
/-! ### Memory words -/

namespace Sys2Proof.Claim
open Sys2Proof.Machine

/-- A load that a word has left outstanding: not yet read, of the given bytes, for the given lane and register; a park seam
waits for it or not. -/
def loadOut (s : State) (g' : Gang) (who : Option Nat) (cells : List Cell) (fmt : LoadFmt) (d : Opd) (waits : Bool) : Prop :=
  ∃ o ∈ g'.out, o.pc = s.cx.pc ∧ o.arrived = false ∧ o.blocks = waits ∧
    ∃ r, o.kind = .load r ∧ r.lane = who ∧ r.cells.map (·.pa) = cells.map (·.pa) ∧ r.cells.map (·.view) = cells.map (·.view) ∧
      r.fmt = fmt ∧ r.dst = d ∧ r.got = none

/-- A store that a word holds through quarantine: the places, values and masks of its bytes. -/
def storeHeld (s : State) (g' : Gang) (who : Option Nat) (xs : List StCell) : Prop :=
  ∃ r' h, g'.issue = some r' ∧ h ∈ r'.held ∧ h.pc = s.cx.pc ∧
    ∃ cells lanes, h.eff = .store cells who lanes ∧
      cells.map (fun y => (y.cell.pa, y.cell.view, y.val, y.mask)) = xs.map (fun y => (y.cell.pa, y.cell.view, y.val, y.mask))

/-- A global access that goes ahead (R160, R161, R175): no remote translation is waited for, and the access of `who` passed
its checks and came to `x`. -/
def goesAhead {A : Type} (tries : List (Attempt A)) (who : Option Nat) (x : A) : Prop :=
  waitsOf tries = [] ∧ (who, x) ∈ goodOnes tries

end Sys2Proof.Claim

/-- R160 to R162, R165, R175: ADDRESSES AND CHECKS. The effective address is the base plus the index, under SC times the size, plus
the offset, modulo 2^64; the gang accesses once where no operand is per lane, else each acting lane. The range is checked
first, then the alignment, then the leaf that the TLB or a walk gives: SCOPE, permission, format. A plain access moves
the bytes from its address on; an element of w bits stands at bit 8·anchor + index·w, in pages of one format. -/
def Obligations.AddressesAreFormedAndChecked : Prop :=
  (∀ (c : Ctx) (lane : Nat) (f : MF) (wide : Bool),
    let base : W64 := BitVec.ofNat 64 (c.src lane f.base wide)
    let idx : W64 := match f.index with
      | .none => 0
      | .v n => ((c.g.regs.lane lane).getV n).signExtend 64
      | o => BitVec.ofNat 64 (c.src lane o true)
    effAddr c lane f wide = (base + idx * (if f.sc then BitVec.ofNat 64 (sizeBytes f.size) else 1) + f.off.signExtend 64).toNat) ∧
  (∀ (s : State) (ops : List Opd) (who : Option Nat), who ∈ performers s ops ↔
    if ops.any opdPerLane then ∃ i, i < 32 ∧ maskHas s.act i = true ∧ who = some i else s.acts = true ∧ who = none) ∧
  (∀ (s : State) (g : Gang) (asid ea n : Nat) (acc : Access),
    (2 ^ 57 ≤ ea → access s g asid ea n acc = .fault 0x12 0) ∧
    (ea < 2 ^ 57 → ea % n ≠ 0 → access s g asid ea n acc = .fault 0x13 n) ∧
    (ea < 2 ^ 57 → ea % n = 0 →
      let x := access s g asid ea n acc
      (∀ e, tlbFind s g.core asid ea = none → walkAsleep s asid ea = false → walk s asid ea = .error e →
        ∃ d, x = .fault e d) ∧
      (∀ l, (tlbFind s g.core asid ea = some l ∨
          (tlbFind s g.core asid ea = none ∧ walkAsleep s asid ea = false ∧ walk s asid ea = .ok l)) →
        let may := match acc with | .read => entR l.entry | .write => entW l.entry | .fetch => entX l.entry
        (acc ≠ .fetch → 5 ≤ entScope l.entry → x = .fault 0x15 (entScope l.entry)) ∧
        (acc = .fetch ∨ entScope l.entry < 5 → may = false →
          x = .fault 0x11 (match acc with | .read => 0 | .write => 1 | .fetch => 2)) ∧
        (acc = .fetch ∨ entScope l.entry < 5 → may = true → globalAcc (entAddr l.entry) = accelId s →
          ∃ y, x = .ok y ∧ y.cell.va = ea ∧ y.fmt = entFmt l.entry ∧ y.scope = entScope l.entry ∧
            y.cell.pa = mappedPa s l.leafPa (globalLocal (entAddr l.entry) + (ea - l.base)))))) ∧
  (∀ (s : State) (g : Gang) (f : MF) (ops : List Opd) (acc : Access) (who : Option Nat) (x : List Cell),
    let ea := effAddr ⟨s, g, s.blockOf g⟩ (who.getD (lowestLane s.act)) f true
    (who, x) ∈ goodOnes (plainTries s g f ops acc) ↔
      who ∈ performers s ops ∧ (∀ l, who = some l → portFault (g.regs.lane l) f.d (f.size == .b64) = none) ∧
      ∃ y, access s g (gangAsid (s.blockOf g)) ea (sizeBytes f.size) acc = .ok y ∧
        x = (List.range (sizeBytes f.size)).map (fun i => { y.cell with pa := y.cell.pa + i, va := y.cell.va + i })) ∧
  (∀ (s : State) (c : Ctx) (lane : Nat) (f : MEF) (acc : Access) (y : Xl),
    let anchor : W64 := BitVec.ofNat 64 (c.src lane f.base true) + f.off.signExtend 64
    let idx : Int := match f.index with
      | .none => 0
      | .v n => ((c.g.regs.lane lane).getV n).toInt
      | o => (BitVec.ofNat 64 (c.src lane o true)).toInt
    let w := elemBits y.fmt
    let bit : Int := 8 * anchor.toNat + idx * w
    let first : W64 := BitVec.ofInt 64 (bit / 8)
    let n := ((bit % 8).toNat + w + 7) / 8
    let byte := fun (i : Nat) => xlate s c.g.core (gangAsid c.b) ((first.toNat + i) % 2 ^ 64) acc true
    (2 ^ 57 ≤ anchor.toNat → plainElem s c lane f acc = .error (.fault 0x12 0, anchor.toNat)) ∧
    (anchor.toNat < 2 ^ 57 → xlate s c.g.core (gangAsid c.b) anchor.toNat acc true = .ok y →
      (2 ^ 57 ≤ first.toNat → plainElem s c lane f acc = .error (.fault 0x12 0, first.toNat)) ∧
      (first.toNat < 2 ^ 57 → 16 ≤ w → first.toNat % (w / 8) ≠ 0 →
        plainElem s c lane f acc = .error (.fault 0x13 (w / 8), first.toNat)) ∧
      (first.toNat < 2 ^ 57 → (16 ≤ w → first.toNat % (w / 8) = 0) →
        (∀ i, i < n → ∃ z, byte i = .ok z ∧ z.fmt = y.fmt ∧ z.blk = y.blk) →
        ∃ x, plainElem s c lane f acc = .ok x ∧ x.scale = none ∧ x.bit = (bit % 8).toNat ∧ x.fmt = y.fmt ∧ x.cells.length = n ∧
          ∀ i k z, x.cells[i]? = some k → byte i = .ok z → k = z.cell)))

/-- R160 to R166, R172, R238: A LOAD COMPLETES at issue by leaving a read of its bytes outstanding, for which a park seam
waits; a prefetch leaves one that nothing waits for. -/
def Obligations.LoadsBecomeOutstanding : Prop :=
  ∀ (s : State) (g : Gang) (who : Option Nat), s.gang? s.cx.gang = some g →
    (∀ (f : MF) x, goesAhead (plainTries s g f [f.base, f.index, f.d] .read) who x →
      ∃ t g', exec (.ld f) s = .next t ∧ t.gang? s.cx.gang = some g' ∧ loadOut s g' who x (.raw f.size) f.d true) ∧
    (∀ (f : MF) x, (who, x) ∈ goodOnes (plainTries s g f [f.base, f.index] .read) →
      ∃ t g', exec (.pref f) s = .next t ∧ t.gang? s.cx.gang = some g' ∧ loadOut s g' who x (.raw f.size) .none false) ∧
    (∀ (f : MEF) x, goesAhead (elemTries s g f .read false) who x →
      ∃ t g', exec (.lde f) s = .next t ∧ t.gang? s.cx.gang = some g' ∧ loadOut s g' who x.reads (x.loadFmt f.rt) f.d true) ∧
    (∀ (f : MEF) x, goesAhead (elemTries s g f .read true) who x →
      ∃ t g', exec (.ldeSc f) s = .next t ∧ t.gang? s.cx.gang = some g' ∧ loadOut s g' who x.reads (x.loadFmt f.rt) f.d true)

/-- R160 to R166, R202: A STORE COMPLETES at issue by holding its bytes through quarantine: the register group's bytes, least
significant first, or the element's bits under their masks; one that scales, once its scale byte can be read (R166). -/
def Sys2Proof.Claim.storesAreHeld : Prop :=
  ∀ (s : State) (g : Gang) (who : Option Nat), s.gang? s.cx.gang = some g → g.issue.isSome = true →
    let c : Ctx := ⟨s, g, s.blockOf g⟩
    let lane := who.getD (lowestLane s.act)
    (∀ (f : MF) x, goesAhead (plainTries s g f [f.base, f.index, f.d] .write) who x →
      ∃ t g', exec (.st f) s = .next t ∧ t.gang? s.cx.gang = some g' ∧
        storeHeld s g' who ((x.zip (dataBytes c lane f.d f.size)).map (fun p => ⟨p.1, p.2, 0xFF#8⟩))) ∧
    (∀ (f : MEF) x, goesAhead (elemTries s g f .write false) who x →
      ∃ t g', exec (.ste f) s = .next t ∧ t.gang? s.cx.gang = some g' ∧ storeHeld s g' who (elemData s c lane who f x).1) ∧
    (∀ (f : MEF) x,
      goesAhead ((elemTries s g f .write true).map (fun a => (c.b.map (fun b => scaleTry s g b a)).getD a)) who x →
      (∀ b, c.b = some b → scaleMisses s g b (elemTries s g f .write true) = [] ∧
        ∀ y ∈ scaleReads s g b f.svc (elemTries s g f .write true), readAsleep s y.pa = false) →
      ∃ t g', exec (.steSc f) s = .next t ∧ t.gang? s.cx.gang = some g' ∧ storeHeld s g' who (elemData s c lane who f x).1)

/-- R167, R170, R173: SCRATCHPAD WORDS: a load leaves its offset outstanding, a store holds its bytes from the word's
position on; offsets lose their bits below the size and are taken modulo P. -/
def Sys2Proof.Claim.scratchpadWords : Prop :=
  ∀ (s : State) (g : Gang) (f : MF) (who : Option Nat), s.gang? s.cx.gang = some g → g.issue.isSome = true →
    portFaults s g f.d (f.size == .b64) = [] → who ∈ performers s [f.base, f.index, f.d] →
    let c : Ctx := ⟨s, g, s.blockOf g⟩
    let lane := who.getD (lowestLane s.act)
    let off := scratchMod c.b (effAddr c lane f false / sizeBytes f.size * sizeBytes f.size)
    (∃ t g', exec (.ldl f) s = .next t ∧ t.gang? s.cx.gang = some g' ∧
      ∃ o ∈ g'.out, o.pc = s.cx.pc ∧ ∃ r, o.kind = .ldl r ∧ r.lane = who ∧ r.off = off ∧ r.size = f.size ∧ r.dst = f.d) ∧
    (∃ t g' r' h, exec (.stl f) s = .next t ∧ t.gang? s.cx.gang = some g' ∧ g'.issue = some r' ∧ h ∈ r'.held ∧
      h.pc = s.cx.pc ∧ h.eff = .loc (placed off (dataBytes c lane f.d f.size)) s.cx.pos)

/-- R160 to R167, R170, R173, R202: STORES AND SCRATCHPAD WORDS. -/
def Obligations.StoresAndScratchpadWords : Prop :=
  Sys2Proof.Claim.storesAreHeld ∧ Sys2Proof.Claim.scratchpadWords

/-- R168 to R170: AN ATOMIC COMPLETES at issue by holding one request for its lanes through quarantine, each with its data. -/
def Sys2Proof.Claim.atomicsAreHeld : Prop :=
  ∀ (s : State) (g : Gang) (f : AF), s.gang? s.cx.gang = some g → g.issue.isSome = true →
    (∀ who x, goesAhead (atomTries s g f) who x →
      ∃ t g' r' h a, exec (.atom f) s = .next t ∧ t.gang? s.cx.gang = some g' ∧ g'.issue = some r' ∧ h ∈ r'.held ∧
        h.pc = s.cx.pc ∧ h.eff = .atom a ∧ a.aop = f.aop ∧ a.size = f.size ∧ a.dst = f.d ∧
        ∃ y ∈ a.lanes, y.lane = x.lane ∧ y.data = x.data ∧ y.cmp = x.cmp ∧ y.cells.map (·.pa) = x.cells.map (·.pa)) ∧
    (∀ who, portFaults s g f.d (f.size == .b64) = [] → who ∈ performers s [f.base, f.data, f.d] →
      let c : Ctx := ⟨s, g, s.blockOf g⟩
      let lane := who.getD (lowestLane s.act)
      ∃ t g' r' h a, exec (.atoml f) s = .next t ∧ t.gang? s.cx.gang = some g' ∧ g'.issue = some r' ∧ h ∈ r'.held ∧
        h.pc = s.cx.pc ∧ h.eff = .atoml a ∧ a.aop = f.aop ∧ a.size = f.size ∧ a.dst = f.d ∧
        ∃ y ∈ a.lanes, y.lane = who ∧ y.data = groupVal c lane f.data f.size ∧
          y.off = scratchMod c.b (c.src lane f.base false / sizeBytes f.size * sizeBytes f.size))

/-- R168: WHAT AN ATOMIC STORES, on the bits of its size. -/
def Sys2Proof.Claim.atomicOperationsCompute : Prop :=
  ∀ (z : MSize) (o d c : BitVec 128), (z = .b32 ∨ z = .b64 ∨ z = .b128) →
    let w := 8 * sizeBytes z
    let x : BitVec w := o.setWidth w
    let y : BitVec w := d.setWidth w
    let f := fmtOf (if z = .b64 then .f64 else .f32)
    let new := fun op => (atomNew op z o d c).1.setWidth w
    new .xchg = y ∧ new .st = y ∧ new .ld = x ∧ new .cas = (if x = c.setWidth w then y else x) ∧
    (z ≠ .b128 →
      new .add = x + y ∧ new .smin = (if y.slt x then y else x) ∧ new .smax = (if x.slt y then y else x) ∧
      new .umin = (if y.ult x then y else x) ∧ new .umax = (if x.ult y then y else x) ∧
      new .and = x &&& y ∧ new .or = x ||| y ∧ new .xor = x ^^^ y ∧ new .incw = (if y.ule x then 0 else x + 1) ∧
      new .fadd = BitVec.ofNat w (roundVal f .rne false (faddV .rne (fdecode f x.toNat) (fdecode f y.toNat)).1).1 ∧
      new .fmin = BitVec.ofNat w (fminmax f false true false x.toNat y.toNat).1 ∧
      new .fmax = BitVec.ofNat w (fminmax f false true true x.toNat y.toNat).1)

/-- R168 to R170: ATOMICS: the words, and what they store. -/
def Obligations.Atomics : Prop :=
  Sys2Proof.Claim.atomicsAreHeld ∧ Sys2Proof.Claim.atomicOperationsCompute

/-- R173, R174: STREAM PORTS: SBIND binds each acting lane's port at position 0; SPOS gives the position and sets it. -/
def Obligations.StreamPortWords : Prop :=
  (∀ (s : State) (g : Gang) (f : SbindF), s.gang? s.cx.gang = some g →
    let c : Ctx := ⟨s, g, s.blockOf g⟩
    exec (.sbind f) s = .next (s.onIssuer (fun g' => g'.emit (s.cx.pos + 1) ((lanesOf s.act).map (fun i =>
      .port i f.port.val ⟨BitVec.ofNat 64 (c.src i f.a false), BitVec.ofNat 32 (c.src i f.b false), f.esz, f.sgn, 0⟩))))) ∧
  (∀ (s : State) (g : Gang) (r : RunIssue) (f : EF) (port : Fin 8) (n : Fin 256) (j : Nat) (p : Port),
    s.gang? s.cx.gang = some g → g.issue = some r → f.d = .v n → f.a ≠ .none → maskHas s.act j = true →
    (∀ i, maskHas s.act i = true → ((g.regs.lane i).port? port.val).isSome = true ∧ portFault (g.regs.lane i) f.a false = none) →
    (g.regs.lane j).port? port.val = some p →
    ∃ t g' r', exec (.spos f port) s = .next t ∧ t.gang? s.cx.gang = some g' ∧ g'.issue = some r' ∧
      ⟨s.cx.pos + 1, .v j n p.pos⟩ ∈ r'.pends ∧
      ⟨s.cx.pos + 1, .port j port.val
        { p with pos := BitVec.ofNat 32 ((Ctx.mk s g (s.blockOf g)).src j f.a false) }⟩ ∈ r'.pends)

/-- R176, R202, R237: THE FRAME OF THE MEMORY WORDS. At issue such a word changes no byte of memory, no block's store buffer
and no scratchpad; no register of its gang, and no other gang. Of its block it may note that it met uncorrectable data
(R334). -/
def Obligations.MemoryWordFrame : Prop :=
  ∀ (i : Instr) (s t : State),
    ((∃ f, i = .ld f ∨ i = .pref f ∨ i = .st f ∨ i = .ldl f ∨ i = .stl f) ∨
      (∃ f, i = .lde f ∨ i = .ldeSc f ∨ i = .ste f ∨ i = .steSc f) ∨ (∃ f, i = .atom f ∨ i = .atoml f) ∨
      (∃ f, i = .sbind f) ∨ (∃ f p, i = .spos f p)) →
    exec i s = .next t →
    t.mem = s.mem ∧ (∀ view pa, viewByte t view pa = viewByte s view pa) ∧
    t.blocks.map (fun b => { b with consumption := [] }) = s.blocks.map (fun b => { b with consumption := [] }) ∧
    (∀ v, v ≠ s.cx.gang → t.gang? v = s.gang? v) ∧
    ∀ g g', s.gang? s.cx.gang = some g → t.gang? s.cx.gang = some g' →
      g'.regs.s = g.regs.s ∧ g'.regs.sfsr = g.regs.sfsr ∧ ∀ j, sameRegs (g.regs.lane j) (g'.regs.lane j)

/-- R163, R42: A LOADED VALUE: the bytes are read least significant first; `.i8` and `.i16` are sign-extended. -/
def Sys2Proof.Claim.loadsExtendBySize : Prop :=
  ∀ (x : BitVec 32) (lane ord : Nat) (n : Fin 256),
    loadEffs (.v n) lane [] ord .n8 (leBytes 1 x.toNat) = [.v lane n ((x.setWidth 8).setWidth 32)] ∧
    loadEffs (.v n) lane [] ord .i8 (leBytes 1 x.toNat) = [.v lane n ((x.setWidth 8).signExtend 32)] ∧
    loadEffs (.v n) lane [] ord .n16 (leBytes 2 x.toNat) = [.v lane n ((x.setWidth 16).setWidth 32)] ∧
    loadEffs (.v n) lane [] ord .i16 (leBytes 2 x.toNat) = [.v lane n ((x.setWidth 16).signExtend 32)] ∧
    loadEffs (.v n) lane [] ord .b32 (leBytes 4 x.toNat) = [.v lane n x] ∧
    leValue (leBytes 4 x.toNat) = x.toNat

/-- R63, R236, R367: A WRITE AT HOME CHANGES THE BYTES IT NAMES ALONE: every other byte reads as before under the view of the
write, and every byte of another line under every view. A byte written whole reads back. -/
def Sys2Proof.Claim.memoryWritesNameTheirBytes : Prop :=
  (∀ (s : State) (atomic : Bool) (xs : List StCell) (view a : Nat),
    (∀ x ∈ xs, a ≠ homePa s x.cell.pa ∧ forwardPa s x.cell.pa ≠ some a) →
    (∀ x ∈ xs, x.cell.view = view ∨
      (lineOf a ≠ lineOf (homePa s x.cell.pa) ∧ ∀ d, forwardPa s x.cell.pa = some d → lineOf a ≠ lineOf d)) →
    viewByte (writeHome s atomic xs) view a = viewByte s view a) ∧
  (∀ (s : State) (x : StCell), x.mask = 0xFF#8 → x.cell.poi = false → linkDown s (homePa s x.cell.pa) = false →
    inWindow (homePa s x.cell.pa) = false → forwardPa s x.cell.pa = none →
    viewByte (writeHome s false [x]) x.cell.view (homePa s x.cell.pa) = x.val)
/-! ### Words of the gang -/

/-- R42, R63, R163, R236, R367: WHAT A LOAD READS AND WHAT A WRITE AT HOME CHANGES. -/
def Obligations.LoadedValuesAndHomeWrites : Prop :=
  Sys2Proof.Claim.loadsExtendBySize ∧ Sys2Proof.Claim.memoryWritesNameTheirBytes

namespace Sys2Proof.Claim
open Sys2Proof.Machine

/-- A word that acts once for its gang (R66): issued for a resident gang, with a run in issue and some guard true. -/
def issues (s : State) (g : Gang) (r : RunIssue) : Prop :=
  s.gang? s.cx.gang = some g ∧ g.issue = some r ∧ s.acts = true

/-- What a word of the gang may change of the package at issue: its own gang, and the remote-translation entries that the
access has used up. Every register of its lanes and every scalar is as before. -/
def gangOnly (s t : State) (g g' : Gang) : Prop :=
  t = { s with gangs := t.gangs, rtc := t.rtc } ∧ (∀ v, v ≠ s.cx.gang → t.gang? v = s.gang? v) ∧
  g'.regs.lanes = g.regs.lanes ∧ g'.regs.s = g.regs.s ∧ g'.regs.sfsr = g.regs.sfsr ∧ g'.regs.overlay = g.regs.overlay

/-- THE WORD COMPLETES by holding one effect through quarantine (R202). -/
def HoldsEffect (i : Instr) (s : State) (g : Gang) (r : RunIssue) (e : Held) : Prop :=
  ∃ t g' r' h, exec i s = .next t ∧ t.gang? s.cx.gang = some g' ∧ g'.issue = some r' ∧ r'.held = r.held ++ [h] ∧
    h.eff = e ∧ h.pc = s.cx.pc ∧ h.run = g.run ∧ gangOnly s t g g'

/-- A state without the requests that a unit's own reads have made since another: the channels' queues, the motions that
such a read has failed, and the free bytes used up (R336, R359; logs 6 and 99). -/
def unasked (s t : State) : State := { t with chanQ := s.chanQ, motions := s.motions, free := s.free }

/-- What a word of the gang that translates an address may change beside: the requests of its walk. -/
def gangWalks (s t : State) (g g' : Gang) : Prop := gangOnly s (unasked s t) g g'

/-- THE WORD COMPLETES by holding one effect whose result, due at a park seam (R82), it leaves outstanding; `frame` says what
else it may change. -/
def HoldsUnder (frame : State → State → Gang → Gang → Prop) (i : Instr) (s : State) (g : Gang) (r : RunIssue)
    (e : Nat → Held) (d : List Dst) : Prop :=
  ∃ t g' r' h o, exec i s = .next t ∧ t.gang? s.cx.gang = some g' ∧ g'.issue = some r' ∧ r'.held = r.held ++ [h] ∧
    h.eff = e g.nextId ∧ h.pc = s.cx.pc ∧ h.run = g.run ∧ g'.out = g.out ++ [o] ∧ o.id = g.nextId ∧ o.dsts = d ∧
    o.arrived = false ∧ o.blocks = true ∧ frame s t g g'

/-- The same of a word that translates no address. -/
def HoldsWithResult (i : Instr) (s : State) (g : Gang) (r : RunIssue) (e : Nat → Held) (d : List Dst) : Prop :=
  HoldsUnder gangOnly i s g r e d

/-- The same of a word that names an object or a join at an address. -/
def HoldsAtPlace (i : Instr) (s : State) (g : Gang) (r : RunIssue) (e : Nat → Held) (d : List Dst) : Prop :=
  HoldsUnder gangWalks i s g r e d

/-- R41, R200: the special registers that RDSP reads, of a gang of a block. -/
def specialIs (s : State) (g : Gang) (b : Block) (sp : CoreSpecial) (x : Nat) : Prop :=
  match sp with
  | .gang => x = g.idx
  | .block => x = b.idx
  | .core => x = g.core0
  | .quad => x = g.core0 / 4
  | .die => x = g.core0 / 32
  | .pkg => x = g.pkgtag
  | .accel => x = g.accel
  | .clock => x = s.cycle % 2 ^ 64
  | .part => x = g.part
  | .vregs => x = g.vregs
  | .sregs => x = g.sregs
  | .replays => x = g.replays % 2 ^ 32
  | .fenced => x = (s.core g.core).fenced.toNat
  | .blkcores => x = b.span
  | .blkpos => x = b.posOf g.core
  | .nblocks => x = b.nblocks
  | .bthreads => x = b.threads

/-- The registers that a 64-bit result of the gang names. -/
def resultOf (d : Opd) : List Dst :=
  match d with
  | .s n => [.s n]
  | .c n => [.c n]
  | _ => []

end Sys2Proof.Claim

/-- R196, R197, R200, R220 to R222, R225, R226: DONATIONS, SPECIALS, COPY REQUESTS, CATCHMENTS AND COUNTERS. -/
def Sys2Proof.Claim.coreWordsComplete : Prop :=
  ∀ (s : State) (g : Gang) (r : RunIssue) (f : EF), issues s g r →
    (∀ n, HoldsEffect (.rgive f n) s g r (.donate true (gangSrc s g f.a % 256) (8 * n)) ∧
      HoldsEffect (.rtake f n) s g r (.donate false (gangSrc s g f.a % 256) (8 * n))) ∧
    (∀ sp b x, s.blockOf g = some b → specialIs s g b sp x → ∃ t g' r', exec (.rdsp f sp) s = .next t ∧
      t.gang? s.cx.gang = some g' ∧ g'.issue = some r' ∧
      (∀ n : Fin 512, f.d = .s n → r'.pends = r.pends ++ [⟨s.cx.pos + 1, .s n (BitVec.ofNat 64 x)⟩] ∧ r'.held = r.held) ∧
      (∀ n : Fin 32, f.d = .c n → r'.pends = r.pends ++ [⟨s.cx.pos + 1, .c n (BitVec.ofNat 64 x) g.ord⟩] ∧
        ∃ h, r'.held = r.held ++ [h] ∧ h.eff = .commons n (BitVec.ofNat 64 x))) ∧
    (∀ count, let n := if f.b = .none then count else gangSrc s g f.b % 4096
      (n = 0 → exec (.kick f count) s = .next s) ∧
      (65535 < g.counter 0 + n → 0 < n → exec (.kick f count) s = .next s.stalled) ∧
      (0 < n → g.counter 0 + n ≤ 65535 →
        HoldsEffect (.kick f count) s g r (.kick (gangSrc s g f.a / 64 % 2 ^ 58) n) ∧
        ∃ t g', exec (.kick f count) s = .next t ∧ t.gang? s.cx.gang = some g' ∧
          g'.regs.issuedCopy = g.regs.issuedCopy + n)) ∧
    (∀ n, HoldsEffect (.cati f n) s g r (.loc (placed (scratchMod (s.blockOf g) (gangSrc s g f.a / 16 * 16))
      (leBytes 4 1 ++ leBytes 4 n ++ leBytes 8 (if f.b = .none then 0 else gangSrc s g f.b))) s.cx.pos)) ∧
    (∃ t g' r' o, exec (.catw f) s = .next t ∧ t.gang? s.cx.gang = some g' ∧ g'.issue = some r' ∧
      r'.waits = r.waits ++ [.catw (gangSrc s g f.a / 16 * 16) f.d g.nextId g.run] ∧ r'.waiters = r.waiters ||| s.act ∧ g'.out = g.out ++ [o] ∧
      o.id = g.nextId ∧ o.dsts = resultOf f.d ∧ gangOnly s t g g') ∧
    (∀ cls n, ∃ t g' r', exec (.waitc f cls n) s = .next t ∧ t.gang? s.cx.gang = some g' ∧ g'.issue = some r' ∧
      r'.waits = r.waits ++ [.waitc (match cls with | .copy => 0 | .matrix => 1 | .gather => 2 | .join => 3)
        (if f.a = .none then n else gangSrc s g f.a % 4096) g.run] ∧ r'.waiters = r.waiters ||| s.act ∧ gangOnly s t g g')

/-- R233, R246 to R250: RECORDS AND BOUNDARIES. RECF drops the named record, or all of its context; RECP keeps the record
that it reads; ACQ drops the clean lines of pages shared beyond the core; PUB, PHASE and FENCE are held and a park seam
waits for them. -/
def Sys2Proof.Claim.recordAndBoundaryWords : Prop :=
  ∀ (s : State) (g : Gang) (r : RunIssue) (f : EF), issues s g r →
    let asid := gangAsid (s.blockOf g)
    HoldsWithResult (.pub f) s g r (fun i => .pub i none) [] ∧
    HoldsWithResult (.phase f) s g r (fun i => .phase i none) [] ∧
    HoldsWithResult (.fence f) s g r (fun i => .fence i) [] ∧
    (∃ t, exec (.acq f) s = .next t ∧ (t.core g.core).l1 = (s.core g.core).l1.filter (fun e => !e.drop) ∧
      t.mem = s.mem ∧ t.blocks = s.blocks ∧ ∀ c, c ≠ g.core → t.core c = s.core c) ∧
    (∃ t, exec (.recf f) s = .next t ∧ t.mem = s.mem ∧ t.gangs = s.gangs ∧ (∀ c, c ≠ g.core → t.core c = s.core c) ∧
      ∀ e, e ∈ (t.core g.core).recs ↔
        e ∈ (s.core g.core).recs ∧ (e.asid ≠ asid ∨ (f.a ≠ .none ∧ e.addr ≠ gangSrc s g f.a / 64 * 64))) ∧
    (∀ bs, recRead s g.core asid (gangSrc s g f.a) (fun a => xlate s g.core asid a .read false) = .ok bs →
      ∃ t, exec (.recp f) s = .next t ∧ recFind (t.core g.core) asid (gangSrc s g f.a) = some bs ∧ t.mem = s.mem ∧
        t.gangs = s.gangs)

/-- R196 to R200, R220 to R226, R233, R246 to R250: THE WORDS OF THE CORE. -/
def Obligations.CoreRecordAndBoundaryWords : Prop :=
  Sys2Proof.Claim.coreWordsComplete ∧ Sys2Proof.Claim.recordAndBoundaryWords

/-- R265, R266, R271 to R277, R279, R407: COMMANDS OF THE ARRAY AND INDEX-VECTOR REQUESTS count at issue and are held; at
the counter's bound the word stalls. -/
def Obligations.EngineCommandWords : Prop :=
  ∀ (s : State) (g : Gang) (r : RunIssue) (f : EF) (pair : Bool), issues s g r →
    let cmd := fun (op : Nat) (p : Bool) (oid : Nat) => Held.cmd
      { op := op, tile := match f.d with | .m n => some n.val | _ => none
        desc := if f.a = .none then 0 else gangSrc s g f.a / 32 * 32, pair := p
        metaRegs := match f.b with
          | .v b => (List.range 6).map (fun k => (List.range 32).map (fun l => (g.regs.lane l).getV (b.val + k)))
          | _ => []
        pc := s.cx.pc, oid := oid, run := g.run, follow := none }
    let commands : List (Instr × Nat × Bool) :=
      [(.mma f pair, 0, pair), (.mmax f pair, 1, pair), (.mmas f pair, 2, pair), (.mzero f, 3, false), (.mlda f, 4, false),
        (.mdrain f, 5, false), (.spcomp f, 6, false)]
    let requests : List (Instr × Bool) := [(.gath f, false), (.scad f, true)]
    (∀ x ∈ commands,
      (g.counter 1 < 65535 → HoldsWithResult x.1 s g r (cmd x.2.1 x.2.2) [] ∧
        ∃ t g', exec x.1 s = .next t ∧ t.gang? s.cx.gang = some g' ∧ g'.regs.issuedMat = g.regs.issuedMat + 1) ∧
      (65535 ≤ g.counter 1 → exec x.1 s = .next s.stalled)) ∧
    (∀ x ∈ requests,
      (g.counter 2 < 65535 → HoldsWithResult x.1 s g r (fun oid => .gath x.2 (gangSrc s g f.a / 64 * 64) oid) [] ∧
        ∃ t g', exec x.1 s = .next t ∧ t.gang? s.cx.gang = some g' ∧ g'.regs.issuedGath = g.regs.issuedGath + 1) ∧
      (65535 ≤ g.counter 2 → exec x.1 s = .next s.stalled))

/-- R295 to R299, R375 to R377: WORDS THAT NAME A BARRIER OBJECT OR A JOIN complete, where the address passes its checks, by
holding their operation; the waits park the gang at the run's end. -/
def Sys2Proof.Claim.barrierAndJoinWords : Prop :=
  ∀ (s : State) (g : Gang) (r : RunIssue) (f : EF) (x : Xl), issues s g r →
    let va := gangSrc s g f.a
    let asid := gangAsid (s.blockOf g)
    let waits := fun (i : Instr) (w : Wait) => ∃ t g' r', exec i s = .next t ∧ t.gang? s.cx.gang = some g' ∧
      g'.issue = some r' ∧ r'.waits = r.waits ++ [w] ∧ r'.waiters = r.waiters ||| s.act
    (access s g asid va 64 .write = .ok x →
      HoldsAtPlace (.bari f) s g r (fun oid => .bari va x.cell x.scope (BitVec.ofNat 64 (gangSrc s g f.b)) oid) [] ∧
      HoldsAtPlace (.bara f) s g r (fun oid => .bara va x.cell x.scope f.d oid) (resultOf f.d)) ∧
    (access s g asid va 64 .read = .ok x →
      HoldsAtPlace (.barw f) s g r
        (fun oid => .barw va x.cell x.scope (BitVec.ofNat 32 (gangSrc s g f.b)) f.d oid) (resultOf f.d) ∧
      waits (.barw f) (.barw g.nextId g.run) ∧
      HoldsAtPlace (.bart f) s g r (fun oid => .bart va x.cell x.scope f.d oid) (resultOf f.d)) ∧
    (access s g asid va 128 .write = .ok x →
      HoldsAtPlace (.jarr f) s g r (fun oid => .jarr va (BitVec.ofNat 32 (gangSrc s g f.b)) f.d oid) (resultOf f.d)) ∧
    (access s g asid va 128 .read = .ok x →
      HoldsAtPlace (.jwait f) s g r (fun oid => .jwait va x.cell f.d oid) (resultOf f.d) ∧
      waits (.jwait f) (.jwait g.nextId g.run) ∧
      HoldsAtPlace (.jstat f) s g r (fun oid => .jstat va x.cell f.d oid) (resultOf f.d))

/-- R321, R322, R363, R365, R377: LAUNCH, PROG, MIGR, PGQ AND KILLPT complete at issue. -/
def Sys2Proof.Claim.dispatchAndPageWords : Prop :=
  ∀ (s : State) (g : Gang) (r : RunIssue) (f : EF), issues s g r →
    HoldsWithResult (.launch f) s g r (fun oid => .launch (gangSrc s g f.a) (gangSrc s g f.b % 4096) f.d oid) (resultOf f.d) ∧
    HoldsEffect (.prog f) s g r (.prog (min (gangSrc s g f.a % 131072) 65536)) ∧
    HoldsWithResult (.migr f) s g r
      (fun oid => .migr ((s.blockOf g).elim 0 (·.asid)) g.core (gangSrc s g f.a) (BitVec.ofNat 64 (gangSrc s g f.b)) none f.d oid)
      (resultOf f.d) ∧
    HoldsWithResult (.killpt f) s g r (fun oid => .killpt oid) [] ∧
    (∃ t g' o, exec (.pgq f) s = .next t ∧ t.gang? s.cx.gang = some g' ∧ g'.out = g.out ++ [o] ∧ o.id = g.nextId ∧
      o.kind = .pgq (gangSrc s g f.a) f.d ∧ o.dsts = resultOf f.d ∧ o.blocks = true ∧ gangOnly s t g g')

/-- R295 to R299, R321, R322, R363, R365, R375 to R377: THE WORDS OF BARRIERS, JOINS, DISPATCH AND PAGES. -/
def Obligations.BarrierDispatchAndPageWords : Prop :=
  Sys2Proof.Claim.barrierAndJoinWords ∧ Sys2Proof.Claim.dispatchAndPageWords

/-- R66: A WORD OF THE GANG WHOSE GUARD HOLDS IN NO LANE changes nothing. -/
def Obligations.GuardFalseGangWordsDoNothing : Prop :=
  ∀ (s : State) (f : EF) (n : Nat) (sp : CoreSpecial) (cls : OpClass) (pair : Bool), s.acts = false →
    ∀ i ∈ [Instr.rgive f n, .rtake f n, .rdsp f sp, .kick f n, .cati f n, .catw f, .waitc f cls n, .recf f, .recp f, .pub f,
        .acq f, .phase f, .fence f, .mma f pair, .mmax f pair, .mmas f pair, .mzero f, .mlda f, .mdrain f, .spcomp f,
        .bari f, .bara f, .barw f, .bart f, .launch f, .prog f, .migr f, .pgq f, .jarr f, .jwait f, .killpt f, .jstat f,
        .gath f, .scad f],
      exec i s = .next s

/-! ### Events of the cores -/

namespace Sys2Proof.Claim
open Sys2Proof.Machine

/-- THE INSTRUCTION COMPLETES: it answers a next state of which `P` holds. -/
def After (i : Instr) (s : State) (P : State → Prop) : Prop := ∃ t, exec i s = .next t ∧ P t

/-- A resident gang of which `P` holds. -/
def gangIn (t : State) (u : Nat) (P : Gang → Prop) : Prop := ∃ g, t.gang? u = some g ∧ P g

/-- A block of which `P` holds. -/
def blockIn (t : State) (u : Nat) (P : Block → Prop) : Prop := ∃ b, t.block? u = some b ∧ P b

/-- R189 to R192: the gangs of a partition as a boundary leaves them, exchanges and forced rotation made. -/
def boundaryOrder (s : State) (core part : Nat) : List Gang :=
  let n := ((s.core core).part part).bounds
  let l0 := (partGangs s core part).map (boundaryView s n)
  let l1 := exchange n l0 [] 32
  rotate n l1 (movedIn l0 l1) 8

/-- The state in which a boundary's winner starts its run. -/
def boundaryState (s : State) (core part : Nat) : State :=
  (putGangs s ((boundaryOrder s core part).map (fun g => { g with yielded := false }))).modCore core (fun c =>
    c.modPart part (fun p => { p with bounds := p.bounds + 1, leaveEmpty := false }))

/-- R82, R120, R165, R195: the effects that become visible at a gang's park seam: of results that have come (flags of a
store only out of quarantine), for lanes that have not exited, commons writes that every gang already reads apart. -/
def dueEffs (s : State) (g : Gang) : List Eff :=
  (g.out.filter (fun o => o.arrived && !(o.kind == .afterQuar && g.runLive o.run))).flatMap (fun o =>
    (g.liveEffs o.effs).filter (fun e => !(commonsDone s g o e)))

/-- R203: a gang put back to the start of its oldest discarded run `r` and given its discarded runs to issue again. -/
def putBack (g : Gang) (r : RunRec) (rest : List RunRec) (g' : Gang) : Prop :=
  g'.regs.s = r.snapshot.s ∧ g'.regs.sfsr = r.snapshot.sfsr ∧ g'.regs.overlay = r.snapshot.overlay ∧
  (∀ j, j < 32 → sameRegs (r.snapshot.lane j) (g'.regs.lane j)) ∧
  g'.run = r.seq ∧ g'.runs = [] ∧ g'.issue = none ∧ g'.replays = g.replays + (r :: rest).length ∧
  g'.replayQ = (r :: rest).map (fun q => (q.start, q.clutch)) ++ g.replayQ

/-- An outstanding result that has come with these effects. -/
def arrived (g : Gang) (oid : Nat) (es : List Eff) : List Outst :=
  g.out.map (fun x => if x.id = oid then { x with effs := x.effs ++ es, arrived := true } else x)

end Sys2Proof.Claim

/-- R30: THE CLUTCH is the group of runnable lanes at one address that has waited longest; among equally old ones, the one
at the lowest address. -/
def Sys2Proof.Claim.clutchIsTheOldestGroup : Prop :=
  ∀ (r : GangRegs),
    (formClutch r = none ↔ ∀ i, i < 32 → (r.lane i).status ≠ .runnable) ∧
    ∀ pc m, formClutch r = some (pc, m) →
      (∀ i, i < 32 → (maskHas m i = true ↔ (r.lane i).status = .runnable ∧ (r.lane i).pc = pc)) ∧
      ∃ j, j < 32 ∧ maskHas m j = true ∧ ∀ i, i < 32 → (r.lane i).status = .runnable →
        (r.lane j).stamp < (r.lane i).stamp ∨
          ((r.lane j).stamp = (r.lane i).stamp ∧ pc.toNat ≤ (r.lane i).pc.toNat)

/-- R78, R83, R85, R189, R204: A RUN BOUNDARY. One that Chorus asked for is empty. Otherwise the winner's clutch starts its
run at the clutch's address: the words as fetched enter issue, or the clutch parks at the run's first word with the cause
that the static checks found. With no winner the cycle is empty. That the exchanges count free places after every parked gang is
log 106 (DESIGN CHOICE), that an emptied boundary makes none log 107 (DESIGN CHOICE). -/
def Sys2Proof.Claim.runBoundariesStartRuns : Prop :=
  ∀ (s : State) (core part : Nat), partUsable s core part = true → issuingGang s core part = none →
    part < (s.core core).parts.length →
    let s1 := partTurn s core part;
    let p := (s1.core core).part part;
    let done : Part := { p with bounds := p.bounds + 1, leaveEmpty := false, busy := s1.cycle };
    (p.leaveEmpty = true → After (.runBoundary core part) s (fun t =>
      t = { s1 with cores := t.cores } ∧ (t.core core).part part = done)) ∧
    (p.leaveEmpty = false → boundaryWinner (boundaryOrder s1 core part) = none → After (.runBoundary core part) s (fun t =>
      t = { s1 with cores := t.cores, gangs := t.gangs } ∧ (t.core core).part part = done)) ∧
    (∀ g g0 pc clutch ws, p.leaveEmpty = false → boundaryWinner (boundaryOrder s1 core part) = some g →
      let s2 := (boundaryState s1 core part).modGang g.uid (fun x => { x with ageBase := p.bounds + 1 });
      s2.gang? g.uid = some g0 → g0.replayQ = [] → formClutch g0.regs = some (pc, clutch) →
      fetchRun s2 g0.core (gangAsid (s2.blockOf g0)) ((s2.blockOf g0).elim 0 (·.launch)) pc = .words ws →
      let check := staticFault g0.vregs g0.sregs ((s2.blockOf g0).elim 0 (·.tilesT)) ws;
      (check = none → After (.runBoundary core part) s (fun t => t.mem = s.mem ∧ gangIn t g.uid (fun g1 =>
        g1.regs = g0.regs ∧ g1.ageBase = p.bounds + 1 ∧ ∃ r, g1.issue = some r ∧ r.start = pc ∧ r.words = ws ∧ r.idx = 0 ∧ r.clutch = clutch ∧
          r.gone = 0 ∧ r.snapshot = g0.regs ∧ r.held = [] ∧ r.pends = []))) ∧
      (∀ c d i, check = some (c, d, i) → After (.runBoundary core part) s (fun t => t.mem = s.mem ∧
        gangIn t g.uid (fun g1 => g1.issue = g0.issue ∧ g1.ageBase = p.bounds + 1 ∧
          (∀ j, j < 32 → maskHas clutch j = true → (g1.regs.lane j).status = .parked ∧ (g1.regs.lane j).pc = pc) ∧
          ∃ q ∈ g1.runs, ∃ h ∈ q.held, ∃ req, h.eff = .fault req ∧ req.cause = c ∧ req.detail = d ∧
            req.pc = pc ∧
            req.addr = wordAt pc i ∧ req.lanes = clutch))))

/-- R30, R78, R83, R85, R189, R204: THE CLUTCH AND THE RUN BOUNDARY. -/
def Obligations.ClutchesAndRunBoundaries : Prop :=
  Sys2Proof.Claim.clutchIsTheOldestGroup ∧ Sys2Proof.Claim.runBoundariesStartRuns

/-- R82, R120, R165, R172, R202: QUARANTINE, PARK SEAMS AND RETURNS. A run stays in quarantine for 40 cycles after its last
word; then its stores stand ready for the store buffer and its fault records, where no earlier arrival or launch is still
held back, go to their area. At a completed park seam the results that have come are in their registers, those for exited
lanes apart. A result returns by itself once its source has given it. -/
def Obligations.QuarantineAndReturns : Prop :=
  ∀ (s : State) (u : Nat) (g : Gang), s.gang? u = some g →
    (∀ r, g.runs.head? = some r →
      (s.cycle ≤ r.endCycle + 40 → exec (.quarantineExit u) s = .next s) ∧
      (r.endCycle + 40 < s.cycle → After (.quarantineExit u) s (fun t => t.mem = s.mem ∧
        gangIn t u (fun g' => g'.runs = g.runs.drop 1 ∧ ∀ h ∈ r.held, ∀ cells lane m, h.eff = .store cells lane m → h ∈ g'.relq) ∧
        ((∀ h ∈ g.relq ++ r.held, waitsBoundary h.eff = false) → ∀ h ∈ r.held, ∀ req, h.eff = .fault req → req ∈ t.faultQ)))) ∧
    (g.seamReady = true → g.deferred = [] → (∀ o ∈ g.out, o.clob = []) → After (.parkSeamComplete u) s (fun t =>
      t.mem = s.mem ∧ gangIn t u (fun g' => g'.seam = false ∧ g'.out = g.out.filter (fun o => !g.outDue o) ∧
        g'.regs = (dueEffs s g).foldl GangRegs.apply g.regs))) ∧
    (∀ i o, g.out[i]? = some o → o.arrived = false →
      let comes := fun (es : List Eff) => After (.variableResultReturn u i) s (fun t =>
        t = { s with gangs := t.gangs } ∧ gangIn t u (fun g' => g' = { g with out := arrived g o.id es }))
      (o.kind = .value → comes []) ∧
      (o.kind = .afterQuar → g.runLive o.run = false → comes []) ∧
      (∀ r bs, o.kind = .load r → r.got = some bs → o.blocks = true →
        comes (if r.poison then [] else loadedEffs o r bs)) ∧
      (∀ r b, o.kind = .ldl r → s.blockOf g = some b → g.relq = [] → g.runs = [] → g.issue = none →
        comes (loadEffs r.dst (r.lane.getD 0) o.ports o.ord r.size (scratchBytes b (b.posOf g.core) r.off (sizeBytes r.size)))) ∧
      (∀ va dst b, o.kind = .pgq va dst → s.blockOf g = some b → queryAsleep s g.core b.asid va = false →
        After (.variableResultReturn u i) s (fun t => unasked s t = { s with gangs := t.gangs } ∧
          gangIn t u (fun g' => g' = { g with out := arrived g o.id (gangEffs o.ord dst (pageQuery s g.core b.asid va)) }))))

/-- R203: A STRIKE REPORT returns every gang of the core to the start of its oldest run that is in quarantine or in issue, and
queues those runs again, each with its clutch, before those an earlier report queued; no partition of the core issues again in
the report's cycle. Nothing that a discarded run held
takes effect: memory, the blocks and the gangs of other cores are as before, but that a block has not met the uncorrectable
data which its discarded runs met (R178, R334). -/
def Sys2Proof.Claim.strikeReportsReplay : Prop :=
  ∀ (s : State) (core : Nat), (s.gangs.map (·.uid)).Nodup →
    (∀ g ∈ s.gangs, g.core = core → ∀ r ∈ g.runs, s.cycle ≤ r.endCycle + 40) →
    After (.strikeReport core) s (fun t => t.mem = s.mem ∧ t.faultQ = s.faultQ ∧
      t.blocks = s.blocks.map (fun b => { b with consumption := b.consumption.filter (fun c =>
        !(s.gangs.any (fun g => g.core == core && g.block == b.uid && c.guid == g.uid && g.runLive c.run))) }) ∧
      (∀ g ∈ s.gangs, g.core ≠ core → t.gang? g.uid = some g) ∧
      (∀ part, part < (s.core core).parts.length → ((t.core core).part part).busy = s.cycle) ∧
      ∀ g ∈ s.gangs, g.core = core → ∀ r rest, g.liveRuns s.cycle = r :: rest → gangIn t g.uid (putBack g r rest))

/-- R204 to R206: CHORUS. A check uses an empty cycle and changes no gang where each of the 32 lanes gives the signature of
the class. A first mismatch is logged and noted, and the partition's gangs, and no others, are put back and replay as by a strike
report; a second one within 2,000,000 cycles fences the partition: each block with a gang there is relaunched where it has
not committed, else killed, with a record of cause 0x26. A class without a check for 61,440 cycles has the next boundary
left empty. -/
def Sys2Proof.Claim.chorusChecks : Prop :=
  ∀ (s : State) (core part cls : Nat), part < (s.core core).parts.length →
    let q := (s.core core).part part;
    ((∃ c ∈ q.chorus, c + 61440 ≤ s.cycle) → After (.chorusCheckDue core part) s (fun t =>
      t = { s with cores := t.cores } ∧ (t.core core).part part = { q with leaveEmpty := true })) ∧
    ((∀ c ∈ q.chorus, s.cycle < c + 61440) → exec (.chorusCheckDue core part) s = .next s) ∧
    (∀ results : List W64, cls < 8 → partUsable s core part = true → issuingGang s core part = none →
      let s1 := partTurn s core part;
      let seen : Part := { q with busy := s1.cycle, chorus := q.chorus.set cls s1.cycle };
      let ok := ∀ l, l < 32 → results[l]? = s.chorusSigs[cls]?;
      (ok → After (.chorusCheck core part cls results) s (fun t =>
        t = { s1 with cores := t.cores } ∧ (t.core core).part part = seen)) ∧
      (¬ ok → q.mismatch = none → After (.chorusCheck core part cls results) s (fun t =>
        (t.core core).part part = { seen with mismatch := some s1.cycle } ∧ (t.core core).fenced = (s.core core).fenced ∧
        (t.elog.tail = s.elog.tail + 1 ∨ t.elog.ovf = s.elog.ovf + 1))) ∧
      let here := fun (g : Gang) => g.core = core ∧ g.part = part;
      let live := ∀ g ∈ s.gangs, here g → ∀ r ∈ g.runs, s1.cycle ≤ r.endCycle + 40;
      (¬ ok → q.mismatch = none → (s.gangs.map (·.uid)).Nodup → live → After (.chorusCheck core part cls results) s (fun t =>
        (∀ g ∈ s.gangs, ¬ here g → t.gang? g.uid = some g) ∧
        ∀ g ∈ s.gangs, here g → ∀ r rest, g.liveRuns s1.cycle = r :: rest → gangIn t g.uid (putBack g r rest))) ∧
      (∀ m, ¬ ok → q.mismatch = some m → s1.cycle ≤ m + 2000000 → After (.chorusCheck core part cls results) s (fun t =>
        (t.core core).fenced = (s.core core).fenced ||| (1#16 <<< part) ∧
        ((s.gangs.map (·.uid)).Nodup → (s.blocks.map (·.uid)).Nodup → live → s.joins = [] → (∀ l ∈ s.launches, l.coop = false) →
          ∀ b ∈ s.blocks, b.over = false → (∃ g ∈ s.gangs, here g ∧ g.block = b.uid) →
            (b.replayable = true → blockIn t b.uid (fun b' => b'.phase = .unplaced ∧ b'.sb = [] ∧ b'.cores = [] ∧ b'.commits = 0)) ∧
            (b.replayable = false → ∀ x ∈ t.blocks, x.uid = b.uid → x.phase = .ended) ∧ (∀ g ∈ t.gangs, g.block ≠ b.uid) ∧
            ∃ r ∈ t.faultQ, r.cause = 0x26 ∧ r.detail = part ∧ r.asid = b.asid ∧ r.lanes = 0 ∧ r.commits = b.commits ∧
              r.replayable = b.replayable))))

/-- R203 to R206: STRIKE REPORTS AND CHORUS. -/
def Obligations.ReplayAndChorus : Prop :=
  Sys2Proof.Claim.strikeReportsReplay ∧ Sys2Proof.Claim.chorusChecks

/-- R195, R197, R198: COMMONS AND DONATION. In each cycle each partition presents one commons write, of its gang in the lowest slot
that has one ready (log 25, DESIGN CHOICE), the gang's first in program order; the writes take effect in partition order from
the cycle modulo 16 on. From the second cycle on their values stand in the commons file, of two that name one register the
later one, and the writers' overlay entries are gone. Two requests that meet move the registers, the new ones holding zero; past
the limits both gangs have the donation-mismatch fault. -/
def Sys2Proof.Claim.commonsAndDonation : Prop :=
  ∀ (s : State) (core : Nat),
    (∀ pick : Nat → Option (Gang × CommonsWrite × Block), (∀ a ∈ (s.core core).arbDone, a.cycle ≠ s.cycle) →
      (s.gangs.map (·.uid)).Nodup →
      (∀ p, p < 16 → let ready := fun (g : Gang) => g ∈ s.gangs ∧ g.core = core ∧ g.part = p ∧ (firstCommons g).isSome = true;
        match pick p with
        | none => ∀ g, ¬ ready g
        | some (g, w, b) => ready g ∧ firstCommons g = some w ∧ s.blockOf g = some b ∧ ∀ h, ready h → h.uid ≠ g.uid → g.slot < h.slot) →
      After (.commonsArbitration core) s (fun t => t = { s with cores := t.cores, gangs := t.gangs } ∧
        (t.core core).arbDone = (s.core core).arbDone ++ (List.range 16).filterMap (fun i =>
          (pick ((s.cycle + i) % 16)).map (fun x => ⟨s.cycle, x.1.uid, x.1.block, x.2.2.posOf core, x.2.1.reg, x.2.1.val, x.2.1.ord⟩)) ∧
        (∀ p x, p < 16 → pick p = some x → gangIn t x.1.uid (fun g' => g' = x.1.sentCommons x.2.1)) ∧
        ∀ g ∈ s.gangs, (∀ p x, p < 16 → pick p = some x → x.1.uid ≠ g.uid) → t.gang? g.uid = some g)) ∧
    (let due := (s.core core).arbDone.filter (fun a => decide (a.cycle + 2 ≤ s.cycle));
      (∀ w ∈ due, w.reg < 32) → After (.commonsOverlayRetire core) s (fun t =>
        (t.core core).arbDone = (s.core core).arbDone.filter (fun a => decide (s.cycle < a.cycle + 2)) ∧
        (∀ u b, s.block? u = some b → blockIn t u (fun b' => b' = { b with commons := b'.commons } ∧ ∀ pos reg, reg < 32 →
          tabGet 0 b'.commons (commonsKey pos reg) =
            ((due.filter (fun w => w.block == u && w.blkpos == pos && w.reg == reg)).getLast?).elim
              (tabGet 0 b.commons (commonsKey pos reg)) (·.val))) ∧
        ∀ u g, s.gang? u = some g → gangIn t u (fun g' =>
          g'.regs.overlay = g.regs.overlay.filter (fun o => !(due.any (fun w => w.gang == u && w.ord == o.ord)))))) ∧
    (∀ g d p giver taker, s.gang? g.uid = some g → s.gang? p.uid = some p → g.uid ≠ p.uid → g.donation = some d →
      gangOfBlock s g.block d.partner = some p → donateMeet g p = true → g.owesResult = false → p.owesResult = false →
      ((d.give = true ∧ giver = g ∧ taker = p) ∨ (d.give = false ∧ giver = p ∧ taker = g)) →
      (d.n + 8 ≤ giver.vregs → taker.vregs + d.n ≤ 256 → After (.donationTakeEffect g.uid) s (fun t =>
        t = { s with gangs := t.gangs } ∧
        gangIn t giver.uid (fun x => x.vregs = giver.vregs - d.n ∧ x.donation = none) ∧
        gangIn t taker.uid (fun x => x.vregs = taker.vregs + d.n ∧ x.donation = none ∧
          ∀ j n, (x.regs.lane j).getV n = if n < taker.vregs then (taker.regs.lane j).getV n else 0))) ∧
      (giver.vregs < d.n + 8 ∨ 256 < taker.vregs + d.n → After (.donationTakeEffect g.uid) s (fun t =>
        gangIn t giver.uid (fun x => x.vregs = giver.vregs ∧ x.donation = none) ∧
        gangIn t taker.uid (fun x => x.vregs = taker.vregs ∧ x.donation = none) ∧
        ∃ a b, t.faultQ = s.faultQ ++ [a, b] ∧ a.cause = 0x25 ∧ b.cause = 0x25)))

/-- R175, R178, R342: A WALK of an address for which the core has no translation fills its TLB with the leaf it finds; one that
meets a stack in self-refresh waits. A FAULT RECORD takes the lowest free slot of its context and the next sequence number, and
its bytes stand there in memory; with every slot taken, or the slot on a stack in self-refresh, the request waits. -/
def Sys2Proof.Claim.walksAndFaultRecords : Prop :=
  (∀ (s : State) (core asid va : Nat), va < 2 ^ 57 → tlbFind s core asid va = none → walkAsleep s asid va = false →
    (∀ l, walk s asid va = .ok l → After (.tlbWalk core asid va) s (fun t => unasked s t = { s with cores := t.cores } ∧
      (∃ e ∈ (t.core core).tlb, e.asid = asid ∧ e.base = l.base ∧ e.size = l.size ∧ e.leafPa = l.leafPa ∧ e.entry = l.entry) ∧
      (∀ e ∈ (s.core core).tlb, e ∈ (t.core core).tlb) ∧ ∀ c, c ≠ core → t.core c = s.core c)) ∧
    (∀ e, walk s asid va = .error e → After (.tlbWalk core asid va) s (fun t => unasked s t = s))) ∧
  (∀ (s : State) (core asid va : Nat), 2 ^ 57 ≤ va ∨ (tlbFind s core asid va).isSome = true ∨ walkAsleep s asid va = true →
    exec (.tlbWalk core asid va) s = .next s) ∧
  (∀ (s : State) (asid i : Nat) (r : FaultReq), nextFault s asid = some i → s.faultQ[i]? = some r → ctxValid s asid = true →
    (∀ slot, freeSlot s asid = some slot → recordAsleep s asid slot r = true → exec (.faultRecordWrite asid) s = .next s) ∧
    (∀ slot, freeSlot s asid = some slot → recordAsleep s asid slot r = false → r.cause ≠ 0x30 → After (.faultRecordWrite asid) s (fun t =>
      let n := tabGet 0 s.faultSeq asid;
      t.slots = s.slots ++ [⟨asid, slot, n, r⟩] ∧ tabGet 0 t.faultSeq asid = (n + 1) % 2 ^ 32 ∧
      t.faultQ = s.faultQ.eraseIdx i ∧
      t.mem = (writePhys s ownUnit (some asid) (ctxFaults (ctxRec s asid) + 64 * slot) (faultRecord r slot n)).mem)) ∧
    (freeSlot s asid = none → After (.faultRecordWrite asid) s (fun t => t.slots = s.slots ∧ t.mem = s.mem ∧
      t.faultQ = s.faultQ.map (fun x => if x.asid = asid then { x with waited := true } else x))))

/-- R175, R178, R195, R197, R198: COMMONS, DONATION, WALKS AND FAULT RECORDS. -/
def Obligations.CommonsDonationAndWalks : Prop :=
  Sys2Proof.Claim.commonsAndDonation ∧ Sys2Proof.Claim.walksAndFaultRecords

/-! ### Events of the copy engine and the array -/

namespace Sys2Proof.Claim
open Sys2Proof.Machine

/-- R232, R336: the state in which a unit that walks for itself has asked for a record at an address and holds it. -/
def afterRecord (s : State) (core asid va : Nat) (bs : List Byte) : State :=
  let a := recAsk (askWalks s core false asid [va]) core asid va (fun x => xlateWalk s asid x .read false)
  recKeep { a with free := a.free + 1 } core asid va bs

/-- R230: the record `bs` of a copy request is known in the state `s0`: it names none, or it has been read and breaks no rule. -/
def recordKnown (s : State) (c : CopyOp) (s0 : State) (bs : List Byte) : Prop :=
  (c.req.grec = false ∧ s0 = s ∧ bs = []) ∨
  (c.req.grec = true ∧ c.req.global % 64 = 0 ∧
    recRead s c.core c.asid c.req.global (fun a => xlateWalk s c.asid a .read false) = .ok bs ∧
    shapeBad c.req.global (shapeNat bs) false = none ∧ s0 = afterRecord s c.core c.asid c.req.global bs)

/-- R219: a block after `n` bytes of a request have been counted in its catchment, if it has one. -/
def counted (c : CopyOp) (n : Nat) (b : Block) : Block :=
  match c.req.ccat with
  | none => b
  | some k =>
    if n = 0 then b
    else scratchPut b c.blkpos (placed (16 * k) (catchCount (scratchBytes b c.blkpos (16 * k) 16) n 0 0 0))

end Sys2Proof.Claim

/-- R219: A CATCHMENT COUNTS DOWN: the bytes and requests left fall by what has completed, the failures add up to at most
65,535, the flags accumulate, and OVER is set and stays once a count falls below zero. -/
def Sys2Proof.Claim.catchmentsCountDown : Prop :=
  ∀ (bs : List Byte) (bytes reqs : Int) (fails : Nat) (fl : BitVec 5), bs.length = 16 →
    ∀ (x y : BitVec 128) (b q : Int), x = BitVec.ofNat 128 (leValue bs) →
    y = BitVec.ofNat 128 (leValue (catchCount bs bytes reqs fails fl)) →
    b = (x.extractLsb' 64 64).toInt - bytes → q = (x.extractLsb' 32 32).toInt - reqs →
    y.extractLsb' 64 64 = BitVec.ofInt 64 b ∧ y.extractLsb' 32 32 = BitVec.ofInt 32 q ∧
    (y.extractLsb' 16 16).toNat = min 65535 ((x.extractLsb' 16 16).toNat + fails) ∧
    y.extractLsb' 11 5 = x.extractLsb' 11 5 ||| fl ∧ y.extractLsb' 2 9 = x.extractLsb' 2 9 ∧ y.getLsbD 0 = x.getLsbD 0 ∧
    (y.getLsbD 1 = true ↔ x.getLsbD 1 = true ∨ b < 0 ∨ q < 0)

/-- R212, R213, R214, R216, R219, R224, R234: THE COPY ENGINE. A slot of the oldest kick is fetched and its request joins, or
fails at once with its record; walk-ahead pins its pages and cuts it into granules; a granule moves and counts; a tile load
reads its version, its bytes unit by unit and the version again, and delivers them only where that is even and unchanged;
completion counts the request and takes one pin from each of its pages. That a fault of the walk, a format not permitted
included, waits for a reply, and the pages that the checks of R213 look at, are the model's reading (log 62). So are the
requests and the class of the engine's walks and records (log 99), which `unasked` leaves aside, and what an uncorrectable
granule's flags are (R227). -/
def Obligations.CopyEngineEvents : Prop :=
  (∀ (s : State) (core : Nat) (e : KickEntry) (rest : List KickEntry) (g : Gang) (b : Block),
    (s.core core).kickQ = e :: rest → s.gang? e.gang = some g → s.blockOf g = some b → writesBefore g e.ord = false →
    (∀ c ∈ s.copies, c.id < s.nextOp) →
    checksAsleep s core b.asid (slotReq b (b.posOf core) e) = false →
    let req := copyReqOf (scratchBytes b (b.posOf core) (64 * (e.first + e.taken)) 64);
    let bad := fetchBad s core b.asid req (ceilPow2 b.localLen);
    After (.spillwayFetch core) s (fun t => t.mem = s.mem ∧ t.nextOp = s.nextOp + 1 ∧
      (∃ op, t.copies = s.copies ++ [op] ∧ op.id = s.nextOp ∧ op.gang = g.uid ∧ op.block = b.uid ∧ op.pc = e.pc ∧
        op.req = req ∧ op.phase = if bad.isSome then .failed else .fetched) ∧
      (∀ d, bad = some d → ∃ r ∈ t.faultQ, r.cause = 0x20 ∧ r.detail = d ∧ r.pc = e.pc) ∧
      (e.taken + 1 < e.count → (t.core core).kickQ = { e with taken := e.taken + 1 } :: rest) ∧
      (e.count ≤ e.taken + 1 → ∃ more, (t.core core).kickQ = rest ++ more))) ∧
  (∀ (s : State) (op : Nat) (c : CopyOp), s.copy? op = some c → c.phase = .fetched →
    (c.req.len = 0 → c.req.grec = false → c.req.kind ≤ 1 → c.cause = 0 →
      After (.walkAheadTranslate op) s (fun t =>
        t = { s with copies := t.copies, pins := t.pins, cores := t.cores } ∧ (∀ p, tabGet 0 t.pins p = tabGet 0 s.pins p) ∧
        (∃ c', t.copy? op = some c' ∧ c'.granules = [] ∧ c'.count = 0 ∧ c'.req = c.req ∧
          c'.phase = if c.req.follow then .following else .landed) ∧
        (c.req.follow = false → t.cores = s.cores) ∧
        (c.req.follow = true → ∃ h, isFollow h = true ∧ (t.core c.core).matQ = (s.core c.core).matQ ++ [(c.gang, h)]))) ∧
    (∀ (s0 : State) (bs : List Byte) (ps : List ElemPlace), c.req.len ≠ 0 → c.req.kind ≤ 1 →
      checksAsleep s c.core c.asid c.req = false → recordKnown s c s0 bs → mapBad s0 c.asid c.req (shapeNat bs) = none →
      walkOutcome (copyPlaces s0 c (shapeNat bs)).2 = ([], none, ps) →
      let cells := ps.flatMap ElemPlace.all;
      inMotion s0 cells = false → (c.req.dir = true → placeBytes ps ≠ []) →
      After (.walkAheadTranslate op) s (fun t =>
        unasked s t = { s with copies := t.copies, pins := t.pins, cores := t.cores } ∧ t.cores = s0.cores ∧
        (∃ c', t.copy? op = some c' ∧ c'.phase = .moving ∧ c'.pins = pinsOf cells ∧ c'.req = c.req ∧ c'.shape = bs ∧
          (∀ x ∈ c'.granules, x.done = false) ∧
          (c.req.dir = false → c'.count = c.req.len ∧ (c'.granules.map (·.n)).sum = c.req.len ∧
            ∀ x ∈ c'.granules, 0 < x.n ∧ x.n ≤ 16 ∧ x.count = x.n) ∧
          (c.req.dir = true → c'.count = (placeBytes ps).length ∧ (c'.granules.map (·.count)).sum = c'.count ∧
            ∀ x ∈ c'.granules, ∃ u, x.unit = some u ∧ 0 < x.count ∧ x.count ≤ 16)) ∧
        ∀ p, tabGet 0 t.pins p = tabGet 0 s.pins p + (if p ∈ pinsOf cells then 1 else 0))) ∧
    (∀ (s0 : State) (bs : List Byte) (cause d a : Nat), c.req.len ≠ 0 → c.req.kind ≤ 1 → (s.block? c.block).isSome = true →
      checksAsleep s c.core c.asid c.req = false → recordKnown s c s0 bs → mapBad s0 c.asid c.req (shapeNat bs) = none →
      (walkOutcome (copyPlaces s0 c (shapeNat bs)).2).1 = [] →
      (walkOutcome (copyPlaces s0 c (shapeNat bs)).2).2.1 = some (cause, d, a) →
      After (.walkAheadTranslate op) s (fun t => t.mem = s.mem ∧ t.pins = s.pins ∧
        (∃ c', t.copy? op = some c' ∧ c'.phase = .waitReply ∧ c'.cause = cause ∧ c'.req = c.req) ∧
        ∃ r ∈ t.faultQ, r.cause = cause ∧ r.detail = d ∧ r.addr = BitVec.ofNat 64 a ∧ r.op = some op)) ∧
    (∀ (bs : List Byte) (d : Nat), c.req.grec = true → (s.block? c.block).isSome = true →
      checksAsleep s c.core c.asid c.req = false →
      (c.req.global % 64 ≠ 0 ∧ d = 0) ∨ (c.req.global % 64 = 0 ∧ shapeBad c.req.global (shapeNat bs) false = some d ∧
        recRead s c.core c.asid c.req.global (fun a => xlateWalk s c.asid a .read false) = .ok bs) →
      After (.walkAheadTranslate op) s (fun t => t.mem = s.mem ∧ t.pins = s.pins ∧
        (∃ c', t.copy? op = some c' ∧ c'.phase = .failed ∧ c'.cause = 0x21 ∧ c'.req = c.req) ∧
        ∃ r ∈ t.faultQ, r.cause = 0x21 ∧ r.detail = d ∧ r.addr = BitVec.ofNat 64 c.req.global ∧ r.op = none))) ∧
  (∀ (s : State) (op k : Nat) (c : CopyOp) (g : Granule) (b : Block), s.copy? op = some c → c.granules[k]? = some g →
    s.block? c.block = some b → c.phase = .moving → g.done = false → c.req.kind ≠ 2 →
    laterCopies s c = [] → g.asleep s c.req.dir = false →
    let done := c.granules.modify k (fun x => { x with done := true });
    (c.req.dir = false → After (.copyGranuleTransfer op k) s (fun t => t.mem = s.mem ∧
      (∃ c', t.copy? op = some c' ∧ c'.granules = done ∧ c'.counted = c.counted + g.count ∧
        c'.flags = c.flags ||| (granuleBytes s c g).2.1 ∧
        ((granuleBytes s c g).2.2 = true → c'.cause = 0x19) ∧ ((granuleBytes s c g).2.2 = false → c'.cause = c.cause)) ∧
      blockIn t c.block (fun b' =>
        b'.scratch = (counted c g.count (scratchPut b c.blkpos (placed (c.req.loc + g.off) (granuleBytes s c g).1))).scratch ∧
        ((granuleBytes s c g).2.2 = true ↔ b'.consumption.length = b.consumption.length + 1)))) ∧
    (let st := granuleCells s c b g;
      c.req.dir = true → c.req.kind ≠ 3 → st.2.2 = [] → (∀ x ∈ st.1, isContribution (copyReads s c g) b x.cell.pa = false) →
      bufferUse s b (unitCells b c.core false false st.1) ≤ b.limit →
      After (.copyGranuleTransfer op k) s (fun t => t.mem = s.mem ∧
        (∃ c', t.copy? op = some c' ∧ c'.granules = done ∧ c'.counted = c.counted + g.count) ∧
        blockIn t c.block (fun b' => b'.scratch = (counted c g.count b).scratch ∧ ∀ x ∈ st.1, ∀ k,
          x.mask.getLsbD k = true → ∃ e ∈ b'.sb, e.cell.pa = x.cell.pa ∧ e.core = b.posOf c.core ∧ e.mask.getLsbD k = true)))) ∧
  (∀ (s : State) (op : Nat) (c : CopyOp) (g : Granule) (b : Block), s.copy? op = some c → c.granules.head? = some g →
    s.block? c.block = some b → c.phase = .moving → g.done = false → c.req.kind = 2 → c.req.dir = false →
    let cells := g.elems.flatMap ElemPlace.all;
    let ready := fun (xs : List Cell) => ∀ x ∈ xs, readAsleep s x.pa = false ∧ (readAny s x).2 = false;
    let v := leValue (c.ver.map (fun x => (readAny s x).1));
    (c.staged = none → c.ver ≠ [] → ready c.ver → After (.tileLoadAttempt op) s (fun t => t.mem = s.mem ∧ t.blocks = s.blocks ∧
      t.faultQ = s.faultQ ∧ t.copy? op = some { c with staged := some (v, []) })) ∧
    (∀ v1 got, c.staged = some (v1, got) → nextStaged cells got.length ≠ [] → ready (nextStaged cells got.length) →
      After (.tileLoadAttempt op) s (fun t => t.mem = s.mem ∧ t.blocks = s.blocks ∧ t.faultQ = s.faultQ ∧
        t.copy? op = some { c with staged := some (v1, got ++ (nextStaged cells got.length).map (fun x => (readAny s x).1)) })) ∧
    (∀ v1 got, c.staged = some (v1, got) → nextStaged cells got.length = [] → ready c.ver →
      (v1 % 2 = 1 ∨ v ≠ v1 → c.attempts + 1 < retryLimit c.req → After (.tileLoadAttempt op) s (fun t => t.mem = s.mem ∧
        t.blocks = s.blocks ∧ t.faultQ = s.faultQ ∧
        t.copy? op = some { c with attempts := c.attempts + 1, staged := none })) ∧
      (v1 % 2 = 1 ∨ v ≠ v1 → retryLimit c.req ≤ c.attempts + 1 → After (.tileLoadAttempt op) s (fun t => t.mem = s.mem ∧
        t.blocks = s.blocks ∧ (∃ r ∈ t.faultQ, r.cause = 0x1A ∧ r.detail = c.attempts + 1) ∧
        t.copy? op = some { c with attempts := c.attempts + 1, staged := none, phase := .failed, cause := 0x1A })) ∧
      (v1 % 2 = 0 → v = v1 → laterCopies s c = [] → After (.tileLoadAttempt op) s (fun t => t.mem = s.mem ∧
        blockIn t c.block (fun b' =>
          b'.scratch = (counted c g.count (scratchPut b c.blkpos (placed (c.req.loc + g.off) got))).scratch)))) ∧
    (∀ x ∈ c.ver, c.staged = none → (∀ y ∈ c.ver, readAsleep s y.pa = false) → (readAny s x).2 = true →
      After (.tileLoadAttempt op) s (fun t => t.mem = s.mem ∧
        t.copy? op = some { c with phase := .failed, cause := 0x19, staged := none }))) ∧
  (∀ (s : State) (op : Nat) (c : CopyOp) (g : Gang) (b : Block), s.copy? op = some c → s.block? c.block = some b →
    s.gang? c.gang = some g → (c.phase = .landed ∨ c.phase = .failed) → c.req.follow = false →
    let left : Int := if c.phase = .failed then (c.count : Int) - c.counted else 0;
    After (.copyRequestComplete op) s (fun t => t.mem = s.mem ∧ (∀ x ∈ t.copies, x.id = op → x.phase = .gone) ∧
      gangIn t c.gang (fun g' => g' = g.completeOp 0 op 0) ∧
      (∀ k, c.req.ccat = some k → blockIn t c.block (fun b' => b'.scratch = (scratchPut b c.blkpos (placed (16 * k)
        (catchCount (scratchBytes b c.blkpos (16 * k) 16) left 1 (if c.phase = .failed then 1 else 0) c.flags))).scratch)) ∧
      (c.req.ccat = none → t.blocks = s.blocks) ∧
      ∀ p, tabGet 0 t.pins p = tabGet 0 s.pins p - c.pins.count p))

/-- R264, R266, R267, R270, R278, R281: THE ARRAY. A released command is accepted with its descriptor as scratchpad holds it
and with the cause that its check found; a command that may run completes with its tiles, its completion word and its place
in the gang's matrix class; a drain's walk pins its pages, its writes class 3 requests of its core (log 99); a pair whose partner does not come within 100,000 ns fails. -/
def Obligations.ArrayEvents : Prop :=
  (∀ (s : State) (core i u : Nat) (h : HeldItem) (g : Gang) (b : Block) (c : MatCmd), (s.core core).matQ[i]? = some (u, h) →
    s.gang? u = some g → s.blockOf g = some b → h.eff = .cmd c → g.core = core → c.pair = false →
    (∀ e ∈ (s.core core).matQ.take i, e.1 ≠ u ∨ isFollow e.2 ≠ c.follow.isSome) →
    (c.follow = none → writesBefore g h.ord = false) → waitsForDesc s b u c = false →
    let d := readDesc s b (b.posOf core) c;
    (c.op = 1 → waitsForWrites s b ⟨s.nextOp, u, b.uid, core, b.posOf core, c, d, true, [], [], 0, none, true, 0, 0, false, none⟩ = false) →
    After (.commandAccept core i) s (fun t => t.mem = s.mem ∧ t.blocks = s.blocks ∧ t.nextOp = s.nextOp + 1 ∧
      (t.core core).matQ = (s.core core).matQ.eraseIdx i ∧
      (∃ m, t.mats = s.mats ++ [m] ∧ m.id = s.nextOp ∧ m.gang = u ∧ m.cmd = c ∧ m.desc = d ∧
        (m.cause, m.detail) = acceptCause b c d ∧ m.settled = true ∧
        m.latch = if c.op = 1 ∧ m.cause = 0 then some (readA b (b.posOf core) d) else none) ∧
      gangIn t u (fun g' => g' = if c.follow = none then g.arrive c.oid [] else g))) ∧
  (∀ (s : State) (op : Nat) (m : MatOp) (g : Gang) (b : Block), s.mat? op = some m → s.block? m.block = some b →
    s.gang? m.gang = some g → (m.walked = true ∨ (m.cause ≠ 0 ∧ m.waitReply = false)) → m.settled = true →
    matReady s b m = true →
    let o := runCommand b m;
    let cw := descCw m.desc.toNat;
    o.cells = [] → After (.commandComplete op) s (fun t => t.mem = s.mem ∧ t.mats = s.mats.filter (fun x => x.id != op) ∧
      (∀ c, m.cmd.follow = some c → ∀ x ∈ t.copies, x.id = c → x.phase = .landed) ∧
      gangIn t m.gang (fun g' => g'.doneMat = (g.completeOp 1 m.cmd.oid o.fl).doneMat ∧ g'.ops = (g.completeOp 1 m.cmd.oid o.fl).ops ∧
        g'.regs = g.regs) ∧
      blockIn t m.block (fun b' => b'.tiles = o.b.tiles ∧
        b'.scratch = if (m.cmd.op = 3 ∧ m.cmd.follow = none) ∨ cw = 0xFFFFF then o.b.scratch
          else (scratchPut o.b m.blkpos (placed (16 * cw) (leBytes 8 (complWord o.cause o.group o.satd o.fl)))).scratch))) ∧
  (∀ (s : State) (op : Nat) (m : MatOp) (b : Block) (bs : List Byte) (ps : List ElemPlace), s.copy? op = none →
    s.mat? op = some m → s.block? m.block = some b → m.walked = false → m.waitReply = false → m.cause = 0 →
    dDrec m.desc % 64 = 0 →
    recRead s m.core b.asid (dDrec m.desc) (fun a => xlateWalk s b.asid a .read false) = .ok bs →
    (drainRecord m.desc (shapeNat bs)).1 = 0 →
    let s1 := afterRecord s m.core b.asid (dDrec m.desc) bs;
    walkOutcome (drainPlaces s1 b.asid m.desc (shapeNat bs)) = ([], none, ps) →
    inMotion s1 (ps.flatMap ElemPlace.all) = false →
    let serve := Cell.serve m.core (serviceOf s1 b.asid 3);
    After (.walkAheadTranslate op) s (fun t =>
      unasked s t = { s with mats := t.mats, pins := t.pins, cores := t.cores } ∧ t.cores = s1.cores ∧
      t.mat? op = some { m with
        walked := true, pins := pinsOf (ps.flatMap ElemPlace.all)
        places := ps.map (fun p => { p with scale := p.scale.map serve, cells := p.cells.map serve }) })) ∧
  (∀ (s : State) (op n : Nat) (m : MatOp) (g p : Gang) (b : Block), s.mat? op = some m → m.pairSeq = some n →
    s.gang? m.gang = some g → s.block? m.block = some b → m.settled = false → pairOp s m = none →
    m.accepted + 100000 ≤ s.now → pairGang s b g = some p → s.gang? p.uid = some p → m.cause = 0 →
    After (.pairTimeout op) s (fun t => t = { s with mats := t.mats, gangs := t.gangs } ∧
      t.mat? op = some { m with settled := true, pairSeq := none, cause := 0x23, detail := pairCore b m.blkpos } ∧
      gangIn t p.uid (fun p' => p' = { p with pairLost := p.pairLost ++ [n] })))

namespace Sys2Proof.Claim
open Sys2Proof.Machine

/-- R262, R272: the row of A that row `i` of a multiply uses: under an index list, the one that its index names. -/
def rowUsed (b : Block) (pos : Nat) (d : BitVec 256) (i : Nat) : Nat :=
  if dOp d = 1 then leValue (scratchBytes b pos (dIdx d + 2 * i) 2) else i

/-- R262: element `k` of a row or column of elements of a type that takes `n` elements from a scratchpad offset. -/
def storedElem (b : Block) (pos : Nat) (t : Ty) (off n k : Nat) : FVal :=
  matElem t (bitField (scratchBytes b pos off (ceilDiv (n * tyWidth t) 8)) (k * tyWidth t) (tyWidth t))

/-- R277: the bits of an element of a tile, converted without a block scale. -/
def drainValue (kind bt : Ty) (d : BitVec 256) (x : Nat) : Nat :=
  if kind = .i32 then
    let n := signExt x 32
    if tyInt bt then wrapInt (if dSat d then max (intMin bt) (min (intMax bt) n) else n) (tyWidth bt)
    else (roundVal (fmtOf bt) (descRnd d) false (ofIntV n)).1
  else (fcvtV bt (descRnd d) (dSat d) (dFlush d) (fdecode (fmtOf kind) x)).1

/-- Whether a command is one of the array's data commands that its check has let pass. -/
def passes (m : MatOp) : Prop := m.cause = 0 ∧ ¬ (m.cmd.op = 3 ∧ m.cmd.follow = none)

end Sys2Proof.Claim

/-- R262, R272, R273: THE OPERANDS OF A MULTIPLY, as scratchpad holds them: under MMAX the row of A that the index list
names, with its scales; under MMAS the kept value where well-formed metadata puts it, and zero elsewhere. -/
def Sys2Proof.Claim.operandsOfTheArray : Prop :=
  ∀ (b : Block) (pos : Nat) (d : BitVec 256) (regs : List (List W32)) (ta tb : Ty), dAtype d = some ta → dBtype d = some tb →
    let x := matIn b pos d regs (readA b pos d);
    let ms := metaString regs;
    let a := fun i k => (x.a.getD i []).getD k (.nan false);
    let stored := fun i k => storedElem b pos ta (dAoff d + dAstr d * rowUsed b pos d i) (if dOp d = 2 then dK d / 2 else dK d) k;
    (∀ i k, i < dM d → k < dK d → dOp d ≠ 2 → a i k = stored i k) ∧
    (dOp d = 2 → dK d % 8 = 0 → ∀ i c, i < dM d → c < dK d / 8 → metaBad ms (i * (dK d / 8) + c) = false →
      (∀ t, t < 4 → a i (8 * c + metaIndex ms (i * (dK d / 8) + c) t) = stored i (4 * c + t)) ∧
      ∀ e, e < 8 → (∀ t, t < 4 → metaIndex ms (i * (dK d / 8) + c) t ≠ e) → a i (8 * c + e) = ofIntV 0) ∧
    (∀ j k, j < dN d → k < dK d → (x.b.getD j []).getD k (.nan false) = storedElem b pos tb (dBoff d + dBstr d * j) (dK d) k) ∧
    (∀ i k, i < dM d → k < dK d / 32 → codeAt x.asc i k =
      if dAscl d then (scratchByte b pos (dAsc d + rowUsed b pos d i * (dK d / 32) + k)).toNat else 127) ∧
    (∀ j k, j < dN d → k < dK d / 32 → codeAt x.bsc j k =
      if dBscl d then (scratchByte b pos (dBsc d + j * (dK d / 32) + k)).toNat else 127)

/-- R259, R268, R271 to R275: TILES. A multiply leaves in each element of its M by N region the accumulation over its
summation groups, over those before the first that covers a malformed metadata group under MMAS, which then ends with cause
0x22 and the lowest such group; every other element of the core's tiles, and scratchpad, is as it was; MZERO leaves the tile
zero and the others as they were. -/
def Sys2Proof.Claim.tilesHoldTheProduct : Prop :=
  ∀ (b : Block) (m : MatOp),
    (∀ md, passes m → dOp m.desc ≤ 2 → descMode m.desc = some md → dM m.desc ≤ 128 →
      dN m.desc * kindSize md.acc ≤ 512 → kindSize md.acc * 8 = tyWidth md.acc →
      let x := matIn b m.blkpos m.desc m.cmd.metaRegs (m.latch.getD (readA b m.blkpos m.desc));
      let halt := if dOp m.desc = 2 then metaStop (metaString m.cmd.metaRegs) (dM m.desc) (dK m.desc) else none;
      let o := runCommand b m;
      o.cause = (if halt.isSome then 0x22 else 0) ∧ o.group = halt.elim 0 (·.2) ∧ o.detail = halt.elim 0 (·.2) ∧
      o.b.scratch = b.scratch ∧ o.cells = [] ∧
      ∀ tile i j, tile < 8 → i < 128 → (j + 1) * kindSize md.acc ≤ 512 →
        tileElem o.b m.blkpos tile md.acc i j =
          if tile = dTile m.desc ∧ i < dM m.desc ∧ j < dN m.desc then
            (matSum m.desc md x i j (halt.elim (dK m.desc / md.group) (·.1)) (tileElem b m.blkpos tile md.acc i j)).bits %
              2 ^ tyWidth md.acc
          else tileElem b m.blkpos tile md.acc i j) ∧
    (∀ ms rows K, metaStop ms rows K = none ↔
      ∀ h i, h < K / 16 → i < rows → metaBad ms (i * (K / 8) + 2 * h) = false ∧ metaBad ms (i * (K / 8) + 2 * h + 1) = false) ∧
    (∀ ms rows K h g, metaStop ms rows K = some (h, g) → h < K / 16 ∧
      (∀ k i, k < h → i < rows → metaBad ms (i * (K / 8) + 2 * k) = false ∧ metaBad ms (i * (K / 8) + 2 * k + 1) = false) ∧
      metaBad ms g = true ∧ (∃ i e, i < rows ∧ e < 2 ∧ g = i * (K / 8) + 2 * h + e) ∧
      ∀ i e, i < rows → e < 2 → metaBad ms (i * (K / 8) + 2 * h + e) = true → g ≤ i * (K / 8) + 2 * h + e) ∧
    (∀ (n : Nat) (t : Nat) (k : Ty) (i j : Nat), m.cause = 0 → m.cmd.op = 3 → m.cmd.follow = none → m.cmd.tile = some n →
      t < 8 → i < 128 → 0 < kindSize k → (j + 1) * kindSize k ≤ 512 →
      tileElem (runCommand b m).b m.blkpos t k i j = if t = n then 0 else tileElem b m.blkpos t k i j)

/-- R276, R277: MLDA leaves in its M by N region the elements that scratchpad holds, those of 16 bits widened, and everything
else as it was. MDRAIN to scratchpad leaves each element converted, or quantised with its block and its scale code beside it,
every other byte of scratchpad as it was, and the tile unchanged. The rows lie apart here and within the allocation. -/
def Sys2Proof.Claim.tilesAreLoadedAndDrained : Prop :=
  ∀ (b : Block) (m : MatOp), passes m →
    let d := m.desc;
    let o := (runCommand b m).b;
    (∀ (t kind : Ty), dOp d = 4 → dAtype d = some t → mldaType t = true → kind = (if t = .f16 ∨ t = .bf16 then .f32 else t) →
      dM d ≤ 128 → dN d * kindSize kind ≤ 512 → o.scratch = b.scratch ∧
      ∀ tile i j, tile < 8 → i < 128 → (j + 1) * kindSize kind ≤ 512 →
        let x := bitField (scratchBytes b m.blkpos (dAoff d + dAstr d * i) (ceilDiv (dN d * tyWidth t) 8)) (j * tyWidth t) (tyWidth t);
        tileElem o m.blkpos tile kind i j =
          if tile = dTile d ∧ i < dM d ∧ j < dN d then
            (if t = kind then x else (fcvtV .f32 .rne false false (fdecode (fmtOf t) x)).1) % 2 ^ tyWidth kind
          else tileElem b m.blkpos tile kind i j) ∧
    (∀ (kind bt : Ty), dOp d = 5 → dGlobal d = false → dAtype d = some kind → dBtype d = some bt →
      let row := ceilDiv (dN d * tyWidth bt) 8;
      let codes := if dBscl d then dM d * (dN d / 32) else 0;
      let v := fun i j => tileElem b m.blkpos (dTile d) kind i j;
      let blk := fun i k => quantBlock bt ((List.range 32).map (fun e => fdecode (fmtOf .f32) (v i (32 * k + e))));
      row ≤ dAstr d → dAoff d + dAstr d * dM d ≤ b.localLen → dBsc d + codes ≤ b.localLen →
      (dBscl d = true → dN d % 32 = 0 ∧ (dBsc d + codes ≤ dAoff d ∨ dAoff d + dAstr d * dM d ≤ dBsc d)) →
      o.tiles = b.tiles ∧
      (∀ i j, i < dM d → j < dN d →
        bitField (scratchBytes o m.blkpos (dAoff d + dAstr d * i) row) (j * tyWidth bt) (tyWidth bt) =
          (if dBscl d then (blk i (j / 32)).2.1.getD (j % 32) 0 else drainValue kind bt d (v i j)) % 2 ^ tyWidth bt) ∧
      (dBscl d = true → ∀ i k, i < dM d → k < dN d / 32 →
        (scratchByte o m.blkpos (dBsc d + i * (dN d / 32) + k)).toNat = (blk i k).1 % 256) ∧
      ∀ a, a < b.localLen → (∀ i, i < dM d → ¬ (dAoff d + dAstr d * i ≤ a ∧ a < dAoff d + dAstr d * i + row)) →
        ¬ (dBsc d ≤ a ∧ a < dBsc d + codes) → scratchByte o m.blkpos a = scratchByte b m.blkpos a)

/-- R279: SPCOMP keeps of each group of eight the four elements of greatest magnitude, the lower index among equal ones,
writes them in ascending order and their indices at the group's twelve bits of the metadata; it uses no tile and raises no
flag. The rows and the metadata lie apart here and within the allocation. -/
def Sys2Proof.Claim.sparseRowsAreCompressed : Prop :=
  ∀ (b : Block) (m : MatOp) (t : Ty), passes m → dOp m.desc = 6 → dAtype m.desc = some t → dK m.desc % 8 = 0 →
    let d := m.desc;
    let n := dK d / 8;
    let len := ceilDiv (12 * dM d * n) 8;
    dK d / 2 ≤ dBstr d → dBoff d + dBstr d * dM d ≤ b.localLen → dBsc d + len ≤ b.localLen →
    (dBsc d + len ≤ dBoff d ∨ dBoff d + dBstr d * dM d ≤ dBsc d) →
    let o := runCommand b m;
    o.b.tiles = b.tiles ∧ o.fl = 0 ∧ o.cause = 0 ∧
    ∀ i c, i < dM d → c < n →
      let x := fun e => scratchByte b m.blkpos (dAoff d + dAstr d * i + 8 * c + e);
      let mag := fun e => if t = .i8 then (x e).toInt.natAbs else (x e).toNat;
      ∃ p : Fin 4 → Nat, p 0 < p 1 ∧ p 1 < p 2 ∧ p 2 < p 3 ∧ p 3 < 8 ∧
        (∀ k e, e < 8 → (∀ q, p q ≠ e) → mag e < mag (p k) ∨ (mag e = mag (p k) ∧ p k < e)) ∧
        (∀ k : Fin 4, scratchByte o.b m.blkpos (dBoff d + dBstr d * i + 4 * c + k.val) = x (p k)) ∧
        bitField (scratchBytes o.b m.blkpos (dBsc d) len) (12 * (i * n + c)) 12 = p 0 + 8 * p 1 + 64 * p 2 + 512 * p 3

/-- R219, R259, R262, R268, R271 to R279: CATCHMENTS, AND WHAT THE COMMANDS OF THE ARRAY LEAVE IN TILES AND SCRATCHPAD. -/
def Obligations.CatchmentsAndTiles : Prop :=
  Sys2Proof.Claim.catchmentsCountDown ∧ Sys2Proof.Claim.operandsOfTheArray ∧ Sys2Proof.Claim.tilesHoldTheProduct ∧ Sys2Proof.Claim.tilesAreLoadedAndDrained ∧ Sys2Proof.Claim.sparseRowsAreCompressed

/-! ### Events of the store buffers, of home memory and of barriers -/

/-- R237, R241, R242, R244, R246: STORES AND COMMITS. The buffer accepts a released store, under a forced commit first where it
would pass the block's limit; a `PUB` or `PHASE` that reaches it sends what it holds into the pipeline; a commit's units
become visible at home one at a time, a tile's with its version word; a complete commit leaves, and completes the `PUB` or `PHASE` it was for, which then
counts, or ends its block. -/
def Sys2Proof.Claim.storesAndCommits : Prop :=
  (∀ (s : State) (u : Nat) (g : Gang) (b : Block) (h : HeldItem), s.gang? u = some g → s.blockOf g = some b →
    nextGlobal g = some h →
    (∀ cells lane lanes, h.eff = .store cells lane lanes → fencedOff g h = false →
      (∀ x ∈ cells, isContribution s b x.cell.pa = false) →
      (bufferUse s b (unitCells b g.core false false cells) ≤ b.limit → After (.storeBufferAccept u) s (fun t =>
        t.mem = s.mem ∧ gangIn t u (fun g' => h ∉ g'.relq) ∧
        blockIn t b.uid (fun b' => b'.commits = b.commits ∧ ∀ x ∈ cells, ∀ k, x.mask.getLsbD k = true → ∃ e ∈ b'.sb,
          e.cell.pa = x.cell.pa ∧ e.core = b.posOf g.core ∧ e.mask.getLsbD k = true))) ∧
      (b.limit < bufferUse s b (unitCells b g.core false false cells) → cells ≠ [] → After (.storeBufferAccept u) s (fun t =>
        t.mem = s.mem ∧ blockIn t b.uid (fun b' => b'.commits = b.commits + 1 ∧ b'.forced = true ∧ b'.lastPc = h.pc ∧
          b'.pipeline.length = b.pipeline.length + 1)))) ∧
    (∀ oid, h.eff = .pub oid none → isMarked s b = false → gathersBefore s g h = false → After (.storeBufferAccept u) s (fun t =>
      t.mem = s.mem ∧ blockIn t b.uid (fun b' => b'.commits = b.commits ∧ b'.sb = b.sb.filter (fun e => e.contrib) ∧
        ∃ c, b'.pipeline = b.pipeline ++ [c] ∧ c.who = .pub u oid ∧ c.id = b.nextUnit ∧ c.pc = h.pc))) ∧
    (∀ oid, h.eff = .phase oid none → isMarked s b = false → gathersBefore s g h = false → After (.storeBufferAccept u) s (fun t =>
      t.mem = s.mem ∧ blockIn t b.uid (fun b' => b'.commits = b.commits ∧ b'.sb = b.sb.filter (fun e => e.contrib) ∧
        ∃ c, b'.pipeline = b.pipeline ++ [c] ∧ c.who = .phase u oid ∧ c.id = b.nextUnit ∧ c.pc = h.pc)))) ∧
  (∀ (s : State) (u i : Nat) (b : Block) (c : Commit) (rest : List Commit) (w : CommitUnit), s.block? u = some b →
    b.pipeline = c :: rest → c.units[i]? = some w → (∀ v ∈ w.vers, isRemote v.pa = false ∧ ∀ x ∈ verCells v, readAsleep s x.pa = false) →
    (∀ e ∈ w.cells, isRemote e.cell.pa = false ∧ stackAsleep s e.cell.pa = false) → After (.homeWrite u i) s (fun t =>
      t.mem = (w.vers.foldl drainVersion
        (writeHome s false (((settled w.cells).filter (fun e => e.mask != 0)).map (fun e => ⟨e.cell, e.val, e.mask⟩)))).mem ∧
      blockIn t u (fun b' => ∃ c' rest', b'.pipeline = c' :: rest' ∧ c'.id = c.id ∧ c'.units = c.units.eraseIdx i))) ∧
  (∀ (s : State) (u : Nat) (b : Block) (c : Commit) (rest : List Commit), s.block? u = some b → b.pipeline = c :: rest →
    c.units = [] → c.tags = [] → (∀ k ∈ c.scads, scadDone s k = true) →
    (b.phase = .running → (c.who = .forcedBy ∨ c.who = .arrival ∨ ∃ gang oid, c.who = .atom gang oid) → After (.commitComplete u) s (fun t => t.mem = s.mem ∧ t.gangs = s.gangs ∧
      blockIn t u (fun b' => b'.pipeline = rest))) ∧
    (c.who = .blockEnd → After (.commitComplete u) s (fun t => t.mem = s.mem ∧ (∀ x ∈ t.blocks, x.uid = u → x.phase = .ended) ∧
      ∀ l, s.launch? b.launch = some l → ∃ l', t.launch? b.launch = some l' ∧ l'.ended = l.ended + 1)) ∧
    (∀ gang oid g, b.phase = .running → (c.who = .pub gang oid ∨ c.who = .phase gang oid) → s.gang? gang = some g → After (.commitComplete u) s (fun t => t.mem = s.mem ∧
      blockIn t u (fun b' => b'.pipeline = rest ∧ b'.commits = b.commits + 1 ∧ b'.lastPc = c.pc) ∧
      gangIn t gang (fun g' => ∀ x ∈ g'.out, x.id = oid → x.arrived = true))))

/-- R169, R170, R238 to R240, R253: LOADS, LINES AND ATOMICS. A load in flight takes the bytes that its thread sees; an evicted
line is gone from the L1; an atomic leaves its core with a commit of its block, and then reads its location, writes the new
value there and delivers the old one. -/
def Obligations.LoadsAndAtomics : Prop :=
  (∀ (s : State) (u i : Nat) (keep : Bool) (g : Gang) (b : Block) (o : Outst) (r : LoadReq), s.gang? u = some g →
    s.blockOf g = some b → g.out[i]? = some o → o.kind = .load r → r.got = none → olderLoad g o r = false →
    atomAhead s g b o r = false →
    remoteCells s b g.core r = [] → (∀ c ∈ r.cells, needsHome s b g.core c = true → readAsleep s c.pa = false) →
    let xs := r.cells.map (threadByte s g b r.part r.lane o.ord);
    After (.loadHomeRead u i keep) s (fun t => t.mem = s.mem ∧
      gangIn t u (fun g' => ∃ o' ∈ g'.out, ∃ r', o'.id = o.id ∧ o'.kind = .load r' ∧ r'.got = some (xs.map (·.1)) ∧
        r'.poison = xs.any (·.2)) ∧
      (xs.any (·.2) = false → t.blocks = s.blocks) ∧
      (xs.any (·.2) = true → o.blocks = true → blockIn t b.uid (fun b' => b'.consumption ≠ []) ∧
        gangIn t u (fun g' => ∃ d ∈ g'.deferred, d.lanes = r.lanes ∧ d.req.cause = 0x19)))) ∧
  (∀ (s : State) (core line : Nat), After (.l1Evict core line) s (fun t => t = { s with cores := t.cores } ∧
    (t.core core).l1 = (s.core core).l1.filter (fun e => lineOf e.pa != line) ∧ ∀ c, c ≠ core → t.core c = s.core c)) ∧
  (∀ (s : State) (u lane : Nat) (g : Gang) (b : Block) (h : HeldItem), s.gang? u = some g → s.blockOf g = some b →
    g.relq = [h] →
    (∀ a, h.eff = .atom a → a.left = false → gathersBefore s g h = false → After (.atomPerform u lane) s (fun t => t.mem = s.mem ∧
      blockIn t b.uid (fun b' => b'.commits = b.commits + 1 ∧ b'.lastPc = h.pc) ∧
      gangIn t u (fun g' => ∃ ahead, g'.relq =
        [{ h with eff := .atom { a with left := true, commit := b.nextUnit, ahead := ahead } }]))) ∧
    (∀ a x, h.eff = .atom a → a.left = true → a.lanes = [x] → atomLane a lane = some x → a.acq = false →
      (∀ c ∈ x.cells, isRemote c.pa = false ∧ stackAsleep s c.pa = false) → atomReady b a x = true → (∀ y ∈ atomRead s b g.core x, y.2 = false) →
      let old := (atomRead s b g.core x).map (·.1);
      let y := atomNew a.aop a.size (BitVec.ofNat 128 (leValue old)) x.data x.cmp;
      let o := (g.out.find? (fun o => o.id == a.oid)).getD Outst.absent;
      After (.atomPerform u lane) s (fun t =>
        t.mem = (if a.aop = .ld then s else writeHome s true (stCells x.cells (leBytes (sizeBytes a.size) y.1.toNat))).mem ∧
        gangIn t u (fun g' => g'.relq = [] ∧ g'.out = arrived g a.oid (atomEffs a o x old y.2)))) ∧
    (∀ a x, h.eff = .atoml a → a.lanes = [x] → atomLane a lane = some x → localBefore g h x.off (sizeBytes a.size) = false →
      let pos := b.posOf g.core;
      let old := scratchBytes b pos x.off (sizeBytes a.size);
      let y := atomNew a.aop a.size (BitVec.ofNat 128 (leValue old)) x.data x.cmp;
      let o := (g.out.find? (fun o => o.id == a.oid)).getD Outst.absent;
      After (.atomPerform u lane) s (fun t => t.mem = s.mem ∧
        blockIn t b.uid (fun b' => b'.scratch = if a.aop = .ld then b.scratch
          else (scratchPut b pos (placed x.off (leBytes (sizeBytes a.size) y.1.toNat))).scratch) ∧
        gangIn t u (fun g' => g'.relq = [] ∧ g'.out = arrived g a.oid (atomEffs a o x old y.2)))))

/-- R120, R241: A GANG ENDS once every lane has exited and nothing of it is outstanding; with its last gang the block enters
its end commit, recorded at its last `EXIT`. -/
def Sys2Proof.Claim.gangsEnd : Prop :=
  ∀ (s : State) (u : Nat) (g : Gang) (b : Block), s.gang? u = some g → s.block? g.block = some b → g.isOver = true →
    (∀ r ∈ s.faultQ, r.guid ≠ some u) → b.consumption = [] → (∀ d ∈ g.deferred, d.raised = true) →
    After (.gangEnd u) s (fun t => t.gang? u = none ∧ t.mem = s.mem ∧
      (b.phase = .running → (∀ x ∈ s.gangs, x.block = g.block → x.uid = u) → blockIn t b.uid (fun b' =>
        b'.phase = .ending ∧ b'.commits = b.commits + 1 ∧ b'.lastPc = (b.lastExit.map (·.pc)).getD 0 ∧ b'.sb = [])) ∧
      ((∃ x ∈ s.gangs, x.block = g.block ∧ x.uid ≠ u) → t.blocks = s.blocks))

/-- R120, R237, R241, R242, R244, R246: STORES, COMMITS AND THE END OF A GANG. -/
def Obligations.CommitsAndEndsOfGangs : Prop :=
  Sys2Proof.Claim.storesAndCommits ∧ Sys2Proof.Claim.gangsEnd

/-- R294 to R299: THE BARRIER NETWORKS. An operation that is next for its object, on an object homed here that passes its
checks: `BARI` makes or ends the object; an arrival counts, and at EXPECT releases the phase and the gangs that wait in it; a
wait joins the object in its phase, or answers its status; a status read answers it. One that reads home where it lies on a
stack in self-refresh waits (R342). -/
def Sys2Proof.Claim.barrierNetworks : Prop :=
  ∀ (s : State) (i u : Nat) (o : UnitOp) (g : Gang), s.barQ[i]? = some o → o.gang = u → s.gang? u = some g →
    barEarly s i o = false →
    (∀ va cell scope arg oid, o.item.eff = .bari va cell scope arg oid → isRemote cell.pa = false →
      barStopped s cell.pa = false → barAsleep s cell = false →
      (initBad s g cell.pa arg = false → arg.extractLsb' 0 24 ≠ 0 → After (.barrierNetworkInit i) s (fun t =>
        t.barQ = s.barQ.eraseIdx i ∧ gangIn t u (fun g' => g' = g.arrive oid []) ∧
        ∃ x, t.bar? cell.pa = some x ∧ x.valid = true ∧ x.count = 0 ∧ x.phase = 0 ∧ x.start = 0 ∧
          x.expect = (arg.extractLsb' 0 24).toNat ∧ x.asid = gangAsid (s.blockOf g) ∧ x.waiters = [] ∧
          x.timeout = (if arg.extractLsb' 32 32 = 0 then 2000 else (arg.extractLsb' 32 32).toNat))) ∧
      (initBad s g cell.pa arg = false → arg.extractLsb' 0 24 = 0 → After (.barrierNetworkInit i) s (fun t =>
        t.bar? cell.pa = none ∧ gangIn t u (fun g' => g' = g.arrive oid []))) ∧
      (initBad s g cell.pa arg = true → After (.barrierNetworkInit i) s (fun t => t.bars = s.bars ∧ t.mem = s.mem ∧
        gangIn t u (fun g' => ∃ d ∈ g'.deferred, d.req.cause = 0x31 ∧ d.req.addr = BitVec.ofNat 64 va ∧ d.lanes = o.item.lanes)))) ∧
    (∀ va cell scope dst oid x, o.item.eff = .bara va cell scope dst oid → isRemote cell.pa = false → s.bar? cell.pa = some x →
      x.valid = true → x.expired = false → barUseOk s g cell.pa = true →
      (x.count + 1 ≠ x.expect → After (.barrierNetworkArrival i) s (fun t => t.barQ = s.barQ.eraseIdx i ∧ t.mem = s.mem ∧
        gangIn t u (fun g' => g' = g.arrive oid (gangEffs (g.ordOf oid) dst x.phase.toNat)) ∧
        t.bar? cell.pa = some { x with
          count := x.count + 1, last := g.block, arrivals := x.arrivals ++ [(0, g.block, g.idx)]
          start := if x.count = 0 ∧ x.start = 0 then s.now else x.start })) ∧
      (x.count + 1 = x.expect → (∀ w ∈ x.waiters, ∀ gw, s.gang? w.1 = some gw → gangMarked s gw = false) → After (.barrierNetworkArrival i) s (fun t =>
        (∃ y, t.bar? cell.pa = some y ∧ y.phase = x.phase + 1 ∧ y.count = 0 ∧ y.start = 0 ∧ y.arrivals = []) ∧
        ∀ w ∈ x.waiters, w.2.2 ≠ x.phase + 1 → ∀ gw, s.gang? w.1 = some gw →
          gangIn t w.1 (fun g' => ∀ y ∈ g'.out, y.id = w.2.1 → y.arrived = true)))) ∧
    (∀ va cell scope p dst oid b, o.item.eff = .barw va cell scope p dst oid → isRemote cell.pa = false → s.blockOf g = some b →
      isMarked s b = false → barStopped s cell.pa = false → barAsleep s cell = false → barUseOk s g cell.pa = true →
      (∀ k, k < i → ∀ y, s.barQ[k]? = some y → y.gang ≠ u) →
      (∀ x, s.bar? cell.pa = some x → x.valid = true → x.phase = p → After (.barrierWaitTest u) s (fun t =>
        t.gangs = s.gangs ∧ t.mem = s.mem ∧ t.bar? cell.pa = some { x with
          start := if x.start = 0 then s.now else x.start, waiters := x.waiters ++ [(u, oid, p)] })) ∧
      ((∀ x, s.bar? cell.pa = some x → x.valid = false ∨ x.phase ≠ p) → After (.barrierWaitTest u) s (fun t =>
        t.bars = s.bars ∧ t.mem = s.mem ∧
        gangIn t u (fun g' => g' = g.arrive oid (gangEffs (g.ordOf oid) dst (statusOf s cell)))))) ∧
    (∀ va cell scope dst oid, o.item.eff = .bart va cell scope dst oid → isRemote cell.pa = false →
      barStopped s cell.pa = false → barAsleep s cell = false → barUseOk s g cell.pa = true → After (.barrierStatusRead i) s (fun t =>
        t.bars = s.bars ∧ t.mem = s.mem ∧ t.barQ = s.barQ.eraseIdx i ∧
        gangIn t u (fun g' => g' = g.arrive oid (gangEffs (g.ordOf oid) dst (statusOf s cell)))))

/-- R301 to R303, R404, R405: EXPIRY AND NOTICES. A live object whose time is up is closed, leaves a record with the
barrier-timeout cause and terminates its context, which the host is told of; before its time nothing happens. A release of an
object of another package lets the gangs here that wait on it go on; its expiry terminates the context here. -/
def Sys2Proof.Claim.barrierExpiry : Prop :=
  (∀ (s : State) (n : Nat) (o : BarObj), s.bars[n]? = some o →
    (barDue s o = false → exec (.barrierWatchdogExpiry n) s = .next s) ∧
    (barDue s o = true → After (.barrierWatchdogExpiry n) s (fun t => tabGet false t.dead o.asid = true ∧
      t.notice.getLsbD 3 = true ∧ (∀ x ∈ t.bars, x.asid = o.asid → x.expired = true) ∧
      (∃ r ∈ t.faultQ, r.cause = 0x30 ∧ r.asid = o.asid ∧ r.addr = BitVec.ofNat 64 o.va) ∧
      ∀ a ∈ o.senders, (a.1, RemoteResp.expired a.2.1 a.2.2) ∈ t.outbox))) ∧
  (∀ (s : State) (acc asid va : Nat) (phase : BitVec 32) (o : BarObj), s.bar? (remoteAddr acc asid va) = some o →
    (∀ w ∈ o.waiters, ∀ gw, gw ∈ s.gangs ++ s.blocks.flatMap (·.savedGangs) → gw.uid = w.1 → gangMarked s gw = false) → After (.podBarrierReleaseNotice acc asid va phase) s (fun t => t.mem = s.mem ∧
      (∃ x, t.bar? (remoteAddr acc asid va) = some x ∧ x.phase = phase ∧ x.count = 0) ∧
      ∀ w ∈ o.waiters, w.2.2 ≠ phase → ∀ gw, s.gang? w.1 = some gw →
        gangIn t w.1 (fun g' => ∀ y ∈ g'.out, y.id = w.2.1 → y.arrived = true))) ∧
  (∀ (s : State) (acc asid va : Nat), tabGet false s.dead asid = false → After (.podExpiryNotice acc asid va) s (fun t =>
    tabGet false t.dead asid = true ∧ t.notice.getLsbD 3 = true ∧ ∃ r ∈ t.faultQ, r.cause = 0x30))

/-- R294 to R299, R301 to R303, R404, R405: THE BARRIER NETWORKS AND EXPIRY. -/
def Obligations.BarrierNetworksAndExpiry : Prop :=
  Sys2Proof.Claim.barrierNetworks ∧ Sys2Proof.Claim.barrierExpiry

/-! ### Events of the Cistern -/

/-- R317 to R319, R321: QUEUES AND ENQUEUE. TAIL goes no more than a ring ahead of HEAD. The next record of a ring, or the
oldest LAUNCH for the queue, becomes a launch with the fields of its record, a fresh identifier and the next place in the
order; a record that fails its checks is refused with the reason. The requests of the Cistern's own reads are left aside
(log 99), and a record on a stack in self-refresh waits (R342). -/
def Sys2Proof.Claim.queuesAndEnqueue : Prop :=
  ∀ (s : State) (q : Nat), q < 4096 →
    let head := tabGet 0 s.qhead q;
    let asid := queueAsid s q;
    let prio := max (bitsOf (queueCtl s q) 7 5) (ctxMaxPri (ctxRec s asid));
    let fits := fun (v : Nat) (l : Launch) => l.id = freshLaunch s ∧ l.asid = asid ∧ l.queue = q ∧ l.prio = prio ∧
      l.seq = s.nextSeq ∧ l.entry = BitVec.ofNat 64 (lrEntry v) ∧ l.blocks = bitsOf v 735 704 ∧ l.next = 0 ∧ l.ended = 0 ∧
      l.killed = 0 ∧ l.wait = bitsOf v 703 688 - tabGet 0 s.qnotices q;
    (∀ tail, After (.qtailWrite q tail) s (fun t => t = { s with qtail := t.qtail } ∧
      tabGet 0 t.qtail q = if ringSize s q < (tail - head).toNat then head + BitVec.ofNat 32 (ringSize s q) else tail)) ∧
    (head ≠ tabGet 0 s.qtail q → slotsFull s q = false →
      let addr := bitsOf (queueCtl s q) 63 12 * 4096 + 128 * (head.toNat % ringSize s q);
      let refused := fun (reason : Nat) => After (.launchEnqueue q false) s (fun t =>
        unasked s t = { s with qhead := t.qhead, faultQ := t.faultQ } ∧ tabGet 0 t.qhead q = head + 1 ∧
        ∃ r, t.faultQ = s.faultQ ++ [r] ∧ r.cause = 0x40 ∧ r.detail = reason ∧ r.addr = BitVec.ofNat 64 addr ∧ r.asid = asid);
      (queueBad s q none = true → refused 4) ∧
      (∀ reason, queueBad s q none = false → areaAsleep s addr 128 = false →
        readRecord s asid (physWord s addr 128) = .reject reason → refused reason) ∧
      (∀ v ps, queueBad s q none = false → areaAsleep s addr 128 = false → readRecord s asid (physWord s addr 128) = .ok v ps →
        let l := launchOf v ps (freshLaunch s) asid q prio s.nextSeq none none;
        (spanOf s l = none → refused 2) ∧
        (spanOf s l ≠ none → l.coop = false → l.join = 0 → After (.launchEnqueue q false) s (fun t =>
          t.mem = s.mem ∧ t.faultQ = s.faultQ ∧ tabGet 0 t.qhead q = head + 1 ∧ t.nextSeq = s.nextSeq + 1 ∧
          ∃ l', t.launches = s.launches ++ [l'] ∧ fits v l' ∧ l'.provisional = none ∧ l'.params = ps)))) ∧
    (∀ (o : UnitOp) (g : Gang) (b : Block) (va x oid : Nat) (dst : Opd), s.cisQ.find? (isLaunch q) = some o →
      o.item.eff = .launch va x dst oid → s.gang? o.gang = some g → s.blockOf g = some b →
      let answers := fun (val : Nat) (t : State) =>
        gangIn t o.gang (fun g' => g' = g.arrive oid (gangEffs (g.ordOf oid) dst val)) ∧ t.cisQ.length + 1 = s.cisQ.length;
      (queueBad s q (some b.asid) = true → After (.launchEnqueue q true) s (fun t =>
        t.launches = s.launches ∧ answers 0xFFFFFFFF00000004 t)) ∧
      (∀ v ps, queueBad s q (some b.asid) = false → readLaunch s b.asid va = .ok v ps →
        let l := launchOf v ps (freshLaunch s) asid q prio s.nextSeq (if b.commits = 0 then some b.uid else none) (some g.core);
        spanOf s l ≠ none → l.coop = false → slotsFull s q = false → l.join = 0 → After (.launchEnqueue q true) s (fun t =>
          answers (freshLaunch s) t ∧ ∃ l', t.launches = s.launches ++ [l'] ∧ fits v l' ∧
            l'.provisional = if b.commits = 0 then some b.uid else none)))

/-- R24, R36, R324, R325: DISPATCH. Where nothing is being saved, the first launch in the order that is not a co-operative
grid has its next block placed on the cores found for it: its gangs take their seats by number and every thread has its entry
state. With no dispatchable launch nothing happens. -/
def Obligations.DispatchPlacesBlocks : Prop :=
  ∀ (s : State) (dom : Nat), (∀ b ∈ s.blocks, b.phase ≠ .preempting) →
    (dispatchOrder s dom = [] → exec (.dispatchBlock dom) s = .next s) ∧
    ∀ (l : Launch) (rest : List Launch) (i n : Nat) (cs : List Nat), dispatchOrder s dom = l :: rest → l.coop = false →
      waitingBlocks s l = [] → nextIndex l = some i → spanOf s l = some n →
      findPlace s l n (freshSeats l) none none = some cs → s.block? s.nextUid = none →
      After (.dispatchBlock dom) s (fun t => t.mem = s.mem ∧
        blockIn t s.nextUid (fun b => b.launch = l.id ∧ b.asid = l.asid ∧ b.idx = i ∧ b.cores = cs ∧ b.span = n ∧
          b.phase = .running ∧ b.commits = 0 ∧ b.limit = launchLimit l ∧ b.scratch = [] ∧ b.commons = []) ∧
        (∀ l0, s.launch? l.id = some l0 → ∃ l', t.launch? l.id = some l' ∧ l'.next = i + 1) ∧
        ∃ gs, t.gangs = s.gangs ++ gs ∧ gs.length = launchGangs l ∧ ∀ k g, gs[k]? = some g →
          g.idx = k ∧ g.block = s.nextUid ∧ g.core = cs.getD (k / spanStride l n) 0 ∧ g.part = k % 16 ∧
          g.vregs = l.vregs ∧ g.sregs = l.sregs ∧
          g.inActive = pendingFull { s with gangs := s.gangs ++ gs.take k } g.core g.part ∧ g.regs.s = entryScalars l i ∧
          g.regs.sfsr = 0x20 ∧ ∀ j, j < 32 → g.regs.lane j = entryLane l (32 * k + j))

/-- R320, R327, R334: A LAUNCH COMPLETES when every block has ended or been killed: it leaves, and its dependent launch waits
for one less. One that has used its time has its context terminated, the host told. A block that consumed an uncorrectable
error is relaunched from its beginning, on another quad, or is killed where it has committed. -/
def Sys2Proof.Claim.launchesComplete : Prop :=
  (∀ (s : State) (id : Nat) (l : Launch), s.launch? id = some l →
    (launchOver s l = false → exec (.launchComplete id) s = .next s) ∧
    (complSent s id = true → exec (.launchComplete id) s = .next s) ∧
    (launchOver s l = true → complSent s id = false → l.compl = 0 → s.join? id = none → After (.launchComplete id) s (fun t => t.mem = s.mem ∧
      t.launches = (s.launches.filter (fun x => x.id != id)).map (fun x =>
        if x.id = l.depid ∧ l.depid ≠ 0xFFFFFFFF then { x with wait := x.wait - 1 } else x))) ∧
    (∀ c cs, launchOver s l = true → complSent s id = false → l.compl ≠ 0 → s.join? id = none →
      virtCells (fun a => xlateWalk s l.asid a .write false) l.compl 8 = .ok (c :: cs) →
      (∀ x ∈ c :: cs, stackAsleep s x.pa = false) →
      let word := leBytes 8 (l.killed % 2 ^ 32 * 2 ^ 32 + 1);
      (isRemote c.pa = false → After (.launchComplete id) s (fun t => (∀ x ∈ t.launches, x.id ≠ id) ∧
        t.mem = (writeHome s false (stCells (c :: cs) word)).mem)) ∧
      (isRemote c.pa = true → After (.launchComplete id) s (fun t => t.launches = s.launches ∧ t.mem = s.mem ∧
        ∃ r, t.remOut = s.remOut ++ [r] ∧ r.kind = .compl l.id (c :: cs) word ∧ r.target = remoteTarget c.pa))) ∧
    (l.tlimit = 0 ∨ launchElapsed s l < 1000000 * l.tlimit → exec (.timeLimitExpiry id) s = .next s) ∧
    (l.tlimit ≠ 0 → 1000000 * l.tlimit ≤ launchElapsed s l → tabGet false s.dead l.asid = false →
      After (.timeLimitExpiry id) s (fun t => tabGet false t.dead l.asid = true ∧ t.notice.getLsbD 3 = true ∧
        ∃ r ∈ t.faultQ, r.cause = 0x41 ∧ r.launch = id))) ∧
  (∀ (s : State) (u : Nat) (b : Block) (c : Consumption), s.block? u = some b → b.consumption.head? = some c → c.unsure s = false → b.phase = .running →
    (b.replayable = true → b.consumed < 3 → isMarked s b = false → After (.uncorrectableConsumption u) s (fun t =>
      blockIn t u (fun b' => b'.phase = .unplaced ∧ b'.consumed = b.consumed + 1 ∧ b'.consumption = [] ∧ b'.cores = [] ∧
        b'.sb = [] ∧ b'.avoidQuad = b.quad) ∧
      (∀ g ∈ t.gangs, g.block ≠ u) ∧ ∃ r ∈ t.faultQ, r.cause = 0x19 ∧ r.detail = 0 ∧ r.pc = c.pc ∧ r.addr = c.addr ∧ r.lanes = 0)) ∧
    (b.replayable = false ∨ 3 ≤ b.consumed → After (.uncorrectableConsumption u) s (fun t =>
      (∀ x ∈ t.blocks, x.uid = u → x.phase = .ended) ∧ (∀ g ∈ t.gangs, g.block ≠ u) ∧
      ∃ r ∈ t.faultQ, r.cause = 0x19 ∧ r.detail = 1 ∧ r.pc = c.pc ∧ r.lanes = c.lanes)))

/-- R317 to R321, R327, R334: QUEUES, ENQUEUE AND THE END OF A LAUNCH. -/
def Obligations.QueuesAndLaunches : Prop :=
  Sys2Proof.Claim.queuesAndEnqueue ∧ Sys2Proof.Claim.launchesComplete

/-- R178, R316: REPLIES. A reply that names an occupied slot by its sequence number frees it: retry lets the record's parked
lanes go on at the faulting word, or has a failed request walked again; resume after lets them go on behind it, or fails the
request for good; kill kills the block; free does nothing more. Any other reply is discarded. The ready stamp of a lane beside
a run in issue is the model's choice (log 85), and so is that a lane of an open gathering waits again (log 89). -/
def Obligations.RepliesAct : Prop :=
  ∀ (s : State) (asid slot : Nat) (seq : BitVec 32),
    let all : List Instr := [.freplyRetry asid slot seq, .freplyResumeAfter asid slot seq, .freplyKill asid slot seq,
      .freplyFree asid slot seq];
    let free := s.slots.filter (fun y => !(y.asid == asid && y.slot == slot));
    let hit := s.slots.find? (fun x => x.asid == asid && x.slot == slot && x.seq == seq.toNat);
    (hit = none → ∀ i ∈ all, exec i s = .next s) ∧
    (∀ x, hit = some x →
      exec (.freplyFree asid slot seq) s = .next { s with slots := free } ∧
      (∀ i ∈ all, x.req.inert = true → exec i s = .next { s with slots := free }) ∧
      (∀ u b, x.req.inert = false → tabGet false s.dead x.req.asid = false → x.req.buid = some u → s.block? u = some b →
        b.phase ≠ .saved → b.over = false →
        (∀ gu g, x.req.op = none → x.req.guid = some gu → s.gang? gu = some g → g.deferred = [] →
          ∀ k : Bool, After (if k then .freplyRetry asid slot seq else .freplyResumeAfter asid slot seq) s (fun t =>
            t = { s with slots := free, gangs := t.gangs } ∧ gangIn t gu (fun g' => ∀ j, j < 32 →
              g'.regs.lane j = (if maskHas x.req.lanes j = true ∧ (g.regs.lane j).status = .parked then
                { g.regs.lane j with
                  status := if g.inOpenGathering j then .waiting else .runnable
                  stamp := g.run
                  pc := if x.req.deferred then (g.regs.lane j).pc else if k then x.req.pc else nextPc x.req.pc }
                else g.regs.lane j)))) ∧
        (∀ id c, x.req.op = some id → s.copy? id = some c → c.phase = .waitReply →
          After (.freplyRetry asid slot seq) s (fun t => t.slots = free ∧ t.copy? id = some { c with phase := .fetched, cause := 0 }) ∧
          After (.freplyResumeAfter asid slot seq) s (fun t => t.slots = free ∧ t.copy? id = some { c with phase := .failed })) ∧
        After (.freplyKill asid slot seq) s (fun t => t.slots = free ∧ (∀ y ∈ t.blocks, y.uid = u → y.phase = .ended) ∧
          ∀ g ∈ t.gangs, g.block ≠ u)))

/-! ### Events of memory, of pages and of management -/

namespace Sys2Proof.Claim
open Sys2Proof.Machine

/-- R340: what is told of a correction of a sector: an entry in the error log, and with the eighth correction of its row
within 24 hours a row alert after it. -/
def correctionTold (s t : State) (sector : Nat) : Prop :=
  let row := Config.rowOf (32 * sector)
  let recent := s.corrections.filter (fun c => decide (s.now < c.2 + 86400000000000))
  let one := elogWrite s 1 (sectorPlace s sector) 0
  let told := if (recent.filter (fun c => c.1 == row)).length = 7 then elogWrite one 2 (sectorPlace s sector) 0 else one
  t.corrections = recent ++ [(row, s.now)] ∧ t.elog = told.elog ∧ t.mem = told.mem

end Sys2Proof.Claim

/-- R336, R338 to R342: THE MEMORY SERVICE. A channel serves the request that no other comes before, by class, by stamp and
then by arrival, once no refresh holds it back, and counts it where it is past its stamp; refresh holds a subarray while it is
on; a stack in self-refresh serves nothing; the patrol marks what it cannot correct, logs what it corrects, with a row alert at
the eighth of a row within 24 hours, schedules its write-back, and does not read a row that a checkpoint read has covered; what
such a read found is told apart. That bit 2 of the notice tells of self-refresh is log 42, that the miss counters are those of
the controller's domain log 56, that a log without a ring only counts log 22. -/
def Obligations.MemoryServiceEvents : Prop :=
  (∀ (s : State) (ctl chan : Nat), tabGet false s.selfRefresh ctl = true → exec (.memoryChannelServe ctl chan) s = .next s) ∧
  (∀ (s : State) (ctl chan i : Nat), tabGet false s.selfRefresh ctl = false → nextRequest s ctl chan = some i →
    ∃ r, s.chanQ[i]? = some r ∧ r.stack = ctl ∧ r.chan = chan ∧ refreshBlocks s r = false ∧
      (∀ x ∈ s.chanQ, x.stack = ctl → x.chan = chan →
        r.cls < x.cls ∨ (r.cls = x.cls ∧ (x.stamp = 0 ∨ (r.stamp ≠ 0 ∧ r.stamp ≤ x.stamp)))) ∧
      (∀ j x, j < i → s.chanQ[j]? = some x → x.stack = ctl → x.chan = chan →
        r.cls < x.cls ∨ (r.cls = x.cls ∧ r.stamp ≠ 0 ∧ (x.stamp = 0 ∨ r.stamp < x.stamp))) ∧
      After (.memoryChannelServe ctl chan) s (fun t => t = { s with chanQ := s.chanQ.eraseIdx i, misses := t.misses } ∧
        let k := missKey (controllerDom ctl) r.who r.cls;
        tabGet 0 t.misses k = if r.stamp ≠ 0 ∧ r.stamp < s.now ∧ tabGet 0 s.misses k ≠ 0xFFFFFFFF
          then tabGet 0 s.misses k + 1 else tabGet 0 s.misses k)) ∧
  (∀ (s : State) (stack chan sub : Nat) (on : Bool), stack < 8 → chan < 32 → After (.subarrayRefresh stack chan sub on) s (fun t =>
    t = { s with refreshing := t.refreshing } ∧ tabGet false t.refreshing (refreshKey stack chan sub) = on)) ∧
  (∀ (s : State) (stack thbm : Nat), stack < 8 → tabGet false s.selfRefresh stack = false →
    After (.hbmThermalSelfRefresh stack thbm) s (fun t => tabGet false t.selfRefresh stack = true ∧ t.notice.getLsbD 2 = true ∧
      t.therm.thbm = thbm ∧ ∃ more, t.chanQ = s.chanQ ++ more)) ∧
  (∀ (s : State) (stack : Nat), After (.hbmSelfRefreshExit stack) s (fun t => t = { s with selfRefresh := t.selfRefresh } ∧
    tabGet false t.selfRefresh stack = false)) ∧
  (∀ (s : State) (sector : Nat) (p : Place), placeOf s (32 * sector) = some p → p.tier < 3 →
    (p.tier = 0 → tabGet false s.selfRefresh p.slot = false) → (∀ x ∈ s.scrubs, x.sector ≠ sector) →
    (rowCovered s (32 * sector) = true → ∀ res, exec (.geckoPatrol sector res) s = .next s) ∧
    (rowCovered s (32 * sector) = false →
    exec (.geckoPatrol sector .clean) s = .next s ∧
    After (.geckoPatrol sector .corrected) s (fun t => t.patrols.length = s.patrols.length + 1 ∧ t.poison = s.poison ∧
      correctionTold s t sector ∧ ∃ x ∈ t.patrols, x.sector = sector ∧ x.stale = false) ∧
    After (.geckoPatrol sector .uncorrectable) s (fun t => t = { s with poison := t.poison } ∧
      tabGet false t.poison sector = true))) ∧
  (∀ (s : State) (sector : Nat) (p : Place) (x : Patrol), placeOf s (32 * sector) = some p → p.tier < 3 →
    (p.tier = 0 → tabGet false s.selfRefresh p.slot = false) → s.scrubs.find? (fun y => y.sector == sector) = some x →
    exec (.geckoPatrol sector .clean) s = .next { s with scrubs := s.scrubs.erase x } ∧
    After (.geckoPatrol sector .corrected) s (fun t => t.scrubs.map (·.sector) = (s.scrubs.erase x).map (·.sector) ∧ t.poison = s.poison ∧
      t.patrols.length = s.patrols.length + 1 ∧
      correctionTold s t sector ∧ ∃ y ∈ t.patrols, y = ⟨sector, x.stale⟩) ∧
    After (.geckoPatrol sector .uncorrectable) s (fun t => t = { s with scrubs := s.scrubs.erase x, poison := t.poison } ∧
      tabGet false t.poison sector = true)) ∧
  (∀ (s : State) (kind place detail : Nat),
    let e := s.elog;
    let n := 64 * 2 ^ (e.ctl.extractLsb' 8 4).toNat;
    let ring := 4096 * (e.ctl.extractLsb' 12 52).toNat;
    (ring = 0 ∨ n ≤ (e.tail - e.head).toNat → elogWrite s kind place detail = { s with elog := { e with ovf := e.ovf + 1 } }) ∧
    (ring ≠ 0 → (e.tail - e.head).toNat < n →
      let t := elogWrite s kind place detail;
      t.elog = { e with tail := e.tail + 1, ovf := 0 } ∧ t.notice.getLsbD 1 = true ∧
      t.mem = (writeHome s false ((placed (ring + 32 * (e.tail.toNat % n))
        (elogEntry s.now place e.tail.toNat e.ovf kind detail)).map (fun p => ⟨physCell p.1, p.2, 0xFF⟩))).mem)) ∧
  (∀ (s : State) (sector : Nat), After (.correctedWriteback sector) s (fun t => t.mem = s.mem ∧
    t = { s with patrols := s.patrols.eraseP (fun p => p.sector == sector) }))

/-- R353 to R361, R364: PAGES IN MOTION. A request that has been translated starts its motion, is refused with a status, or
waits; a copied unit reads at the destination as at the source; an error ends the motion with its record; a page copied whole
is swapped, and the frame given up released, on the ring of the source page's domain whatever the status (log 48); halving
halves the counters of its domain; a candidate starts its motion. What lies on a stack in self-refresh waits (R342). -/
def Obligations.PagesInMotion : Prop :=
  (∀ (s : State) (i asid core leafPa base size oid va : Nat) (ctl : W64) (dst : Opd) (o : UnitOp) (g : Gang), s.cisQ[i]? = some o →
    o.item.eff = .migr asid core va ctl (some (leafPa, base, size)) dst oid → s.gang? o.gang = some g →
    let gone := { s with cisQ := s.cisQ.eraseIdx i };
    let tier := if ctl.extractLsb' 4 60 = 0 then (ctl.extractLsb' 0 2).toNat else 3;
    let later := ctl.getLsbD 3;
    let start := startMotion gone asid leafPa base size tier (ctl.extractLsb' 2 1).toNat
      (if later then some (o.gang, oid) else none);
    (∀ s1 x, start = .refused s1 x → After (.migrationStart i) s (fun t => t.motions = s1.motions ∧
      gangIn t o.gang (fun g' => g'.out = arrived g oid (gangEffs (g.ordOf oid) (waitDst g oid) x)))) ∧
    (∀ s1, start = .started s1 → After (.migrationStart i) s (fun t => t.motions = s1.motions ∧
      (∃ m ∈ t.motions, m.leafPa = leafPa ∧ m.tier = tier ∧ m.stage = 0 ∧ m.mark = 0) ∧
      gangIn t o.gang (fun g' => g'.out =
        if later then g.out else arrived g oid (gangEffs (g.ordOf oid) (waitDst g oid) 0)))) ∧
    (start = .wait → After (.migrationStart i) s (fun t => t.motions = s.motions ∧ t.mem = s.mem ∧ t.cisQ = s.cisQ))) ∧
  (∀ (s : State) (src u : Nat) (m : Motion), s.motions.find? (fun x => x.src == src && x.stage == 0 && !x.abandoned) = some m →
    m.next = some u →
    (sourceBad s m u = false → destinationDead s m = false → motionAsleep s m = false → m.src % 65536 = 0 → m.dst % 65536 = 0 →
      m.src + m.size ≤ m.dst ∨ m.dst + m.size ≤ m.src → (u + 1) * 256 ≤ m.size →
      After (.migrationCopyUnit src .ok) s (fun t =>
        (∀ k, k < 256 → viewByte t (pageView s m.asid m.leaf) (m.dst + 256 * u + k) =
          viewByte s (pageView s m.asid m.leaf) (m.src + 256 * u + k)) ∧
        (∃ m' ∈ t.motions, m'.src = src ∧ m'.stage = 0 ∧ if u = m.mark then m'.mark = m.mark + 1 else m'.mark = m.mark))) ∧
    (destinationDead s m = false → motionAsleep s m = false → After (.migrationCopyUnit src .source) s (fun t => (∃ r ∈ t.faultQ, r.cause = 0x17 ∧ r.addr = BitVec.ofNat 64 m.va) ∧
      ∀ x ∈ t.motions, x.src = src → x.stage = 2 ∧ x.status = 6)) ∧
    (∀ err, err = .destination ∨ destinationDead s m = true → motionAsleep s m = false → After (.migrationCopyUnit src err) s (fun t =>
      (∃ r ∈ t.faultQ, r.cause = 0x18 ∧ r.detail = m.tier) ∧
      ∀ x ∈ t.motions, x.src = src → x.stage = 2 ∧ x.status = 5 ∧ x.bad = true))) ∧
  (∀ (s : State) (src : Nat) (m : Motion), s.motions.find? (fun x => x.src == src) = some m →
    (m.stage = 0 → m.next = none → motionAsleep s m = false → destinationDead s m = true → After (.migrationEnd src) s (fun t =>
      ∃ r ∈ t.faultQ, r.cause = 0x18 ∧ r.detail = m.tier)) ∧
    (m.stage = 0 → m.next = none → motionAsleep s m = false → destinationDead s m = false → physWord s m.leafPa 8 = (m.leaf.extractLsb' 0 64).toNat → After (.migrationEnd src) s (fun t =>
      (∃ x ∈ t.motions, x.src = src ∧ x.stage = 1) ∧ ∃ k ∈ t.invals, k.motion = some src ∧ k.kind = .page ∧ k.va = m.va)) ∧
    (m.stage = 0 → m.next = none → motionAsleep s m = false → destinationDead s m = false → physWord s m.leafPa 8 ≠ (m.leaf.extractLsb' 0 64).toNat → After (.migrationEnd src) s (fun t =>
      ∀ x ∈ t.motions, x.src = src → x.abandoned = true ∧ x.status = 7)) ∧
    (let r := ringOf s m.dom 6;
      m.stage = 2 → (r.tail - r.head).toNat < r.size → ringAsleep s r = false → After (.migrationEnd src) s (fun t =>
        (∀ x ∈ t.motions, x.src ≠ src) ∧
        t.mem = (writeHome s false ((placed (r.base + 8 * (r.tail.toNat % r.size)) (leBytes 8 ((if m.status = 0 then m.src else m.dst) +
          2 * bitNat m.bad + bitNat m.big))).map (fun p => ⟨physCell p.1, p.2, 0xFF⟩))).mem ∧ tabGet 0 t.rings (ringKey m.dom 6 1) = (r.tail + 1).setWidth 64))) ∧
  (∀ (s : State) (dom : Nat), tabWf 0 s.hot = true → After (.hotnessHalving dom) s (fun t =>
    (∀ p, tabGet 0 t.hot p = if p ∈ presentLeaves s ∧ leafDom s p = some dom then tabGet 0 s.hot p / 2 else tabGet 0 s.hot p) ∧
    t.promos = s.promos.filter (fun p => p.dom != dom))) ∧
  (∀ (s : State) (dom : Nat) (p : Promo) (rest : List Promo) (l : Leaf) (s1 : State),
    s.promos.filter (fun x => x.dom == dom) = p :: rest → walk s p.asid p.va = .ok l →
    walkAsleep s p.asid p.va = false →
    startMotion (askWalks s skinkUnit false p.asid [p.va]) p.asid l.leafPa l.base l.size 0 p.dom none = .started s1 → After (.promotionStart dom) s (fun t =>
      t.promos = s.promos.erase p ∧ t.motions = s1.motions ∧
      ∃ m ∈ t.motions, m.leafPa = l.leafPa ∧ m.tier = 0 ∧ m.stage = 0 ∧ m.requester = none))

/-- R350, R351, R368, R369: INVALIDATION AND KEYS. With no other request under way an invalidation takes every matching
translation from every core at once, and is over when its holders have acknowledged and its requests are done; then GO
clears. A key is installed unless one is live; destroying it terminates its context, empties its store buffers and asks for
the context's invalidation. -/
def Obligations.InvalidationAndKeys : Prop :=
  (∀ (s : State) (asid va : Nat), s.invals = [] → asid < 2048 → va < 2 ^ 57 →
    After (.invalidatePage asid va) s (fun t => t.invCtl.getLsbD 0 = true ∧ t.invals.length = 1 ∧
      ∀ c, ∀ e ∈ (t.core c).tlb, e ∈ (s.core c).tlb ∧ ¬(e.asid = asid ∧ e.base ≤ va ∧ va < e.base + e.size)) ∧
    After (.invalidateAsid asid) s (fun t => t.invCtl.getLsbD 0 = true ∧ t.invals.length = 1 ∧
      ∀ c, ∀ e ∈ (t.core c).tlb, e ∈ (s.core c).tlb ∧ e.asid ≠ asid) ∧
    After .invalidateAll s (fun t => t.invCtl.getLsbD 0 = true ∧ t.invals.length = 1 ∧ ∀ c, (t.core c).tlb = [])) ∧
  (∀ (s : State) (k : Inval) (rest : List Inval), s.invals = k :: rest →
    (k.holders ≠ [] ∨ k.ops.any (opPinned s) = true → exec .invalidationComplete s = .next s) ∧
    (k.holders = [] → k.ops.any (opPinned s) = false → After .invalidationComplete s (fun t =>
      t.invals.length = rest.length ∧ (k.sys = true → (∀ x ∈ rest, x.sys = false) → t.invCtl.getLsbD 0 = false) ∧
      (∀ src, k.motion = some src → ∀ m ∈ t.motions, m.src = src → m.stage ≠ 1) ∧
      (k.key = true → (tabGet KeySt.reset s.keys k.asid).kst = 3 → (∀ x ∈ rest, x.key = true → x.asid ≠ k.asid) →
        (tabGet KeySt.reset t.keys k.asid).kst = 2) ∧
      ((tabGet KeySt.reset s.keys k.asid).kst ≠ 3 → t.keys = s.keys)))) ∧
  (∀ (s : State) (asid : Nat) (keys : BitVec 512), asid < 2048 →
    let k := tabGet KeySt.reset s.keys asid;
    (k.kst ≠ 1 → k.kst ≠ 3 → After (.keyInstall asid keys) s (fun t =>
      tabGet KeySt.reset t.keys asid = ⟨1, s.nextKey, keys⟩ ∧ keyOf t s.nextKey = keys ∧ t.mem = s.mem)) ∧
    (k.kst = 1 ∨ k.kst = 3 → After (.keyInstall asid keys) s (fun t => t.keys = s.keys ∧ t.keyBits = s.keyBits ∧
      (t.elog.tail = s.elog.tail + 1 ∨ t.elog.ovf = s.elog.ovf + 1))) ∧
    (k.kst ≠ 3 → After (.keyDestroy asid) s (fun t =>
      (tabGet KeySt.reset t.keys asid).kst = (if k.kst = 2 then 2 else 3) ∧
      (ctxLive s asid = true → tabGet false t.dead asid = true) ∧
      (∀ b ∈ t.blocks, b.asid = asid → b.sb = [] ∧ ∀ c ∈ b.pipeline, c.units = []) ∧
      ∃ x ∈ t.invals, x.kind = .asid ∧ x.asid = asid ∧ x.key = true)))

/-- R209, R385, R389, R390, R392 to R395, R397: MANAGEMENT. Notices clear; commands start, act and are over; attestation
captures the nonce, takes a leaf and reports, with a signature that the public key verifies (the hash and the derivation of the
secrets left open, log 5); boot applies the configuration; the clock follows power and temperature; the
host reads and writes memory (a write to a stack in self-refresh stands at once: log 109, DEDUCED); a link that is down stays so. -/
def Obligations.ManagementEvents : Prop :=
  ∀ (s : State),
    (∀ bits, exec (.noticeClear bits) s = .next { s with notice := s.notice &&& ~~~(bits.setWidth 5) }) ∧
    (∀ asid bound, asid < 2048 → mcmdBusy s = false → ctxLive s asid = true → tabGet false s.paused asid = false →
      After (.mcmdPreemptContext asid bound) s (fun t => tabGet false t.paused asid = true ∧ mcmdBusy t = true)) ∧
    (∀ asid, asid < 2048 → mcmdBusy s = false → After (.mcmdResumeContext asid) s (fun t =>
      t = { s with mcmd := t.mcmd, paused := t.paused } ∧ tabGet false t.paused asid = false ∧ mcmdBusy t = true)) ∧
    (∀ core, core < 64 → mcmdBusy s = false → (s.blocks.map (·.uid)).Nodup → After (.mcmdResetCore core) s (fun t =>
      (∀ b ∈ t.blocks, b.resident = true → core ∉ b.cores) ∧ (t.core core).l1 = [] ∧ (t.core core).tlb = [] ∧
      (t.core core).recs = [] ∧ (t.core core).kickQ = [] ∧ (t.core core).l1size = 0 ∧
      (t.core core).disabled = (s.core core).disabled ∧
      (t.core core).fenced &&& (s.core core).off = (s.core core).off ∧ mcmdBusy t = true)) ∧
    (mcmdBusy s = true → (∀ b ∈ s.blocks, b.phase ≠ .preempting ∧ b.drain = false) → After .mcmdDone s (fun t =>
      mcmdBusy t = false ∧ t.notice.getLsbD 4 = true ∧ t.blocks = s.blocks)) ∧
    (s.att.go = false → After .attestationRequest s (fun t => t.att.go = true ∧ t.att.captured = s.att.nonce ∧
      ((s.att.leaf < 2 ^ 20 ∧ ((t.att.pend = 0 ∧ t.att.leaf = s.att.leaf + 1) ∨ (t.att.pend = 1 ∧ t.att.leaf = s.att.leaf))) ∨
        (2 ^ 20 ≤ s.att.leaf ∧ t.att.pend = 2 ∧ t.att.leaf = s.att.leaf)))) ∧
    (s.att.go = true → s.att.captured.length = 32 → After .attestationReportDone s (fun t => t.att.go = false ∧
      t.att.status = s.att.pend ∧ t.att.leaf = s.att.leaf ∧ t.att.report.length = 2948 ∧ t.att.report.take 32 = s.att.captured ∧
      (s.att.pend = 0 → 0 < s.att.leaf → s.att.leaf ≤ 2 ^ 20 →
        xmssVerify attPublic (t.att.report.take 128) (t.att.report.drop 128) = true))) ∧
    (∀ cfg, cfg.failStep = 0 → cfg.rollback ≤ cfg.version → s.att.rollback ≤ cfg.version → After (.bootSequence cfg) s (fun t => t.bootstat.getLsbD 0 = true ∧
      t.bootstat.extractLsb' 32 32 = cfg.version ∧ t.mem = [] ∧ t.gangs = [] ∧ t.blocks = [] ∧ t.att.digest = cfg.digest ∧
      s.att.leaf ≤ t.att.leaf ∧ s.att.rollback ≤ t.att.rollback ∧ t.chans = min 256 cfg.channels - cfg.badChannels ∧ t.att.pub = attPublic ∧
      (∀ i, i < 16 → (t.stations.getLsbD i = true ↔ i ∉ cfg.offStations)) ∧ ∀ c ∈ cfg.disabledCores, c < 64 → (t.core c).disabled = true)) ∧
    (∀ cfg, cfg.failStep ≠ 0 ∨ cfg.version < s.att.rollback → After (.bootSequence cfg) s (fun t =>
      t.bootstat.getLsbD 0 = false ∧ t.bootstat.extractLsb' 4 4 ≠ 0 ∧ s.att.leaf ≤ t.att.leaf ∧ s.att.rollback ≤ t.att.rollback)) ∧
    (∀ power tdie thbm, After (.clockStep power tdie thbm) s (fun t => t.therm.power = power ∧ t.therm.tdie = tdie ∧
      t.therm.thbm = thbm ∧ t.therm.limit = s.therm.limit ∧
      t.therm.clockMHz = (if s.therm.limit < power ∨ 105 ≤ tdie then max 1000 (s.therm.clockMHz - 100)
        else if power < s.therm.limit then min 2000 (s.therm.clockMHz + 100) else s.therm.clockMHz) ∧
      (s.therm.tdie < 105 → 105 ≤ tdie → t.notice.getLsbD 2 = true) ∧ (115 ≤ tdie → t.therm.shutdown = true))) ∧
    (∀ tdie, 115 ≤ tdie → After (.thermalShutdown tdie) s (fun t => t.therm.shutdown = true ∧ t.notice.getLsbD 2 = true ∧
      t.gangs = s.gangs)) ∧
    (∀ tdie, tdie < 115 → exec (.thermalShutdown tdie) s = .next s) ∧
    (∀ pa bytes, bootReady s = true → After (.hostMemoryWrite pa bytes) s (fun t =>
      t.mem = (writeHome s false ((stCells ((List.range bytes.length).map (fun i => physCell (pa + i))) bytes).filter
        (fun x => (placeOf s x.cell.pa).isSome))).mem ∧ t.gangs = s.gangs ∧ t.blocks = s.blocks)) ∧
    (∀ pa n, bootReady s = true → (∀ i, i < n → readAsleep s (pa + i) = false) → After (.hostMemoryRead pa n) s (fun t => t.mem = s.mem ∧
      t.hostRead = (List.range n).map (fun i => hostByte s (pa + i)))) ∧
    (∀ port, port < 2 → port ∉ s.cxlDown → After (.cxlLinkDown port) s (fun t => t.cxlDown = s.cxlDown ++ [port])) ∧
    (∀ v, After (.fabidWrite v) s (fun t => t = { s with fabid := t.fabid } ∧ t.fabid.extractLsb' 20 4 = v.extractLsb' 20 4 ∧
      t.fabid.getLsbD 10 = v.getLsbD 10 ∧
      t.fabid.extractLsb' 0 10 = if s.fabid.getLsbD 10 then s.fabid.extractLsb' 0 10 else v.extractLsb' 0 10))

/-- The machine after 8 bytes have been written at an offset of the register window. -/
def Sys2Proof.Claim.Writes (off : Nat) (v : W64) (s t : State) : Prop := exec (.registerWrite off (leBytes 8 v.toNat)) s = .next t

/-- R387, R389, R390, R391, R394: THE MANAGEMENT BLOCK. NOTICE clears the bits written 1; MCMD is ignored while its GO reads
1; ELOGCTL, the HEAD half of ELOGHEAD and 8 bytes of ATTNONCE (while GO is 0) take the value written, ATTCTL starts a report
where GO is written 1, and the read-only words and the words that the table does not list take nothing. -/
def Sys2Proof.Claim.managementRegisters : Prop :=
  ∀ (s : State) (v : W64),
    Writes 0x18 v s { s with notice := s.notice &&& ~~~(v.setWidth 5) } ∧
    (s.mcmd.getLsbD 0 = true → Writes 0x20 v s s) ∧
    (s.mcmd.getLsbD 0 = false → v.getLsbD 0 = false → Writes 0x20 v s { s with mcmd := v &&& 0xFFFFFFFF80000007 }) ∧
    (s.mcmd.getLsbD 0 = false → v.getLsbD 0 = true → Writes 0x20 v s (mcmdStart s (v &&& 0xFFFFFFFF80000007))) ∧
    Writes 0x28 v s { s with elog := { s.elog with ctl := v &&& 0xFFFFFFFFFFFFFF00 } } ∧
    Writes 0x30 v s { s with elog := { s.elog with head := v.extractLsb' 32 32 } } ∧
    exec (.registerWrite 0x100 (leBytes 8 v.toNat)) s = (if v.getLsbD 0 then exec .attestationRequest s else .next s) ∧
    (∀ k, k < 4 → s.att.go = true → Writes (0x140 + 8 * k) v s s) ∧
    (∀ k, k < 4 → s.att.go = false → ∃ t, Writes (0x140 + 8 * k) v s t ∧ t = { s with att := { s.att with nonce := t.att.nonce } } ∧
      ∀ i, i < s.att.nonce.length → t.att.nonce[i]? =
        if 8 * k ≤ i ∧ i < 8 * k + 8 then (leBytes 8 v.toNat)[i - 8 * k]? else s.att.nonce[i]?) ∧
    (∀ off, off % 8 = 0 → off < 0x18 ∨ 0x180 ≤ off ∧ off < 0x1C8 ∨ 0x1000 ≤ off ∧ off < 0x2000 → Writes off v s s) ∧
    (∀ off, off % 8 = 0 → 0x38 ≤ off ∧ off < 0x100 ∨ 0x108 ≤ off ∧ off < 0x140 ∨ 0x160 ≤ off ∧ off < 0x180 ∨
      0x1C8 ≤ off ∧ off < 0x1000 ∨ 0x2000 ≤ off ∧ off < 0x8000 → Writes off v s s)

/-- R314, R317, R343, R350, R368, R386, R397, R398: TABLES OF THE WINDOW. An entry takes the value written without its
reserved bits, and every other entry stays: the peer table, context records (the first word of a terminated context's record
makes the context live again, log 56), root registers, QCTL and QCTX. A write of QTAIL is the enqueue of a host, QHEAD is read only;
FABID, the reply, the invalidation address and KEYCTL have the effects of their rules. -/
def Sys2Proof.Claim.tableRegisters : Prop :=
  ∀ (s : State) (v : W64),
    exec (.registerWrite 0x8000 (leBytes 8 v.toNat)) s = exec (.fabidWrite v) s ∧
    (∀ k, k < 1024 → Writes (0x9000 + 8 * k) v s { s with peers := tabPut 0 s.peers k (v &&& 0xFFF003FF800003FF) }) ∧
    Writes 0x10000 v s (freplyWrite s v (BitVec.allOnes 64)) ∧
    Writes 0x10008 v s { s with invAddr := v &&& 0x1FFFFFFFFFFFFFF } ∧
    Writes 0x10010 v s (invctlWrite s v (BitVec.allOnes 64)) ∧
    (∀ a k, a < 2048 → k < 8 → ∃ t, Writes (0x100000 + 64 * a + 8 * k) v s t ∧
      t = { s with ctxs := t.ctxs, dead := t.dead, paused := t.paused } ∧
      (ctxRec t a).extractLsb' (64 * k) 64 = v ∧
      (∀ j, j < 8 → j ≠ k → (ctxRec t a).extractLsb' (64 * j) 64 = (ctxRec s a).extractLsb' (64 * j) 64) ∧
      (∀ b, b ≠ a → ctxRec t b = ctxRec s b) ∧
      t.dead = (if k = 0 ∧ tabGet false s.dead a = true then tabPut false s.dead a false else s.dead) ∧
      t.paused = (if k = 0 ∧ tabGet false s.dead a = true then tabPut false s.paused a false else s.paused)) ∧
    (∀ a, a < 2048 → Writes (0x200000 + 8 * a) v s { s with roots := tabPut 0 s.roots a (v &&& 0xFFFFFFFFFFE001) }) ∧
    (∀ a, a < 2048 → exec (.registerWrite (0x300000 + 128 * a) (leBytes 8 v.toNat)) s =
      (if v.extractLsb' 0 2 = 1#2 then exec (.keyInstall a (tabGet KeySt.reset s.keys a).key) s
       else if v.extractLsb' 0 2 = 2#2 then exec (.keyDestroy a) s else .next s)) ∧
    (∀ a k, a < 2048 → k < 8 → ∃ t, Writes (0x300000 + 128 * a + 8 + 8 * k) v s t ∧ t = { s with keys := t.keys } ∧
      (∀ b, b ≠ a → tabGet KeySt.reset t.keys b = tabGet KeySt.reset s.keys b) ∧
      tabGet KeySt.reset t.keys a =
        { tabGet KeySt.reset s.keys a with key := (tabGet KeySt.reset t.keys a).key } ∧
      (tabGet KeySt.reset t.keys a).key.extractLsb' (64 * k) 64 = v ∧
      (∀ j, j < 8 → j ≠ k → (tabGet KeySt.reset t.keys a).key.extractLsb' (64 * j) 64 =
        (tabGet KeySt.reset s.keys a).key.extractLsb' (64 * j) 64)) ∧
    (∀ q, q < 4096 → Writes (0x400000 + 32 * q) v s { s with qctl := tabPut qctlReset s.qctl q (v &&& 0xFFFFFFFFFFFFFFE1) }) ∧
    (∀ q, q < 4096 → Writes (0x400008 + 32 * q) v s { s with qctx := tabPut 0 s.qctx q (v &&& 0x7FF) }) ∧
    (∀ q, q < 4096 → exec (.registerWrite (0x400010 + 32 * q) (leBytes 8 v.toNat)) s = exec (.qtailWrite q (v.setWidth 32)) s) ∧
    (∀ q, q < 4096 → Writes (0x400018 + 32 * q) v s s)

/-- R317, R339, R340, R361, R362, R386: THE REGISTERS OF A DIE DOMAIN. Miss counters load the value written, two to a word;
SKPOL, the checkpoint regions and a ring's control word take it without their reserved bits, a ring's without bits 7:0 (log 56); a free ring's TAIL never runs
more than the ring's size ahead of its HEAD, the HEAD of the released ring is the consumer's, and the other counters take
nothing. -/
def Sys2Proof.Claim.domainRegisters : Prop :=
  ∀ (s : State) (v : W64) (d : Nat), d < 2 →
    let base := 0x800000 + 0x400000 * d
    (∀ i c, i < 68 → c = 0 ∨ c = 2 → Writes (base + 16 * i + 4 * c) v s { s with
      misses := tabPut 0 (tabPut 0 s.misses (missKey d i c) (v.setWidth 32)) (missKey d i c + 1) (v.extractLsb' 32 32) }) ∧
    Writes (base + 0x1000) v s { s with skpol := tabPut 0 s.skpol d (v &&& 0xFF) } ∧
    (∀ k, k < 16 → ∃ t, Writes (base + 0x2000 + 16 * k) v s t ∧ t = { s with regions := t.regions } ∧
      (tabGet 0 t.regions (16 * d + k)).extractLsb' 0 64 = v &&& 0xFFFFFFFFFFFF0001 ∧
      (tabGet 0 t.regions (16 * d + k)).extractLsb' 64 64 =
        (tabGet 0 s.regions (16 * d + k)).extractLsb' 64 64 &&& 0xFFFFFFFFFFFF0000 ∧
      ∀ j, j ≠ 16 * d + k → tabGet 0 t.regions j = tabGet 0 s.regions j) ∧
    (∀ k, k < 16 → ∃ t, Writes (base + 0x2008 + 16 * k) v s t ∧ t = { s with regions := t.regions } ∧
      (tabGet 0 t.regions (16 * d + k)).extractLsb' 64 64 = v &&& 0xFFFFFFFFFFFF0000 ∧
      (tabGet 0 t.regions (16 * d + k)).extractLsb' 0 64 =
        (tabGet 0 s.regions (16 * d + k)).extractLsb' 0 64 &&& 0xFFFFFFFFFFFF0001 ∧
      ∀ j, j ≠ 16 * d + k → tabGet 0 t.regions j = tabGet 0 s.regions j) ∧
    (∀ j, j < 7 → Writes (base + 0x3000 + 32 * j) v s { s with
      rings := tabPut 0 s.rings (ringKey d j 0) (v &&& 0xFFFFFFFFFFFFFF00) }) ∧
    (∀ j, j < 6 → Writes (base + 0x3008 + 32 * j) v s { s with
      rings := tabPut 0 s.rings (ringKey d j 1)
        ((if (ringOf s d j).size < (v.setWidth 32 - (ringOf s d j).head).toNat then
          (ringOf s d j).head + BitVec.ofNat 32 (ringOf s d j).size else v.setWidth 32).setWidth 64) }) ∧
    Writes (base + 0x3008 + 32 * 6) v s s ∧
    (∀ j, j < 6 → Writes (base + 0x3010 + 32 * j) v s s) ∧
    Writes (base + 0x3010 + 32 * 6) v s { s with rings := tabPut 0 s.rings (ringKey d 6 2) (v &&& 0xFFFFFFFF) } ∧
    (∀ off, off % 8 = 0 → 0x440 ≤ off ∧ off < 0x1000 ∨ 0x1008 ≤ off ∧ off < 0x2000 ∨ 0x2100 ≤ off ∧ off < 0x3000 ∨
      0x30E0 ≤ off ∧ off < 0x400000 ∨ 0x3000 ≤ off ∧ off < 0x30E0 ∧ off % 32 = 24 → Writes (base + off) v s s)

/-- R386: UNLISTED OFFSETS of the window ignore what is written. -/
def Sys2Proof.Claim.unlistedRegisters : Prop :=
  ∀ (s : State) (v : W64) (off : Nat), off % 8 = 0 →
    0x8008 ≤ off ∧ off < 0x9000 ∨ 0xB000 ≤ off ∧ off < 0x10000 ∨ 0x10018 ≤ off ∧ off < 0x100000 ∨
    0x120000 ≤ off ∧ off < 0x200000 ∨ 0x204000 ≤ off ∧ off < 0x300000 ∨
    0x300000 ≤ off ∧ off < 0x340000 ∧ 72 ≤ off % 128 ∨ 0x340000 ≤ off ∧ off < 0x400000 ∨
    0x420000 ≤ off ∧ off < 0x800000 ∨ 0x1000000 ≤ off → Writes off v s s

/-- R314, R317, R339, R340, R343, R350, R361, R362, R368, R386, R387, R391: A WRITE OF A WHOLE REGISTER through the window,
for every register of the window, has the effect of its own rule and changes nothing else. -/
def Obligations.RegisterWrites : Prop :=
  Sys2Proof.Claim.managementRegisters ∧ Sys2Proof.Claim.tableRegisters ∧ Sys2Proof.Claim.domainRegisters ∧
    Sys2Proof.Claim.unlistedRegisters

/-! ### Events of the fabric, of the gather units and of joins -/

namespace Sys2Proof.Claim
open Sys2Proof.Machine

/-- R399, R402: a write, an atomic or a barrier operation of another package that its target performs now, in a context and
at a place: the fabric and the station are in use, the reply caches let it in, its object accepts operations, and no stack in
self-refresh is in its way. -/
def admitted (s : State) (req : RemoteReq) (asid : Nat) (x : Xl) : Prop :=
  s.fabid.getLsbD 10 = true ∧ stationUp s req.station = true ∧ replyGate s req.src req.tag req.age req.station = none ∧
  peerStopped s req = false ∧ peerOf s req.src req.sasid = some asid ∧ peerHeld s asid req = false ∧
  peerAsleep s asid req = false ∧ peerXlate s asid req.va (bodyAccess req.body) = .ok x

/-- R402: its response, sent and kept under its source and tag. -/
def answersPeer (s t : State) (req : RemoteReq) (r : RemoteResp) : Prop :=
  t.outbox = s.outbox ++ [(req.src, r)] ∧ replyFor t req.src req.tag = some r

/-- The bytes that a part of a tile names, where it lies. -/
def partCells (req : RemoteReq) (x : Xl) : List StCell :=
  match req.body with
  | .tile _ _ _ _ bytes masks => peerCells x bytes masks
  | _ => []

end Sys2Proof.Claim

/-- R398 to R402: A TARGET with the fabric enabled answers a source that its peer table names in the peer context: a
translation with its leaf, and the source as a holder; a read with the bytes as they stand, poisoned data as such; a write
once, kept in the reply cache, whose entry answers a repeated one with nothing performed. An unnamed source is refused, and
the refusal kept; an operation on an object that has expired gets no response; a station out of use takes nothing. -/
def Sys2Proof.Claim.targetsAnswer : Prop :=
  ∀ (s : State), s.fabid.getLsbD 10 = true →
    (∀ acc sasid va, peerOf s acc sasid = none → exec (.remoteTranslationRequest acc sasid va) s =
      .next { s with outbox := s.outbox ++ [(acc, .fault 0x10)] }) ∧
    (∀ acc sasid va asid, peerOf s acc sasid = some asid → walkAsleep s asid va = false →
      (∀ c, peerLeaf s asid va = .error c → After (.remoteTranslationRequest acc sasid va) s (fun t =>
        unasked s t = { s with outbox := s.outbox ++ [(acc, .fault c)] })) ∧
      (∀ l, peerLeaf s asid va = .ok l → After (.remoteTranslationRequest acc sasid va) s (fun t =>
        unasked s t = { s with outbox := t.outbox, holders := t.holders } ∧
        (asid, acc) ∈ t.holders ∧ (∀ h ∈ s.holders, h ∈ t.holders) ∧
        t.outbox = s.outbox ++ [(acc, .leaf ((globalLocal (entAddr l.entry) + (va - l.base)) / 65536) (entFmt l.entry)
          (entBlk l.entry) (entR l.entry) (entW l.entry) (entX l.entry))]))) ∧
    (∀ (req : RemoteReq) n asid, req.body = .read n → peerOf s req.src req.sasid = some asid →
      stationUp s req.station = true → walkAsleep s asid req.va = false →
      (∀ c, peerXlate s asid req.va .read = .error c → After (.remoteReadArrival req) s (fun t =>
        unasked s t = { s with outbox := s.outbox ++ [(req.src, .fault c)] })) ∧
      (∀ x, peerXlate s asid req.va .read = .ok x → (∀ c ∈ x.cells n, readAsleep s c.pa = false) →
        After (.remoteReadArrival req) s (fun t => t.mem = s.mem ∧ t.outbox = s.outbox ++
          [(req.src, if (x.cells n).any (fun c => (readHome s c).2) then .poison
            else .data ((x.cells n).map (fun c => (readHome s c).1)))]))) ∧
    (∀ (req : RemoteReq) gang asid x, req.body = .status gang → peerOf s req.src req.sasid = some asid →
      stationUp s req.station = true → peerStopped s req = false → peerHeld s asid req = false →
      peerXlate s asid req.va .read = .ok x → After (.remoteReadArrival req) s (fun t =>
        unasked s t = { s with outbox := s.outbox ++ [(req.src, .status (BitVec.ofNat 64 (statusOf s x.cell)))] })) ∧
    (∀ (req : RemoteReq) bytes masks asid x, req.body = .write bytes masks → admitted s req asid x →
      After (.remoteWriteArrival req) s (fun t => t.mem = (writeHome s false (peerCells x bytes masks)).mem ∧
        answersPeer s t req .ack)) ∧
    (∀ (req : RemoteReq) r, stationUp s req.station = true → replyGate s req.src req.tag req.age req.station = some r →
      exec (.remoteWriteArrival req) s = .next { s with outbox := s.outbox ++ [(req.src, r)] }) ∧
    (∀ (req : RemoteReq), peerStopped s req = true → replyGate s req.src req.tag req.age req.station = none →
      exec (.remoteWriteArrival req) s = .next s) ∧
    (∀ (req : RemoteReq), stationUp s req.station = false →
      exec (.remoteWriteArrival req) s = .next s ∧ exec (.remoteReadArrival req) s = .next s) ∧
    (∀ (req : RemoteReq), stationUp s req.station = true → peerOf s req.src req.sasid = none →
      replyGate s req.src req.tag req.age req.station = none → After (.remoteWriteArrival req) s (fun t =>
        t.mem = s.mem ∧ answersPeer s t req (.fault 0x10))) ∧
    (∀ (req : RemoteReq) asid c, stationUp s req.station = true → peerOf s req.src req.sasid = some asid →
      replyGate s req.src req.tag req.age req.station = none → peerStopped s req = false → peerHeld s asid req = false →
      peerAsleep s asid req = false → tileKeyOf req = none → peerXlate s asid req.va (bodyAccess req.body) = .error c →
      After (.remoteWriteArrival req) s (fun t => t.mem = s.mem ∧ answersPeer s t req (.fault c))) ∧
    (∀ acc kind asid va, After (.remoteInvalidation acc kind asid va) s (fun t =>
      t.rtc = s.rtc.filter (fun r => !(rtcMatch acc kind asid va r)) ∧ t.mem = s.mem ∧
      t.outbox = s.outbox ++ (if s.remOut.any (usesRtc acc kind asid) then [] else [(acc, .ack)])))

/-- R216, R400, R402: ATOMICS AND TILES of another package. A lane's atomic reads the old value at home, writes the new one
there and answers with the old one; poisoned data is told of and not written. A part of a tile is kept without a response
until the last has come: then all bytes become visible, the version words after them, and every part is answered (the parts are
log 55, DEDUCED). -/
def Sys2Proof.Claim.targetsPerform : Prop :=
  (∀ (s : State) (req : RemoteReq) asid x aop size lanes, req.body = .atomic aop size lanes → admitted s req asid x →
    let cs := x.cells (sizeBytes size);
    let old : BitVec 128 := BitVec.ofNat 128 (leValue (cs.map (fun c => (readSource s c).1)));
    (cs.any (fun c => (readSource s c).2) = true → After (.remoteWriteArrival req) s (fun t =>
      t.mem = s.mem ∧ answersPeer s t req .poison)) ∧
    (cs.any (fun c => (readSource s c).2) = false →
      (∀ l, lanes = [l] → After (.remoteWriteArrival req) s (fun t =>
        t.mem = (if aop = .ld then s.mem
          else (writeHome s true (stCells cs (leBytes (sizeBytes size) (atomNew aop size old l.1 l.2).1.toNat))).mem) ∧
        answersPeer s t req (.old [(old, (atomNew aop size old l.1 l.2).2)]))) ∧
      (∀ l ls, lanes = l :: ls → After (.remoteWriteArrival req) s (fun t => ∃ olds, olds.length = ls.length ∧
        answersPeer s t req (.old ((old, (atomNew aop size old l.1 l.2).2) :: olds)))))) ∧
  (∀ (s : State) (req : RemoteReq) asid x block unit parts vers bytes masks, req.body = .tile block unit parts vers bytes masks →
    admitted s req asid x →
    let s1 := askWalks s fabricUnit false asid [req.va];
    let mine := fun (p : PeerTile) => p.src == req.src && p.sasid == req.sasid && p.block == block && p.unit == unit;
    let old := (((liveTiles s).find? mine).map (·.parts)).getD [];
    let all := old ++ [(req, s.now - 1000 * req.age)];
    let reqs := all.map (·.1);
    (∀ p ∈ old, ¬(p.1.tag = req.tag ∧ p.1.va = req.va)) → (∃ y, peerXlate s1 asid req.va .write = .ok y) →
    (all.length < parts → After (.remoteWriteArrival req) s (fun t =>
      unasked s t = { s with peerTiles := t.peerTiles } ∧
      t.peerTiles = (liveTiles s).filter (fun p => !(mine p)) ++ [⟨req.src, req.sasid, asid, block, unit, all⟩])) ∧
    (parts ≤ all.length → ∀ (place : RemoteReq → Xl) (vs : List Xl),
      (∀ r ∈ reqs, peerXlate s1 asid r.va .write = .ok (place r)) →
      (reqs.flatMap tileVers).eraseDups.map (fun v => peerXlate s1 asid v .write) = vs.map .ok →
      (∀ r ∈ reqs, (tileKeyOf r).isSome = true) →
      After (.remoteWriteArrival req) s (fun t =>
        t.mem = ((vs.map (·.cell)).foldl drainVersion (writeHome s1 false (reqs.flatMap (fun r => partCells r (place r))))).mem ∧
        t.peerTiles = (liveTiles s).filter (fun p => !(mine p)) ∧
        t.outbox = s.outbox ++ reqs.map (fun r => (r.src, .ack))))) ∧
  (∀ (s : State) (req : RemoteReq) asid x block unit parts vers bytes masks, req.body = .tile block unit parts vers bytes masks →
    admitted s req asid x → (∃ p ∈ liveTiles s, p.src = req.src ∧ p.sasid = req.sasid ∧ p.block = block ∧ p.unit = unit ∧
      (∀ q ∈ liveTiles s, q.src = req.src → q.sasid = req.sasid → q.block = block → q.unit = unit → q = p) ∧
      ∃ y ∈ p.parts, y.1.tag = req.tag ∧ y.1.va = req.va) → After (.remoteWriteArrival req) s (fun t =>
        unasked s t = { s with peerTiles := liveTiles s }))

/-- R295 to R299, R302, R305, R404: BARRIER OBJECTS SERVED FOR OTHER PACKAGES. An arrival counts and is answered with its
phase; the one that makes EXPECT releases the phase, and every package with a wait on it is told; at an object that is not
live it is refused. A wait on the present phase is acknowledged and kept; another is answered with the status at once. A
withdrawal takes back a block's arrivals and waits; an initialisation writes the image, unless somebody waits. -/
def Sys2Proof.Claim.targetsServeBarriers : Prop :=
  ∀ (s : State) (req : RemoteReq) asid (x : Xl), admitted s req asid x →
    let pa := x.cell.pa;
    let who := (req.src, req.sasid, req.va);
    let joined := fun (o : BarObj) => if o.senders.contains who then o.senders else o.senders ++ [who];
    (∀ block gang, req.body = .arrive block gang →
      (barLive s pa = false → After (.remoteWriteArrival req) s (fun t =>
        t.mem = s.mem ∧ t.bars = s.bars ∧ answersPeer s t req (.fault 0x31))) ∧
      (∀ o, s.bar? pa = some o → o.valid = true →
        (o.count + 1 ≠ o.expect → After (.remoteWriteArrival req) s (fun t =>
          unasked s t = { s with bars := t.bars, outbox := t.outbox, replies := t.replies } ∧
          t.bar? pa = some { o with
            senders := joined o, count := o.count + 1, last := 0, arrivals := o.arrivals ++ [(req.src + 1, block, gang)]
            start := if o.count = 0 ∧ o.start = 0 then s.now else o.start } ∧
          answersPeer s t req (.status (BitVec.ofNat 64 o.phase.toNat)))) ∧
        (o.count + 1 = o.expect → (∀ w ∈ o.waiters, ∀ g, s.gang? w.1 = some g → gangMarked s g = false) →
          After (.remoteWriteArrival req) s (fun t =>
            (∃ y, t.bar? pa = some y ∧ y.phase = o.phase + 1 ∧ y.count = 0 ∧ y.start = 0 ∧ y.arrivals = [] ∧ y.senders = []) ∧
            (∀ w ∈ o.remote, w.phase ≠ o.phase + 1 → (w.src, RemoteResp.released w.sasid w.va (o.phase + 1)) ∈ t.outbox) ∧
            (∀ w ∈ o.waiters, w.2.2 ≠ o.phase + 1 → ∀ g, s.gang? w.1 = some g →
              gangIn t w.1 (fun g' => ∀ y ∈ g'.out, y.id = w.2.1 → y.arrived = true)) ∧
            replyFor t req.src req.tag = some (.status (BitVec.ofNat 64 o.phase.toNat)))))) ∧
    (∀ block gang phase, req.body = .wait block gang phase →
      (∀ o, s.bar? pa = some o → o.valid = true → o.phase = phase → After (.remoteWriteArrival req) s (fun t =>
        t.mem = s.mem ∧ answersPeer s t req .ack ∧ ∃ o', t.bar? pa = some o' ∧
          o' = { o with senders := joined o, start := if o.start = 0 then s.now else o.start, remote := o'.remote } ∧
          (⟨req.src, req.sasid, req.va, block, phase⟩ : PeerWait) ∈ o'.remote ∧ ∀ w ∈ o.remote, w ∈ o'.remote)) ∧
      ((∀ o, s.bar? pa = some o → o.valid = false ∨ o.phase ≠ phase) →
        ∃ s1, unasked s s1 = s ∧ After (.remoteWriteArrival req) s (fun t => t.mem = s.mem ∧ t.bars = s.bars ∧
          answersPeer s t req (.status (BitVec.ofNat 64 (statusOf s1 x.cell)))))) ∧
    (∀ block, req.body = .withdraw block → After (.remoteWriteArrival req) s (fun t =>
      t.mem = s.mem ∧ answersPeer s t req .ack ∧ ∀ o, s.bar? pa = some o → ∃ o', t.bar? pa = some o' ∧
        o' = { o with count := o'.count, arrivals := o'.arrivals, remote := o'.remote } ∧
        (∀ a, a ∈ o'.arrivals ↔ a ∈ o.arrivals ∧ ¬(a.1 = req.src + 1 ∧ a.2.1 = block)) ∧
        (∀ w, w ∈ o'.remote ↔ w ∈ o.remote ∧ ¬(w.src = req.src ∧ w.block = block)) ∧
        (o.arrivals.length = o.count → o'.count = o'.arrivals.length))) ∧
    (∀ gang arg, req.body = .init gang arg →
      (∀ o, s.bar? pa = some o → o.valid = true → o.waiters ≠ [] ∨ o.remote ≠ [] → After (.remoteWriteArrival req) s (fun t =>
        t.mem = s.mem ∧ t.bars = s.bars ∧ answersPeer s t req (.fault 0x31))) ∧
      (bitsOf arg.toNat 31 24 ≠ 0 → After (.remoteWriteArrival req) s (fun t =>
        t.mem = s.mem ∧ t.bars = s.bars ∧ answersPeer s t req (.fault 0x31))) ∧
      (bitsOf arg.toNat 31 24 = 0 → bitsOf arg.toNat 23 0 ≠ 0 →
        (∀ o, s.bar? pa = some o → o.valid = true → o.waiters = [] ∧ o.remote = []) →
        After (.remoteWriteArrival req) s (fun t => answersPeer s t req .ack ∧ ∃ o', t.bar? pa = some o' ∧
          o'.cell = x.cell ∧ o'.va = req.va ∧ o'.asid = asid ∧ o'.scope = x.scope ∧ o'.expect = bitsOf arg.toNat 23 0 ∧
          o'.count = 0 ∧ o'.phase = 0 ∧ o'.start = 0 ∧ o'.valid = true ∧ o'.expired = false ∧ o'.arrivals = [] ∧
          o'.timeout = (if bitsOf arg.toNat 63 32 = 0 then 2000 else bitsOf arg.toNat 63 32) ∧
          t.mem = (writeHome s false (stCells (barCells x.cell) (leBytes 64 (barImage o')))).mem)) ∧
      (bitsOf arg.toNat 31 24 = 0 → bitsOf arg.toNat 23 0 = 0 →
        (∀ o, s.bar? pa = some o → o.valid = true → o.waiters = [] ∧ o.remote = []) →
        After (.remoteWriteArrival req) s (fun t => answersPeer s t req .ack ∧ t.bar? pa = none)))

/-- R216, R295 to R299, R302, R305, R398 to R402, R404: WHAT A TARGET DOES WITH THE REQUESTS OF OTHER PACKAGES. -/
def Obligations.TargetsServe : Prop :=
  Sys2Proof.Claim.targetsAnswer ∧ Sys2Proof.Claim.targetsPerform ∧ Sys2Proof.Claim.targetsServeBarriers

namespace Sys2Proof.Claim
open Sys2Proof.Machine

/-- R400, R403, R414: A REQUEST ENDS BADLY with a cause and a detail. The lanes that wait for a load, an atomic or a barrier
operation get a deferred record and no result; a write leaves its commit, with a record of no lane at the lowest address; a
translation is kept as failed; a sub-request fails its positions. A launch whose completion could not be written is over all
the same (log 37). -/
def endsWith (s t : State) (r : RemOut) (cause detail : Nat) : Prop :=
  t.remOut = s.remOut.filter (fun x => x.tag != r.tag) ∧
  (∀ u oid g o q, r.kind = .load u oid → s.gang? u = some g → loadOf g oid = some (o, q) → o.blocks = true →
    t.mem = s.mem ∧ gangIn t u (fun g' => g'.regs = g.regs ∧
      ∃ d ∈ g'.deferred, d.req.cause = cause ∧ d.req.detail = detail ∧ d.req.pc = o.pc ∧ d.lanes = q.lanes)) ∧
  (∀ core asid va target, r.kind = .trans core asid va target → t.mem = s.mem ∧
    (⟨asid, va / 65536, target, 0, 0, false, false, false, cause, detail⟩ : RtcEntry) ∈ t.rtc) ∧
  (∀ u n c g, r.kind = .scale u n c → s.gang? u = some g → g.replays = n →
    gangIn t u (fun g' => g' = { g with scales := g.scales ++ [⟨c.pa, 0, cause, detail⟩] })) ∧
  (∀ u c vers parts cells b e, r.kind = .write u c vers parts cells → s.block? u = some b → e ∈ cells →
    (∀ e' ∈ cells, e.cell.va ≤ e'.cell.va) → t.mem = s.mem ∧
    blockIn t u (fun b' => ∀ x ∈ b'.pipeline, x.id = c → r.tag ∉ x.tags) ∧
    ∃ f ∈ t.faultQ, f.cause = cause ∧ f.detail = detail ∧ f.deferred = true ∧ f.lanes = 0 ∧ f.pc = b.lastPc ∧
      f.addr = BitVec.ofNat 64 e.cell.va ∧ f.buid = some u) ∧
  (∀ u oid lane g h a x, r.kind = .atom u oid lane → s.gang? u = some g → g.relq = [h] → h.eff = .atom a → a.oid = oid →
    a.lanes = [x] → atomLane a lane = some x → t.mem = s.mem ∧ gangIn t u (fun g' => g'.relq = [] ∧
      g'.out = arrived g oid [] ∧ ∃ d ∈ g'.deferred, d.req.cause = cause ∧ d.req.detail = detail ∧ d.req.pc = h.pc ∧
        d.lanes = (x.lane.map laneBit).getD h.lanes)) ∧
  (∀ u oid wait lanes pc va g, r.kind = .barrier u oid wait lanes pc va → s.gang? u = some g → t.mem = s.mem ∧
    (∀ o ∈ t.bars, ∀ w ∈ o.waiters, w.1 = u → w.2.1 ≠ oid) ∧
    gangIn t u (fun g' => g'.out = arrived g oid [] ∧ ∃ d ∈ g'.deferred, d.req.cause = cause ∧ d.req.detail = detail ∧
      d.req.pc = pc ∧ d.req.addr = BitVec.ofNat 64 va ∧ d.lanes = lanes)) ∧
  (∀ op pkg packet g, r.kind = .sub op pkg packet → s.gath? op = some g → t.mem = s.mem ∧
    t.gath? op = some { g with entries := g.entries.map (fun e =>
      if e.answered = false ∧ e.pkg = pkg then { e with cause := cause, answered := true } else e) }) ∧
  (∀ id cells bytes l, r.kind = .compl id cells bytes → s.launch? id = some l → l.depid = 0xFFFFFFFF →
    t.launches = s.launches.filter (fun x => x.id != id))

end Sys2Proof.Claim

/-- R399 to R404: A SOURCE. A response ends its request: the bytes of a load stand ready (what has come is kept, log 64), a
translation enters the cache, a write leaves its commit, an atomic delivers the old value, a barrier operation its status, an
acknowledged completion ends its launch (log 37); BUSY is kept for a retry after 5 µs; a refusal or stale-tag ends it badly.
A request without a response goes again after 20 µs under its tag; at AGE 1,000, or where the fabric was off, it ends with
remote timeout. -/
def Obligations.SourcesComplete : Prop :=
  ∀ (s : State) (tag : Nat) (r : RemOut), s.remOut.find? (fun x => x.tag == tag) = some r →
    (∀ x ∈ s.remOut, x.hasTag = true) →
    let left := s.remOut.filter (fun x => x.tag != tag);
    (r.station ≠ noStation →
    (∀ u oid g bs, r.kind = .load u oid → s.gang? u = some g → After (.remoteResponse tag (.data bs)) s (fun t =>
      t.remOut = left ∧ t.mem = s.mem ∧ gangIn t u (fun g' => g'.regs = g.regs ∧
        ∀ (i : Nat) (o : Outst) (q : LoadReq), g.out[i]? = some o → o.id = oid → o.kind = .load q →
          ∃ (o' : Outst) (q' : LoadReq), g'.out[i]? = some o' ∧ o'.kind = .load q' ∧
            q'.redo = false ∧ q'.part = if q.redo then q.part else
              q.part ++ ((q.asks r.target).zip bs).map (fun p => (p.1.pa, p.2))))) ∧
    (∀ u oid g o q b, r.kind = .load u oid → s.gang? u = some g → s.blockOf g = some b → loadOf g oid = some (o, q) →
      o.blocks = true → After (.remoteResponse tag .poison) s (fun t => t.remOut = left ∧ t.mem = s.mem ∧
        blockIn t b.uid (fun b' => b'.consumption ≠ []) ∧
        gangIn t u (fun g' => ∃ d ∈ g'.deferred, d.lanes = q.lanes ∧ d.req.cause = 0x19))) ∧
    (∀ u n c g x xs, r.kind = .scale u n c → s.gang? u = some g → g.replays = n →
      After (.remoteResponse tag (.data (x :: xs))) s (fun t => t.remOut = left ∧
        gangIn t u (fun g' => g' = { g with scales := g.scales ++ [⟨c.pa, x, 0, 0⟩] }))) ∧
    (∀ core asid va target frame fmt blk rd wr ex, r.kind = .trans core asid va target →
      After (.remoteResponse tag (.leaf frame fmt blk rd wr ex)) s (fun t => t.remOut = left ∧
        (⟨asid, va / 65536, target, fmt, blk, rd, wr, ex, 0, 0⟩ : RtcEntry) ∈ t.rtc)) ∧
    (∀ u c vers parts cells b, r.kind = .write u c vers parts cells → s.block? u = some b → r.tag = tag → After (.remoteResponse tag .ack) s (fun t =>
      t.remOut = left ∧ blockIn t u (fun b' => ∀ x ∈ b'.pipeline, x.id = c → tag ∉ x.tags))) ∧
    (∀ u oid lane g h a x, r.kind = .atom u oid lane → s.gang? u = some g → g.relq = [h] → h.eff = .atom a → a.oid = oid →
      a.lanes = [x] → atomLane a lane = some x →
      (∀ y ys, a.acq = false → After (.remoteResponse tag (.old (y :: ys))) s (fun t => t.remOut = left ∧ t.mem = s.mem ∧
        gangIn t u (fun g' => g'.relq = [] ∧ g'.out = arrived g oid (atomEffs a
          ((g.out.find? (fun o => o.id == oid)).getD Outst.absent) x (leBytes (sizeBytes a.size) y.1.toNat) y.2)))) ∧
      (∀ b, s.blockOf g = some b → After (.remoteResponse tag .poison) s (fun t => t.remOut = left ∧ t.mem = s.mem ∧
        blockIn t b.uid (fun b' => b'.consumption ≠ []) ∧
        gangIn t u (fun g' => g'.out = arrived g oid [] ∧ ∃ d ∈ g'.deferred, d.req.cause = 0x19)))) ∧
    (∀ u oid wait lanes pc va g, r.kind = .barrier u oid wait lanes pc va → s.gang? u = some g →
      (∀ x, After (.remoteResponse tag (.status x)) s (fun t => t.remOut = left ∧ t.mem = s.mem ∧
        (∀ o ∈ t.bars, ∀ w ∈ o.waiters, w.1 = u → w.2.1 ≠ oid) ∧
        gangIn t u (fun g' => g' = g.arrive oid (gangEffs (g.ordOf oid) (waitDst g oid) x.toNat)))) ∧
      (wait = true → exec (.remoteResponse tag .ack) s = .next { s with remOut := left }) ∧
      (wait = false → After (.remoteResponse tag .ack) s (fun t => t = { s with remOut := left, gangs := t.gangs } ∧
        gangIn t u (fun g' => g' = g.arrive oid [])))) ∧
    After (.remoteResponse tag .staleTag) s (fun t => endsWith s t r 0x50 r.station) ∧
    After (.remoteResponse tag (.fault 0x31)) s (fun t => endsWith s t r 0x31 0) ∧
    (∀ c, c ≠ 0x31 → After (.remoteResponse tag (.fault c)) s (fun t => endsWith s t r 0x51 c)) ∧
    After (.remoteResponse tag .busy) s (fun t => t.remOut =
      s.remOut.map (fun x => if x.tag = tag then { x with busy := true, lastNs := s.now } else x)) ∧
    (∀ id cells bytes l, r.kind = .compl id cells bytes → s.launch? id = some l → l.depid = 0xFFFFFFFF →
      After (.remoteResponse tag .ack) s (fun t => t.remOut = left ∧ t.mem = s.mem ∧
        t.launches = s.launches.filter (fun x => x.id != id))) ∧
    (∀ station, stationUp s station = true → s.fabid.getLsbD 10 = true → r.kind ≠ .cancelled → r.busy = false →
      r.lastNs + 20000 ≤ s.now → remAge s r < 180 → After (.remoteRetransmit tag station) s (fun t =>
      t = { s with remOut := t.remOut } ∧
      t.remOut.find? (fun x => x.tag == tag) = 
        some { r with lastNs := s.now, station := station, kind := r.kind.repack (fun p => reagePacket p (remAge s r)) })) ∧
    (∀ station, stationUp s station = false ∨ s.now < r.lastNs + 20000 ∧ (∀ x ∈ s.remOut, x.tag = tag → x = r) →
      exec (.remoteRetransmit tag station) s = .next s) ∧
    (r.busy = true → s.fabid.getLsbD 10 = true → stationUp s r.station = true → r.kind ≠ .cancelled →
      r.lastNs + 5000 ≤ s.now → remAge s r < 180 → After (.remoteBusyRetry tag) s (fun t =>
      t = { s with remOut := t.remOut } ∧
      t.remOut.find? (fun x => x.tag == tag) = 
        some { r with busy := false, lastNs := s.now, kind := r.kind.repack (fun p => reagePacket p (remAge s r)) })) ∧
    (r.kind = .cancelled → (∀ x ∈ s.remOut, x.tag = tag → x = r) →
      (∀ station, exec (.remoteRetransmit tag station) s = .next s) ∧ exec (.remoteBusyRetry tag) s = .next s) ∧
    (remAge s r < 1000 → exec (.remoteTimeout tag) s = .next s)) ∧
    (1000 ≤ remAge s r ∨ r.station = noStation → After (.remoteTimeout tag) s (fun t => endsWith s t r 0x52 r.station))

/-- R408, R409, R417: AN INDEX-VECTOR REQUEST IS ACCEPTED with its descriptor, lists and source rows as scratchpad holds
them. One whose descriptor offends fails whole, its DETAIL the lowest offending field (log 52). A SCAD enters its block's
store buffer as it is accepted (log 52), under a forced commit first where it would pass the limit. -/
def Sys2Proof.Claim.requestsAreAccepted : Prop :=
  (∀ (s : State) (core i u off oid o : Nat) (h : HeldItem) (g : Gang) (b : Block) (scad : Bool),
    (s.core core).gathQ[i]? = some (u, h) → s.gang? u = some g → s.blockOf g = some b → g.core = core →
    h.eff = .gath scad off oid → (∀ e ∈ (s.core core).gathQ.take i, e.1 ≠ u) → writesBefore g h.ord = false →
    gathAsleep s g b off = false → (∀ x ∈ s.gaths, x.id < s.nextOp) →
    let pos := b.posOf core;
    let d : BitVec 512 := BitVec.ofNat 512 (leValue (scratchBytes b pos off 64));
    let segs := if gPool d = 0 then [] else valuesOf b pos (16 * gSeg d) (gNseg d) 2;
    gathBad scad d segs = some o → After (.gatherAccept core i) s (fun t => t.mem = s.mem ∧ t.nextOp = s.nextOp + 1 ∧
      (∃ more, (t.core core).gathQ = (s.core core).gathQ.eraseIdx i ++ more) ∧
      gangIn t u (fun g' => ∀ x ∈ g'.out, x.id = oid → x.arrived = true) ∧
      ∃ q, t.gaths = s.gaths ++ [q] ∧ q.id = s.nextOp ∧ q.gang = u ∧ q.desc = d ∧ q.segs = segs ∧ q.phase = .folded ∧
        q.cause = 0x53 ∧ q.detail ≤ o ∧
        (∀ bs, recFind (s.core core) b.asid (gTrec d) = some bs → shapeBad (gTrec d) (shapeNat bs) true = none →
          q.detail = (gathShapeBad d (shapeNat bs)).elim o (min o)))) ∧
  (∀ (s : State) (core i u off oid : Nat) (h : HeldItem) (g : Gang) (b : Block) (scad : Bool) (bs : List Byte),
    (s.core core).gathQ[i]? = some (u, h) → s.gang? u = some g → s.blockOf g = some b → g.core = core →
    h.eff = .gath scad off oid → (∀ e ∈ (s.core core).gathQ.take i, e.1 ≠ u) → writesBefore g h.ord = false →
    gathAsleep s g b off = false → (∀ x ∈ s.gaths, x.id < s.nextOp) → (∀ k ∈ b.scads, k < s.nextOp) →
    let pos := b.posOf core;
    let d : BitVec 512 := BitVec.ofNat 512 (leValue (scratchBytes b pos off 64));
    let segs := if gPool d = 0 then [] else valuesOf b pos (16 * gSeg d) (gNseg d) 2;
    let rows := if scad then (List.range (gNidx d)).map (fun p =>
      (scratchBytes b pos (gDst d + gDstr d * p) (gDstr d)).take (tileRow d (shapeNat bs))) else [];
    let use := bufferUse s b [] + (rows.map (·.length)).foldl (· + ·) 0;
    gathBad scad d segs = none → recFind (s.core core) b.asid (gTrec d) = some bs →
    shapeBad (gTrec d) (shapeNat bs) true = none → gathTableOk scad d (shapeNat bs) = true →
    gathShapeBad d (shapeNat bs) = none → After (.gatherAccept core i) s (fun t => t.mem = s.mem ∧
      gangIn t u (fun g' => ∀ x ∈ g'.out, x.id = oid → x.arrived = true) ∧
      (∃ q ∈ t.gaths, q.id = s.nextOp ∧ q.desc = d ∧ q.scad = scad ∧ q.phase = .accepted ∧ q.cause = 0 ∧ q.shape = bs ∧
        q.rows = rows ∧ q.idxs = valuesOf b pos (gIdx d) (gNidx d) 4) ∧
      (scad = true → use ≤ b.limit → blockIn t b.uid (fun b' => b'.scads = b.scads ++ [s.nextOp] ∧ b'.commits = b.commits)) ∧
      (scad = true → b.limit < use → blockIn t b.uid (fun b' => b'.scads = [s.nextOp] ∧ b'.commits = b.commits + 1 ∧
        b'.forced = true))))

/-- R411: THE FOLD. There is one entry for each row and segment, in the order of their first positions, each with its positions
ascending; a row beyond the table has failed; each other entry names the package of its row. A package with rows gets its
sub-request, with the fabric off none: its rows fail. A SCAD waits for its block's commit. -/
def Sys2Proof.Claim.requestsFold : Prop :=
  ∀ (s : State) (op : Nat) (g : GathOp), s.gath? op = some g → g.phase = .accepted → g.shape ≠ [] →
    let v := shapeNat g.shape;
    let sg := fun p => if gPool g.desc = 0 then 0 else segOf g.segs p;
    (g.scad = true → scadTurn s g = false → exec (.sluiceFold op) s = .next s) ∧
    ((g.scad = true → scadTurn s g = true) → After (.sluiceFold op) s (fun t => t.mem = s.mem ∧
      ∃ g', t.gath? op = some g' ∧ g'.phase = .folded ∧ g'.idxs = g.idxs ∧
      (g'.entries.map (fun e => (e.row, e.seg))).Nodup ∧
      (g'.entries.map (fun e => (e.positions.head?).getD 0)).Pairwise (· < ·) ∧
      (∀ p, p < g.idxs.length → ∃ e ∈ g'.entries, p ∈ e.positions) ∧
      (∀ e ∈ g'.entries, e.positions ≠ [] ∧ e.positions.Pairwise (· < ·) ∧ e.reply = none ∧
        (∀ p, p ∈ e.positions ↔ p < g.idxs.length ∧ g.idxs.getD p 0 = e.row ∧ sg p = e.seg) ∧
        (shDim v 1 ≤ e.row → e.cause = 0x12 ∧ e.answered = true) ∧
        (e.row < shDim v 1 → e.pkg = rowPkg s v e.row ∧
          (s.fabid.getLsbD 10 = false ∧ e.pkg ≠ accelId s → e.cause = 0x52 ∧ e.answered = true) ∧
          (s.fabid.getLsbD 10 = true ∨ e.pkg = accelId s → e.cause = 0 ∧ e.answered = false)) ∧
        (e.answered = false →
          if e.pkg = accelId s then ∃ x ∈ t.subs, x.own = some op ∧ x.peer = g.asid ∧
            x.req.entries.map (·.row) = (g'.entries.filter (fun y => !y.answered && y.pkg == e.pkg)).map (·.row)
          else ∃ r ∈ t.remOut, ∃ packet, r.kind = .sub op e.pkg packet ∧ r.target = e.pkg))))

/-- R398, R402, R410, R413, R416: SUB-REQUESTS AND ROW ENGINES. A sub-request is taken in its peer context, once for a SCAD. A
row engine reads a row, or applies all adds of a row as one step in the order of the positions, each rounded; a row that
cannot be reached fails with its cause, a poisoned one with 0x17. With the last row the reply goes back, that of a SCAD is
kept. A reply carries the row's bytes, or for a pool its values, taken as often as positions name them, and which infinities
are among them. -/
def Sys2Proof.Claim.rowEnginesServe : Prop :=
  (∀ (s : State) (sub : SubRequest), s.fabid.getLsbD 10 = true → stationUp s sub.station = true →
    let here := s.subs.any (fun x => x.own.isNone && x.req.sacc == sub.sacc && x.req.tag == sub.tag);
    let gate := replyGate s sub.sacc sub.tag sub.age sub.station;
    (∀ asid, sub.entries ≠ [] → (sub.scad = true → here = false ∧ gate = none) → peerOf s sub.sacc sub.sasid = some asid →
      After (.subrequestReceive sub) s (fun t =>
        t = { s with subs := t.subs, nextOp := s.nextOp + 1 } ∧ ∃ x, t.subs = s.subs ++ [x] ∧ x.id = s.nextOp ∧ x.own = none ∧
          x.peer = asid ∧ x.req = { sub with flat := false } ∧ x.left = List.range sub.entries.length ∧ x.done = [])) ∧
    (sub.scad = true → here = true → exec (.subrequestReceive sub) s = .next s) ∧
    (∀ r, sub.scad = true → here = false → gate = some r → exec (.subrequestReceive sub) s =
      .next { s with outbox := s.outbox ++ [(sub.sacc, r)] }) ∧
    (sub.scad = false → peerOf s sub.sacc sub.sasid = none → exec (.subrequestReceive sub) s =
      .next { s with outbox := s.outbox ++ [(sub.sacc, .fault 0x10)] })) ∧
  (∀ (s : State) (sub i : Nat) (x : SubOp) (e : SubEntry) (cs ks : List Cell), s.subs.find? (fun y => y.id == sub) = some x →
    x.req.entries[i]? = some e → i ∈ x.left → (∃ j ∈ x.left, j ≠ i) → x.own = none →
    (x.req.scad = false → rowFind s x.peer .read x.req e.row = .ok (cs, ks) → (cs ++ ks).any (poisoned s) = false →
      rowAsleep s x .read e = false →
      After (.rillRowRead sub i) s (fun t => t.mem = s.mem ∧ t.subs.find? (fun y => y.id == sub) =
        some { x with
          left := x.left.filter (· != i)
          done := x.done ++ [rowReply x.req e (cs.map (fun c => (readHome s c).1)) (ks.map (fun c => (readHome s c).1))] })) ∧
    (x.req.scad = true → rowFind s x.peer .write x.req e.row = .ok (cs, ks) → (∀ c ∈ cs, (readSource s c).2 = false) →
      rowAsleep s x .write e = false →
      x.left.find? (fun j => (x.req.entries[j]?).elim false (fun y => y.row == e.row)) = some i →
      After (.rillRowUpdate sub e.row) s (fun t =>
        t.mem = (writeHome s true (stCells cs (addRow x.req e (cs.map (fun c => (readSource s c).1))).1)).mem ∧
        ∃ x', t.subs.find? (fun y => y.id == sub) = some x' ∧ x'.left = x.left.filter (· != i)))) ∧
  (∀ (s : State) (sub i : Nat) (x : SubOp) (e : SubEntry) (cs ks : List Cell), s.subs.find? (fun y => y.id == sub) = some x →
    x.req.entries[i]? = some e → i ∈ x.left →
    rowAsleep s x (if x.req.scad then .write else .read) e = false →
    let old := cs.map (fun c => (readSource s c).1);
    (x.req.scad = false → rowFind s x.peer .read x.req e.row = .ok (cs, ks) → (cs ++ ks).any (poisoned s) = false →
      let r := rowReply x.req e (cs.map (fun c => (readHome s c).1)) (ks.map (fun c => (readHome s c).1));
      (x.own = none → (∀ j ∈ x.left, j = i) → After (.rillRowRead sub i) s (fun t => t.mem = s.mem ∧
        t.subs = s.subs.filter (fun y => y.id != sub) ∧
        t.outbox = s.outbox ++ [(x.req.sacc, .rows (repliesOf x.req (x.done ++ [r])))])) ∧
      (∀ op g, x.own = some op → s.gath? op = some g → After (.rillRowRead sub i) s (fun t => t.mem = s.mem ∧
        t.gath? op = some { g with entries := g.entries.map (fun y =>
          if y.pkg = accelId s ∧ y.positions.head? = some r.pos ∧ y.seg = r.seg then y.take r else y) }))) ∧
    (x.req.scad = true → rowFind s x.peer .write x.req e.row = .ok (cs, ks) → (∀ c ∈ cs, (readSource s c).2 = false) →
      x.own = none → (∀ j ∈ x.left, j = i) →
      let y := addRow x.req e old;
      let resp := RemoteResp.rows (repliesOf x.req (x.done ++ [⟨e.pos, e.segx, 0, [], [], [], y.2, []⟩]));
      After (.rillRowUpdate sub e.row) s (fun t => t.mem = (writeHome s true (stCells cs y.1)).mem ∧
        t.subs = s.subs.filter (fun z => z.id != sub) ∧ t.outbox = s.outbox ++ [(x.req.sacc, resp)] ∧
        ∃ k ∈ t.replies, k.src = x.req.sacc ∧ k.tag = x.req.tag ∧ k.station = x.req.station ∧ k.resp = resp))) ∧
  (∀ (s : State) (sub : SubRequest), stationUp s sub.station = false → exec (.subrequestReceive sub) s = .next s) ∧
  (∀ (s : State) (sub i : Nat) (x : SubOp) (e : SubEntry) (c : Nat), s.subs.find? (fun y => y.id == sub) = some x →
    x.req.entries[i]? = some e → i ∈ x.left → (∃ j ∈ x.left, j ≠ i) → x.own = none →
    let after := { x with left := x.left.filter (· != i), done := x.done ++ [⟨e.pos, e.segx, c, [], [], [], 0, []⟩] };
    (x.req.scad = false → rowAsleep s x .read e = false →
      (rowFind s x.peer .read x.req e.row = .error c ∨
        c = 0x17 ∧ ∃ cs ks, rowFind s x.peer .read x.req e.row = .ok (cs, ks) ∧ ∃ k ∈ cs ++ ks, poisoned s k = true) →
      After (.rillRowRead sub i) s (fun t => t.mem = s.mem ∧ t.subs.find? (fun y => y.id == sub) = some after)) ∧
    (x.req.scad = true → rowAsleep s x .write e = false →
      x.left.find? (fun j => (x.req.entries[j]?).elim false (fun y => y.row == e.row)) = some i →
      (rowFind s x.peer .write x.req e.row = .error c ∨
        c = 0x17 ∧ ∃ cs ks, rowFind s x.peer .write x.req e.row = .ok (cs, ks) ∧ ∃ k ∈ cs, (readSource s k).2 = true) →
      After (.rillRowUpdate sub e.row) s (fun t => t.mem = s.mem ∧ t.subs.find? (fun y => y.id == sub) = some after))) ∧
  (∀ (q : SubRequest) (e : SubEntry) (raw codes : List Byte),
    let r := rowReply q e raw codes;
    let value := fun i => elemValue q.efmt (if blkSize q.eblk = 0 then none else some (codes.getD (i / blkSize q.eblk) 0).toNat)
      (bitField raw (i * elemBits q.efmt) (elemBits q.efmt));
    r.pos = e.pos ∧ r.seg = e.segx ∧ r.cause = 0 ∧ r.raw = raw ∧ r.codes = codes ∧
    (q.pool = 0 → r.vals = []) ∧
    (q.pool ≠ 0 → r.vals.length = q.width ∧ r.infs.length = q.width ∧ ∀ i, i < q.width →
      r.infs[i]? = some (value i == .inf false, value i == .inf true) ∧
      (q.pool = 2 → r.vals[i]? = some (value i)) ∧
      (q.pool = 1 → ∃ x, r.vals[i]? = some x ∧ (finite (value i) = false → x = value i) ∧
        (finite (value i) = true → finite x = true ∧ rat x = e.mult * rat (value i))))) ∧
  (∀ (q : SubRequest) (e : SubEntry) (raw : List Byte) (rs : List (List Byte)) (r : List Byte), q.efmt = 2 ∨ q.efmt = 4 →
    8 * raw.length = q.width * elemBits q.efmt →
    let w := elemBits q.efmt;
    let add := fun xs => (addRow q { e with rows := xs } raw).1;
    add [] = raw ∧ (add rs).length = raw.length ∧ ∀ i, i < q.width →
      bitField (add (rs ++ [r])) (i * w) w = (encodeElem q.efmt (faddV .rne (elemValue q.efmt none (bitField (add rs) (i * w) w))
        (elemValue q.sfmt none (bitField r (i * elemBits q.sfmt) (elemBits q.sfmt)))).1).1)

namespace Sys2Proof.Claim
open Sys2Proof.Machine

/-- A row of elements of a format: each of its codes in its place, and the flags that encoding them has raised, with others. -/
def codesRow (fmt n : Nat) (value : Nat → FVal) (more : FFlags) (row : List Byte × FFlags) : Prop :=
  let w := elemBits fmt
  row.1.length = rowBytes fmt n ∧
  (∀ i, i < n → bitField row.1 (i * w) w = (encodeElem fmt (value i)).1 % 2 ^ w) ∧
  ∀ k, k < 5 → (row.2.getLsbD k = true ↔ more.getLsbD k = true ∨ ∃ i < n, (encodeElem fmt (value i)).2.getLsbD k = true)

end Sys2Proof.Claim

/-- R410: THE TILE. A row of POOL 0 is the table's row, unchanged or each element encoded to DFMT, and zero bytes where it
failed. A row of a pool is the exact sum of its terms, rounded once, or the largest of them; a NaN among them gives NaN,
infinities of both signs in a sum give NaN and raise IV, whatever partials they came in; no term gives zero. -/
def Sys2Proof.Claim.tileRowsAnswer : Prop :=
  ∀ (g : GathOp) (v : Nat),
    let d := g.desc;
    (∀ p, (∀ e r, entryAt g p = some e → e.reply = some r → e.cause = 0 →
        (gDfmt d = 0 → plainRow g v p = (r.raw, 0)) ∧
        (gDfmt d ≠ 0 → codesRow (gDfmt d) (shDim v 0) (fun i => elemValue (shFmt v)
          (if blkSize (shBlk v) = 0 then none else some (r.codes.getD (i / blkSize (shBlk v)) 0).toNat)
          (bitField r.raw (i * elemBits (shFmt v)) (elemBits (shFmt v)))) 0 (plainRow g v p))) ∧
      ((∀ e, entryAt g p = some e → e.cause ≠ 0) → plainRow g v p = (List.replicate (tileRow d v) 0, 0))) ∧
    (∀ sg, gDfmt d ≠ 0 →
      let xs := ((g.entries.filter (fun e => e.seg == sg && e.cause == 0)).filterMap (·.reply)).filter (fun r => !r.vals.isEmpty);
      (xs = [] → poolRow g v sg = (List.replicate (tileRow d v) 0, 0)) ∧
      (xs ≠ [] → (∀ r ∈ xs, r.vals.length = shDim v 0) → ∃ (value : Nat → FVal) (more : FFlags),
        codesRow (gDfmt d) (shDim v 0) value more (poolRow g v sg) ∧
        (∀ k, more.getLsbD k = true ↔ (∃ r ∈ xs, r.flags.getLsbD k = true) ∨ (gPool d = 1 ∧ flIV.getLsbD k = true ∧
          ∃ i < shDim v 0, (∃ r ∈ xs, (r.infs.getD i (false, false)).1 = true) ∧
            ∃ r ∈ xs, (r.infs.getD i (false, false)).2 = true)) ∧
        ∀ i, i < shDim v 0 →
          let ts := xs.map (fun r => r.vals.getD i (.fin false 0 0));
          (ts.any isNan = true → isNan (value i) = true) ∧
          (ts.any isNan = false →
            (gPool d = 1 →
              (ts.all finite = true → finite (value i) = true ∧ rat (value i) = (ts.map rat).sum) ∧
              (.inf false ∈ ts → .inf true ∈ ts → isNan (value i) = true) ∧
              (∀ neg, .inf neg ∈ ts → .inf (!neg) ∉ ts → value i = .inf neg)) ∧
            (gPool d = 2 → value i ∈ ts ∧ ∀ y ∈ ts, fltV (value i) y = false))))

/-- R410, R414, R415, R417: AN INDEX-VECTOR REQUEST COMPLETES. Replies merge. When all rows are merged, and the commit of a SCAD
is over, it writes the tile, the fault mask and the completion word, in that order, and takes its place in the gather class
with its flags. One that failed whole writes only its completion word, and leaves a record. -/
def Sys2Proof.Claim.requestsComplete : Prop :=
  (∀ (s : State) (op i : Nat) (g : GathOp) (e : FoldEntry) (r : RowReply), s.gath? op = some g → g.entries[i]? = some e →
    e.reply = some r → e.answered = false → After (.gatherMerge op i) s (fun t => t = { s with gaths := t.gaths } ∧
      t.gath? op = some { g with
        entries := g.entries.set i { e with answered := true, cause := r.cause }, flags := g.flags ||| r.flags })) ∧
  (∀ (s : State) (op : Nat) (g : GathOp) (x : Gang) (b : Block), s.gath? op = some g → g.phase = .folded →
    s.gang? g.gang = some x → s.block? g.block = some b →
    let d := g.desc;
    let put := fun (b : Block) (place : Nat) (bs : List Byte) => scratchPut b g.blkpos (placed place bs);
    (g.cause = 0 → (∃ e ∈ g.entries, e.answered = false) ∨ scadPending s g = true →
      exec (.gatherComplete op) s = .next s) ∧
    (g.cause = 0 → (∀ e ∈ g.entries, e.answered = true ∧ e.cause < 256) → scadPending s g = false → gNidx d ≤ 512 →
      let rows := if g.scad then [] else if gPool d = 0 then (List.range (gNidx d)).map (plainRow g (shapeNat g.shape))
        else (List.range (gNseg d)).map (poolRow g (shapeNat g.shape));
      let bad := (List.range (gNidx d)).filter (fun p => posCause g p != 0);
      After (.gatherComplete op) s (fun t => t.mem = s.mem ∧ t.gaths = s.gaths.filter (fun y => y.id != op) ∧
        ∃ (mask word : Nat) (fl : FFlags),
          (∀ p, mask.testBit p = true ↔ p ∈ bad) ∧
          (∀ k, fl.getLsbD k = true ↔ g.flags.getLsbD k = true ∨ ∃ r ∈ rows, r.2.getLsbD k = true) ∧
          bitsOf word 63 56 = 0 ∧ bitsOf word 55 48 = ((bad.head?).map (posCause g)).getD 0 ∧ bitsOf word 47 38 = bad.length ∧
          bitsOf word 37 29 = (bad.head?).getD 0 ∧ bitsOf word 28 16 = 0 ∧ bitsOf word 15 15 = 1 ∧ bitsOf word 14 5 = 0 ∧
          bitsOf word 4 0 = fl.toNat ∧
          blockIn t g.block (fun b' =>
            let b1 := rows.zipIdx.foldl (fun b r => put b (gDst d + gDstr d * r.2) r.1.1) b;
            let b2 := if gMask d = 0xFFFFF then b1 else put b1 (16 * gMask d) (leBytes 64 mask);
            b'.scratch = (if gCw d = 0xFFFFF then b2 else put b2 (16 * gCw d) (leBytes 8 word)).scratch) ∧
          gangIn t g.gang (fun x' => x'.doneGath = (x.completeOp 2 g.oid fl).doneGath ∧
            x'.ops = (x.completeOp 2 g.oid fl).ops ∧ x'.deferred = x.deferred))) ∧
    (g.cause ≠ 0 → After (.gatherComplete op) s (fun t => t.mem = s.mem ∧ t.gaths = s.gaths.filter (fun y => y.id != op) ∧
      blockIn t g.block (fun b' => b'.scratch = (if gCw d = 0xFFFFF then b
        else put b (16 * gCw d) (leBytes 8 (g.cause * 2 ^ 56 + 2 ^ 15))).scratch) ∧
      gangIn t g.gang (fun x' => x'.doneGath = (x.completeOp 2 g.oid 0).doneGath ∧ x'.ops = (x.completeOp 2 g.oid 0).ops ∧
        (g.told = false → x.regs.alive ≠ 0 → ∃ f ∈ x'.deferred, f.req.cause = g.cause ∧ f.req.detail = g.detail ∧
          f.req.pc = g.pc ∧ f.lanes = x.regs.alive ∧
          f.req.addr = if g.cause = 0x14 ∨ g.cause = 0x21 then BitVec.ofNat 64 (gTrec d) else 0)))))

/-- R398, R402, R408 to R411, R413 to R417: INDEX-VECTOR REQUESTS. They are accepted, fold, are served row by row, and complete with their tile, mask, completion word and flags; that a SCAD enters the store buffer as it is accepted, and the DETAIL of a bad descriptor, are log 52. -/
def Obligations.IndexVectorRequests : Prop :=
  Sys2Proof.Claim.requestsAreAccepted ∧ Sys2Proof.Claim.requestsFold ∧ Sys2Proof.Claim.rowEnginesServe ∧ Sys2Proof.Claim.tileRowsAnswer ∧ Sys2Proof.Claim.requestsComplete

/-- R374 to R377, R379: OPERATIONS REACH A JOIN. An arrival of a task at its live join commits its block and counts, with
status 0, or 1 where it makes the quorum: then the join is released and the tasks still pending are marked. A task that has
arrived gets status 2, a spoiled one 3, a block that is no task of the join 4, and nothing is committed; a marked one is
killed. A wait is answered once the join is visible or gone; a status read at once. A kill point kills a marked straggler
and lets another block be. -/
def Sys2Proof.Claim.operationsReachJoins : Prop :=
  (∀ (s : State) (i : Nat) (o : UnitOp) (g : Gang) (b : Block), s.joinQ[i]? = some o → s.gang? o.gang = some g →
    s.blockOf g = some b → (∀ x ∈ s.joinQ.take i, x.gang ≠ o.gang ∨ x.tested = true) →
    (∀ va w dst oid j, o.item.eff = .jarr va w dst oid → joinAt s b.asid va = some j → j.launch = b.launch →
      s.join? b.launch = some j → j.task b.idx = .pending → b.idx ∉ j.spoiled →
      let last := decide (j.arrived + 1 = joinQuorum j.image) && !j.released;
      After (.joinArrival i) s (fun t => t.mem = s.mem ∧ t.joinQ = s.joinQ.eraseIdx i ∧
        blockIn t b.uid (fun b' => b'.commits = b.commits + 1 ∧ b'.lastPc = o.item.pc ∧ b'.sb = []) ∧
        (∃ j', t.join? b.launch = some j' ∧ j'.task b.idx = .arrived ∧ j'.arrived = j.arrived + 1 ∧
          tabGet 0 j'.weights b.idx = w ∧ (last = false → j'.released = j.released) ∧
          (last = true → (s.launch? b.launch).isSome = true → j'.released = true ∧ ∀ k, j'.task k ≠ .pending ∨ joinTasks j.image ≤ k)) ∧
        gangIn t o.gang (fun g' => g'.out = arrived g oid (gangEffs (g.ordOf oid) dst (if last then 1 else 0))))) ∧
    (∀ va w dst oid st, o.item.eff = .jarr va w dst oid →
      (st = 4 ∧ (∀ j, joinAt s b.asid va = some j → j.launch ≠ b.launch) ∨
        ∃ j, joinAt s b.asid va = some j ∧ j.launch = b.launch ∧
          (st = 2 ∧ j.task b.idx = .arrived ∨ st = 3 ∧ j.task b.idx ≠ .arrived ∧ b.idx ∈ j.spoiled)) →
      After (.joinArrival i) s (fun t => t = { s with gangs := t.gangs, joinQ := s.joinQ.eraseIdx i } ∧
        gangIn t o.gang (fun g' => g' = { g with out := arrived g oid (gangEffs (g.ordOf oid) dst st) }))) ∧
    (∀ va w dst oid j, o.item.eff = .jarr va w dst oid → joinAt s b.asid va = some j → j.launch = b.launch →
      s.join? b.launch = some j → j.task b.idx = .marked → b.idx ∉ j.spoiled → b.phase = .running →
      After (.joinArrival i) s (fun t => (∀ x ∈ t.blocks, x.uid = b.uid → x.phase = .ended) ∧
        (∀ y ∈ t.gangs, y.block ≠ b.uid) ∧
        ∃ r ∈ t.faultQ, r.cause = 0x43 ∧ r.detail = b.idx ∧ r.addr = 1 ∧ r.pc = o.item.pc)) ∧
    (∀ va cell dst oid, o.item.eff = .jstat va cell dst oid → statusAsleep s b o = false → After (.joinArrival i) s (fun t =>
      unasked s t = { s with gangs := t.gangs, joinQ := s.joinQ.eraseIdx i } ∧
      gangIn t o.gang (fun g' => g' = { g with out := arrived g oid (gangEffs (g.ordOf oid) dst (joinStatus s b va cell)) }))) ∧
    (∀ va cell dst oid, o.item.eff = .jwait va cell dst oid → statusAsleep s b o = false →
      ((∃ j, joinAt s b.asid va = some j ∧ j.visible = false) → exec (.joinArrival i) s =
        .next { s with joinQ := s.joinQ.set i { o with tested := true } }) ∧
      ((∀ j, joinAt s b.asid va = some j → j.visible = true) → After (.joinArrival i) s (fun t =>
        unasked s t = { s with gangs := t.gangs, joinQ := s.joinQ.eraseIdx i } ∧
        gangIn t o.gang (fun g' =>
          g' = { g with out := arrived g oid (gangEffs (g.ordOf oid) dst (joinStatus s b va cell)) })))) ∧
    (∀ oid, o.item.eff = .killpt oid → isMarked s b = false → After (.joinArrival i) s (fun t =>
      t = { s with gangs := t.gangs, joinQ := s.joinQ.eraseIdx i } ∧
      gangIn t o.gang (fun g' => g' = { g with out := arrived g oid [] }))) ∧
    (∀ oid, o.item.eff = .killpt oid → isMarked s b = true → b.phase = .running → After (.joinArrival i) s (fun t =>
      (∀ x ∈ t.blocks, x.uid = b.uid → x.phase = .ended) ∧ (∀ y ∈ t.gangs, y.block ≠ b.uid) ∧
      ∃ r ∈ t.faultQ, r.cause = 0x43 ∧ r.detail = b.idx ∧ r.addr = 0 ∧ r.pc = o.item.pc)))

namespace Sys2Proof.Claim
open Sys2Proof.Machine

/-- R378: a binary32 word of a join at home; uncorrectable data is taken as the canonical NaN. -/
def slotAt (s : State) (j : Join) (va : Nat) : BitVec 32 × Bool :=
  if (j.cells va 4).any (fun c => (readHome s c).2) then (0x7FC00000, true)
  else (BitVec.ofNat 32 (leValue ((j.cells va 4).map (fun c => (readHome s c).1))), false)

/-- R378, R126: one fused step: the product added and rounded once; uncorrectable data sets IV. -/
def fused (a : BitVec 32 × FFlags) (p : (BitVec 32 × Bool) × (BitVec 32 × Bool)) : BitVec 32 × FFlags :=
  let x := ffmaV .rne (f32Val p.1.1) (f32Val p.2.1) (f32Val a.1)
  let y := roundVal (fmtOf .f32) .rne false x.1
  (BitVec.ofNat 32 y.1, a.2 ||| (x.2 ||| y.2) ||| (if p.1.2 || p.2.2 then flIV else 0))

/-- R378: what the reduction takes for an element: each arrived task's weight with its contribution; under SUBSTITUTE each
other task's fallback weight with its fallback. -/
def taken (s : State) (j : Join) (e : Nat) : List ((BitVec 32 × Bool) × (BitVec 32 × Bool)) :=
  (j.withState .arrived).map (fun i => ((tabGet 0 j.weights i, false), slotAt s j (joinCbase j.image + joinStride j.image * i + 4 * e)))

/-- The same for the tasks that have not arrived. -/
def substituted (s : State) (j : Join) (e : Nat) : List ((BitVec 32 × Bool) × (BitVec 32 × Bool)) :=
  ((List.range (joinTasks j.image)).filter (fun i => j.task i != .arrived)).map (fun i =>
    (slotAt s j (joinFwgt j.image + 4 * i), slotAt s j (joinFbase j.image + joinStride j.image * i + 4 * e)))

/-- R378: an element of the target, and the flags of its steps. -/
def reduced (s : State) (j : Join) (r : BitVec 32) (e : Nat) : BitVec 32 × FFlags :=
  let a := (taken s j e).foldl fused (0, 0)
  if joinFill j.image = 1 then
    let x := fmulV (f32Val a.1) (f32Val r)
    let y := roundVal (fmtOf .f32) .rne false x.1
    (BitVec.ofNat 32 y.1, a.2 ||| (x.2 ||| y.2))
  else if joinFill j.image = 2 then (substituted s j e).foldl fused a
  else a

end Sys2Proof.Claim

/-- R370, R378: A RELEASE, once every accepted arrival is home: WARR is the arrived weights' sum rounded once; the record, the
bitmap, the target's elements and then its version word are written; each element is the arrived contributions taken in
ascending order with one rounding a step, then rescaled, or with the fallbacks of the other tasks; FLAGS has every flag and
POISON tells of uncorrectable data; each dependent launch waits for one less. -/
def Sys2Proof.Claim.releasesReduce : Prop :=
  ∀ (s : State) (launch : Nat) (j : Join), s.join? launch = some j → j.released = true → j.visible = false →
    (∀ p ∈ j.pages, stackAsleep s p.2.pa = false) →
    (∀ b ∈ s.blocks, b.launch = launch → ∀ c ∈ b.pipeline, c.who ≠ .arrival) →
    let ws := (j.withState .arrived).map (fun i => f32Val (tabGet 0 j.weights i));
    let warr := BitVec.ofNat 32 (roundVal (fmtOf .f32) .rne false (sumV (zeroNegOf .rne ws) ws).1).1;
    let wtot := BitVec.ofNat 32 (joinBits j.image 607 576);
    let quot := fdivV (f32Val wtot) (f32Val warr);
    let r := roundVal (fmtOf .f32) .rne false quot.1;
    let elems := (List.range (joinElems j)).map (reduced s j (BitVec.ofNat 32 r.1));
    let base := shBase (shapeNat j.shape);
    let zipped := fun (cs : List Cell) (bs masks : List Byte) =>
      (cs.zip (bs.zip masks)).map (fun p => (⟨p.1, p.2.1, p.2.2⟩ : StCell));
    After (.joinRelease launch) s (fun t => ∃ (j' : Join) (map : Nat), t.join? launch = some j' ∧
      j' = { j with warr := warr, flags := j'.flags, poison := j'.poison, visible := true, image := j'.image } ∧
      (∀ k, map.testBit k = true ↔ k ∈ j.withState .arrived) ∧
      (j'.poison = true ↔ ∃ e < joinElems j, ∃ p ∈ taken s j e ++ (if joinFill j.image = 2 then substituted s j e else []),
        p.1.2 = true ∨ p.2.2 = true) ∧
      (∀ k, j'.flags.getLsbD k = true ↔ (arrivedWeight j).2.getLsbD k = true ∨
        (joinFill j.image = 1 ∧ (quot.2 ||| r.2).getLsbD k = true) ∨ ∃ x ∈ elems, x.2.getLsbD k = true) ∧
      joinBits j'.image 575 544 = warr.toNat ∧ joinBits j'.image 396 392 = j'.flags.toNat ∧
      (joinBits j'.image 391 391 = 1 ↔ j.short = true) ∧ (joinBits j'.image 390 390 = 1 ↔ j'.poison = true) ∧
      joinBits j'.image 389 388 = 2 ∧ joinBits j'.image 440 428 = (j.withState .arrived).length ∧
      let s1 := writeHome (j.ask s (joinReads j)) false (zipped (j.cells j.va 128) (leBytes 128 j'.image.toNat) (leBytes 128 joinRoBits));
      let s2 := writeHome s1 false (stCells (j.cells (joinBmap j.image) (joinMapLen j.image)) (leBytes (joinMapLen j.image) map));
      let s3 := writeHome s2 false (stCells (j.cells base (4 * joinElems j)) (elems.flatMap (fun x => leBytes 4 x.1.toNat)));
      t.mem = ((j.cell (base - 8)).elim s3 (drainVersion s3)).mem ∧
      ∀ id, t.launch? id = (s.launch? id).map (fun l => { l with
        wait := l.wait - ((List.range (joinDcount j.image)).filter (fun k =>
          leValue (j.read t (joinDlist j.image + 4 * k) 4).1 == id)).length }))

/-- R379: THE END OF THE GRACE PERIOD: a marked straggler is killed, with a record, and not before. -/
def Sys2Proof.Claim.stragglersEnd : Prop :=
  (∀ (s : State) (u : Nat) (b : Block) (j : Join), s.block? u = some b → s.join? b.launch = some j → isMarked s b = true →
    j.released = true → b.over = false →
    (s.now < j.releaseNs + joinGrace j.image → exec (.stragglerGraceExpiry u) s = .next s) ∧
    (j.releaseNs + joinGrace j.image ≤ s.now → After (.stragglerGraceExpiry u) s (fun t =>
      (∀ x ∈ t.blocks, x.uid = u → x.phase = .ended) ∧ (∀ y ∈ t.gangs, y.block ≠ u) ∧
      ∃ r ∈ t.faultQ, r.cause = 0x43 ∧ r.detail = b.idx ∧ r.addr = 2 ∧ r.pc = 0)))

/-- R370, R374 to R379: JOINS. Operations reach them, a release reduces the contributions into the target, and stragglers end; that an arrival shows only once its commit is complete is log 82. -/
def Obligations.JoinsRelease : Prop :=
  Sys2Proof.Claim.operationsReachJoins ∧ Sys2Proof.Claim.releasesReduce ∧ Sys2Proof.Claim.stragglersEnd

/-! ### The whole machine -/

/-- R314, R317, R386 to R398: THE REGISTER WINDOW AFTER RESET: every aligned word reads as its table gives it: the context
records hold SUPQ 0xFFF and MAXPRI 7 and name no context, each QCTL holds PRIO 7, and all else is zero. UNITS and THERM,
which only boot and the sensors give a value, are left out. -/
def Sys2Proof.Claim.windowAfterReset : Prop :=
  ∀ o : Nat, o % 8 = 0 → o ≠ 0 → o ≠ 0x10 →
    windowWord State.reset o =
      (if 0x100000 ≤ o ∧ o < 0x120000 ∧ o % 64 = 16 then 0xFFF0007000000000
       else if 0x400000 ≤ o ∧ o < 0x420000 ∧ o % 32 = 0 then 0xE0
       else 0)

/-- The state after reset: nothing is placed, launched, outstanding or queued, time starts at zero, and memory, which
lists nothing, has its canonical form. -/
def Sys2Proof.Claim.resetIsEmptyAndWellFormed : Prop :=
  State.reset.cycle = 0 ∧ State.reset.now = 0 ∧ State.reset.gangs = [] ∧ State.reset.blocks = [] ∧
  State.reset.launches = [] ∧ State.reset.bars = [] ∧ State.reset.joins = [] ∧ State.reset.remOut = [] ∧
  State.reset.mem = [] ∧ Memory.wf State.reset.mem = true

/-- R314, R317, R386 to R398: THE STATE AFTER RESET. -/
def Obligations.StateAfterReset : Prop :=
  Sys2Proof.Claim.windowAfterReset ∧ Sys2Proof.Claim.resetIsEmptyAndWellFormed

/-- EVERY STEP KEEPS THE MEMORY'S CANONICAL FORM: in any state whose memory lists its addresses strictly rising and no byte
equal to what an unlisted one reads as, whatever the step does (a word, a run boundary, any unit's event, the passing of
time) leaves a memory of that form. -/
def Obligations.StepsKeepMemoryCanonical : Prop :=
  ∀ s t : State, Memory.wf s.mem = true → step s = .next t → Memory.wf t.mem = true

/-- NO STEP STOPS THE MACHINE: from any state at all a step answers a next state; what the manual calls a fault is a record
and a parked lane. -/
def Obligations.EveryStepAnswers : Prop :=
  ∀ s : State, ∃ t, step s = .next t
end

