-- ==== Sys2Proof/Laws/Tab.lean ====
section
/-! SUPPORT. Laws/Tab.lean: the laws of the sparse tables that hold registers and memory: read after write, a write leaves
every other key alone, and every write keeps the canonical form.
-/
namespace Sys2Proof.Laws
open Sys2Proof.Machine

variable {β : Type} [DecidableEq β] (d : β)

/-- Every listed key of a table lies above `k`. -/
def Above (k : Nat) (t : List (Nat × β)) : Prop := ∀ p ∈ t, k < p.1

theorem tabWf_nil : tabWf d ([] : List (Nat × β)) = true := rfl

theorem tabWf_cons (p : Nat × β) (t : List (Nat × β)) :
    tabWf d (p :: t) = true ↔ p.2 ≠ d ∧ Above p.1 t ∧ tabWf d t = true := by
  induction t generalizing p with
  | nil => simp [tabWf, Above]
  | cons q t ih =>
    have hq := ih q
    constructor
    · intro h
      simp only [tabWf, Bool.and_eq_true, decide_eq_true_eq] at h hq
      obtain ⟨⟨hd, hlt⟩, hw⟩ := h
      have h2 := hq.mp hw
      refine ⟨hd, ?_, by simpa [tabWf] using hw⟩
      intro x hx
      rcases List.mem_cons.mp hx with rfl | hx
      · exact hlt
      · exact Nat.lt_trans hlt (h2.2.1 x hx)
    · rintro ⟨hd, ha, hw⟩
      have := ha q (by simp)
      simp only [tabWf, Bool.and_eq_true, decide_eq_true_eq] at hw ⊢
      exact ⟨⟨hd, this⟩, hw⟩

omit [DecidableEq β] in
theorem above_tabDel (k j : Nat) (t : List (Nat × β)) (h : Above k t) : Above k (tabDel t j) :=
  fun p hp => h p (List.mem_filter.mp hp).1

theorem tabWf_tabDel (t : List (Nat × β)) (k : Nat) (h : tabWf d t = true) : tabWf d (tabDel t k) = true := by
  induction t with
  | nil => rfl
  | cons p t ih =>
    obtain ⟨hd, ha, hw⟩ := (tabWf_cons d p t).mp h
    by_cases hp : p.1 = k
    · simpa [tabDel, hp] using ih hw
    · have : tabDel (p :: t) k = p :: tabDel t k := by simp [tabDel, hp]
      rw [this]
      exact (tabWf_cons d p _).mpr ⟨hd, above_tabDel _ _ t ha, ih hw⟩

omit [DecidableEq β] in
theorem mem_tabIns (k : Nat) (x : β) (t : List (Nat × β)) (p : Nat × β) :
    p ∈ tabIns k x t ↔ p = (k, x) ∨ p ∈ t := by
  induction t with
  | nil => simp [tabIns]
  | cons q t ih =>
    simp only [tabIns]
    split
    · simp
    · simp only [List.mem_cons, ih]
      exact or_left_comm

theorem tabWf_tabIns (k : Nat) (x : β) (t : List (Nat × β)) (hx : x ≠ d) (hk : ∀ p ∈ t, p.1 ≠ k)
    (h : tabWf d t = true) : tabWf d (tabIns k x t) = true := by
  induction t with
  | nil => simp [tabIns, tabWf, hx]
  | cons q t ih =>
    obtain ⟨hd, ha, hw⟩ := (tabWf_cons d q t).mp h
    simp only [tabIns]
    split
    · rename_i hlt
      refine (tabWf_cons d _ _).mpr ⟨hx, ?_, h⟩
      intro p hp
      rcases List.mem_cons.mp hp with rfl | hp
      · exact hlt
      · exact Nat.lt_trans hlt (ha p hp)
    · rename_i hlt
      have hne := hk q (by simp)
      refine (tabWf_cons d _ _).mpr ⟨hd, ?_, ih (fun p hp => hk p (by simp [hp])) hw⟩
      intro p hp
      rcases (mem_tabIns k x t p).mp hp with rfl | hp
      · simp only
        omega
      · exact ha p hp

omit [DecidableEq β] in
theorem ne_of_mem_tabDel (t : List (Nat × β)) (k : Nat) (p : Nat × β) (h : p ∈ tabDel t k) : p.1 ≠ k := by
  simpa [tabDel] using (List.mem_filter.mp h).2

/-- Every write of a table keeps the canonical form. -/
theorem tabWf_tabPut (t : List (Nat × β)) (k : Nat) (x : β) (h : tabWf d t = true) : tabWf d (tabPut d t k x) = true := by
  unfold tabPut
  split
  · exact tabWf_tabDel d t k h
  · rename_i hx
    exact tabWf_tabIns d k x _ hx (fun p hp => ne_of_mem_tabDel t k p hp) (tabWf_tabDel d t k h)

theorem tabWf_foldl_tabPut (l : List (Nat × β)) (t : List (Nat × β)) (h : tabWf d t = true) :
    tabWf d (l.foldl (fun m p => tabPut d m p.1 p.2) t) = true := by
  induction l generalizing t with
  | nil => exact h
  | cons p l ih => exact ih _ (tabWf_tabPut d t p.1 p.2 h)

omit [DecidableEq β] in
theorem tabGet_tabDel_self (t : List (Nat × β)) (k : Nat) : tabGet d (tabDel t k) k = d := by
  induction t with
  | nil => rfl
  | cons p t ih =>
    by_cases hp : p.1 = k
    · simpa [tabDel, hp] using ih
    · have : tabDel (p :: t) k = p :: tabDel t k := by simp [tabDel, hp]
      simpa [this, tabGet, hp] using ih

omit [DecidableEq β] in
theorem tabGet_tabDel_ne (t : List (Nat × β)) (k j : Nat) (hj : j ≠ k) : tabGet d (tabDel t k) j = tabGet d t j := by
  induction t with
  | nil => rfl
  | cons p t ih =>
    by_cases hp : p.1 = k
    · have h1 : tabDel (p :: t) k = tabDel t k := by simp [tabDel, hp]
      have h2 : p.1 ≠ j := by omega
      simpa [h1, tabGet, h2] using ih
    · have h1 : tabDel (p :: t) k = p :: tabDel t k := by simp [tabDel, hp]
      rw [h1]
      simp only [tabGet]
      split
      · rfl
      · exact ih

omit [DecidableEq β] in
theorem tabGet_tabIns_self (k : Nat) (x : β) (t : List (Nat × β)) (hk : ∀ p ∈ t, p.1 ≠ k) :
    tabGet d (tabIns k x t) k = x := by
  induction t with
  | nil => simp [tabIns, tabGet]
  | cons q t ih =>
    simp only [tabIns]
    split
    · simp [tabGet]
    · have := hk q (by simp)
      simpa [tabGet, this] using ih (fun p hp => hk p (by simp [hp]))

omit [DecidableEq β] in
theorem tabGet_tabIns_ne (k j : Nat) (x : β) (t : List (Nat × β)) (hj : j ≠ k) :
    tabGet d (tabIns k x t) j = tabGet d t j := by
  induction t with
  | nil => simp [tabIns, tabGet, Ne.symm hj]
  | cons q t ih =>
    simp only [tabIns]
    split
    · simp [tabGet, Ne.symm hj]
    · simp only [tabGet]
      split
      · rfl
      · exact ih

/-- Reading a key after writing it gives what was written. -/
@[simp] theorem tabGet_tabPut_self (t : List (Nat × β)) (k : Nat) (x : β) : tabGet d (tabPut d t k x) k = x := by
  unfold tabPut
  split
  · rename_i h
    rw [tabGet_tabDel_self, h]
  · exact tabGet_tabIns_self d k x _ (fun p hp => ne_of_mem_tabDel t k p hp)

/-- A write leaves every other key alone. -/
theorem tabGet_tabPut_ne (t : List (Nat × β)) (k j : Nat) (x : β) (hj : j ≠ k) :
    tabGet d (tabPut d t k x) j = tabGet d t j := by
  unfold tabPut
  split
  · exact tabGet_tabDel_ne d t k j hj
  · rw [tabGet_tabIns_ne d k j x _ hj, tabGet_tabDel_ne d t k j hj]

end Sys2Proof.Laws
end

