-- ==== Sys2Proof/Laws/State.lean ====
section
/-! SUPPORT. Laws/State.lean: what each update of the state leaves, field by field, so that no proof unfolds a record
update.
-/
namespace Sys2Proof.Laws
open Sys2Proof.Machine

/-! ### State.modGang -/

@[simp] theorem modGang_cycle (s : State) (u : Nat) (f : Gang → Gang) : (s.modGang u f).cycle = s.cycle := rfl
@[simp] theorem modGang_now (s : State) (u : Nat) (f : Gang → Gang) : (s.modGang u f).now = s.now := rfl
@[simp] theorem modGang_sched (s : State) (u : Nat) (f : Gang → Gang) : (s.modGang u f).sched = s.sched := rfl
@[simp] theorem modGang_focus (s : State) (u : Nat) (f : Gang → Gang) : (s.modGang u f).focus = s.focus := rfl
@[simp] theorem modGang_cx (s : State) (u : Nat) (f : Gang → Gang) : (s.modGang u f).cx = s.cx := rfl
@[simp] theorem modGang_free (s : State) (u : Nat) (f : Gang → Gang) : (s.modGang u f).free = s.free := rfl
@[simp] theorem modGang_blocks (s : State) (u : Nat) (f : Gang → Gang) : (s.modGang u f).blocks = s.blocks := rfl
@[simp] theorem modGang_cores (s : State) (u : Nat) (f : Gang → Gang) : (s.modGang u f).cores = s.cores := rfl
@[simp] theorem modGang_nextUid (s : State) (u : Nat) (f : Gang → Gang) : (s.modGang u f).nextUid = s.nextUid := rfl
@[simp] theorem modGang_mem (s : State) (u : Nat) (f : Gang → Gang) : (s.modGang u f).mem = s.mem := rfl
@[simp] theorem modGang_lineKey (s : State) (u : Nat) (f : Gang → Gang) : (s.modGang u f).lineKey = s.lineKey := rfl
@[simp] theorem modGang_poison (s : State) (u : Nat) (f : Gang → Gang) : (s.modGang u f).poison = s.poison := rfl
@[simp] theorem modGang_dirty (s : State) (u : Nat) (f : Gang → Gang) : (s.modGang u f).dirty = s.dirty := rfl
@[simp] theorem modGang_peerTiles (s : State) (u : Nat) (f : Gang → Gang) : (s.modGang u f).peerTiles = s.peerTiles := rfl
@[simp] theorem modGang_cxlBytes (s : State) (u : Nat) (f : Gang → Gang) : (s.modGang u f).cxlBytes = s.cxlBytes := rfl
@[simp] theorem modGang_cxlDown (s : State) (u : Nat) (f : Gang → Gang) : (s.modGang u f).cxlDown = s.cxlDown := rfl
@[simp] theorem modGang_regQ (s : State) (u : Nat) (f : Gang → Gang) : (s.modGang u f).regQ = s.regQ := rfl
@[simp] theorem modGang_roots (s : State) (u : Nat) (f : Gang → Gang) : (s.modGang u f).roots = s.roots := rfl
@[simp] theorem modGang_keys (s : State) (u : Nat) (f : Gang → Gang) : (s.modGang u f).keys = s.keys := rfl
@[simp] theorem modGang_keyBits (s : State) (u : Nat) (f : Gang → Gang) : (s.modGang u f).keyBits = s.keyBits := rfl
@[simp] theorem modGang_nextKey (s : State) (u : Nat) (f : Gang → Gang) : (s.modGang u f).nextKey = s.nextKey := rfl
@[simp] theorem modGang_pins (s : State) (u : Nat) (f : Gang → Gang) : (s.modGang u f).pins = s.pins := rfl
@[simp] theorem modGang_hot (s : State) (u : Nat) (f : Gang → Gang) : (s.modGang u f).hot = s.hot := rfl
@[simp] theorem modGang_motions (s : State) (u : Nat) (f : Gang → Gang) : (s.modGang u f).motions = s.motions := rfl
@[simp] theorem modGang_promos (s : State) (u : Nat) (f : Gang → Gang) : (s.modGang u f).promos = s.promos := rfl
@[simp] theorem modGang_skpol (s : State) (u : Nat) (f : Gang → Gang) : (s.modGang u f).skpol = s.skpol := rfl
@[simp] theorem modGang_rings (s : State) (u : Nat) (f : Gang → Gang) : (s.modGang u f).rings = s.rings := rfl
@[simp] theorem modGang_invAddr (s : State) (u : Nat) (f : Gang → Gang) : (s.modGang u f).invAddr = s.invAddr := rfl
@[simp] theorem modGang_invCtl (s : State) (u : Nat) (f : Gang → Gang) : (s.modGang u f).invCtl = s.invCtl := rfl
@[simp] theorem modGang_invals (s : State) (u : Nat) (f : Gang → Gang) : (s.modGang u f).invals = s.invals := rfl
@[simp] theorem modGang_copies (s : State) (u : Nat) (f : Gang → Gang) : (s.modGang u f).copies = s.copies := rfl
@[simp] theorem modGang_mats (s : State) (u : Nat) (f : Gang → Gang) : (s.modGang u f).mats = s.mats := rfl
@[simp] theorem modGang_gaths (s : State) (u : Nat) (f : Gang → Gang) : (s.modGang u f).gaths = s.gaths := rfl
@[simp] theorem modGang_subs (s : State) (u : Nat) (f : Gang → Gang) : (s.modGang u f).subs = s.subs := rfl
@[simp] theorem modGang_nextOp (s : State) (u : Nat) (f : Gang → Gang) : (s.modGang u f).nextOp = s.nextOp := rfl
@[simp] theorem modGang_ctxs (s : State) (u : Nat) (f : Gang → Gang) : (s.modGang u f).ctxs = s.ctxs := rfl
@[simp] theorem modGang_dead (s : State) (u : Nat) (f : Gang → Gang) : (s.modGang u f).dead = s.dead := rfl
@[simp] theorem modGang_paused (s : State) (u : Nat) (f : Gang → Gang) : (s.modGang u f).paused = s.paused := rfl
@[simp] theorem modGang_qctl (s : State) (u : Nat) (f : Gang → Gang) : (s.modGang u f).qctl = s.qctl := rfl
@[simp] theorem modGang_qctx (s : State) (u : Nat) (f : Gang → Gang) : (s.modGang u f).qctx = s.qctx := rfl
@[simp] theorem modGang_qtail (s : State) (u : Nat) (f : Gang → Gang) : (s.modGang u f).qtail = s.qtail := rfl
@[simp] theorem modGang_qhead (s : State) (u : Nat) (f : Gang → Gang) : (s.modGang u f).qhead = s.qhead := rfl
@[simp] theorem modGang_qnotices (s : State) (u : Nat) (f : Gang → Gang) : (s.modGang u f).qnotices = s.qnotices := rfl
@[simp] theorem modGang_launches (s : State) (u : Nat) (f : Gang → Gang) : (s.modGang u f).launches = s.launches := rfl
@[simp] theorem modGang_nextLaunch (s : State) (u : Nat) (f : Gang → Gang) : (s.modGang u f).nextLaunch = s.nextLaunch := rfl
@[simp] theorem modGang_codeLog (s : State) (u : Nat) (f : Gang → Gang) : (s.modGang u f).codeLog = s.codeLog := rfl
@[simp] theorem modGang_nextSeq (s : State) (u : Nat) (f : Gang → Gang) : (s.modGang u f).nextSeq = s.nextSeq := rfl
@[simp] theorem modGang_cisQ (s : State) (u : Nat) (f : Gang → Gang) : (s.modGang u f).cisQ = s.cisQ := rfl
@[simp] theorem modGang_slots (s : State) (u : Nat) (f : Gang → Gang) : (s.modGang u f).slots = s.slots := rfl
@[simp] theorem modGang_faultQ (s : State) (u : Nat) (f : Gang → Gang) : (s.modGang u f).faultQ = s.faultQ := rfl
@[simp] theorem modGang_faultSeq (s : State) (u : Nat) (f : Gang → Gang) : (s.modGang u f).faultSeq = s.faultSeq := rfl
@[simp] theorem modGang_diagQ (s : State) (u : Nat) (f : Gang → Gang) : (s.modGang u f).diagQ = s.diagQ := rfl
@[simp] theorem modGang_freply (s : State) (u : Nat) (f : Gang → Gang) : (s.modGang u f).freply = s.freply := rfl
@[simp] theorem modGang_saveUsed (s : State) (u : Nat) (f : Gang → Gang) : (s.modGang u f).saveUsed = s.saveUsed := rfl
@[simp] theorem modGang_chanQ (s : State) (u : Nat) (f : Gang → Gang) : (s.modGang u f).chanQ = s.chanQ := rfl
@[simp] theorem modGang_refreshing (s : State) (u : Nat) (f : Gang → Gang) : (s.modGang u f).refreshing = s.refreshing := rfl
@[simp] theorem modGang_selfRefresh (s : State) (u : Nat) (f : Gang → Gang) : (s.modGang u f).selfRefresh = s.selfRefresh := rfl
@[simp] theorem modGang_misses (s : State) (u : Nat) (f : Gang → Gang) : (s.modGang u f).misses = s.misses := rfl
@[simp] theorem modGang_regions (s : State) (u : Nat) (f : Gang → Gang) : (s.modGang u f).regions = s.regions := rfl
@[simp] theorem modGang_patrols (s : State) (u : Nat) (f : Gang → Gang) : (s.modGang u f).patrols = s.patrols := rfl
@[simp] theorem modGang_scrubs (s : State) (u : Nat) (f : Gang → Gang) : (s.modGang u f).scrubs = s.scrubs := rfl
@[simp] theorem modGang_covered (s : State) (u : Nat) (f : Gang → Gang) : (s.modGang u f).covered = s.covered := rfl
@[simp] theorem modGang_corrections (s : State) (u : Nat) (f : Gang → Gang) : (s.modGang u f).corrections = s.corrections := rfl
@[simp] theorem modGang_bars (s : State) (u : Nat) (f : Gang → Gang) : (s.modGang u f).bars = s.bars := rfl
@[simp] theorem modGang_barQ (s : State) (u : Nat) (f : Gang → Gang) : (s.modGang u f).barQ = s.barQ := rfl
@[simp] theorem modGang_joins (s : State) (u : Nat) (f : Gang → Gang) : (s.modGang u f).joins = s.joins := rfl
@[simp] theorem modGang_joinQ (s : State) (u : Nat) (f : Gang → Gang) : (s.modGang u f).joinQ = s.joinQ := rfl
@[simp] theorem modGang_notice (s : State) (u : Nat) (f : Gang → Gang) : (s.modGang u f).notice = s.notice := rfl
@[simp] theorem modGang_msix (s : State) (u : Nat) (f : Gang → Gang) : (s.modGang u f).msix = s.msix := rfl
@[simp] theorem modGang_mcmd (s : State) (u : Nat) (f : Gang → Gang) : (s.modGang u f).mcmd = s.mcmd := rfl
@[simp] theorem modGang_elog (s : State) (u : Nat) (f : Gang → Gang) : (s.modGang u f).elog = s.elog := rfl
@[simp] theorem modGang_att (s : State) (u : Nat) (f : Gang → Gang) : (s.modGang u f).att = s.att := rfl
@[simp] theorem modGang_therm (s : State) (u : Nat) (f : Gang → Gang) : (s.modGang u f).therm = s.therm := rfl
@[simp] theorem modGang_bootstat (s : State) (u : Nat) (f : Gang → Gang) : (s.modGang u f).bootstat = s.bootstat := rfl
@[simp] theorem modGang_chans (s : State) (u : Nat) (f : Gang → Gang) : (s.modGang u f).chans = s.chans := rfl
@[simp] theorem modGang_stations (s : State) (u : Nat) (f : Gang → Gang) : (s.modGang u f).stations = s.stations := rfl
@[simp] theorem modGang_chorusSigs (s : State) (u : Nat) (f : Gang → Gang) : (s.modGang u f).chorusSigs = s.chorusSigs := rfl
@[simp] theorem modGang_fabid (s : State) (u : Nat) (f : Gang → Gang) : (s.modGang u f).fabid = s.fabid := rfl
@[simp] theorem modGang_peers (s : State) (u : Nat) (f : Gang → Gang) : (s.modGang u f).peers = s.peers := rfl
@[simp] theorem modGang_remOut (s : State) (u : Nat) (f : Gang → Gang) : (s.modGang u f).remOut = s.remOut := rfl
@[simp] theorem modGang_nextTag (s : State) (u : Nat) (f : Gang → Gang) : (s.modGang u f).nextTag = s.nextTag := rfl
@[simp] theorem modGang_rtc (s : State) (u : Nat) (f : Gang → Gang) : (s.modGang u f).rtc = s.rtc := rfl
@[simp] theorem modGang_holders (s : State) (u : Nat) (f : Gang → Gang) : (s.modGang u f).holders = s.holders := rfl
@[simp] theorem modGang_replies (s : State) (u : Nat) (f : Gang → Gang) : (s.modGang u f).replies = s.replies := rfl
@[simp] theorem modGang_outbox (s : State) (u : Nat) (f : Gang → Gang) : (s.modGang u f).outbox = s.outbox := rfl
@[simp] theorem modGang_hostRead (s : State) (u : Nat) (f : Gang → Gang) : (s.modGang u f).hostRead = s.hostRead := rfl

/-! ### State.modBlock -/

@[simp] theorem modBlock_cycle (s : State) (u : Nat) (f : Block → Block) : (s.modBlock u f).cycle = s.cycle := rfl
@[simp] theorem modBlock_now (s : State) (u : Nat) (f : Block → Block) : (s.modBlock u f).now = s.now := rfl
@[simp] theorem modBlock_sched (s : State) (u : Nat) (f : Block → Block) : (s.modBlock u f).sched = s.sched := rfl
@[simp] theorem modBlock_focus (s : State) (u : Nat) (f : Block → Block) : (s.modBlock u f).focus = s.focus := rfl
@[simp] theorem modBlock_cx (s : State) (u : Nat) (f : Block → Block) : (s.modBlock u f).cx = s.cx := rfl
@[simp] theorem modBlock_free (s : State) (u : Nat) (f : Block → Block) : (s.modBlock u f).free = s.free := rfl
@[simp] theorem modBlock_gangs (s : State) (u : Nat) (f : Block → Block) : (s.modBlock u f).gangs = s.gangs := rfl
@[simp] theorem modBlock_cores (s : State) (u : Nat) (f : Block → Block) : (s.modBlock u f).cores = s.cores := rfl
@[simp] theorem modBlock_nextUid (s : State) (u : Nat) (f : Block → Block) : (s.modBlock u f).nextUid = s.nextUid := rfl
@[simp] theorem modBlock_mem (s : State) (u : Nat) (f : Block → Block) : (s.modBlock u f).mem = s.mem := rfl
@[simp] theorem modBlock_lineKey (s : State) (u : Nat) (f : Block → Block) : (s.modBlock u f).lineKey = s.lineKey := rfl
@[simp] theorem modBlock_poison (s : State) (u : Nat) (f : Block → Block) : (s.modBlock u f).poison = s.poison := rfl
@[simp] theorem modBlock_dirty (s : State) (u : Nat) (f : Block → Block) : (s.modBlock u f).dirty = s.dirty := rfl
@[simp] theorem modBlock_peerTiles (s : State) (u : Nat) (f : Block → Block) : (s.modBlock u f).peerTiles = s.peerTiles := rfl
@[simp] theorem modBlock_cxlBytes (s : State) (u : Nat) (f : Block → Block) : (s.modBlock u f).cxlBytes = s.cxlBytes := rfl
@[simp] theorem modBlock_cxlDown (s : State) (u : Nat) (f : Block → Block) : (s.modBlock u f).cxlDown = s.cxlDown := rfl
@[simp] theorem modBlock_regQ (s : State) (u : Nat) (f : Block → Block) : (s.modBlock u f).regQ = s.regQ := rfl
@[simp] theorem modBlock_roots (s : State) (u : Nat) (f : Block → Block) : (s.modBlock u f).roots = s.roots := rfl
@[simp] theorem modBlock_keys (s : State) (u : Nat) (f : Block → Block) : (s.modBlock u f).keys = s.keys := rfl
@[simp] theorem modBlock_keyBits (s : State) (u : Nat) (f : Block → Block) : (s.modBlock u f).keyBits = s.keyBits := rfl
@[simp] theorem modBlock_nextKey (s : State) (u : Nat) (f : Block → Block) : (s.modBlock u f).nextKey = s.nextKey := rfl
@[simp] theorem modBlock_pins (s : State) (u : Nat) (f : Block → Block) : (s.modBlock u f).pins = s.pins := rfl
@[simp] theorem modBlock_hot (s : State) (u : Nat) (f : Block → Block) : (s.modBlock u f).hot = s.hot := rfl
@[simp] theorem modBlock_motions (s : State) (u : Nat) (f : Block → Block) : (s.modBlock u f).motions = s.motions := rfl
@[simp] theorem modBlock_promos (s : State) (u : Nat) (f : Block → Block) : (s.modBlock u f).promos = s.promos := rfl
@[simp] theorem modBlock_skpol (s : State) (u : Nat) (f : Block → Block) : (s.modBlock u f).skpol = s.skpol := rfl
@[simp] theorem modBlock_rings (s : State) (u : Nat) (f : Block → Block) : (s.modBlock u f).rings = s.rings := rfl
@[simp] theorem modBlock_invAddr (s : State) (u : Nat) (f : Block → Block) : (s.modBlock u f).invAddr = s.invAddr := rfl
@[simp] theorem modBlock_invCtl (s : State) (u : Nat) (f : Block → Block) : (s.modBlock u f).invCtl = s.invCtl := rfl
@[simp] theorem modBlock_invals (s : State) (u : Nat) (f : Block → Block) : (s.modBlock u f).invals = s.invals := rfl
@[simp] theorem modBlock_copies (s : State) (u : Nat) (f : Block → Block) : (s.modBlock u f).copies = s.copies := rfl
@[simp] theorem modBlock_mats (s : State) (u : Nat) (f : Block → Block) : (s.modBlock u f).mats = s.mats := rfl
@[simp] theorem modBlock_gaths (s : State) (u : Nat) (f : Block → Block) : (s.modBlock u f).gaths = s.gaths := rfl
@[simp] theorem modBlock_subs (s : State) (u : Nat) (f : Block → Block) : (s.modBlock u f).subs = s.subs := rfl
@[simp] theorem modBlock_nextOp (s : State) (u : Nat) (f : Block → Block) : (s.modBlock u f).nextOp = s.nextOp := rfl
@[simp] theorem modBlock_ctxs (s : State) (u : Nat) (f : Block → Block) : (s.modBlock u f).ctxs = s.ctxs := rfl
@[simp] theorem modBlock_dead (s : State) (u : Nat) (f : Block → Block) : (s.modBlock u f).dead = s.dead := rfl
@[simp] theorem modBlock_paused (s : State) (u : Nat) (f : Block → Block) : (s.modBlock u f).paused = s.paused := rfl
@[simp] theorem modBlock_qctl (s : State) (u : Nat) (f : Block → Block) : (s.modBlock u f).qctl = s.qctl := rfl
@[simp] theorem modBlock_qctx (s : State) (u : Nat) (f : Block → Block) : (s.modBlock u f).qctx = s.qctx := rfl
@[simp] theorem modBlock_qtail (s : State) (u : Nat) (f : Block → Block) : (s.modBlock u f).qtail = s.qtail := rfl
@[simp] theorem modBlock_qhead (s : State) (u : Nat) (f : Block → Block) : (s.modBlock u f).qhead = s.qhead := rfl
@[simp] theorem modBlock_qnotices (s : State) (u : Nat) (f : Block → Block) : (s.modBlock u f).qnotices = s.qnotices := rfl
@[simp] theorem modBlock_launches (s : State) (u : Nat) (f : Block → Block) : (s.modBlock u f).launches = s.launches := rfl
@[simp] theorem modBlock_nextLaunch (s : State) (u : Nat) (f : Block → Block) : (s.modBlock u f).nextLaunch = s.nextLaunch := rfl
@[simp] theorem modBlock_codeLog (s : State) (u : Nat) (f : Block → Block) : (s.modBlock u f).codeLog = s.codeLog := rfl
@[simp] theorem modBlock_nextSeq (s : State) (u : Nat) (f : Block → Block) : (s.modBlock u f).nextSeq = s.nextSeq := rfl
@[simp] theorem modBlock_cisQ (s : State) (u : Nat) (f : Block → Block) : (s.modBlock u f).cisQ = s.cisQ := rfl
@[simp] theorem modBlock_slots (s : State) (u : Nat) (f : Block → Block) : (s.modBlock u f).slots = s.slots := rfl
@[simp] theorem modBlock_faultQ (s : State) (u : Nat) (f : Block → Block) : (s.modBlock u f).faultQ = s.faultQ := rfl
@[simp] theorem modBlock_faultSeq (s : State) (u : Nat) (f : Block → Block) : (s.modBlock u f).faultSeq = s.faultSeq := rfl
@[simp] theorem modBlock_diagQ (s : State) (u : Nat) (f : Block → Block) : (s.modBlock u f).diagQ = s.diagQ := rfl
@[simp] theorem modBlock_freply (s : State) (u : Nat) (f : Block → Block) : (s.modBlock u f).freply = s.freply := rfl
@[simp] theorem modBlock_saveUsed (s : State) (u : Nat) (f : Block → Block) : (s.modBlock u f).saveUsed = s.saveUsed := rfl
@[simp] theorem modBlock_chanQ (s : State) (u : Nat) (f : Block → Block) : (s.modBlock u f).chanQ = s.chanQ := rfl
@[simp] theorem modBlock_refreshing (s : State) (u : Nat) (f : Block → Block) : (s.modBlock u f).refreshing = s.refreshing := rfl
@[simp] theorem modBlock_selfRefresh (s : State) (u : Nat) (f : Block → Block) : (s.modBlock u f).selfRefresh = s.selfRefresh := rfl
@[simp] theorem modBlock_misses (s : State) (u : Nat) (f : Block → Block) : (s.modBlock u f).misses = s.misses := rfl
@[simp] theorem modBlock_regions (s : State) (u : Nat) (f : Block → Block) : (s.modBlock u f).regions = s.regions := rfl
@[simp] theorem modBlock_patrols (s : State) (u : Nat) (f : Block → Block) : (s.modBlock u f).patrols = s.patrols := rfl
@[simp] theorem modBlock_scrubs (s : State) (u : Nat) (f : Block → Block) : (s.modBlock u f).scrubs = s.scrubs := rfl
@[simp] theorem modBlock_covered (s : State) (u : Nat) (f : Block → Block) : (s.modBlock u f).covered = s.covered := rfl
@[simp] theorem modBlock_corrections (s : State) (u : Nat) (f : Block → Block) : (s.modBlock u f).corrections = s.corrections := rfl
@[simp] theorem modBlock_bars (s : State) (u : Nat) (f : Block → Block) : (s.modBlock u f).bars = s.bars := rfl
@[simp] theorem modBlock_barQ (s : State) (u : Nat) (f : Block → Block) : (s.modBlock u f).barQ = s.barQ := rfl
@[simp] theorem modBlock_joins (s : State) (u : Nat) (f : Block → Block) : (s.modBlock u f).joins = s.joins := rfl
@[simp] theorem modBlock_joinQ (s : State) (u : Nat) (f : Block → Block) : (s.modBlock u f).joinQ = s.joinQ := rfl
@[simp] theorem modBlock_notice (s : State) (u : Nat) (f : Block → Block) : (s.modBlock u f).notice = s.notice := rfl
@[simp] theorem modBlock_msix (s : State) (u : Nat) (f : Block → Block) : (s.modBlock u f).msix = s.msix := rfl
@[simp] theorem modBlock_mcmd (s : State) (u : Nat) (f : Block → Block) : (s.modBlock u f).mcmd = s.mcmd := rfl
@[simp] theorem modBlock_elog (s : State) (u : Nat) (f : Block → Block) : (s.modBlock u f).elog = s.elog := rfl
@[simp] theorem modBlock_att (s : State) (u : Nat) (f : Block → Block) : (s.modBlock u f).att = s.att := rfl
@[simp] theorem modBlock_therm (s : State) (u : Nat) (f : Block → Block) : (s.modBlock u f).therm = s.therm := rfl
@[simp] theorem modBlock_bootstat (s : State) (u : Nat) (f : Block → Block) : (s.modBlock u f).bootstat = s.bootstat := rfl
@[simp] theorem modBlock_chans (s : State) (u : Nat) (f : Block → Block) : (s.modBlock u f).chans = s.chans := rfl
@[simp] theorem modBlock_stations (s : State) (u : Nat) (f : Block → Block) : (s.modBlock u f).stations = s.stations := rfl
@[simp] theorem modBlock_chorusSigs (s : State) (u : Nat) (f : Block → Block) : (s.modBlock u f).chorusSigs = s.chorusSigs := rfl
@[simp] theorem modBlock_fabid (s : State) (u : Nat) (f : Block → Block) : (s.modBlock u f).fabid = s.fabid := rfl
@[simp] theorem modBlock_peers (s : State) (u : Nat) (f : Block → Block) : (s.modBlock u f).peers = s.peers := rfl
@[simp] theorem modBlock_remOut (s : State) (u : Nat) (f : Block → Block) : (s.modBlock u f).remOut = s.remOut := rfl
@[simp] theorem modBlock_nextTag (s : State) (u : Nat) (f : Block → Block) : (s.modBlock u f).nextTag = s.nextTag := rfl
@[simp] theorem modBlock_rtc (s : State) (u : Nat) (f : Block → Block) : (s.modBlock u f).rtc = s.rtc := rfl
@[simp] theorem modBlock_holders (s : State) (u : Nat) (f : Block → Block) : (s.modBlock u f).holders = s.holders := rfl
@[simp] theorem modBlock_replies (s : State) (u : Nat) (f : Block → Block) : (s.modBlock u f).replies = s.replies := rfl
@[simp] theorem modBlock_outbox (s : State) (u : Nat) (f : Block → Block) : (s.modBlock u f).outbox = s.outbox := rfl
@[simp] theorem modBlock_hostRead (s : State) (u : Nat) (f : Block → Block) : (s.modBlock u f).hostRead = s.hostRead := rfl

/-! ### State.modCore -/

@[simp] theorem modCore_cycle (s : State) (c : Nat) (f : CoreSt → CoreSt) : (s.modCore c f).cycle = s.cycle := rfl
@[simp] theorem modCore_now (s : State) (c : Nat) (f : CoreSt → CoreSt) : (s.modCore c f).now = s.now := rfl
@[simp] theorem modCore_sched (s : State) (c : Nat) (f : CoreSt → CoreSt) : (s.modCore c f).sched = s.sched := rfl
@[simp] theorem modCore_focus (s : State) (c : Nat) (f : CoreSt → CoreSt) : (s.modCore c f).focus = s.focus := rfl
@[simp] theorem modCore_cx (s : State) (c : Nat) (f : CoreSt → CoreSt) : (s.modCore c f).cx = s.cx := rfl
@[simp] theorem modCore_free (s : State) (c : Nat) (f : CoreSt → CoreSt) : (s.modCore c f).free = s.free := rfl
@[simp] theorem modCore_gangs (s : State) (c : Nat) (f : CoreSt → CoreSt) : (s.modCore c f).gangs = s.gangs := rfl
@[simp] theorem modCore_blocks (s : State) (c : Nat) (f : CoreSt → CoreSt) : (s.modCore c f).blocks = s.blocks := rfl
@[simp] theorem modCore_nextUid (s : State) (c : Nat) (f : CoreSt → CoreSt) : (s.modCore c f).nextUid = s.nextUid := rfl
@[simp] theorem modCore_mem (s : State) (c : Nat) (f : CoreSt → CoreSt) : (s.modCore c f).mem = s.mem := rfl
@[simp] theorem modCore_lineKey (s : State) (c : Nat) (f : CoreSt → CoreSt) : (s.modCore c f).lineKey = s.lineKey := rfl
@[simp] theorem modCore_poison (s : State) (c : Nat) (f : CoreSt → CoreSt) : (s.modCore c f).poison = s.poison := rfl
@[simp] theorem modCore_dirty (s : State) (c : Nat) (f : CoreSt → CoreSt) : (s.modCore c f).dirty = s.dirty := rfl
@[simp] theorem modCore_peerTiles (s : State) (c : Nat) (f : CoreSt → CoreSt) : (s.modCore c f).peerTiles = s.peerTiles := rfl
@[simp] theorem modCore_cxlBytes (s : State) (c : Nat) (f : CoreSt → CoreSt) : (s.modCore c f).cxlBytes = s.cxlBytes := rfl
@[simp] theorem modCore_cxlDown (s : State) (c : Nat) (f : CoreSt → CoreSt) : (s.modCore c f).cxlDown = s.cxlDown := rfl
@[simp] theorem modCore_regQ (s : State) (c : Nat) (f : CoreSt → CoreSt) : (s.modCore c f).regQ = s.regQ := rfl
@[simp] theorem modCore_roots (s : State) (c : Nat) (f : CoreSt → CoreSt) : (s.modCore c f).roots = s.roots := rfl
@[simp] theorem modCore_keys (s : State) (c : Nat) (f : CoreSt → CoreSt) : (s.modCore c f).keys = s.keys := rfl
@[simp] theorem modCore_keyBits (s : State) (c : Nat) (f : CoreSt → CoreSt) : (s.modCore c f).keyBits = s.keyBits := rfl
@[simp] theorem modCore_nextKey (s : State) (c : Nat) (f : CoreSt → CoreSt) : (s.modCore c f).nextKey = s.nextKey := rfl
@[simp] theorem modCore_pins (s : State) (c : Nat) (f : CoreSt → CoreSt) : (s.modCore c f).pins = s.pins := rfl
@[simp] theorem modCore_hot (s : State) (c : Nat) (f : CoreSt → CoreSt) : (s.modCore c f).hot = s.hot := rfl
@[simp] theorem modCore_motions (s : State) (c : Nat) (f : CoreSt → CoreSt) : (s.modCore c f).motions = s.motions := rfl
@[simp] theorem modCore_promos (s : State) (c : Nat) (f : CoreSt → CoreSt) : (s.modCore c f).promos = s.promos := rfl
@[simp] theorem modCore_skpol (s : State) (c : Nat) (f : CoreSt → CoreSt) : (s.modCore c f).skpol = s.skpol := rfl
@[simp] theorem modCore_rings (s : State) (c : Nat) (f : CoreSt → CoreSt) : (s.modCore c f).rings = s.rings := rfl
@[simp] theorem modCore_invAddr (s : State) (c : Nat) (f : CoreSt → CoreSt) : (s.modCore c f).invAddr = s.invAddr := rfl
@[simp] theorem modCore_invCtl (s : State) (c : Nat) (f : CoreSt → CoreSt) : (s.modCore c f).invCtl = s.invCtl := rfl
@[simp] theorem modCore_invals (s : State) (c : Nat) (f : CoreSt → CoreSt) : (s.modCore c f).invals = s.invals := rfl
@[simp] theorem modCore_copies (s : State) (c : Nat) (f : CoreSt → CoreSt) : (s.modCore c f).copies = s.copies := rfl
@[simp] theorem modCore_mats (s : State) (c : Nat) (f : CoreSt → CoreSt) : (s.modCore c f).mats = s.mats := rfl
@[simp] theorem modCore_gaths (s : State) (c : Nat) (f : CoreSt → CoreSt) : (s.modCore c f).gaths = s.gaths := rfl
@[simp] theorem modCore_subs (s : State) (c : Nat) (f : CoreSt → CoreSt) : (s.modCore c f).subs = s.subs := rfl
@[simp] theorem modCore_nextOp (s : State) (c : Nat) (f : CoreSt → CoreSt) : (s.modCore c f).nextOp = s.nextOp := rfl
@[simp] theorem modCore_ctxs (s : State) (c : Nat) (f : CoreSt → CoreSt) : (s.modCore c f).ctxs = s.ctxs := rfl
@[simp] theorem modCore_dead (s : State) (c : Nat) (f : CoreSt → CoreSt) : (s.modCore c f).dead = s.dead := rfl
@[simp] theorem modCore_paused (s : State) (c : Nat) (f : CoreSt → CoreSt) : (s.modCore c f).paused = s.paused := rfl
@[simp] theorem modCore_qctl (s : State) (c : Nat) (f : CoreSt → CoreSt) : (s.modCore c f).qctl = s.qctl := rfl
@[simp] theorem modCore_qctx (s : State) (c : Nat) (f : CoreSt → CoreSt) : (s.modCore c f).qctx = s.qctx := rfl
@[simp] theorem modCore_qtail (s : State) (c : Nat) (f : CoreSt → CoreSt) : (s.modCore c f).qtail = s.qtail := rfl
@[simp] theorem modCore_qhead (s : State) (c : Nat) (f : CoreSt → CoreSt) : (s.modCore c f).qhead = s.qhead := rfl
@[simp] theorem modCore_qnotices (s : State) (c : Nat) (f : CoreSt → CoreSt) : (s.modCore c f).qnotices = s.qnotices := rfl
@[simp] theorem modCore_launches (s : State) (c : Nat) (f : CoreSt → CoreSt) : (s.modCore c f).launches = s.launches := rfl
@[simp] theorem modCore_nextLaunch (s : State) (c : Nat) (f : CoreSt → CoreSt) : (s.modCore c f).nextLaunch = s.nextLaunch := rfl
@[simp] theorem modCore_codeLog (s : State) (c : Nat) (f : CoreSt → CoreSt) : (s.modCore c f).codeLog = s.codeLog := rfl
@[simp] theorem modCore_nextSeq (s : State) (c : Nat) (f : CoreSt → CoreSt) : (s.modCore c f).nextSeq = s.nextSeq := rfl
@[simp] theorem modCore_cisQ (s : State) (c : Nat) (f : CoreSt → CoreSt) : (s.modCore c f).cisQ = s.cisQ := rfl
@[simp] theorem modCore_slots (s : State) (c : Nat) (f : CoreSt → CoreSt) : (s.modCore c f).slots = s.slots := rfl
@[simp] theorem modCore_faultQ (s : State) (c : Nat) (f : CoreSt → CoreSt) : (s.modCore c f).faultQ = s.faultQ := rfl
@[simp] theorem modCore_faultSeq (s : State) (c : Nat) (f : CoreSt → CoreSt) : (s.modCore c f).faultSeq = s.faultSeq := rfl
@[simp] theorem modCore_diagQ (s : State) (c : Nat) (f : CoreSt → CoreSt) : (s.modCore c f).diagQ = s.diagQ := rfl
@[simp] theorem modCore_freply (s : State) (c : Nat) (f : CoreSt → CoreSt) : (s.modCore c f).freply = s.freply := rfl
@[simp] theorem modCore_saveUsed (s : State) (c : Nat) (f : CoreSt → CoreSt) : (s.modCore c f).saveUsed = s.saveUsed := rfl
@[simp] theorem modCore_chanQ (s : State) (c : Nat) (f : CoreSt → CoreSt) : (s.modCore c f).chanQ = s.chanQ := rfl
@[simp] theorem modCore_refreshing (s : State) (c : Nat) (f : CoreSt → CoreSt) : (s.modCore c f).refreshing = s.refreshing := rfl
@[simp] theorem modCore_selfRefresh (s : State) (c : Nat) (f : CoreSt → CoreSt) : (s.modCore c f).selfRefresh = s.selfRefresh := rfl
@[simp] theorem modCore_misses (s : State) (c : Nat) (f : CoreSt → CoreSt) : (s.modCore c f).misses = s.misses := rfl
@[simp] theorem modCore_regions (s : State) (c : Nat) (f : CoreSt → CoreSt) : (s.modCore c f).regions = s.regions := rfl
@[simp] theorem modCore_patrols (s : State) (c : Nat) (f : CoreSt → CoreSt) : (s.modCore c f).patrols = s.patrols := rfl
@[simp] theorem modCore_scrubs (s : State) (c : Nat) (f : CoreSt → CoreSt) : (s.modCore c f).scrubs = s.scrubs := rfl
@[simp] theorem modCore_covered (s : State) (c : Nat) (f : CoreSt → CoreSt) : (s.modCore c f).covered = s.covered := rfl
@[simp] theorem modCore_corrections (s : State) (c : Nat) (f : CoreSt → CoreSt) : (s.modCore c f).corrections = s.corrections := rfl
@[simp] theorem modCore_bars (s : State) (c : Nat) (f : CoreSt → CoreSt) : (s.modCore c f).bars = s.bars := rfl
@[simp] theorem modCore_barQ (s : State) (c : Nat) (f : CoreSt → CoreSt) : (s.modCore c f).barQ = s.barQ := rfl
@[simp] theorem modCore_joins (s : State) (c : Nat) (f : CoreSt → CoreSt) : (s.modCore c f).joins = s.joins := rfl
@[simp] theorem modCore_joinQ (s : State) (c : Nat) (f : CoreSt → CoreSt) : (s.modCore c f).joinQ = s.joinQ := rfl
@[simp] theorem modCore_notice (s : State) (c : Nat) (f : CoreSt → CoreSt) : (s.modCore c f).notice = s.notice := rfl
@[simp] theorem modCore_msix (s : State) (c : Nat) (f : CoreSt → CoreSt) : (s.modCore c f).msix = s.msix := rfl
@[simp] theorem modCore_mcmd (s : State) (c : Nat) (f : CoreSt → CoreSt) : (s.modCore c f).mcmd = s.mcmd := rfl
@[simp] theorem modCore_elog (s : State) (c : Nat) (f : CoreSt → CoreSt) : (s.modCore c f).elog = s.elog := rfl
@[simp] theorem modCore_att (s : State) (c : Nat) (f : CoreSt → CoreSt) : (s.modCore c f).att = s.att := rfl
@[simp] theorem modCore_therm (s : State) (c : Nat) (f : CoreSt → CoreSt) : (s.modCore c f).therm = s.therm := rfl
@[simp] theorem modCore_bootstat (s : State) (c : Nat) (f : CoreSt → CoreSt) : (s.modCore c f).bootstat = s.bootstat := rfl
@[simp] theorem modCore_chans (s : State) (c : Nat) (f : CoreSt → CoreSt) : (s.modCore c f).chans = s.chans := rfl
@[simp] theorem modCore_stations (s : State) (c : Nat) (f : CoreSt → CoreSt) : (s.modCore c f).stations = s.stations := rfl
@[simp] theorem modCore_chorusSigs (s : State) (c : Nat) (f : CoreSt → CoreSt) : (s.modCore c f).chorusSigs = s.chorusSigs := rfl
@[simp] theorem modCore_fabid (s : State) (c : Nat) (f : CoreSt → CoreSt) : (s.modCore c f).fabid = s.fabid := rfl
@[simp] theorem modCore_peers (s : State) (c : Nat) (f : CoreSt → CoreSt) : (s.modCore c f).peers = s.peers := rfl
@[simp] theorem modCore_remOut (s : State) (c : Nat) (f : CoreSt → CoreSt) : (s.modCore c f).remOut = s.remOut := rfl
@[simp] theorem modCore_nextTag (s : State) (c : Nat) (f : CoreSt → CoreSt) : (s.modCore c f).nextTag = s.nextTag := rfl
@[simp] theorem modCore_rtc (s : State) (c : Nat) (f : CoreSt → CoreSt) : (s.modCore c f).rtc = s.rtc := rfl
@[simp] theorem modCore_holders (s : State) (c : Nat) (f : CoreSt → CoreSt) : (s.modCore c f).holders = s.holders := rfl
@[simp] theorem modCore_replies (s : State) (c : Nat) (f : CoreSt → CoreSt) : (s.modCore c f).replies = s.replies := rfl
@[simp] theorem modCore_outbox (s : State) (c : Nat) (f : CoreSt → CoreSt) : (s.modCore c f).outbox = s.outbox := rfl
@[simp] theorem modCore_hostRead (s : State) (c : Nat) (f : CoreSt → CoreSt) : (s.modCore c f).hostRead = s.hostRead := rfl

/-! ### State.modLaunch -/

@[simp] theorem modLaunch_cycle (s : State) (id : Nat) (f : Launch → Launch) : (s.modLaunch id f).cycle = s.cycle := rfl
@[simp] theorem modLaunch_now (s : State) (id : Nat) (f : Launch → Launch) : (s.modLaunch id f).now = s.now := rfl
@[simp] theorem modLaunch_sched (s : State) (id : Nat) (f : Launch → Launch) : (s.modLaunch id f).sched = s.sched := rfl
@[simp] theorem modLaunch_focus (s : State) (id : Nat) (f : Launch → Launch) : (s.modLaunch id f).focus = s.focus := rfl
@[simp] theorem modLaunch_cx (s : State) (id : Nat) (f : Launch → Launch) : (s.modLaunch id f).cx = s.cx := rfl
@[simp] theorem modLaunch_free (s : State) (id : Nat) (f : Launch → Launch) : (s.modLaunch id f).free = s.free := rfl
@[simp] theorem modLaunch_gangs (s : State) (id : Nat) (f : Launch → Launch) : (s.modLaunch id f).gangs = s.gangs := rfl
@[simp] theorem modLaunch_blocks (s : State) (id : Nat) (f : Launch → Launch) : (s.modLaunch id f).blocks = s.blocks := rfl
@[simp] theorem modLaunch_cores (s : State) (id : Nat) (f : Launch → Launch) : (s.modLaunch id f).cores = s.cores := rfl
@[simp] theorem modLaunch_nextUid (s : State) (id : Nat) (f : Launch → Launch) : (s.modLaunch id f).nextUid = s.nextUid := rfl
@[simp] theorem modLaunch_mem (s : State) (id : Nat) (f : Launch → Launch) : (s.modLaunch id f).mem = s.mem := rfl
@[simp] theorem modLaunch_lineKey (s : State) (id : Nat) (f : Launch → Launch) : (s.modLaunch id f).lineKey = s.lineKey := rfl
@[simp] theorem modLaunch_poison (s : State) (id : Nat) (f : Launch → Launch) : (s.modLaunch id f).poison = s.poison := rfl
@[simp] theorem modLaunch_dirty (s : State) (id : Nat) (f : Launch → Launch) : (s.modLaunch id f).dirty = s.dirty := rfl
@[simp] theorem modLaunch_peerTiles (s : State) (id : Nat) (f : Launch → Launch) : (s.modLaunch id f).peerTiles = s.peerTiles := rfl
@[simp] theorem modLaunch_cxlBytes (s : State) (id : Nat) (f : Launch → Launch) : (s.modLaunch id f).cxlBytes = s.cxlBytes := rfl
@[simp] theorem modLaunch_cxlDown (s : State) (id : Nat) (f : Launch → Launch) : (s.modLaunch id f).cxlDown = s.cxlDown := rfl
@[simp] theorem modLaunch_regQ (s : State) (id : Nat) (f : Launch → Launch) : (s.modLaunch id f).regQ = s.regQ := rfl
@[simp] theorem modLaunch_roots (s : State) (id : Nat) (f : Launch → Launch) : (s.modLaunch id f).roots = s.roots := rfl
@[simp] theorem modLaunch_keys (s : State) (id : Nat) (f : Launch → Launch) : (s.modLaunch id f).keys = s.keys := rfl
@[simp] theorem modLaunch_keyBits (s : State) (id : Nat) (f : Launch → Launch) : (s.modLaunch id f).keyBits = s.keyBits := rfl
@[simp] theorem modLaunch_nextKey (s : State) (id : Nat) (f : Launch → Launch) : (s.modLaunch id f).nextKey = s.nextKey := rfl
@[simp] theorem modLaunch_pins (s : State) (id : Nat) (f : Launch → Launch) : (s.modLaunch id f).pins = s.pins := rfl
@[simp] theorem modLaunch_hot (s : State) (id : Nat) (f : Launch → Launch) : (s.modLaunch id f).hot = s.hot := rfl
@[simp] theorem modLaunch_motions (s : State) (id : Nat) (f : Launch → Launch) : (s.modLaunch id f).motions = s.motions := rfl
@[simp] theorem modLaunch_promos (s : State) (id : Nat) (f : Launch → Launch) : (s.modLaunch id f).promos = s.promos := rfl
@[simp] theorem modLaunch_skpol (s : State) (id : Nat) (f : Launch → Launch) : (s.modLaunch id f).skpol = s.skpol := rfl
@[simp] theorem modLaunch_rings (s : State) (id : Nat) (f : Launch → Launch) : (s.modLaunch id f).rings = s.rings := rfl
@[simp] theorem modLaunch_invAddr (s : State) (id : Nat) (f : Launch → Launch) : (s.modLaunch id f).invAddr = s.invAddr := rfl
@[simp] theorem modLaunch_invCtl (s : State) (id : Nat) (f : Launch → Launch) : (s.modLaunch id f).invCtl = s.invCtl := rfl
@[simp] theorem modLaunch_invals (s : State) (id : Nat) (f : Launch → Launch) : (s.modLaunch id f).invals = s.invals := rfl
@[simp] theorem modLaunch_copies (s : State) (id : Nat) (f : Launch → Launch) : (s.modLaunch id f).copies = s.copies := rfl
@[simp] theorem modLaunch_mats (s : State) (id : Nat) (f : Launch → Launch) : (s.modLaunch id f).mats = s.mats := rfl
@[simp] theorem modLaunch_gaths (s : State) (id : Nat) (f : Launch → Launch) : (s.modLaunch id f).gaths = s.gaths := rfl
@[simp] theorem modLaunch_subs (s : State) (id : Nat) (f : Launch → Launch) : (s.modLaunch id f).subs = s.subs := rfl
@[simp] theorem modLaunch_nextOp (s : State) (id : Nat) (f : Launch → Launch) : (s.modLaunch id f).nextOp = s.nextOp := rfl
@[simp] theorem modLaunch_ctxs (s : State) (id : Nat) (f : Launch → Launch) : (s.modLaunch id f).ctxs = s.ctxs := rfl
@[simp] theorem modLaunch_dead (s : State) (id : Nat) (f : Launch → Launch) : (s.modLaunch id f).dead = s.dead := rfl
@[simp] theorem modLaunch_paused (s : State) (id : Nat) (f : Launch → Launch) : (s.modLaunch id f).paused = s.paused := rfl
@[simp] theorem modLaunch_qctl (s : State) (id : Nat) (f : Launch → Launch) : (s.modLaunch id f).qctl = s.qctl := rfl
@[simp] theorem modLaunch_qctx (s : State) (id : Nat) (f : Launch → Launch) : (s.modLaunch id f).qctx = s.qctx := rfl
@[simp] theorem modLaunch_qtail (s : State) (id : Nat) (f : Launch → Launch) : (s.modLaunch id f).qtail = s.qtail := rfl
@[simp] theorem modLaunch_qhead (s : State) (id : Nat) (f : Launch → Launch) : (s.modLaunch id f).qhead = s.qhead := rfl
@[simp] theorem modLaunch_qnotices (s : State) (id : Nat) (f : Launch → Launch) : (s.modLaunch id f).qnotices = s.qnotices := rfl
@[simp] theorem modLaunch_nextLaunch (s : State) (id : Nat) (f : Launch → Launch) : (s.modLaunch id f).nextLaunch = s.nextLaunch := rfl
@[simp] theorem modLaunch_codeLog (s : State) (id : Nat) (f : Launch → Launch) : (s.modLaunch id f).codeLog = s.codeLog := rfl
@[simp] theorem modLaunch_nextSeq (s : State) (id : Nat) (f : Launch → Launch) : (s.modLaunch id f).nextSeq = s.nextSeq := rfl
@[simp] theorem modLaunch_cisQ (s : State) (id : Nat) (f : Launch → Launch) : (s.modLaunch id f).cisQ = s.cisQ := rfl
@[simp] theorem modLaunch_slots (s : State) (id : Nat) (f : Launch → Launch) : (s.modLaunch id f).slots = s.slots := rfl
@[simp] theorem modLaunch_faultQ (s : State) (id : Nat) (f : Launch → Launch) : (s.modLaunch id f).faultQ = s.faultQ := rfl
@[simp] theorem modLaunch_faultSeq (s : State) (id : Nat) (f : Launch → Launch) : (s.modLaunch id f).faultSeq = s.faultSeq := rfl
@[simp] theorem modLaunch_diagQ (s : State) (id : Nat) (f : Launch → Launch) : (s.modLaunch id f).diagQ = s.diagQ := rfl
@[simp] theorem modLaunch_freply (s : State) (id : Nat) (f : Launch → Launch) : (s.modLaunch id f).freply = s.freply := rfl
@[simp] theorem modLaunch_saveUsed (s : State) (id : Nat) (f : Launch → Launch) : (s.modLaunch id f).saveUsed = s.saveUsed := rfl
@[simp] theorem modLaunch_chanQ (s : State) (id : Nat) (f : Launch → Launch) : (s.modLaunch id f).chanQ = s.chanQ := rfl
@[simp] theorem modLaunch_refreshing (s : State) (id : Nat) (f : Launch → Launch) : (s.modLaunch id f).refreshing = s.refreshing := rfl
@[simp] theorem modLaunch_selfRefresh (s : State) (id : Nat) (f : Launch → Launch) : (s.modLaunch id f).selfRefresh = s.selfRefresh := rfl
@[simp] theorem modLaunch_misses (s : State) (id : Nat) (f : Launch → Launch) : (s.modLaunch id f).misses = s.misses := rfl
@[simp] theorem modLaunch_regions (s : State) (id : Nat) (f : Launch → Launch) : (s.modLaunch id f).regions = s.regions := rfl
@[simp] theorem modLaunch_patrols (s : State) (id : Nat) (f : Launch → Launch) : (s.modLaunch id f).patrols = s.patrols := rfl
@[simp] theorem modLaunch_scrubs (s : State) (id : Nat) (f : Launch → Launch) : (s.modLaunch id f).scrubs = s.scrubs := rfl
@[simp] theorem modLaunch_covered (s : State) (id : Nat) (f : Launch → Launch) : (s.modLaunch id f).covered = s.covered := rfl
@[simp] theorem modLaunch_corrections (s : State) (id : Nat) (f : Launch → Launch) : (s.modLaunch id f).corrections = s.corrections := rfl
@[simp] theorem modLaunch_bars (s : State) (id : Nat) (f : Launch → Launch) : (s.modLaunch id f).bars = s.bars := rfl
@[simp] theorem modLaunch_barQ (s : State) (id : Nat) (f : Launch → Launch) : (s.modLaunch id f).barQ = s.barQ := rfl
@[simp] theorem modLaunch_joins (s : State) (id : Nat) (f : Launch → Launch) : (s.modLaunch id f).joins = s.joins := rfl
@[simp] theorem modLaunch_joinQ (s : State) (id : Nat) (f : Launch → Launch) : (s.modLaunch id f).joinQ = s.joinQ := rfl
@[simp] theorem modLaunch_notice (s : State) (id : Nat) (f : Launch → Launch) : (s.modLaunch id f).notice = s.notice := rfl
@[simp] theorem modLaunch_msix (s : State) (id : Nat) (f : Launch → Launch) : (s.modLaunch id f).msix = s.msix := rfl
@[simp] theorem modLaunch_mcmd (s : State) (id : Nat) (f : Launch → Launch) : (s.modLaunch id f).mcmd = s.mcmd := rfl
@[simp] theorem modLaunch_elog (s : State) (id : Nat) (f : Launch → Launch) : (s.modLaunch id f).elog = s.elog := rfl
@[simp] theorem modLaunch_att (s : State) (id : Nat) (f : Launch → Launch) : (s.modLaunch id f).att = s.att := rfl
@[simp] theorem modLaunch_therm (s : State) (id : Nat) (f : Launch → Launch) : (s.modLaunch id f).therm = s.therm := rfl
@[simp] theorem modLaunch_bootstat (s : State) (id : Nat) (f : Launch → Launch) : (s.modLaunch id f).bootstat = s.bootstat := rfl
@[simp] theorem modLaunch_chans (s : State) (id : Nat) (f : Launch → Launch) : (s.modLaunch id f).chans = s.chans := rfl
@[simp] theorem modLaunch_stations (s : State) (id : Nat) (f : Launch → Launch) : (s.modLaunch id f).stations = s.stations := rfl
@[simp] theorem modLaunch_chorusSigs (s : State) (id : Nat) (f : Launch → Launch) : (s.modLaunch id f).chorusSigs = s.chorusSigs := rfl
@[simp] theorem modLaunch_fabid (s : State) (id : Nat) (f : Launch → Launch) : (s.modLaunch id f).fabid = s.fabid := rfl
@[simp] theorem modLaunch_peers (s : State) (id : Nat) (f : Launch → Launch) : (s.modLaunch id f).peers = s.peers := rfl
@[simp] theorem modLaunch_remOut (s : State) (id : Nat) (f : Launch → Launch) : (s.modLaunch id f).remOut = s.remOut := rfl
@[simp] theorem modLaunch_nextTag (s : State) (id : Nat) (f : Launch → Launch) : (s.modLaunch id f).nextTag = s.nextTag := rfl
@[simp] theorem modLaunch_rtc (s : State) (id : Nat) (f : Launch → Launch) : (s.modLaunch id f).rtc = s.rtc := rfl
@[simp] theorem modLaunch_holders (s : State) (id : Nat) (f : Launch → Launch) : (s.modLaunch id f).holders = s.holders := rfl
@[simp] theorem modLaunch_replies (s : State) (id : Nat) (f : Launch → Launch) : (s.modLaunch id f).replies = s.replies := rfl
@[simp] theorem modLaunch_outbox (s : State) (id : Nat) (f : Launch → Launch) : (s.modLaunch id f).outbox = s.outbox := rfl
@[simp] theorem modLaunch_hostRead (s : State) (id : Nat) (f : Launch → Launch) : (s.modLaunch id f).hostRead = s.hostRead := rfl

/-! ### State.onIssuer -/

@[simp] theorem onIssuer_cycle (s : State) (f : Gang → Gang) : (s.onIssuer f).cycle = s.cycle := rfl
@[simp] theorem onIssuer_now (s : State) (f : Gang → Gang) : (s.onIssuer f).now = s.now := rfl
@[simp] theorem onIssuer_sched (s : State) (f : Gang → Gang) : (s.onIssuer f).sched = s.sched := rfl
@[simp] theorem onIssuer_focus (s : State) (f : Gang → Gang) : (s.onIssuer f).focus = s.focus := rfl
@[simp] theorem onIssuer_cx (s : State) (f : Gang → Gang) : (s.onIssuer f).cx = s.cx := rfl
@[simp] theorem onIssuer_free (s : State) (f : Gang → Gang) : (s.onIssuer f).free = s.free := rfl
@[simp] theorem onIssuer_blocks (s : State) (f : Gang → Gang) : (s.onIssuer f).blocks = s.blocks := rfl
@[simp] theorem onIssuer_cores (s : State) (f : Gang → Gang) : (s.onIssuer f).cores = s.cores := rfl
@[simp] theorem onIssuer_nextUid (s : State) (f : Gang → Gang) : (s.onIssuer f).nextUid = s.nextUid := rfl
@[simp] theorem onIssuer_mem (s : State) (f : Gang → Gang) : (s.onIssuer f).mem = s.mem := rfl
@[simp] theorem onIssuer_lineKey (s : State) (f : Gang → Gang) : (s.onIssuer f).lineKey = s.lineKey := rfl
@[simp] theorem onIssuer_poison (s : State) (f : Gang → Gang) : (s.onIssuer f).poison = s.poison := rfl
@[simp] theorem onIssuer_dirty (s : State) (f : Gang → Gang) : (s.onIssuer f).dirty = s.dirty := rfl
@[simp] theorem onIssuer_peerTiles (s : State) (f : Gang → Gang) : (s.onIssuer f).peerTiles = s.peerTiles := rfl
@[simp] theorem onIssuer_cxlBytes (s : State) (f : Gang → Gang) : (s.onIssuer f).cxlBytes = s.cxlBytes := rfl
@[simp] theorem onIssuer_cxlDown (s : State) (f : Gang → Gang) : (s.onIssuer f).cxlDown = s.cxlDown := rfl
@[simp] theorem onIssuer_regQ (s : State) (f : Gang → Gang) : (s.onIssuer f).regQ = s.regQ := rfl
@[simp] theorem onIssuer_roots (s : State) (f : Gang → Gang) : (s.onIssuer f).roots = s.roots := rfl
@[simp] theorem onIssuer_keys (s : State) (f : Gang → Gang) : (s.onIssuer f).keys = s.keys := rfl
@[simp] theorem onIssuer_keyBits (s : State) (f : Gang → Gang) : (s.onIssuer f).keyBits = s.keyBits := rfl
@[simp] theorem onIssuer_nextKey (s : State) (f : Gang → Gang) : (s.onIssuer f).nextKey = s.nextKey := rfl
@[simp] theorem onIssuer_pins (s : State) (f : Gang → Gang) : (s.onIssuer f).pins = s.pins := rfl
@[simp] theorem onIssuer_hot (s : State) (f : Gang → Gang) : (s.onIssuer f).hot = s.hot := rfl
@[simp] theorem onIssuer_motions (s : State) (f : Gang → Gang) : (s.onIssuer f).motions = s.motions := rfl
@[simp] theorem onIssuer_promos (s : State) (f : Gang → Gang) : (s.onIssuer f).promos = s.promos := rfl
@[simp] theorem onIssuer_skpol (s : State) (f : Gang → Gang) : (s.onIssuer f).skpol = s.skpol := rfl
@[simp] theorem onIssuer_rings (s : State) (f : Gang → Gang) : (s.onIssuer f).rings = s.rings := rfl
@[simp] theorem onIssuer_invAddr (s : State) (f : Gang → Gang) : (s.onIssuer f).invAddr = s.invAddr := rfl
@[simp] theorem onIssuer_invCtl (s : State) (f : Gang → Gang) : (s.onIssuer f).invCtl = s.invCtl := rfl
@[simp] theorem onIssuer_invals (s : State) (f : Gang → Gang) : (s.onIssuer f).invals = s.invals := rfl
@[simp] theorem onIssuer_copies (s : State) (f : Gang → Gang) : (s.onIssuer f).copies = s.copies := rfl
@[simp] theorem onIssuer_mats (s : State) (f : Gang → Gang) : (s.onIssuer f).mats = s.mats := rfl
@[simp] theorem onIssuer_gaths (s : State) (f : Gang → Gang) : (s.onIssuer f).gaths = s.gaths := rfl
@[simp] theorem onIssuer_subs (s : State) (f : Gang → Gang) : (s.onIssuer f).subs = s.subs := rfl
@[simp] theorem onIssuer_nextOp (s : State) (f : Gang → Gang) : (s.onIssuer f).nextOp = s.nextOp := rfl
@[simp] theorem onIssuer_ctxs (s : State) (f : Gang → Gang) : (s.onIssuer f).ctxs = s.ctxs := rfl
@[simp] theorem onIssuer_dead (s : State) (f : Gang → Gang) : (s.onIssuer f).dead = s.dead := rfl
@[simp] theorem onIssuer_paused (s : State) (f : Gang → Gang) : (s.onIssuer f).paused = s.paused := rfl
@[simp] theorem onIssuer_qctl (s : State) (f : Gang → Gang) : (s.onIssuer f).qctl = s.qctl := rfl
@[simp] theorem onIssuer_qctx (s : State) (f : Gang → Gang) : (s.onIssuer f).qctx = s.qctx := rfl
@[simp] theorem onIssuer_qtail (s : State) (f : Gang → Gang) : (s.onIssuer f).qtail = s.qtail := rfl
@[simp] theorem onIssuer_qhead (s : State) (f : Gang → Gang) : (s.onIssuer f).qhead = s.qhead := rfl
@[simp] theorem onIssuer_qnotices (s : State) (f : Gang → Gang) : (s.onIssuer f).qnotices = s.qnotices := rfl
@[simp] theorem onIssuer_launches (s : State) (f : Gang → Gang) : (s.onIssuer f).launches = s.launches := rfl
@[simp] theorem onIssuer_nextLaunch (s : State) (f : Gang → Gang) : (s.onIssuer f).nextLaunch = s.nextLaunch := rfl
@[simp] theorem onIssuer_codeLog (s : State) (f : Gang → Gang) : (s.onIssuer f).codeLog = s.codeLog := rfl
@[simp] theorem onIssuer_nextSeq (s : State) (f : Gang → Gang) : (s.onIssuer f).nextSeq = s.nextSeq := rfl
@[simp] theorem onIssuer_cisQ (s : State) (f : Gang → Gang) : (s.onIssuer f).cisQ = s.cisQ := rfl
@[simp] theorem onIssuer_slots (s : State) (f : Gang → Gang) : (s.onIssuer f).slots = s.slots := rfl
@[simp] theorem onIssuer_faultQ (s : State) (f : Gang → Gang) : (s.onIssuer f).faultQ = s.faultQ := rfl
@[simp] theorem onIssuer_faultSeq (s : State) (f : Gang → Gang) : (s.onIssuer f).faultSeq = s.faultSeq := rfl
@[simp] theorem onIssuer_diagQ (s : State) (f : Gang → Gang) : (s.onIssuer f).diagQ = s.diagQ := rfl
@[simp] theorem onIssuer_freply (s : State) (f : Gang → Gang) : (s.onIssuer f).freply = s.freply := rfl
@[simp] theorem onIssuer_saveUsed (s : State) (f : Gang → Gang) : (s.onIssuer f).saveUsed = s.saveUsed := rfl
@[simp] theorem onIssuer_chanQ (s : State) (f : Gang → Gang) : (s.onIssuer f).chanQ = s.chanQ := rfl
@[simp] theorem onIssuer_refreshing (s : State) (f : Gang → Gang) : (s.onIssuer f).refreshing = s.refreshing := rfl
@[simp] theorem onIssuer_selfRefresh (s : State) (f : Gang → Gang) : (s.onIssuer f).selfRefresh = s.selfRefresh := rfl
@[simp] theorem onIssuer_misses (s : State) (f : Gang → Gang) : (s.onIssuer f).misses = s.misses := rfl
@[simp] theorem onIssuer_regions (s : State) (f : Gang → Gang) : (s.onIssuer f).regions = s.regions := rfl
@[simp] theorem onIssuer_patrols (s : State) (f : Gang → Gang) : (s.onIssuer f).patrols = s.patrols := rfl
@[simp] theorem onIssuer_scrubs (s : State) (f : Gang → Gang) : (s.onIssuer f).scrubs = s.scrubs := rfl
@[simp] theorem onIssuer_covered (s : State) (f : Gang → Gang) : (s.onIssuer f).covered = s.covered := rfl
@[simp] theorem onIssuer_corrections (s : State) (f : Gang → Gang) : (s.onIssuer f).corrections = s.corrections := rfl
@[simp] theorem onIssuer_bars (s : State) (f : Gang → Gang) : (s.onIssuer f).bars = s.bars := rfl
@[simp] theorem onIssuer_barQ (s : State) (f : Gang → Gang) : (s.onIssuer f).barQ = s.barQ := rfl
@[simp] theorem onIssuer_joins (s : State) (f : Gang → Gang) : (s.onIssuer f).joins = s.joins := rfl
@[simp] theorem onIssuer_joinQ (s : State) (f : Gang → Gang) : (s.onIssuer f).joinQ = s.joinQ := rfl
@[simp] theorem onIssuer_notice (s : State) (f : Gang → Gang) : (s.onIssuer f).notice = s.notice := rfl
@[simp] theorem onIssuer_msix (s : State) (f : Gang → Gang) : (s.onIssuer f).msix = s.msix := rfl
@[simp] theorem onIssuer_mcmd (s : State) (f : Gang → Gang) : (s.onIssuer f).mcmd = s.mcmd := rfl
@[simp] theorem onIssuer_elog (s : State) (f : Gang → Gang) : (s.onIssuer f).elog = s.elog := rfl
@[simp] theorem onIssuer_att (s : State) (f : Gang → Gang) : (s.onIssuer f).att = s.att := rfl
@[simp] theorem onIssuer_therm (s : State) (f : Gang → Gang) : (s.onIssuer f).therm = s.therm := rfl
@[simp] theorem onIssuer_bootstat (s : State) (f : Gang → Gang) : (s.onIssuer f).bootstat = s.bootstat := rfl
@[simp] theorem onIssuer_chans (s : State) (f : Gang → Gang) : (s.onIssuer f).chans = s.chans := rfl
@[simp] theorem onIssuer_stations (s : State) (f : Gang → Gang) : (s.onIssuer f).stations = s.stations := rfl
@[simp] theorem onIssuer_chorusSigs (s : State) (f : Gang → Gang) : (s.onIssuer f).chorusSigs = s.chorusSigs := rfl
@[simp] theorem onIssuer_fabid (s : State) (f : Gang → Gang) : (s.onIssuer f).fabid = s.fabid := rfl
@[simp] theorem onIssuer_peers (s : State) (f : Gang → Gang) : (s.onIssuer f).peers = s.peers := rfl
@[simp] theorem onIssuer_remOut (s : State) (f : Gang → Gang) : (s.onIssuer f).remOut = s.remOut := rfl
@[simp] theorem onIssuer_nextTag (s : State) (f : Gang → Gang) : (s.onIssuer f).nextTag = s.nextTag := rfl
@[simp] theorem onIssuer_rtc (s : State) (f : Gang → Gang) : (s.onIssuer f).rtc = s.rtc := rfl
@[simp] theorem onIssuer_holders (s : State) (f : Gang → Gang) : (s.onIssuer f).holders = s.holders := rfl
@[simp] theorem onIssuer_replies (s : State) (f : Gang → Gang) : (s.onIssuer f).replies = s.replies := rfl
@[simp] theorem onIssuer_outbox (s : State) (f : Gang → Gang) : (s.onIssuer f).outbox = s.outbox := rfl
@[simp] theorem onIssuer_hostRead (s : State) (f : Gang → Gang) : (s.onIssuer f).hostRead = s.hostRead := rfl

/-! ### raiseFault, State.stalled, State.choose -/

@[simp] theorem raiseFault_cycle (s : State) (r : FaultReq) : (raiseFault s r).cycle = s.cycle := rfl
@[simp] theorem raiseFault_now (s : State) (r : FaultReq) : (raiseFault s r).now = s.now := rfl
@[simp] theorem raiseFault_sched (s : State) (r : FaultReq) : (raiseFault s r).sched = s.sched := rfl
@[simp] theorem raiseFault_focus (s : State) (r : FaultReq) : (raiseFault s r).focus = s.focus := rfl
@[simp] theorem raiseFault_cx (s : State) (r : FaultReq) : (raiseFault s r).cx = s.cx := rfl
@[simp] theorem raiseFault_free (s : State) (r : FaultReq) : (raiseFault s r).free = s.free := rfl
@[simp] theorem raiseFault_gangs (s : State) (r : FaultReq) : (raiseFault s r).gangs = s.gangs := rfl
@[simp] theorem raiseFault_blocks (s : State) (r : FaultReq) : (raiseFault s r).blocks = s.blocks := rfl
@[simp] theorem raiseFault_cores (s : State) (r : FaultReq) : (raiseFault s r).cores = s.cores := rfl
@[simp] theorem raiseFault_nextUid (s : State) (r : FaultReq) : (raiseFault s r).nextUid = s.nextUid := rfl
@[simp] theorem raiseFault_mem (s : State) (r : FaultReq) : (raiseFault s r).mem = s.mem := rfl
@[simp] theorem raiseFault_lineKey (s : State) (r : FaultReq) : (raiseFault s r).lineKey = s.lineKey := rfl
@[simp] theorem raiseFault_poison (s : State) (r : FaultReq) : (raiseFault s r).poison = s.poison := rfl
@[simp] theorem raiseFault_dirty (s : State) (r : FaultReq) : (raiseFault s r).dirty = s.dirty := rfl
@[simp] theorem raiseFault_peerTiles (s : State) (r : FaultReq) : (raiseFault s r).peerTiles = s.peerTiles := rfl
@[simp] theorem raiseFault_cxlBytes (s : State) (r : FaultReq) : (raiseFault s r).cxlBytes = s.cxlBytes := rfl
@[simp] theorem raiseFault_cxlDown (s : State) (r : FaultReq) : (raiseFault s r).cxlDown = s.cxlDown := rfl
@[simp] theorem raiseFault_regQ (s : State) (r : FaultReq) : (raiseFault s r).regQ = s.regQ := rfl
@[simp] theorem raiseFault_roots (s : State) (r : FaultReq) : (raiseFault s r).roots = s.roots := rfl
@[simp] theorem raiseFault_keys (s : State) (r : FaultReq) : (raiseFault s r).keys = s.keys := rfl
@[simp] theorem raiseFault_keyBits (s : State) (r : FaultReq) : (raiseFault s r).keyBits = s.keyBits := rfl
@[simp] theorem raiseFault_nextKey (s : State) (r : FaultReq) : (raiseFault s r).nextKey = s.nextKey := rfl
@[simp] theorem raiseFault_pins (s : State) (r : FaultReq) : (raiseFault s r).pins = s.pins := rfl
@[simp] theorem raiseFault_hot (s : State) (r : FaultReq) : (raiseFault s r).hot = s.hot := rfl
@[simp] theorem raiseFault_motions (s : State) (r : FaultReq) : (raiseFault s r).motions = s.motions := rfl
@[simp] theorem raiseFault_promos (s : State) (r : FaultReq) : (raiseFault s r).promos = s.promos := rfl
@[simp] theorem raiseFault_skpol (s : State) (r : FaultReq) : (raiseFault s r).skpol = s.skpol := rfl
@[simp] theorem raiseFault_rings (s : State) (r : FaultReq) : (raiseFault s r).rings = s.rings := rfl
@[simp] theorem raiseFault_invAddr (s : State) (r : FaultReq) : (raiseFault s r).invAddr = s.invAddr := rfl
@[simp] theorem raiseFault_invCtl (s : State) (r : FaultReq) : (raiseFault s r).invCtl = s.invCtl := rfl
@[simp] theorem raiseFault_invals (s : State) (r : FaultReq) : (raiseFault s r).invals = s.invals := rfl
@[simp] theorem raiseFault_copies (s : State) (r : FaultReq) : (raiseFault s r).copies = s.copies := rfl
@[simp] theorem raiseFault_mats (s : State) (r : FaultReq) : (raiseFault s r).mats = s.mats := rfl
@[simp] theorem raiseFault_gaths (s : State) (r : FaultReq) : (raiseFault s r).gaths = s.gaths := rfl
@[simp] theorem raiseFault_subs (s : State) (r : FaultReq) : (raiseFault s r).subs = s.subs := rfl
@[simp] theorem raiseFault_nextOp (s : State) (r : FaultReq) : (raiseFault s r).nextOp = s.nextOp := rfl
@[simp] theorem raiseFault_ctxs (s : State) (r : FaultReq) : (raiseFault s r).ctxs = s.ctxs := rfl
@[simp] theorem raiseFault_dead (s : State) (r : FaultReq) : (raiseFault s r).dead = s.dead := rfl
@[simp] theorem raiseFault_paused (s : State) (r : FaultReq) : (raiseFault s r).paused = s.paused := rfl
@[simp] theorem raiseFault_qctl (s : State) (r : FaultReq) : (raiseFault s r).qctl = s.qctl := rfl
@[simp] theorem raiseFault_qctx (s : State) (r : FaultReq) : (raiseFault s r).qctx = s.qctx := rfl
@[simp] theorem raiseFault_qtail (s : State) (r : FaultReq) : (raiseFault s r).qtail = s.qtail := rfl
@[simp] theorem raiseFault_qhead (s : State) (r : FaultReq) : (raiseFault s r).qhead = s.qhead := rfl
@[simp] theorem raiseFault_qnotices (s : State) (r : FaultReq) : (raiseFault s r).qnotices = s.qnotices := rfl
@[simp] theorem raiseFault_launches (s : State) (r : FaultReq) : (raiseFault s r).launches = s.launches := rfl
@[simp] theorem raiseFault_nextLaunch (s : State) (r : FaultReq) : (raiseFault s r).nextLaunch = s.nextLaunch := rfl
@[simp] theorem raiseFault_codeLog (s : State) (r : FaultReq) : (raiseFault s r).codeLog = s.codeLog := rfl
@[simp] theorem raiseFault_nextSeq (s : State) (r : FaultReq) : (raiseFault s r).nextSeq = s.nextSeq := rfl
@[simp] theorem raiseFault_cisQ (s : State) (r : FaultReq) : (raiseFault s r).cisQ = s.cisQ := rfl
@[simp] theorem raiseFault_slots (s : State) (r : FaultReq) : (raiseFault s r).slots = s.slots := rfl
@[simp] theorem raiseFault_faultSeq (s : State) (r : FaultReq) : (raiseFault s r).faultSeq = s.faultSeq := rfl
@[simp] theorem raiseFault_diagQ (s : State) (r : FaultReq) : (raiseFault s r).diagQ = s.diagQ := rfl
@[simp] theorem raiseFault_freply (s : State) (r : FaultReq) : (raiseFault s r).freply = s.freply := rfl
@[simp] theorem raiseFault_saveUsed (s : State) (r : FaultReq) : (raiseFault s r).saveUsed = s.saveUsed := rfl
@[simp] theorem raiseFault_chanQ (s : State) (r : FaultReq) : (raiseFault s r).chanQ = s.chanQ := rfl
@[simp] theorem raiseFault_refreshing (s : State) (r : FaultReq) : (raiseFault s r).refreshing = s.refreshing := rfl
@[simp] theorem raiseFault_selfRefresh (s : State) (r : FaultReq) : (raiseFault s r).selfRefresh = s.selfRefresh := rfl
@[simp] theorem raiseFault_misses (s : State) (r : FaultReq) : (raiseFault s r).misses = s.misses := rfl
@[simp] theorem raiseFault_regions (s : State) (r : FaultReq) : (raiseFault s r).regions = s.regions := rfl
@[simp] theorem raiseFault_patrols (s : State) (r : FaultReq) : (raiseFault s r).patrols = s.patrols := rfl
@[simp] theorem raiseFault_scrubs (s : State) (r : FaultReq) : (raiseFault s r).scrubs = s.scrubs := rfl
@[simp] theorem raiseFault_covered (s : State) (r : FaultReq) : (raiseFault s r).covered = s.covered := rfl
@[simp] theorem raiseFault_corrections (s : State) (r : FaultReq) : (raiseFault s r).corrections = s.corrections := rfl
@[simp] theorem raiseFault_bars (s : State) (r : FaultReq) : (raiseFault s r).bars = s.bars := rfl
@[simp] theorem raiseFault_barQ (s : State) (r : FaultReq) : (raiseFault s r).barQ = s.barQ := rfl
@[simp] theorem raiseFault_joins (s : State) (r : FaultReq) : (raiseFault s r).joins = s.joins := rfl
@[simp] theorem raiseFault_joinQ (s : State) (r : FaultReq) : (raiseFault s r).joinQ = s.joinQ := rfl
@[simp] theorem raiseFault_notice (s : State) (r : FaultReq) : (raiseFault s r).notice = s.notice := rfl
@[simp] theorem raiseFault_msix (s : State) (r : FaultReq) : (raiseFault s r).msix = s.msix := rfl
@[simp] theorem raiseFault_mcmd (s : State) (r : FaultReq) : (raiseFault s r).mcmd = s.mcmd := rfl
@[simp] theorem raiseFault_elog (s : State) (r : FaultReq) : (raiseFault s r).elog = s.elog := rfl
@[simp] theorem raiseFault_att (s : State) (r : FaultReq) : (raiseFault s r).att = s.att := rfl
@[simp] theorem raiseFault_therm (s : State) (r : FaultReq) : (raiseFault s r).therm = s.therm := rfl
@[simp] theorem raiseFault_bootstat (s : State) (r : FaultReq) : (raiseFault s r).bootstat = s.bootstat := rfl
@[simp] theorem raiseFault_chans (s : State) (r : FaultReq) : (raiseFault s r).chans = s.chans := rfl
@[simp] theorem raiseFault_stations (s : State) (r : FaultReq) : (raiseFault s r).stations = s.stations := rfl
@[simp] theorem raiseFault_chorusSigs (s : State) (r : FaultReq) : (raiseFault s r).chorusSigs = s.chorusSigs := rfl
@[simp] theorem raiseFault_fabid (s : State) (r : FaultReq) : (raiseFault s r).fabid = s.fabid := rfl
@[simp] theorem raiseFault_peers (s : State) (r : FaultReq) : (raiseFault s r).peers = s.peers := rfl
@[simp] theorem raiseFault_remOut (s : State) (r : FaultReq) : (raiseFault s r).remOut = s.remOut := rfl
@[simp] theorem raiseFault_nextTag (s : State) (r : FaultReq) : (raiseFault s r).nextTag = s.nextTag := rfl
@[simp] theorem raiseFault_rtc (s : State) (r : FaultReq) : (raiseFault s r).rtc = s.rtc := rfl
@[simp] theorem raiseFault_holders (s : State) (r : FaultReq) : (raiseFault s r).holders = s.holders := rfl
@[simp] theorem raiseFault_replies (s : State) (r : FaultReq) : (raiseFault s r).replies = s.replies := rfl
@[simp] theorem raiseFault_outbox (s : State) (r : FaultReq) : (raiseFault s r).outbox = s.outbox := rfl
@[simp] theorem raiseFault_hostRead (s : State) (r : FaultReq) : (raiseFault s r).hostRead = s.hostRead := rfl
@[simp] theorem raiseFault_faultQ (s : State) (r : FaultReq) : (raiseFault s r).faultQ = s.faultQ ++ [r] := rfl

@[simp] theorem stalled_cycle (s : State) : s.stalled.cycle = s.cycle := rfl
@[simp] theorem stalled_now (s : State) : s.stalled.now = s.now := rfl
@[simp] theorem stalled_sched (s : State) : s.stalled.sched = s.sched := rfl
@[simp] theorem stalled_focus (s : State) : s.stalled.focus = s.focus := rfl
@[simp] theorem stalled_free (s : State) : s.stalled.free = s.free := rfl
@[simp] theorem stalled_gangs (s : State) : s.stalled.gangs = s.gangs := rfl
@[simp] theorem stalled_blocks (s : State) : s.stalled.blocks = s.blocks := rfl
@[simp] theorem stalled_cores (s : State) : s.stalled.cores = s.cores := rfl
@[simp] theorem stalled_nextUid (s : State) : s.stalled.nextUid = s.nextUid := rfl
@[simp] theorem stalled_mem (s : State) : s.stalled.mem = s.mem := rfl
@[simp] theorem stalled_lineKey (s : State) : s.stalled.lineKey = s.lineKey := rfl
@[simp] theorem stalled_poison (s : State) : s.stalled.poison = s.poison := rfl
@[simp] theorem stalled_dirty (s : State) : s.stalled.dirty = s.dirty := rfl
@[simp] theorem stalled_peerTiles (s : State) : s.stalled.peerTiles = s.peerTiles := rfl
@[simp] theorem stalled_cxlBytes (s : State) : s.stalled.cxlBytes = s.cxlBytes := rfl
@[simp] theorem stalled_cxlDown (s : State) : s.stalled.cxlDown = s.cxlDown := rfl
@[simp] theorem stalled_regQ (s : State) : s.stalled.regQ = s.regQ := rfl
@[simp] theorem stalled_roots (s : State) : s.stalled.roots = s.roots := rfl
@[simp] theorem stalled_keys (s : State) : s.stalled.keys = s.keys := rfl
@[simp] theorem stalled_keyBits (s : State) : s.stalled.keyBits = s.keyBits := rfl
@[simp] theorem stalled_nextKey (s : State) : s.stalled.nextKey = s.nextKey := rfl
@[simp] theorem stalled_pins (s : State) : s.stalled.pins = s.pins := rfl
@[simp] theorem stalled_hot (s : State) : s.stalled.hot = s.hot := rfl
@[simp] theorem stalled_motions (s : State) : s.stalled.motions = s.motions := rfl
@[simp] theorem stalled_promos (s : State) : s.stalled.promos = s.promos := rfl
@[simp] theorem stalled_skpol (s : State) : s.stalled.skpol = s.skpol := rfl
@[simp] theorem stalled_rings (s : State) : s.stalled.rings = s.rings := rfl
@[simp] theorem stalled_invAddr (s : State) : s.stalled.invAddr = s.invAddr := rfl
@[simp] theorem stalled_invCtl (s : State) : s.stalled.invCtl = s.invCtl := rfl
@[simp] theorem stalled_invals (s : State) : s.stalled.invals = s.invals := rfl
@[simp] theorem stalled_copies (s : State) : s.stalled.copies = s.copies := rfl
@[simp] theorem stalled_mats (s : State) : s.stalled.mats = s.mats := rfl
@[simp] theorem stalled_gaths (s : State) : s.stalled.gaths = s.gaths := rfl
@[simp] theorem stalled_subs (s : State) : s.stalled.subs = s.subs := rfl
@[simp] theorem stalled_nextOp (s : State) : s.stalled.nextOp = s.nextOp := rfl
@[simp] theorem stalled_ctxs (s : State) : s.stalled.ctxs = s.ctxs := rfl
@[simp] theorem stalled_dead (s : State) : s.stalled.dead = s.dead := rfl
@[simp] theorem stalled_paused (s : State) : s.stalled.paused = s.paused := rfl
@[simp] theorem stalled_qctl (s : State) : s.stalled.qctl = s.qctl := rfl
@[simp] theorem stalled_qctx (s : State) : s.stalled.qctx = s.qctx := rfl
@[simp] theorem stalled_qtail (s : State) : s.stalled.qtail = s.qtail := rfl
@[simp] theorem stalled_qhead (s : State) : s.stalled.qhead = s.qhead := rfl
@[simp] theorem stalled_qnotices (s : State) : s.stalled.qnotices = s.qnotices := rfl
@[simp] theorem stalled_launches (s : State) : s.stalled.launches = s.launches := rfl
@[simp] theorem stalled_nextLaunch (s : State) : s.stalled.nextLaunch = s.nextLaunch := rfl
@[simp] theorem stalled_codeLog (s : State) : s.stalled.codeLog = s.codeLog := rfl
@[simp] theorem stalled_nextSeq (s : State) : s.stalled.nextSeq = s.nextSeq := rfl
@[simp] theorem stalled_cisQ (s : State) : s.stalled.cisQ = s.cisQ := rfl
@[simp] theorem stalled_slots (s : State) : s.stalled.slots = s.slots := rfl
@[simp] theorem stalled_faultQ (s : State) : s.stalled.faultQ = s.faultQ := rfl
@[simp] theorem stalled_faultSeq (s : State) : s.stalled.faultSeq = s.faultSeq := rfl
@[simp] theorem stalled_diagQ (s : State) : s.stalled.diagQ = s.diagQ := rfl
@[simp] theorem stalled_freply (s : State) : s.stalled.freply = s.freply := rfl
@[simp] theorem stalled_saveUsed (s : State) : s.stalled.saveUsed = s.saveUsed := rfl
@[simp] theorem stalled_chanQ (s : State) : s.stalled.chanQ = s.chanQ := rfl
@[simp] theorem stalled_refreshing (s : State) : s.stalled.refreshing = s.refreshing := rfl
@[simp] theorem stalled_selfRefresh (s : State) : s.stalled.selfRefresh = s.selfRefresh := rfl
@[simp] theorem stalled_misses (s : State) : s.stalled.misses = s.misses := rfl
@[simp] theorem stalled_regions (s : State) : s.stalled.regions = s.regions := rfl
@[simp] theorem stalled_patrols (s : State) : s.stalled.patrols = s.patrols := rfl
@[simp] theorem stalled_scrubs (s : State) : s.stalled.scrubs = s.scrubs := rfl
@[simp] theorem stalled_covered (s : State) : s.stalled.covered = s.covered := rfl
@[simp] theorem stalled_corrections (s : State) : s.stalled.corrections = s.corrections := rfl
@[simp] theorem stalled_bars (s : State) : s.stalled.bars = s.bars := rfl
@[simp] theorem stalled_barQ (s : State) : s.stalled.barQ = s.barQ := rfl
@[simp] theorem stalled_joins (s : State) : s.stalled.joins = s.joins := rfl
@[simp] theorem stalled_joinQ (s : State) : s.stalled.joinQ = s.joinQ := rfl
@[simp] theorem stalled_notice (s : State) : s.stalled.notice = s.notice := rfl
@[simp] theorem stalled_msix (s : State) : s.stalled.msix = s.msix := rfl
@[simp] theorem stalled_mcmd (s : State) : s.stalled.mcmd = s.mcmd := rfl
@[simp] theorem stalled_elog (s : State) : s.stalled.elog = s.elog := rfl
@[simp] theorem stalled_att (s : State) : s.stalled.att = s.att := rfl
@[simp] theorem stalled_therm (s : State) : s.stalled.therm = s.therm := rfl
@[simp] theorem stalled_bootstat (s : State) : s.stalled.bootstat = s.bootstat := rfl
@[simp] theorem stalled_chans (s : State) : s.stalled.chans = s.chans := rfl
@[simp] theorem stalled_stations (s : State) : s.stalled.stations = s.stations := rfl
@[simp] theorem stalled_chorusSigs (s : State) : s.stalled.chorusSigs = s.chorusSigs := rfl
@[simp] theorem stalled_fabid (s : State) : s.stalled.fabid = s.fabid := rfl
@[simp] theorem stalled_peers (s : State) : s.stalled.peers = s.peers := rfl
@[simp] theorem stalled_remOut (s : State) : s.stalled.remOut = s.remOut := rfl
@[simp] theorem stalled_nextTag (s : State) : s.stalled.nextTag = s.nextTag := rfl
@[simp] theorem stalled_rtc (s : State) : s.stalled.rtc = s.rtc := rfl
@[simp] theorem stalled_holders (s : State) : s.stalled.holders = s.holders := rfl
@[simp] theorem stalled_replies (s : State) : s.stalled.replies = s.replies := rfl
@[simp] theorem stalled_outbox (s : State) : s.stalled.outbox = s.outbox := rfl
@[simp] theorem stalled_hostRead (s : State) : s.stalled.hostRead = s.hostRead := rfl

@[simp] theorem choose_cycle (s : State) : s.choose.2.cycle = s.cycle := rfl
@[simp] theorem choose_now (s : State) : s.choose.2.now = s.now := rfl
@[simp] theorem choose_sched (s : State) : s.choose.2.sched = s.sched := rfl
@[simp] theorem choose_focus (s : State) : s.choose.2.focus = s.focus := rfl
@[simp] theorem choose_cx (s : State) : s.choose.2.cx = s.cx := rfl
@[simp] theorem choose_gangs (s : State) : s.choose.2.gangs = s.gangs := rfl
@[simp] theorem choose_blocks (s : State) : s.choose.2.blocks = s.blocks := rfl
@[simp] theorem choose_cores (s : State) : s.choose.2.cores = s.cores := rfl
@[simp] theorem choose_nextUid (s : State) : s.choose.2.nextUid = s.nextUid := rfl
@[simp] theorem choose_mem (s : State) : s.choose.2.mem = s.mem := rfl
@[simp] theorem choose_lineKey (s : State) : s.choose.2.lineKey = s.lineKey := rfl
@[simp] theorem choose_poison (s : State) : s.choose.2.poison = s.poison := rfl
@[simp] theorem choose_dirty (s : State) : s.choose.2.dirty = s.dirty := rfl
@[simp] theorem choose_peerTiles (s : State) : s.choose.2.peerTiles = s.peerTiles := rfl
@[simp] theorem choose_cxlBytes (s : State) : s.choose.2.cxlBytes = s.cxlBytes := rfl
@[simp] theorem choose_cxlDown (s : State) : s.choose.2.cxlDown = s.cxlDown := rfl
@[simp] theorem choose_regQ (s : State) : s.choose.2.regQ = s.regQ := rfl
@[simp] theorem choose_roots (s : State) : s.choose.2.roots = s.roots := rfl
@[simp] theorem choose_keys (s : State) : s.choose.2.keys = s.keys := rfl
@[simp] theorem choose_keyBits (s : State) : s.choose.2.keyBits = s.keyBits := rfl
@[simp] theorem choose_nextKey (s : State) : s.choose.2.nextKey = s.nextKey := rfl
@[simp] theorem choose_pins (s : State) : s.choose.2.pins = s.pins := rfl
@[simp] theorem choose_hot (s : State) : s.choose.2.hot = s.hot := rfl
@[simp] theorem choose_motions (s : State) : s.choose.2.motions = s.motions := rfl
@[simp] theorem choose_promos (s : State) : s.choose.2.promos = s.promos := rfl
@[simp] theorem choose_skpol (s : State) : s.choose.2.skpol = s.skpol := rfl
@[simp] theorem choose_rings (s : State) : s.choose.2.rings = s.rings := rfl
@[simp] theorem choose_invAddr (s : State) : s.choose.2.invAddr = s.invAddr := rfl
@[simp] theorem choose_invCtl (s : State) : s.choose.2.invCtl = s.invCtl := rfl
@[simp] theorem choose_invals (s : State) : s.choose.2.invals = s.invals := rfl
@[simp] theorem choose_copies (s : State) : s.choose.2.copies = s.copies := rfl
@[simp] theorem choose_mats (s : State) : s.choose.2.mats = s.mats := rfl
@[simp] theorem choose_gaths (s : State) : s.choose.2.gaths = s.gaths := rfl
@[simp] theorem choose_subs (s : State) : s.choose.2.subs = s.subs := rfl
@[simp] theorem choose_nextOp (s : State) : s.choose.2.nextOp = s.nextOp := rfl
@[simp] theorem choose_ctxs (s : State) : s.choose.2.ctxs = s.ctxs := rfl
@[simp] theorem choose_dead (s : State) : s.choose.2.dead = s.dead := rfl
@[simp] theorem choose_paused (s : State) : s.choose.2.paused = s.paused := rfl
@[simp] theorem choose_qctl (s : State) : s.choose.2.qctl = s.qctl := rfl
@[simp] theorem choose_qctx (s : State) : s.choose.2.qctx = s.qctx := rfl
@[simp] theorem choose_qtail (s : State) : s.choose.2.qtail = s.qtail := rfl
@[simp] theorem choose_qhead (s : State) : s.choose.2.qhead = s.qhead := rfl
@[simp] theorem choose_qnotices (s : State) : s.choose.2.qnotices = s.qnotices := rfl
@[simp] theorem choose_launches (s : State) : s.choose.2.launches = s.launches := rfl
@[simp] theorem choose_nextLaunch (s : State) : s.choose.2.nextLaunch = s.nextLaunch := rfl
@[simp] theorem choose_codeLog (s : State) : s.choose.2.codeLog = s.codeLog := rfl
@[simp] theorem choose_nextSeq (s : State) : s.choose.2.nextSeq = s.nextSeq := rfl
@[simp] theorem choose_cisQ (s : State) : s.choose.2.cisQ = s.cisQ := rfl
@[simp] theorem choose_slots (s : State) : s.choose.2.slots = s.slots := rfl
@[simp] theorem choose_faultQ (s : State) : s.choose.2.faultQ = s.faultQ := rfl
@[simp] theorem choose_faultSeq (s : State) : s.choose.2.faultSeq = s.faultSeq := rfl
@[simp] theorem choose_diagQ (s : State) : s.choose.2.diagQ = s.diagQ := rfl
@[simp] theorem choose_freply (s : State) : s.choose.2.freply = s.freply := rfl
@[simp] theorem choose_saveUsed (s : State) : s.choose.2.saveUsed = s.saveUsed := rfl
@[simp] theorem choose_chanQ (s : State) : s.choose.2.chanQ = s.chanQ := rfl
@[simp] theorem choose_refreshing (s : State) : s.choose.2.refreshing = s.refreshing := rfl
@[simp] theorem choose_selfRefresh (s : State) : s.choose.2.selfRefresh = s.selfRefresh := rfl
@[simp] theorem choose_misses (s : State) : s.choose.2.misses = s.misses := rfl
@[simp] theorem choose_regions (s : State) : s.choose.2.regions = s.regions := rfl
@[simp] theorem choose_patrols (s : State) : s.choose.2.patrols = s.patrols := rfl
@[simp] theorem choose_scrubs (s : State) : s.choose.2.scrubs = s.scrubs := rfl
@[simp] theorem choose_covered (s : State) : s.choose.2.covered = s.covered := rfl
@[simp] theorem choose_corrections (s : State) : s.choose.2.corrections = s.corrections := rfl
@[simp] theorem choose_bars (s : State) : s.choose.2.bars = s.bars := rfl
@[simp] theorem choose_barQ (s : State) : s.choose.2.barQ = s.barQ := rfl
@[simp] theorem choose_joins (s : State) : s.choose.2.joins = s.joins := rfl
@[simp] theorem choose_joinQ (s : State) : s.choose.2.joinQ = s.joinQ := rfl
@[simp] theorem choose_notice (s : State) : s.choose.2.notice = s.notice := rfl
@[simp] theorem choose_msix (s : State) : s.choose.2.msix = s.msix := rfl
@[simp] theorem choose_mcmd (s : State) : s.choose.2.mcmd = s.mcmd := rfl
@[simp] theorem choose_elog (s : State) : s.choose.2.elog = s.elog := rfl
@[simp] theorem choose_att (s : State) : s.choose.2.att = s.att := rfl
@[simp] theorem choose_therm (s : State) : s.choose.2.therm = s.therm := rfl
@[simp] theorem choose_bootstat (s : State) : s.choose.2.bootstat = s.bootstat := rfl
@[simp] theorem choose_chans (s : State) : s.choose.2.chans = s.chans := rfl
@[simp] theorem choose_stations (s : State) : s.choose.2.stations = s.stations := rfl
@[simp] theorem choose_chorusSigs (s : State) : s.choose.2.chorusSigs = s.chorusSigs := rfl
@[simp] theorem choose_fabid (s : State) : s.choose.2.fabid = s.fabid := rfl
@[simp] theorem choose_peers (s : State) : s.choose.2.peers = s.peers := rfl
@[simp] theorem choose_remOut (s : State) : s.choose.2.remOut = s.remOut := rfl
@[simp] theorem choose_nextTag (s : State) : s.choose.2.nextTag = s.nextTag := rfl
@[simp] theorem choose_rtc (s : State) : s.choose.2.rtc = s.rtc := rfl
@[simp] theorem choose_holders (s : State) : s.choose.2.holders = s.holders := rfl
@[simp] theorem choose_replies (s : State) : s.choose.2.replies = s.replies := rfl
@[simp] theorem choose_outbox (s : State) : s.choose.2.outbox = s.outbox := rfl
@[simp] theorem choose_hostRead (s : State) : s.choose.2.hostRead = s.hostRead := rfl
@[simp] theorem choose_free (s : State) : s.choose.2.free = s.free + 1 := rfl

/-! ### The tables of agents -/

/-- Changing the gang `u` and reading it gives the change, if the change keeps its number. -/
theorem gang?_modGang_self (s : State) (u : Nat) (f : Gang → Gang) (hf : ∀ g, (f g).uid = g.uid) :
    (s.modGang u f).gang? u = (s.gang? u).map f := by
  unfold State.gang? State.modGang
  simp only
  induction s.gangs with
  | nil => rfl
  | cons g l ih =>
    by_cases h : g.uid = u
    · simp [List.find?, h, hf]
    · simp [List.find?, h, beq_eq_false_iff_ne.mpr h, ih]

/-- Changing the gang `u` leaves every other gang as it is. -/
theorem gang?_modGang_ne (s : State) (u v : Nat) (f : Gang → Gang) (hf : ∀ g, (f g).uid = g.uid) (hv : v ≠ u) :
    (s.modGang u f).gang? v = s.gang? v := by
  unfold State.gang? State.modGang
  simp only
  induction s.gangs with
  | nil => rfl
  | cons g l ih =>
    by_cases h : g.uid = u
    · have h1 : g.uid ≠ v := fun e => hv (e ▸ h)
      simp [List.find?, h, hf, beq_eq_false_iff_ne.mpr (Ne.symm hv), ih]
    · by_cases h2 : g.uid = v
      · simp [List.find?, h2, hv]
      · simp [List.find?, h, beq_eq_false_iff_ne.mpr h2, ih]

/-- Changing the block `u` and reading it gives the change, if the change keeps its number. -/
theorem block?_modBlock_self (s : State) (u : Nat) (f : Block → Block) (hf : ∀ b, (f b).uid = b.uid) :
    (s.modBlock u f).block? u = (s.block? u).map f := by
  unfold State.block? State.modBlock
  simp only
  induction s.blocks with
  | nil => rfl
  | cons b l ih =>
    by_cases h : b.uid = u
    · simp [List.find?, h, hf]
    · simp [List.find?, h, beq_eq_false_iff_ne.mpr h, ih]

@[simp] theorem modGang_block? (s : State) (u v : Nat) (f : Gang → Gang) : (s.modGang u f).block? v = s.block? v := rfl
@[simp] theorem modBlock_gang? (s : State) (u v : Nat) (f : Block → Block) : (s.modBlock u f).gang? v = s.gang? v := rfl
@[simp] theorem modCore_gang? (s : State) (c u : Nat) (f : CoreSt → CoreSt) : (s.modCore c f).gang? u = s.gang? u := rfl
@[simp] theorem modCore_block? (s : State) (c u : Nat) (f : CoreSt → CoreSt) : (s.modCore c f).block? u = s.block? u := rfl

/-- Changing a core and reading it gives the change. -/
@[simp] theorem core_modCore_self (s : State) (c : Nat) (f : CoreSt → CoreSt) : (s.modCore c f).core c = f (s.core c) := by
  simp [State.core, State.modCore]

/-- Changing a core leaves every other core as it is. -/
theorem core_modCore_ne (s : State) (c d : Nat) (f : CoreSt → CoreSt) (h : d ≠ c) : (s.modCore c f).core d = s.core d := by
  simp [State.core, State.modCore, tabGet_tabPut_ne _ _ _ _ _ h]

end Sys2Proof.Laws
end

