-- ==== Sys2Proof/Laws/Memory.lean ====
section
/-! SUPPORT. Laws/Memory.lean: the laws of memory at home: every operation on it keeps its canonical form, a byte written
whole reads back, a write leaves the bytes of other lines alone, and what is encrypted decrypts to itself.
-/
namespace Sys2Proof.Laws
open Sys2Proof.Machine

theorem reviewLine_wf (s : State) (line view : Nat) (h : Memory.wf s.mem = true) :
    Memory.wf (reviewLine s line view).mem = true := by
  unfold reviewLine
  split
  · exact h
  · dsimp only
    generalize placed _ _ = l
    exact tabWf_foldl_tabPut 0 l _ h

theorem putByte_wf (s : State) (view pa : Nat) (val mask : Byte) (h : Memory.wf s.mem = true) :
    Memory.wf (putByte s view pa val mask).mem = true :=
  tabWf_tabPut 0 _ _ _ (reviewLine_wf s _ _ h)

theorem storeByte_wf (s : State) (atomic : Bool) (x : StCell) (h : Memory.wf s.mem = true) :
    Memory.wf (storeByte s atomic x).mem = true := by
  unfold storeByte
  dsimp only
  split
  · exact h
  · split
    · exact putByte_wf _ _ _ _ _ h
    · split
      · exact putByte_wf _ _ _ _ _ h
      · split
        · exact putByte_wf _ _ _ _ _ h
        · exact putByte_wf _ _ _ _ _ (putByte_wf _ _ _ _ _ h)

theorem foldl_storeByte_wf (xs : List StCell) (atomic : Bool) (s : State) (h : Memory.wf s.mem = true) :
    Memory.wf (xs.foldl (fun s x => storeByte s atomic x) s).mem = true := by
  induction xs generalizing s with
  | nil => exact h
  | cons x xs ih => exact ih _ (storeByte_wf s atomic x h)

theorem writeHome_wf (s : State) (atomic : Bool) (xs : List StCell) (h : Memory.wf s.mem = true) :
    Memory.wf (writeHome s atomic xs).mem = true := by
  unfold writeHome
  dsimp only
  split
  · exact foldl_storeByte_wf _ _ _ h
  · exact foldl_storeByte_wf _ _ _ h

/-- Requests to channels change the queues of the channels alone. -/
theorem foldl_askChannel_eq (serve : Cell → Cell) (l : List Cell) (s : State) :
    ∃ q, l.foldl (fun s c => match placeOf s (homePa s c.pa) with
      | some p => if p.tier = 3 ∨ isRemote c.pa then s else askChannel s p (serve c)
      | none => s) s = { s with chanQ := q } := by
  induction l generalizing s with
  | nil => exact ⟨s.chanQ, rfl⟩
  | cons c l ih =>
    rw [List.foldl_cons]
    split
    · split
      · exact ih s
      · obtain ⟨q, h⟩ := ih (askChannel s _ (serve c))
        exact ⟨q, h⟩
    · exact ih s

/-- R336: what the request of a unit does: it stands in the queues of its channels. -/
theorem ownAsk_eq (s : State) (who : Nat) (asid : Option Nat) (cs : List Cell) :
    ∃ q, ownAsk s who asid cs = { s with chanQ := q } := foldl_askChannel_eq _ _ s

/-- R336, R359: what the read of a unit does beside: the motions that it has failed, and the next free bytes. -/
theorem ownRead_eq (s : State) (who : Nat) (asid : Option Nat) (cs : List Cell) :
    ∃ m q f, ownRead s who asid cs = { s with motions := m, chanQ := q, free := f } := by
  obtain ⟨q, h⟩ := ownAsk_eq { meetDest s cs with free := if cs.isEmpty then s.free else s.free + 1 } who asid cs
  exact ⟨_, q, _, h⟩

/-- R336: what the requests of walks do. -/
theorem askWalks_eq (s : State) (who : Nat) (tlb : Bool) (asid : Nat) (vas : List Nat) :
    ∃ m q f, askWalks s who tlb asid vas = { s with motions := m, chanQ := q, free := f } := ownRead_eq _ _ _ _

/-- R232, R336: what the request of a record does. -/
theorem recAsk_eq (s : State) (core asid va : Nat) (xl : Nat → XRes) :
    ∃ m q f, recAsk s core asid va xl = { s with motions := m, chanQ := q, free := f } := by
  unfold recAsk
  split
  · exact ownRead_eq _ _ _ _
  · exact ⟨_, _, _, rfl⟩

theorem writePhys_wf (s : State) (who : Nat) (asid : Option Nat) (pa : Nat) (bs : List Byte) (h : Memory.wf s.mem = true) :
    Memory.wf (writePhys s who asid pa bs).mem = true := by
  obtain ⟨q, e⟩ := ownAsk_eq s who asid (physLines pa bs.length)
  exact writeHome_wf _ _ _ (by rw [e]; exact h)

/-- A line kept under the view asked for is left as it is. -/
theorem reviewLine_same (s : State) (line view : Nat) (h : lineKeyOf s line = view) : reviewLine s line view = s := by
  simp [reviewLine, h]

/-- R367: the line of a byte is kept under the view of its latest writer. -/
theorem lineKeyOf_reviewLine (s : State) (line view : Nat) : lineKeyOf (reviewLine s line view) line = view := by
  unfold reviewLine
  split
  · assumption
  · simp [lineKeyOf]

/-- Masking with all ones replaces the byte (R63). -/
theorem maskByte_ones (old val : Byte) : maskByte old val 0xFF#8 = val := by
  have h : (0xFF#8) = BitVec.allOnes 8 := rfl
  rw [h]
  simp only [maskByte, BitVec.not_allOnes, BitVec.and_zero, BitVec.zero_or, BitVec.and_allOnes]

/-- Masking with zero keeps the byte. -/
theorem maskByte_zero (old val : Byte) : maskByte old val 0#8 = old := by
  have h : ~~~(0#8) = BitVec.allOnes 8 := rfl
  simp only [maskByte, h, BitVec.and_allOnes, BitVec.and_zero, BitVec.or_zero]

/-- A view sees its own bytes. -/
@[simp] theorem sameView_self (s : State) (k : Nat) : sameView s k k = true := by simp [sameView]

/-- READ AFTER WRITE: a byte written whole under a view reads back under that view. -/
theorem viewByte_putByte_self (s : State) (view pa : Nat) (val : Byte) :
    viewByte (putByte s view pa val 0xFF#8) view pa = val := by
  have hk : lineKeyOf (putByte s view pa val 0xFF#8) (lineOf pa) = view := lineKeyOf_reviewLine s (lineOf pa) view
  simp only [viewByte, hk, sameView_self, if_true]
  simp [putByte, maskByte_ones]

/-- A write of a byte leaves every other address of the memory table alone, where its line is kept under the view. -/
theorem putByte_mem_ne (s : State) (view pa a : Nat) (val mask : Byte) (hk : lineKeyOf s (lineOf pa) = view) (ha : a ≠ pa) :
    tabGet 0 (putByte s view pa val mask).mem a = tabGet 0 s.mem a := by
  simp only [putByte, reviewLine_same s _ _ hk]
  exact tabGet_tabPut_ne 0 _ _ _ _ ha

theorem reset_memory_wf : Memory.wf State.reset.mem = true := rfl

/-! ### Encryption and motion -/

/-- R14: bytes put together as a number and taken apart again are the same bytes. -/
theorem leBytes_leValue (bs : List Byte) : leBytes bs.length (leValue bs) = bs := by
  induction bs with
  | nil => rfl
  | cons b bs ih =>
    have h := b.isLt
    have h1 : (b.toNat + 256 * leValue bs) / 256 = leValue bs := by omega
    simp only [List.length_cons, leValue, leBytes, h1, ih, List.cons.injEq, and_true]
    apply BitVec.eq_of_toNat_eq
    simp only [BitVec.toNat_ofNat]
    omega

theorem leBytes_length (n x : Nat) : (leBytes n x).length = n := by
  induction n generalizing x with
  | zero => rfl
  | succ n ih => simp [leBytes, ih]

theorem leValue_lt (bs : List Byte) : leValue bs < 256 ^ bs.length := by
  induction bs with
  | nil => simp [leValue]
  | cons b bs ih =>
    have h := b.isLt
    simp only [leValue, List.length_cons, Nat.pow_succ]
    omega

/-- R14: a number that fits `n` bytes, taken apart and put together again, is the same number. -/
theorem leValue_leBytes (n x : Nat) (h : x < 256 ^ n) : leValue (leBytes n x) = x := by
  induction n generalizing x with
  | zero => simp at h; simp [leBytes, leValue, h]
  | succ n ih =>
    rw [Nat.pow_succ] at h
    simp only [leBytes, leValue, ih (x / 256) (by omega), BitVec.toNat_ofNat]
    omega

/-- A list of 16-byte blocks, taken by its blocks. -/
theorem drop_take_flatMap (f : Nat → List Byte) (hf : ∀ j, (f j).length = 16) (n k j : Nat) (hj : k ≤ j) (hn : j < k + n) :
    (((List.range' k n).flatMap f).drop (16 * (j - k))).take 16 = f j := by
  induction n generalizing k with
  | zero => omega
  | succ n ih =>
    simp only [List.range'_succ, List.flatMap_cons]
    rcases Nat.lt_or_eq_of_le hj with h | h
    · have e : 16 * (j - k) = (f k).length + 16 * (j - (k + 1)) := by rw [hf]; omega
      rw [e, List.drop_append, List.drop_of_length_le (by omega), Nat.add_sub_cancel_left, List.nil_append]
      exact ih (k + 1) h (by omega)
    · subst h
      simp [← hf k]

theorem flatMap_blocks (n : Nat) (bs : List Byte) (h : bs.length = 16 * n) :
    (List.range n).flatMap (fun j => (bs.drop (16 * j)).take 16) = bs := by
  induction n generalizing bs with
  | zero => simpa using (List.eq_nil_of_length_eq_zero (by omega)).symm
  | succ n ih =>
    rw [List.range_succ_eq_map, List.flatMap_cons, List.flatMap_map]
    have e := ih (bs.drop 16) (by simp; omega)
    simp only [List.drop_drop] at e
    simp only [Nat.mul_zero, List.drop_zero]
    conv_rhs => rw [← List.take_append_drop 16 bs]
    congr 1
    rw [← e]
    congr 1
    funext j
    simp only [Nat.succ_eq_add_one]
    congr 2
    omega

/-- R367: decrypting what was encrypted under the same key of the same line gives the line's bytes back. -/
theorem decryptLine_encryptLine (s : State) (k line : Nat) (bs : List Byte) (h : bs.length = 128) :
    decryptLine s k line (encryptLine s k line bs) = bs := by
  have hb : ∀ j, j < 8 → ((bs.drop (16 * j)).take 16).length = 16 := by intro j hj; simp; omega
  have e : ∀ j, j < 8 → lineBlock (encryptLine s k line bs) j =
      Config.xts (keyOf s k) (lineTweak s line) j (lineBlock bs j) := by
    intro j hj
    have := drop_take_flatMap (fun j => leBytes 16 (Config.xts (keyOf s k) (lineTweak s line) j (lineBlock bs j)).toNat)
      (fun j => leBytes_length 16 _) 8 0 j (by omega) (by omega)
    simp only [Nat.sub_zero] at this
    unfold lineBlock encryptLine
    rw [List.range_eq_range', this]
    rw [leValue_leBytes 16 _ (by exact BitVec.isLt _)]
    simp [lineBlock]
  conv_rhs => rw [← flatMap_blocks 8 bs (by omega)]
  unfold decryptLine
  apply List.flatMap_congr
  intro j hj
  have hj := List.mem_range.mp hj
  rw [e j hj, Equiv.symm_apply_apply]
  unfold lineBlock
  have hl := leValue_lt ((bs.drop (16 * j)).take 16)
  rw [hb j hj] at hl
  rw [BitVec.toNat_ofNat, Nat.mod_eq_of_lt (by simpa using hl)]
  have := leBytes_leValue ((bs.drop (16 * j)).take 16)
  rwa [hb j hj] at this
/-- R369: keeping what a home stores changes the notes of it alone. -/
theorem keepStored_frame (s : State) (ls : List Nat) : keepStored s ls = { s with dirty := (keepStored s ls).dirty } := rfl

/-- R359: a read that a destination serves changes the motions alone. -/
theorem meetDest_frame (s : State) (cs : List Cell) : meetDest s cs = { s with motions := (meetDest s cs).motions } := rfl

/-- R356: an address that no frame in motion holds is served where it is. -/
theorem servePa_still (s : State) (pa : Nat) (h : motionOf s pa = none) : servePa s pa = pa := by simp [servePa, h]

/-- R356: an address of a frame in motion is served at its source or at its destination. -/
theorem servePa_cases (s : State) (pa : Nat) (m : Motion) (h : motionOf s pa = some m) :
    servePa s pa = pa ∨ servePa s pa = m.dst + (pa - m.src) := by
  simp only [servePa, homePa, h]
  split
  · exact .inr rfl
  · split
    · exact .inr rfl
    · exact .inl rfl

theorem ownWrite_wf (s : State) (who : Nat) (asid : Option Nat) (xs : List StCell) (h : Memory.wf s.mem = true) :
    Memory.wf (ownWrite s who asid xs).mem = true := by
  obtain ⟨q, e⟩ := ownAsk_eq s who asid (xs.map (·.cell))
  exact writeHome_wf _ _ _ (by rw [e]; exact h)

/-- R85: keeping old bytes for fetches changes that record alone. -/
theorem keepOldCode_eq (s : State) (asid : Nat) (commit : Option (Nat × Nat)) (cells : List Cell) :
    ∃ l, keepOldCode s asid commit cells = { s with codeLog := l } := by
  unfold keepOldCode
  dsimp only
  split
  · exact ⟨_, rfl⟩
  · exact ⟨_, rfl⟩

/-! R342: with no stack in self-refresh nothing waits for one. -/

theorem placeAsleep_of_nil (s : State) (h : s.selfRefresh = []) (pa : Nat) : placeAsleep s pa = false := by
  unfold placeAsleep
  split <;> simp [h, tabGet]

theorem readAsleep_of_nil (s : State) (h : s.selfRefresh = []) (pa : Nat) : readAsleep s pa = false := by
  simp [readAsleep, stackAsleep, placeAsleep_of_nil s h]

theorem areaAsleep_of_nil (s : State) (h : s.selfRefresh = []) (pa n : Nat) : areaAsleep s pa n = false := by simp [areaAsleep, h]

theorem walkAsleep_of_nil (s : State) (h : s.selfRefresh = []) (asid va : Nat) : walkAsleep s asid va = false := by simp [walkAsleep, h]

end Sys2Proof.Laws
end

