-- ==== Sys2Proof/Laws/Ops.lean ====
section
/-! SUPPORT. Laws/Ops.lean: what each shared operation can do, said once: which fields of the state or of the gang it may
change. Proofs cite these and unfold no operation.
-/
namespace Sys2Proof.Laws
open Sys2Proof.Machine

/-! ### The run in issue of a gang -/

/-- A change of the run in issue changes nothing else of the gang. -/
theorem modIssue_frame (g : Gang) (f : RunIssue → RunIssue) : g.modIssue f = { g with issue := g.issue.map f } := by
  unfold Gang.modIssue
  cases g
  dsimp only
  split <;> rfl

@[simp] theorem modIssue_issue (g : Gang) (f : RunIssue → RunIssue) : (g.modIssue f).issue = g.issue.map f := by
  simp [modIssue_frame]

@[simp] theorem modIssue_uid (g : Gang) (f : RunIssue → RunIssue) : (g.modIssue f).uid = g.uid := by simp [modIssue_frame]
@[simp] theorem modIssue_regs (g : Gang) (f : RunIssue → RunIssue) : (g.modIssue f).regs = g.regs := by simp [modIssue_frame]
@[simp] theorem modIssue_out (g : Gang) (f : RunIssue → RunIssue) : (g.modIssue f).out = g.out := by simp [modIssue_frame]
@[simp] theorem modIssue_ord (g : Gang) (f : RunIssue → RunIssue) : (g.modIssue f).ord = g.ord := by simp [modIssue_frame]
@[simp] theorem modIssue_run (g : Gang) (f : RunIssue → RunIssue) : (g.modIssue f).run = g.run := by simp [modIssue_frame]
@[simp] theorem modIssue_nextId (g : Gang) (f : RunIssue → RunIssue) : (g.modIssue f).nextId = g.nextId := by simp [modIssue_frame]

/-! ### Effects of a word (R80, R82, R202) -/

/-- Effects of fixed latency join those due in the run, in order. -/
theorem emit_frame (g : Gang) (due : Nat) (es : List Eff) : g.emit due es =
    { g with issue := g.issue.map (fun r => { r with pends := r.pends ++ es.map (fun e => ⟨due, e⟩) }) } := modIssue_frame _ _

/-- A held effect joins the run's, and takes the gang's next place in the program order. -/
theorem hold_frame (g : Gang) (pc : W64) (e : Held) : g.hold pc e =
    { g with
      issue := g.issue.map (fun r => { r with held := r.held ++ [⟨g.ord, g.run, pc, e, r.clutch &&& ~~~r.gone⟩] })
      ord := g.ord + 1 } := by
  simp [Gang.hold, modIssue_frame]

@[simp] theorem emit_uid (g : Gang) (n : Nat) (es : List Eff) : (g.emit n es).uid = g.uid := by simp [emit_frame]
@[simp] theorem emit_regs (g : Gang) (n : Nat) (es : List Eff) : (g.emit n es).regs = g.regs := by simp [emit_frame]
@[simp] theorem emit_out (g : Gang) (n : Nat) (es : List Eff) : (g.emit n es).out = g.out := by simp [emit_frame]
@[simp] theorem emit_ord (g : Gang) (n : Nat) (es : List Eff) : (g.emit n es).ord = g.ord := by simp [emit_frame]
@[simp] theorem emit_nil (g : Gang) (n : Nat) : g.emit n [] = g := by
  cases g; simp [emit_frame]
@[simp] theorem hold_uid (g : Gang) (pc : W64) (e : Held) : (g.hold pc e).uid = g.uid := by simp [hold_frame]
@[simp] theorem hold_regs (g : Gang) (pc : W64) (e : Held) : (g.hold pc e).regs = g.regs := by simp [hold_frame]
@[simp] theorem hold_out (g : Gang) (pc : W64) (e : Held) : (g.hold pc e).out = g.out := by simp [hold_frame]
@[simp] theorem hold_ord (g : Gang) (pc : W64) (e : Held) : (g.hold pc e).ord = g.ord + 1 := by simp [hold_frame]
@[simp] theorem await_uid (g : Gang) (pc : W64) (k : OKind) (ds : List Dst) (es : List Eff) (a b : Bool) :
    (g.await pc k ds es a b).uid = g.uid := rfl
@[simp] theorem await_regs (g : Gang) (pc : W64) (k : OKind) (ds : List Dst) (es : List Eff) (a b : Bool) :
    (g.await pc k ds es a b).regs = g.regs := rfl
@[simp] theorem await_issue (g : Gang) (pc : W64) (k : OKind) (ds : List Dst) (es : List Eff) (a b : Bool) :
    (g.await pc k ds es a b).issue = g.issue := rfl
@[simp] theorem arrive_uid (g : Gang) (oid : Nat) (es : List Eff) : (g.arrive oid es).uid = g.uid := rfl
@[simp] theorem arrive_regs (g : Gang) (oid : Nat) (es : List Eff) : (g.arrive oid es).regs = g.regs := rfl
@[simp] theorem arrive_relq (g : Gang) (oid : Nat) (es : List Eff) : (g.arrive oid es).relq = g.relq := rfl

/-- A result that comes changes the gang's outstanding results alone. -/
theorem arrive_frame (g : Gang) (oid : Nat) (es : List Eff) : g.arrive oid es = { g with out := (g.arrive oid es).out } := rfl

/-- Flags that are now counted join the results that wait for a seam, and change nothing else. -/
theorem countFlags_frame (os : List ClassOp) (g : Gang) :
    ∃ out n o, Gang.countFlags g os = { g with out := out, nextId := n, ord := o } := by
  unfold Gang.countFlags
  generalize os.filter _ = l
  induction l generalizing g with
  | nil => exact ⟨_, _, _, rfl⟩
  | cons x xs ih => exact ih _

/-- A completed operation changes the class lists, the counters and the results that wait for a seam alone. -/
theorem completeOp_frame (g : Gang) (cls : Fin 4) (id : Nat) (fl : BitVec 5) :
    ∃ ops out n o dc dm dg, g.completeOp cls id fl =
      { g with ops := ops, out := out, nextId := n, ord := o, doneCopy := dc, doneMat := dm, doneGath := dg } := by
  unfold Gang.completeOp
  dsimp only
  obtain ⟨out, n, o, h⟩ := countFlags_frame ((((g.ops.map (fun o => if o.cls = cls ∧ o.id = id then { o with done := true, fl := fl } else o)).filter
    (fun o => o.cls == cls)).take _)) _
  rw [h]
  split <;> exact ⟨_, _, _, _, _, _, _, rfl⟩

/-- Folding a change of a gang that keeps a field keeps the field. -/
theorem foldl_keeps {A B C : Type} (p : A → C) (f : A → B → A) (h : ∀ a b, p (f a b) = p a) (l : List B) (a : A) :
    p (l.foldl f a) = p a := by
  induction l generalizing a with
  | nil => rfl
  | cons x xs ih => simp [ih, h]

/-- A delivery changes neither the gang's name nor its registers: its effects are due later. -/
theorem deliver_keeps (g : Gang) (pc : W64) (pos : Nat) (lat : Option Nat) (es : List Eff) :
    (g.deliver pc pos lat es).uid = g.uid ∧ (g.deliver pc pos lat es).regs = g.regs := by
  unfold Gang.deliver
  cases lat with
  | none => exact ⟨rfl, rfl⟩
  | some n => exact ⟨foldl_keeps Gang.uid _ (by intro a b; cases b <;> simp) es g,
      foldl_keeps Gang.regs _ (by intro a b; cases b <;> simp) es g⟩

/-- A port that moves on changes the gang's lanes alone. -/
@[simp] theorem advancePorts_uid (g : Gang) (l : Nat) (ps : List Nat) : (g.advancePorts l ps).uid = g.uid := rfl

/-! ### Faults (R176, R177) -/

/-- Taking a fault changes the gangs and the word's parked lanes alone. -/
theorem takeFault_frame (s : State) (lanes : LaneMask) (cause detail : Nat) (addr : W64) :
    takeFault s lanes cause detail addr =
      { s with gangs := (takeFault s lanes cause detail addr).gangs, cx := (takeFault s lanes cause detail addr).cx } := by
  unfold takeFault
  split <;> rfl

/-- Several faults change what one does. -/
theorem takeFaults_frame (s : State) (fs : List LaneFault) :
    takeFaults s fs = { s with gangs := (takeFaults s fs).gangs, cx := (takeFaults s fs).cx } := by
  unfold takeFaults
  split
  · rfl
  · exact takeFault_frame _ _ _ _ _

/-- No fault: nothing happens. -/
@[simp] theorem takeFaults_nil (s : State) : takeFaults s [] = s := rfl

@[simp] theorem takeFault_mem (s : State) (l : LaneMask) (c d : Nat) (a : W64) : (takeFault s l c d a).mem = s.mem := by
  rw [takeFault_frame]
@[simp] theorem takeFaults_mem (s : State) (fs : List LaneFault) : (takeFaults s fs).mem = s.mem := by rw [takeFaults_frame]
@[simp] theorem takeFaults_blocks (s : State) (fs : List LaneFault) : (takeFaults s fs).blocks = s.blocks := by rw [takeFaults_frame]

/-- A record asked for by a run changes the gangs and the records asked for alone. -/
theorem raiseFor_frame (s : State) (u run : Nat) (r : FaultReq) :
    raiseFor s u run r = { s with gangs := (raiseFor s u run r).gangs, faultQ := (raiseFor s u run r).faultQ } := by
  unfold raiseFor
  split
  · rfl
  · dsimp only
    split
    · rfl
    · split <;> rfl

/-- A deferred fault changes the gangs and the records asked for alone. -/
theorem deferFault_frame (s : State) (u run : Nat) (r : FaultReq) (lanes : LaneMask) :
    deferFault s u run r lanes =
      { s with gangs := (deferFault s u run r lanes).gangs, faultQ := (deferFault s u run r lanes).faultQ } := by
  unfold deferFault
  rw [raiseFor_frame]
  rfl

/-- So does a command's. -/
theorem deferCommand_frame (s : State) (u : Nat) (r : FaultReq) (lanes : LaneMask) :
    deferCommand s u r lanes =
      { s with gangs := (deferCommand s u r lanes).gangs, faultQ := (deferCommand s u r lanes).faultQ } := by
  unfold deferCommand
  split <;> rfl

@[simp] theorem deferFault_mem (s : State) (u run : Nat) (r : FaultReq) (l : LaneMask) : (deferFault s u run r l).mem = s.mem := by
  rw [deferFault_frame]
@[simp] theorem deferFault_blocks (s : State) (u run : Nat) (r : FaultReq) (l : LaneMask) :
    (deferFault s u run r l).blocks = s.blocks := by rw [deferFault_frame]

/-! ### Words of lanes and of the gang (R66) -/

/-- A lane operation takes the faults of its lanes, and then at most changes the gang that issues it. -/
theorem runLanes_cases (sh : OpShape) (f : LaneIn → LaneOut) (s : State) :
    ∃ fs, runLanes sh f s = takeFaults s fs ∨ ∃ h, runLanes sh f s = (takeFaults s fs).onIssuer h := by
  unfold runLanes
  split
  · exact ⟨[], .inl rfl⟩
  · rename_i g _
    refine ⟨sh.faults g (lanesOf s.act), ?_⟩
    dsimp only
    repeat' split
    all_goals first | exact .inl rfl | exact .inr ⟨_, rfl⟩

/-- A lane operation changes the gangs and the word's parked lanes alone. -/
theorem runLanes_frame (sh : OpShape) (f : LaneIn → LaneOut) (s : State) :
    runLanes sh f s = { s with gangs := (runLanes sh f s).gangs, cx := (runLanes sh f s).cx } := by
  obtain ⟨fs, h | ⟨k, h⟩⟩ := runLanes_cases sh f s <;> rw [h]
  · exact takeFaults_frame s fs
  · rw [takeFaults_frame s fs]; rfl

@[simp] theorem runLanes_mem (sh : OpShape) (f : LaneIn → LaneOut) (s : State) : (runLanes sh f s).mem = s.mem := by
  rw [runLanes_frame]
@[simp] theorem runLanes_blocks (sh : OpShape) (f : LaneIn → LaneOut) (s : State) : (runLanes sh f s).blocks = s.blocks := by
  rw [runLanes_frame]

/-- A word that acts once for its gang does nothing, or what its function does for the resident gang. -/
theorem onceForGang_cases (s : State) (f : Gang → State → State) :
    onceForGang s f = s ∨ ∃ g, s.gang? s.cx.gang = some g ∧ s.acts = true ∧ onceForGang s f = f g s := by
  unfold onceForGang
  split
  · exact .inl rfl
  · rename_i g h
    split
    · exact .inr ⟨g, h, by assumption, rfl⟩
    · exact .inl rfl

/-- A word that acts once for its gang keeps what its function keeps. -/
theorem onceForGang_keeps {A : Type} (p : State → A) (s : State) (f : Gang → State → State) (h : ∀ g, p (f g s) = p s) :
    p (onceForGang s f) = p s := by
  rcases onceForGang_cases s f with e | ⟨g, _, _, e⟩ <;> rw [e]
  exact h g

/-! ### Gangs that a save has taken off their core (R305, R331) -/

/-- What comes for a gang from outside its core, resident or saved, keeps what the act itself keeps, but for gangs and
blocks. -/
theorem onGang_keeps {A : Type} (p : State → A) (s : State) (u : Nat) (f : State → State)
    (hp : ∀ t gs bs, p { t with gangs := gs, blocks := bs } = p t) (hf : ∀ t, p (f t) = p t) : p (onGang s u f) = p s := by
  have hg : ∀ t gs, p { t with gangs := gs } = p t := fun t gs => hp t gs t.blocks
  unfold onGang onSaved
  split
  · exact hf s
  · split
    · rfl
    · dsimp only
      split
      · rw [hf, hg]
      · rw [hp, hf, hg]

end Sys2Proof.Laws
end

