-- ==== Sys2Proof/Laws/PerInstr.lean ====
section
/-! SUPPORT. Laws/PerInstr.lean: what holds of every instruction as syntax, one lemma per constructor. -/

/-- R64, R74, R77: an instruction whose fields its form accepts has one encoding: as a full word or as a slot of a pair,
not both. A device event has none, and no form accepts it. -/
def Sys2Proof.Laws.Codec.Statement (i : Sys2Proof.Instr) : Prop :=
  Sys2Proof.Machine.formOk i = true → (Sys2Proof.fieldsOf i).isSome ≠ (Sys2Proof.sopOf i).isSome

namespace Sys2Proof.Laws
open Sys2Proof

theorem Codec.iadd : ∀ a0, Codec.Statement (Instr.iadd a0) := fun _ _ => Bool.noConfusion
theorem Codec.iaddc : ∀ a0, Codec.Statement (Instr.iaddc a0) := fun _ _ => Bool.noConfusion
theorem Codec.iadds : ∀ a0, Codec.Statement (Instr.iadds a0) := fun _ _ => Bool.noConfusion
theorem Codec.isub : ∀ a0, Codec.Statement (Instr.isub a0) := fun _ _ => Bool.noConfusion
theorem Codec.isubb : ∀ a0, Codec.Statement (Instr.isubb a0) := fun _ _ => Bool.noConfusion
theorem Codec.isubs : ∀ a0, Codec.Statement (Instr.isubs a0) := fun _ _ => Bool.noConfusion
theorem Codec.ineg : ∀ a0, Codec.Statement (Instr.ineg a0) := fun _ _ => Bool.noConfusion
theorem Codec.iabs : ∀ a0, Codec.Statement (Instr.iabs a0) := fun _ _ => Bool.noConfusion
theorem Codec.imin : ∀ a0, Codec.Statement (Instr.imin a0) := fun _ _ => Bool.noConfusion
theorem Codec.imax : ∀ a0, Codec.Statement (Instr.imax a0) := fun _ _ => Bool.noConfusion
theorem Codec.imul : ∀ a0, Codec.Statement (Instr.imul a0) := fun _ _ => Bool.noConfusion
theorem Codec.imulh : ∀ a0, Codec.Statement (Instr.imulh a0) := fun _ _ => Bool.noConfusion
theorem Codec.imad : ∀ a0, Codec.Statement (Instr.imad a0) := fun _ _ => Bool.noConfusion
theorem Codec.imadw : ∀ a0, Codec.Statement (Instr.imadw a0) := fun _ _ => Bool.noConfusion
theorem Codec.idiv : ∀ a0, Codec.Statement (Instr.idiv a0) := fun _ _ => Bool.noConfusion
theorem Codec.irem : ∀ a0, Codec.Statement (Instr.irem a0) := fun _ _ => Bool.noConfusion
theorem Codec.and : ∀ a0, Codec.Statement (Instr.and a0) := fun _ _ => Bool.noConfusion
theorem Codec.or : ∀ a0, Codec.Statement (Instr.or a0) := fun _ _ => Bool.noConfusion
theorem Codec.xor : ∀ a0, Codec.Statement (Instr.xor a0) := fun _ _ => Bool.noConfusion
theorem Codec.andn : ∀ a0, Codec.Statement (Instr.andn a0) := fun _ _ => Bool.noConfusion
theorem Codec.orn : ∀ a0, Codec.Statement (Instr.orn a0) := fun _ _ => Bool.noConfusion
theorem Codec.shl : ∀ a0, Codec.Statement (Instr.shl a0) := fun _ _ => Bool.noConfusion
theorem Codec.shr : ∀ a0, Codec.Statement (Instr.shr a0) := fun _ _ => Bool.noConfusion
theorem Codec.sar : ∀ a0, Codec.Statement (Instr.sar a0) := fun _ _ => Bool.noConfusion
theorem Codec.rol : ∀ a0, Codec.Statement (Instr.rol a0) := fun _ _ => Bool.noConfusion
theorem Codec.fshl : ∀ a0, Codec.Statement (Instr.fshl a0) := fun _ _ => Bool.noConfusion
theorem Codec.fshr : ∀ a0, Codec.Statement (Instr.fshr a0) := fun _ _ => Bool.noConfusion
theorem Codec.bfx : ∀ a0, Codec.Statement (Instr.bfx a0) := fun _ _ => Bool.noConfusion
theorem Codec.bfxImm : ∀ a0, Codec.Statement (Instr.bfxImm a0) := fun _ _ => Bool.noConfusion
theorem Codec.bfi : ∀ a0, Codec.Statement (Instr.bfi a0) := fun _ _ => Bool.noConfusion
theorem Codec.brev : ∀ a0, Codec.Statement (Instr.brev a0) := fun _ _ => Bool.noConfusion
theorem Codec.popc : ∀ a0, Codec.Statement (Instr.popc a0) := fun _ _ => Bool.noConfusion
theorem Codec.clz : ∀ a0, Codec.Statement (Instr.clz a0) := fun _ _ => Bool.noConfusion
theorem Codec.ctz : ∀ a0, Codec.Statement (Instr.ctz a0) := fun _ _ => Bool.noConfusion
theorem Codec.permb : ∀ a0, Codec.Statement (Instr.permb a0) := fun _ _ => Bool.noConfusion
theorem Codec.sext : ∀ a0, Codec.Statement (Instr.sext a0) := fun _ _ => Bool.noConfusion
theorem Codec.zext : ∀ a0, Codec.Statement (Instr.zext a0) := fun _ _ => Bool.noConfusion
theorem Codec.mov : ∀ a0, Codec.Statement (Instr.mov a0) := fun _ _ => Bool.noConfusion
theorem Codec.movi : ∀ a0, Codec.Statement (Instr.movi a0) := fun _ _ => Bool.noConfusion
theorem Codec.movh : ∀ a0, Codec.Statement (Instr.movh a0) := fun _ _ => Bool.noConfusion
theorem Codec.sel : ∀ a0, Codec.Statement (Instr.sel a0) := fun _ _ => Bool.noConfusion
theorem Codec.cmp : ∀ a0, Codec.Statement (Instr.cmp a0) := fun _ _ => Bool.noConfusion
theorem Codec.cmpImm : ∀ a0, Codec.Statement (Instr.cmpImm a0) := fun _ _ => Bool.noConfusion
theorem Codec.tst : ∀ a0, Codec.Statement (Instr.tst a0) := fun _ _ => Bool.noConfusion
theorem Codec.setk : ∀ a0, Codec.Statement (Instr.setk a0) := fun _ _ => Bool.noConfusion
theorem Codec.getk : ∀ a0, Codec.Statement (Instr.getk a0) := fun _ _ => Bool.noConfusion
theorem Codec.iaddImm : ∀ a0, Codec.Statement (Instr.iaddImm a0) := fun _ _ => Bool.noConfusion
theorem Codec.andImm : ∀ a0, Codec.Statement (Instr.andImm a0) := fun _ _ => Bool.noConfusion
theorem Codec.orImm : ∀ a0, Codec.Statement (Instr.orImm a0) := fun _ _ => Bool.noConfusion
theorem Codec.xorImm : ∀ a0, Codec.Statement (Instr.xorImm a0) := fun _ _ => Bool.noConfusion
theorem Codec.shlImm : ∀ a0, Codec.Statement (Instr.shlImm a0) := fun _ _ => Bool.noConfusion
theorem Codec.shrImm : ∀ a0, Codec.Statement (Instr.shrImm a0) := fun _ _ => Bool.noConfusion
theorem Codec.sarImm : ∀ a0, Codec.Statement (Instr.sarImm a0) := fun _ _ => Bool.noConfusion
theorem Codec.imulImm : ∀ a0, Codec.Statement (Instr.imulImm a0) := fun _ _ => Bool.noConfusion
theorem Codec.bra : ∀ a0, Codec.Statement (Instr.bra a0) := fun _ _ => Bool.noConfusion
theorem Codec.jmpr : ∀ a0, Codec.Statement (Instr.jmpr a0) := fun _ _ => Bool.noConfusion
theorem Codec.call : ∀ a0, Codec.Statement (Instr.call a0) := fun _ _ => Bool.noConfusion
theorem Codec.ret : ∀ a0, Codec.Statement (Instr.ret a0) := fun _ _ => Bool.noConfusion
theorem Codec.meet : ∀ a0, Codec.Statement (Instr.meet a0) := fun _ _ => Bool.noConfusion
theorem Codec.meetR : ∀ a0, Codec.Statement (Instr.meetR a0) := fun _ _ => Bool.noConfusion
theorem Codec.exit : ∀ a0, Codec.Statement (Instr.exit a0) := fun _ _ => Bool.noConfusion
theorem Codec.trap : ∀ a0, Codec.Statement (Instr.trap a0) := fun _ _ => Bool.noConfusion
theorem Codec.nop : ∀ a0, Codec.Statement (Instr.nop a0) := fun _ _ => Bool.noConfusion
theorem Codec.yield : ∀ a0, Codec.Statement (Instr.yield a0) := fun _ _ => Bool.noConfusion
theorem Codec.fadd : ∀ a0, Codec.Statement (Instr.fadd a0) := fun _ _ => Bool.noConfusion
theorem Codec.fsub : ∀ a0, Codec.Statement (Instr.fsub a0) := fun _ _ => Bool.noConfusion
theorem Codec.fmul : ∀ a0, Codec.Statement (Instr.fmul a0) := fun _ _ => Bool.noConfusion
theorem Codec.ffma : ∀ a0, Codec.Statement (Instr.ffma a0) := fun _ _ => Bool.noConfusion
theorem Codec.ffma2 : ∀ a0, Codec.Statement (Instr.ffma2 a0) := fun _ _ => Bool.noConfusion
theorem Codec.fmin : ∀ a0, Codec.Statement (Instr.fmin a0) := fun _ _ => Bool.noConfusion
theorem Codec.fmax : ∀ a0, Codec.Statement (Instr.fmax a0) := fun _ _ => Bool.noConfusion
theorem Codec.fminm : ∀ a0, Codec.Statement (Instr.fminm a0) := fun _ _ => Bool.noConfusion
theorem Codec.fmaxm : ∀ a0, Codec.Statement (Instr.fmaxm a0) := fun _ _ => Bool.noConfusion
theorem Codec.fabs : ∀ a0, Codec.Statement (Instr.fabs a0) := fun _ _ => Bool.noConfusion
theorem Codec.fneg : ∀ a0, Codec.Statement (Instr.fneg a0) := fun _ _ => Bool.noConfusion
theorem Codec.fcpys : ∀ a0, Codec.Statement (Instr.fcpys a0) := fun _ _ => Bool.noConfusion
theorem Codec.fcmp : ∀ a0, Codec.Statement (Instr.fcmp a0) := fun _ _ => Bool.noConfusion
theorem Codec.fclass : ∀ a0, Codec.Statement (Instr.fclass a0) := fun _ _ => Bool.noConfusion
theorem Codec.fdiv : ∀ a0, Codec.Statement (Instr.fdiv a0) := fun _ _ => Bool.noConfusion
theorem Codec.fsqrt : ∀ a0, Codec.Statement (Instr.fsqrt a0) := fun _ _ => Bool.noConfusion
theorem Codec.frcp : ∀ a0, Codec.Statement (Instr.frcp a0) := fun _ _ => Bool.noConfusion
theorem Codec.frsq : ∀ a0, Codec.Statement (Instr.frsq a0) := fun _ _ => Bool.noConfusion
theorem Codec.fex2 : ∀ a0, Codec.Statement (Instr.fex2 a0) := fun _ _ => Bool.noConfusion
theorem Codec.flg2 : ∀ a0, Codec.Statement (Instr.flg2 a0) := fun _ _ => Bool.noConfusion
theorem Codec.fsin : ∀ a0, Codec.Statement (Instr.fsin a0) := fun _ _ => Bool.noConfusion
theorem Codec.fcos : ∀ a0, Codec.Statement (Instr.fcos a0) := fun _ _ => Bool.noConfusion
theorem Codec.frint : ∀ a0, Codec.Statement (Instr.frint a0) := fun _ _ => Bool.noConfusion
theorem Codec.fscale : ∀ a0, Codec.Statement (Instr.fscale a0) := fun _ _ => Bool.noConfusion
theorem Codec.fcvt : ∀ a0 a1, Codec.Statement (Instr.fcvt a0 a1) := fun _ _ _ => Bool.noConfusion
theorem Codec.ftoi : ∀ a0 a1, Codec.Statement (Instr.ftoi a0 a1) := fun _ _ _ => Bool.noConfusion
theorem Codec.itof : ∀ a0 a1, Codec.Statement (Instr.itof a0 a1) := fun _ _ _ => Bool.noConfusion
theorem Codec.fdot4 : ∀ a0, Codec.Statement (Instr.fdot4 a0) := fun _ _ => Bool.noConfusion
theorem Codec.qds8 : ∀ a0, Codec.Statement (Instr.qds8 a0) := fun _ _ => Bool.noConfusion
theorem Codec.fgsr : ∀ a0, Codec.Statement (Instr.fgsr a0) := fun _ _ => Bool.noConfusion
theorem Codec.fssr : ∀ a0, Codec.Statement (Instr.fssr a0) := fun _ _ => Bool.noConfusion
theorem Codec.shflIdx : ∀ a0, Codec.Statement (Instr.shflIdx a0) := fun _ _ => Bool.noConfusion
theorem Codec.shflUp : ∀ a0, Codec.Statement (Instr.shflUp a0) := fun _ _ => Bool.noConfusion
theorem Codec.shflDown : ∀ a0, Codec.Statement (Instr.shflDown a0) := fun _ _ => Bool.noConfusion
theorem Codec.shflXor : ∀ a0, Codec.Statement (Instr.shflXor a0) := fun _ _ => Bool.noConfusion
theorem Codec.ballot : ∀ a0, Codec.Statement (Instr.ballot a0) := fun _ _ => Bool.noConfusion
theorem Codec.voteEvery : ∀ a0, Codec.Statement (Instr.voteEvery a0) := fun _ _ => Bool.noConfusion
theorem Codec.voteSome : ∀ a0, Codec.Statement (Instr.voteSome a0) := fun _ _ => Bool.noConfusion
theorem Codec.voteAgree : ∀ a0, Codec.Statement (Instr.voteAgree a0) := fun _ _ => Bool.noConfusion
theorem Codec.voteCount : ∀ a0, Codec.Statement (Instr.voteCount a0) := fun _ _ => Bool.noConfusion
theorem Codec.bcast : ∀ a0, Codec.Statement (Instr.bcast a0) := fun _ _ => Bool.noConfusion
theorem Codec.elect : ∀ a0, Codec.Statement (Instr.elect a0) := fun _ _ => Bool.noConfusion
theorem Codec.matchL : ∀ a0, Codec.Statement (Instr.matchL a0) := fun _ _ => Bool.noConfusion
theorem Codec.qmx : ∀ a0, Codec.Statement (Instr.qmx a0) := fun _ _ => Bool.noConfusion
theorem Codec.scan : ∀ a0 a1 a2, Codec.Statement (Instr.scan a0 a1 a2) := fun _ _ _ _ => Bool.noConfusion
theorem Codec.reduce : ∀ a0 a1, Codec.Statement (Instr.reduce a0 a1) := fun _ _ _ => Bool.noConfusion
theorem Codec.gatheringDelivery : ∀ a0 a1, Codec.Statement (Instr.gatheringDelivery a0 a1) := fun _ _ h => Bool.noConfusion h
theorem Codec.ld : ∀ a0, Codec.Statement (Instr.ld a0) := fun _ _ => Bool.noConfusion
theorem Codec.pref : ∀ a0, Codec.Statement (Instr.pref a0) := fun _ _ => Bool.noConfusion
theorem Codec.st : ∀ a0, Codec.Statement (Instr.st a0) := fun _ _ => Bool.noConfusion
theorem Codec.lde : ∀ a0, Codec.Statement (Instr.lde a0) := fun _ _ => Bool.noConfusion
theorem Codec.ldeSc : ∀ a0, Codec.Statement (Instr.ldeSc a0) := fun _ _ => Bool.noConfusion
theorem Codec.ste : ∀ a0, Codec.Statement (Instr.ste a0) := fun _ _ => Bool.noConfusion
theorem Codec.steSc : ∀ a0, Codec.Statement (Instr.steSc a0) := fun _ _ => Bool.noConfusion
theorem Codec.ldl : ∀ a0, Codec.Statement (Instr.ldl a0) := fun _ _ => Bool.noConfusion
theorem Codec.stl : ∀ a0, Codec.Statement (Instr.stl a0) := fun _ _ => Bool.noConfusion
theorem Codec.atom : ∀ a0, Codec.Statement (Instr.atom a0) := fun _ _ => Bool.noConfusion
theorem Codec.atoml : ∀ a0, Codec.Statement (Instr.atoml a0) := fun _ _ => Bool.noConfusion
theorem Codec.sbind : ∀ a0, Codec.Statement (Instr.sbind a0) := fun _ _ => Bool.noConfusion
theorem Codec.spos : ∀ a0 a1, Codec.Statement (Instr.spos a0 a1) := fun _ _ _ => Bool.noConfusion
theorem Codec.pairedNop : ∀ a0, Codec.Statement (Instr.pairedNop a0) := fun _ _ => Bool.noConfusion
theorem Codec.pairedIadd : ∀ a0, Codec.Statement (Instr.pairedIadd a0) := fun _ _ => Bool.noConfusion
theorem Codec.pairedIsub : ∀ a0, Codec.Statement (Instr.pairedIsub a0) := fun _ _ => Bool.noConfusion
theorem Codec.pairedImul : ∀ a0, Codec.Statement (Instr.pairedImul a0) := fun _ _ => Bool.noConfusion
theorem Codec.pairedImin : ∀ a0, Codec.Statement (Instr.pairedImin a0) := fun _ _ => Bool.noConfusion
theorem Codec.pairedImax : ∀ a0, Codec.Statement (Instr.pairedImax a0) := fun _ _ => Bool.noConfusion
theorem Codec.pairedAnd : ∀ a0, Codec.Statement (Instr.pairedAnd a0) := fun _ _ => Bool.noConfusion
theorem Codec.pairedOr : ∀ a0, Codec.Statement (Instr.pairedOr a0) := fun _ _ => Bool.noConfusion
theorem Codec.pairedXor : ∀ a0, Codec.Statement (Instr.pairedXor a0) := fun _ _ => Bool.noConfusion
theorem Codec.pairedAndn : ∀ a0, Codec.Statement (Instr.pairedAndn a0) := fun _ _ => Bool.noConfusion
theorem Codec.pairedShl : ∀ a0, Codec.Statement (Instr.pairedShl a0) := fun _ _ => Bool.noConfusion
theorem Codec.pairedShr : ∀ a0, Codec.Statement (Instr.pairedShr a0) := fun _ _ => Bool.noConfusion
theorem Codec.pairedSar : ∀ a0, Codec.Statement (Instr.pairedSar a0) := fun _ _ => Bool.noConfusion
theorem Codec.pairedMov : ∀ a0, Codec.Statement (Instr.pairedMov a0) := fun _ _ => Bool.noConfusion
theorem Codec.pairedCmp : ∀ a0, Codec.Statement (Instr.pairedCmp a0) := fun _ _ => Bool.noConfusion
theorem Codec.pairedTst : ∀ a0, Codec.Statement (Instr.pairedTst a0) := fun _ _ => Bool.noConfusion
theorem Codec.pairedFadd : ∀ a0, Codec.Statement (Instr.pairedFadd a0) := fun _ _ => Bool.noConfusion
theorem Codec.pairedFsub : ∀ a0, Codec.Statement (Instr.pairedFsub a0) := fun _ _ => Bool.noConfusion
theorem Codec.pairedFmul : ∀ a0, Codec.Statement (Instr.pairedFmul a0) := fun _ _ => Bool.noConfusion
theorem Codec.pairedFmin : ∀ a0, Codec.Statement (Instr.pairedFmin a0) := fun _ _ => Bool.noConfusion
theorem Codec.pairedFmax : ∀ a0, Codec.Statement (Instr.pairedFmax a0) := fun _ _ => Bool.noConfusion
theorem Codec.pairedFcmp : ∀ a0, Codec.Statement (Instr.pairedFcmp a0) := fun _ _ => Bool.noConfusion
theorem Codec.rgive : ∀ a0 a1, Codec.Statement (Instr.rgive a0 a1) := fun _ _ _ => Bool.noConfusion
theorem Codec.rtake : ∀ a0 a1, Codec.Statement (Instr.rtake a0 a1) := fun _ _ _ => Bool.noConfusion
theorem Codec.rdsp : ∀ a0 a1, Codec.Statement (Instr.rdsp a0 a1) := fun _ _ _ => Bool.noConfusion
theorem Codec.kick : ∀ a0 a1, Codec.Statement (Instr.kick a0 a1) := fun _ _ _ => Bool.noConfusion
theorem Codec.cati : ∀ a0 a1, Codec.Statement (Instr.cati a0 a1) := fun _ _ _ => Bool.noConfusion
theorem Codec.catw : ∀ a0, Codec.Statement (Instr.catw a0) := fun _ _ => Bool.noConfusion
theorem Codec.waitc : ∀ a0 a1 a2, Codec.Statement (Instr.waitc a0 a1 a2) := fun _ _ _ _ => Bool.noConfusion
theorem Codec.recf : ∀ a0, Codec.Statement (Instr.recf a0) := fun _ _ => Bool.noConfusion
theorem Codec.recp : ∀ a0, Codec.Statement (Instr.recp a0) := fun _ _ => Bool.noConfusion
theorem Codec.pub : ∀ a0, Codec.Statement (Instr.pub a0) := fun _ _ => Bool.noConfusion
theorem Codec.acq : ∀ a0, Codec.Statement (Instr.acq a0) := fun _ _ => Bool.noConfusion
theorem Codec.phase : ∀ a0, Codec.Statement (Instr.phase a0) := fun _ _ => Bool.noConfusion
theorem Codec.fence : ∀ a0, Codec.Statement (Instr.fence a0) := fun _ _ => Bool.noConfusion
theorem Codec.mma : ∀ a0 a1, Codec.Statement (Instr.mma a0 a1) := fun _ _ _ => Bool.noConfusion
theorem Codec.mmax : ∀ a0 a1, Codec.Statement (Instr.mmax a0 a1) := fun _ _ _ => Bool.noConfusion
theorem Codec.mmas : ∀ a0 a1, Codec.Statement (Instr.mmas a0 a1) := fun _ _ _ => Bool.noConfusion
theorem Codec.mzero : ∀ a0, Codec.Statement (Instr.mzero a0) := fun _ _ => Bool.noConfusion
theorem Codec.mlda : ∀ a0, Codec.Statement (Instr.mlda a0) := fun _ _ => Bool.noConfusion
theorem Codec.mdrain : ∀ a0, Codec.Statement (Instr.mdrain a0) := fun _ _ => Bool.noConfusion
theorem Codec.spcomp : ∀ a0, Codec.Statement (Instr.spcomp a0) := fun _ _ => Bool.noConfusion
theorem Codec.bari : ∀ a0, Codec.Statement (Instr.bari a0) := fun _ _ => Bool.noConfusion
theorem Codec.bara : ∀ a0, Codec.Statement (Instr.bara a0) := fun _ _ => Bool.noConfusion
theorem Codec.barw : ∀ a0, Codec.Statement (Instr.barw a0) := fun _ _ => Bool.noConfusion
theorem Codec.bart : ∀ a0, Codec.Statement (Instr.bart a0) := fun _ _ => Bool.noConfusion
theorem Codec.launch : ∀ a0, Codec.Statement (Instr.launch a0) := fun _ _ => Bool.noConfusion
theorem Codec.prog : ∀ a0, Codec.Statement (Instr.prog a0) := fun _ _ => Bool.noConfusion
theorem Codec.migr : ∀ a0, Codec.Statement (Instr.migr a0) := fun _ _ => Bool.noConfusion
theorem Codec.pgq : ∀ a0, Codec.Statement (Instr.pgq a0) := fun _ _ => Bool.noConfusion
theorem Codec.jarr : ∀ a0, Codec.Statement (Instr.jarr a0) := fun _ _ => Bool.noConfusion
theorem Codec.jwait : ∀ a0, Codec.Statement (Instr.jwait a0) := fun _ _ => Bool.noConfusion
theorem Codec.killpt : ∀ a0, Codec.Statement (Instr.killpt a0) := fun _ _ => Bool.noConfusion
theorem Codec.jstat : ∀ a0, Codec.Statement (Instr.jstat a0) := fun _ _ => Bool.noConfusion
theorem Codec.gath : ∀ a0, Codec.Statement (Instr.gath a0) := fun _ _ => Bool.noConfusion
theorem Codec.scad : ∀ a0, Codec.Statement (Instr.scad a0) := fun _ _ => Bool.noConfusion
theorem Codec.runBoundary : ∀ a0 a1, Codec.Statement (Instr.runBoundary a0 a1) := fun _ _ h => Bool.noConfusion h
theorem Codec.tlbWalk : ∀ a0 a1 a2, Codec.Statement (Instr.tlbWalk a0 a1 a2) := fun _ _ _ h => Bool.noConfusion h
theorem Codec.variableResultReturn : ∀ a0 a1, Codec.Statement (Instr.variableResultReturn a0 a1) := fun _ _ h => Bool.noConfusion h
theorem Codec.parkSeamComplete : ∀ a0, Codec.Statement (Instr.parkSeamComplete a0) := fun _ h => Bool.noConfusion h
theorem Codec.quarantineExit : ∀ a0, Codec.Statement (Instr.quarantineExit a0) := fun _ h => Bool.noConfusion h
theorem Codec.strikeReport : ∀ a0, Codec.Statement (Instr.strikeReport a0) := fun _ h => Bool.noConfusion h
theorem Codec.commonsArbitration : ∀ a0, Codec.Statement (Instr.commonsArbitration a0) := fun _ h => Bool.noConfusion h
theorem Codec.commonsOverlayRetire : ∀ a0, Codec.Statement (Instr.commonsOverlayRetire a0) := fun _ h => Bool.noConfusion h
theorem Codec.donationTakeEffect : ∀ a0, Codec.Statement (Instr.donationTakeEffect a0) := fun _ h => Bool.noConfusion h
theorem Codec.chorusCheck : ∀ a0 a1 a2 a3, Codec.Statement (Instr.chorusCheck a0 a1 a2 a3) := fun _ _ _ _ h => Bool.noConfusion h
theorem Codec.chorusCheckDue : ∀ a0 a1, Codec.Statement (Instr.chorusCheckDue a0 a1) := fun _ _ h => Bool.noConfusion h
theorem Codec.faultRecordWrite : ∀ a0, Codec.Statement (Instr.faultRecordWrite a0) := fun _ h => Bool.noConfusion h
theorem Codec.spillwayFetch : ∀ a0, Codec.Statement (Instr.spillwayFetch a0) := fun _ h => Bool.noConfusion h
theorem Codec.walkAheadTranslate : ∀ a0, Codec.Statement (Instr.walkAheadTranslate a0) := fun _ h => Bool.noConfusion h
theorem Codec.copyGranuleTransfer : ∀ a0 a1, Codec.Statement (Instr.copyGranuleTransfer a0 a1) := fun _ _ h => Bool.noConfusion h
theorem Codec.tileLoadAttempt : ∀ a0, Codec.Statement (Instr.tileLoadAttempt a0) := fun _ h => Bool.noConfusion h
theorem Codec.copyRequestComplete : ∀ a0, Codec.Statement (Instr.copyRequestComplete a0) := fun _ h => Bool.noConfusion h
theorem Codec.commandAccept : ∀ a0 a1, Codec.Statement (Instr.commandAccept a0 a1) := fun _ _ h => Bool.noConfusion h
theorem Codec.commandComplete : ∀ a0, Codec.Statement (Instr.commandComplete a0) := fun _ h => Bool.noConfusion h
theorem Codec.pairTimeout : ∀ a0, Codec.Statement (Instr.pairTimeout a0) := fun _ h => Bool.noConfusion h
theorem Codec.storeBufferAccept : ∀ a0, Codec.Statement (Instr.storeBufferAccept a0) := fun _ h => Bool.noConfusion h
theorem Codec.homeWrite : ∀ a0 a1, Codec.Statement (Instr.homeWrite a0 a1) := fun _ _ h => Bool.noConfusion h
theorem Codec.commitComplete : ∀ a0, Codec.Statement (Instr.commitComplete a0) := fun _ h => Bool.noConfusion h
theorem Codec.loadHomeRead : ∀ a0 a1 a2, Codec.Statement (Instr.loadHomeRead a0 a1 a2) := fun _ _ _ h => Bool.noConfusion h
theorem Codec.l1Evict : ∀ a0 a1, Codec.Statement (Instr.l1Evict a0 a1) := fun _ _ h => Bool.noConfusion h
theorem Codec.atomPerform : ∀ a0 a1, Codec.Statement (Instr.atomPerform a0 a1) := fun _ _ h => Bool.noConfusion h
theorem Codec.gangEnd : ∀ a0, Codec.Statement (Instr.gangEnd a0) := fun _ h => Bool.noConfusion h
theorem Codec.barrierNetworkInit : ∀ a0, Codec.Statement (Instr.barrierNetworkInit a0) := fun _ h => Bool.noConfusion h
theorem Codec.barrierNetworkArrival : ∀ a0, Codec.Statement (Instr.barrierNetworkArrival a0) := fun _ h => Bool.noConfusion h
theorem Codec.barrierWaitTest : ∀ a0, Codec.Statement (Instr.barrierWaitTest a0) := fun _ h => Bool.noConfusion h
theorem Codec.barrierStatusRead : ∀ a0, Codec.Statement (Instr.barrierStatusRead a0) := fun _ h => Bool.noConfusion h
theorem Codec.barrierWatchdogExpiry : ∀ a0, Codec.Statement (Instr.barrierWatchdogExpiry a0) := fun _ h => Bool.noConfusion h
theorem Codec.qtailWrite : ∀ a0 a1, Codec.Statement (Instr.qtailWrite a0 a1) := fun _ _ h => Bool.noConfusion h
theorem Codec.launchEnqueue : ∀ a0 a1, Codec.Statement (Instr.launchEnqueue a0 a1) := fun _ _ h => Bool.noConfusion h
theorem Codec.dispatchBlock : ∀ a0, Codec.Statement (Instr.dispatchBlock a0) := fun _ h => Bool.noConfusion h
theorem Codec.launchComplete : ∀ a0, Codec.Statement (Instr.launchComplete a0) := fun _ h => Bool.noConfusion h
theorem Codec.timeLimitExpiry : ∀ a0, Codec.Statement (Instr.timeLimitExpiry a0) := fun _ h => Bool.noConfusion h
theorem Codec.uncorrectableConsumption : ∀ a0, Codec.Statement (Instr.uncorrectableConsumption a0) := fun _ h => Bool.noConfusion h
theorem Codec.freplyRetry : ∀ a0 a1 a2, Codec.Statement (Instr.freplyRetry a0 a1 a2) := fun _ _ _ h => Bool.noConfusion h
theorem Codec.freplyResumeAfter : ∀ a0 a1 a2, Codec.Statement (Instr.freplyResumeAfter a0 a1 a2) := fun _ _ _ h => Bool.noConfusion h
theorem Codec.freplyKill : ∀ a0 a1 a2, Codec.Statement (Instr.freplyKill a0 a1 a2) := fun _ _ _ h => Bool.noConfusion h
theorem Codec.freplyFree : ∀ a0 a1 a2, Codec.Statement (Instr.freplyFree a0 a1 a2) := fun _ _ _ h => Bool.noConfusion h
theorem Codec.memoryChannelServe : ∀ a0 a1, Codec.Statement (Instr.memoryChannelServe a0 a1) := fun _ _ h => Bool.noConfusion h
theorem Codec.subarrayRefresh : ∀ a0 a1 a2 a3, Codec.Statement (Instr.subarrayRefresh a0 a1 a2 a3) := fun _ _ _ _ h => Bool.noConfusion h
theorem Codec.geckoPatrol : ∀ a0 a1, Codec.Statement (Instr.geckoPatrol a0 a1) := fun _ _ h => Bool.noConfusion h
theorem Codec.correctedWriteback : ∀ a0, Codec.Statement (Instr.correctedWriteback a0) := fun _ h => Bool.noConfusion h
theorem Codec.hbmThermalSelfRefresh : ∀ a0 a1, Codec.Statement (Instr.hbmThermalSelfRefresh a0 a1) := fun _ _ h => Bool.noConfusion h
theorem Codec.hotnessHalving : ∀ a0, Codec.Statement (Instr.hotnessHalving a0) := fun _ h => Bool.noConfusion h
theorem Codec.promotionStart : ∀ a0, Codec.Statement (Instr.promotionStart a0) := fun _ h => Bool.noConfusion h
theorem Codec.migrationStart : ∀ a0, Codec.Statement (Instr.migrationStart a0) := fun _ h => Bool.noConfusion h
theorem Codec.migrationCopyUnit : ∀ a0 a1, Codec.Statement (Instr.migrationCopyUnit a0 a1) := fun _ _ h => Bool.noConfusion h
theorem Codec.migrationEnd : ∀ a0, Codec.Statement (Instr.migrationEnd a0) := fun _ h => Bool.noConfusion h
theorem Codec.invalidatePage : ∀ a0 a1, Codec.Statement (Instr.invalidatePage a0 a1) := fun _ _ h => Bool.noConfusion h
theorem Codec.invalidateAsid : ∀ a0, Codec.Statement (Instr.invalidateAsid a0) := fun _ h => Bool.noConfusion h
theorem Codec.invalidateAll : Codec.Statement Instr.invalidateAll := fun h => Bool.noConfusion h
theorem Codec.invalidationComplete : Codec.Statement Instr.invalidationComplete := fun h => Bool.noConfusion h
theorem Codec.keyInstall : ∀ a0 a1, Codec.Statement (Instr.keyInstall a0 a1) := fun _ _ h => Bool.noConfusion h
theorem Codec.keyDestroy : ∀ a0, Codec.Statement (Instr.keyDestroy a0) := fun _ h => Bool.noConfusion h
theorem Codec.mcmdPreemptContext : ∀ a0 a1, Codec.Statement (Instr.mcmdPreemptContext a0 a1) := fun _ _ h => Bool.noConfusion h
theorem Codec.mcmdResumeContext : ∀ a0, Codec.Statement (Instr.mcmdResumeContext a0) := fun _ h => Bool.noConfusion h
theorem Codec.mcmdResetCore : ∀ a0, Codec.Statement (Instr.mcmdResetCore a0) := fun _ h => Bool.noConfusion h
theorem Codec.mcmdDone : Codec.Statement Instr.mcmdDone := fun h => Bool.noConfusion h
theorem Codec.noticeClear : ∀ a0, Codec.Statement (Instr.noticeClear a0) := fun _ h => Bool.noConfusion h
theorem Codec.attestationRequest : Codec.Statement Instr.attestationRequest := fun h => Bool.noConfusion h
theorem Codec.attestationReportDone : Codec.Statement Instr.attestationReportDone := fun h => Bool.noConfusion h
theorem Codec.bootSequence : ∀ a0, Codec.Statement (Instr.bootSequence a0) := fun _ h => Bool.noConfusion h
theorem Codec.clockStep : ∀ a0 a1 a2, Codec.Statement (Instr.clockStep a0 a1 a2) := fun _ _ _ h => Bool.noConfusion h
theorem Codec.thermalShutdown : ∀ a0, Codec.Statement (Instr.thermalShutdown a0) := fun _ h => Bool.noConfusion h
theorem Codec.hostMemoryWrite : ∀ a0 a1, Codec.Statement (Instr.hostMemoryWrite a0 a1) := fun _ _ h => Bool.noConfusion h
theorem Codec.hostMemoryRead : ∀ a0 a1, Codec.Statement (Instr.hostMemoryRead a0 a1) := fun _ _ h => Bool.noConfusion h
theorem Codec.cxlLinkDown : ∀ a0, Codec.Statement (Instr.cxlLinkDown a0) := fun _ h => Bool.noConfusion h
theorem Codec.fabidWrite : ∀ a0, Codec.Statement (Instr.fabidWrite a0) := fun _ h => Bool.noConfusion h
theorem Codec.registerWrite : ∀ a0 a1, Codec.Statement (Instr.registerWrite a0 a1) := fun _ _ h => Bool.noConfusion h
theorem Codec.remoteTranslationRequest : ∀ a0 a1 a2, Codec.Statement (Instr.remoteTranslationRequest a0 a1 a2) := fun _ _ _ h => Bool.noConfusion h
theorem Codec.remoteInvalidation : ∀ a0 a1 a2 a3, Codec.Statement (Instr.remoteInvalidation a0 a1 a2 a3) := fun _ _ _ _ h => Bool.noConfusion h
theorem Codec.remoteReadArrival : ∀ a0, Codec.Statement (Instr.remoteReadArrival a0) := fun _ h => Bool.noConfusion h
theorem Codec.remoteWriteArrival : ∀ a0, Codec.Statement (Instr.remoteWriteArrival a0) := fun _ h => Bool.noConfusion h
theorem Codec.remoteResponse : ∀ a0 a1, Codec.Statement (Instr.remoteResponse a0 a1) := fun _ _ h => Bool.noConfusion h
theorem Codec.remoteRetransmit : ∀ a0 a1, Codec.Statement (Instr.remoteRetransmit a0 a1) := fun _ _ h => Bool.noConfusion h
theorem Codec.remoteTimeout : ∀ a0, Codec.Statement (Instr.remoteTimeout a0) := fun _ h => Bool.noConfusion h
theorem Codec.podBarrierReleaseNotice : ∀ a0 a1 a2 a3, Codec.Statement (Instr.podBarrierReleaseNotice a0 a1 a2 a3) := fun _ _ _ _ h => Bool.noConfusion h
theorem Codec.podExpiryNotice : ∀ a0 a1 a2, Codec.Statement (Instr.podExpiryNotice a0 a1 a2) := fun _ _ _ h => Bool.noConfusion h
theorem Codec.gatherAccept : ∀ a0 a1, Codec.Statement (Instr.gatherAccept a0 a1) := fun _ _ h => Bool.noConfusion h
theorem Codec.sluiceFold : ∀ a0, Codec.Statement (Instr.sluiceFold a0) := fun _ h => Bool.noConfusion h
theorem Codec.subrequestReceive : ∀ a0, Codec.Statement (Instr.subrequestReceive a0) := fun _ h => Bool.noConfusion h
theorem Codec.rillRowRead : ∀ a0 a1, Codec.Statement (Instr.rillRowRead a0 a1) := fun _ _ h => Bool.noConfusion h
theorem Codec.rillRowUpdate : ∀ a0 a1, Codec.Statement (Instr.rillRowUpdate a0 a1) := fun _ _ h => Bool.noConfusion h
theorem Codec.gatherMerge : ∀ a0 a1, Codec.Statement (Instr.gatherMerge a0 a1) := fun _ _ h => Bool.noConfusion h
theorem Codec.gatherComplete : ∀ a0, Codec.Statement (Instr.gatherComplete a0) := fun _ h => Bool.noConfusion h
theorem Codec.joinArrival : ∀ a0, Codec.Statement (Instr.joinArrival a0) := fun _ h => Bool.noConfusion h
theorem Codec.joinRelease : ∀ a0, Codec.Statement (Instr.joinRelease a0) := fun _ h => Bool.noConfusion h
theorem Codec.stragglerGraceExpiry : ∀ a0, Codec.Statement (Instr.stragglerGraceExpiry a0) := fun _ h => Bool.noConfusion h
theorem Codec.hbmSelfRefreshExit : ∀ a0, Codec.Statement (Instr.hbmSelfRefreshExit a0) := fun _ h => Bool.noConfusion h
theorem Codec.remoteBusyRetry : ∀ a0, Codec.Statement (Instr.remoteBusyRetry a0) := fun _ h => Bool.noConfusion h

end Sys2Proof.Laws
end

