-- ==== Sys2Proof/Tests/Slice0.lean ====
section
/-! SUPPORT. Tests/Slice0.lean: small tests of the model: words of the manual decoded, ill-formed terms refused, worked
examples of the manual, and for each statement's hypotheses a state that meets them.
-/
namespace Sys2Proof.Tests
open Sys2Proof Sys2Proof.Machine
set_option Elab.async false

/-! ### Decoding (the manual's own words, R64 to R77) -/

/-- What a word decodes to. -/
def dec (w : W64) : Option DWord := (decode w).toOption

theorem test_decode_integer :
    dec 0x0000028020100085 = some (.full .cont ⟨0, 0⟩ (.iadd ⟨.v 10, .v 2, .v 4, .n32, none, false, true, 1⟩)) ∧
    dec 0x200002C030141085 = some (.full .endRun ⟨0, 0⟩ (.iaddc ⟨.v 11, .v 3, .v 5, .n32, none, false, true, 1⟩)) ∧
    dec 0x000F413FF0000001 = some (.full .cont ⟨0, 0⟩ (.movi ⟨.s 4, .none, 1⟩)) ∧
    dec 0x0018008000000002 = some (.full .cont ⟨0, 0⟩ (.shlImm ⟨.v 2, .v 0, 2⟩)) := by decide +kernel

theorem test_decode_control :
    dec 0x3128FFFFFFFBFFC0 = some (.full .endRun ⟨2, 2⟩ (.bra ⟨0xFFFFFFFB, .none, 0⟩)) ∧
    dec 0x002F00000000FFC0 = some (.full .cont ⟨0, 0⟩ (.nop ⟨0, .none, 0⟩)) := by decide +kernel

theorem test_decode_float :
    dec 0x0032010050180400 = some (.full .cont ⟨0, 0⟩ (.ffma ⟨.v 4, .v 5, .v 6, .f32, none, false, false, 0⟩)) ∧
    dec 0x003B01005FFC8590 = some (.full .cont ⟨0, 0⟩ (.fcvt ⟨.v 4, .v 5, .none, .bf16, some .rne, false, false, 0⟩ .f32)) := by
  decide +kernel

theorem test_decode_cross_lane :
    dec 0x0050010034501086 = some (.full .cont ⟨0, 0⟩ (.shflUp ⟨.v 4, .v 3, .s 20, .n32, none, false, true, 2⟩)) ∧
    dec 0x005142003FF40080 = some (.full .cont ⟨0, 0⟩ (.ballot ⟨.s 8, .v 3, .ones, .n32, none, false, false, 0⟩)) := by
  decide +kernel

/-- R73, R163, R168, R173: the second word of R85's example, an atomic of R168, and `SBIND.e4 w1, s2, v3` written out. -/
theorem test_decode_memory :
    dec 0x4058011010080020 = some (.full .park ⟨0, 0⟩ (.ld ⟨.v 4, .s 1, .v 2, 0, .b32, false, 0⟩)) ∧
    dec 0x405E015020182820 = some (.full .park ⟨0, 0⟩ (.atom ⟨.v 5, .s 2, .v 6, .add, false, true, .b32, 0⟩)) ∧
    dec (0x61 * 2 ^ 48 + 0x3FF * 2 ^ 38 + 0x102 * 2 ^ 28 + 3 * 2 ^ 18 + 2 * 2 ^ 3 + 1) =
      some (.full .cont ⟨0, 0⟩ (.sbind ⟨.none, .s 2, .v 3, false, 2, 1⟩)) := by decide +kernel

/-- R222: `KICK s6, 3` written out, and words that the manual gives. -/
theorem test_decode_core :
    dec 0x2060FFD09FFC0400 = some (.full .endRun ⟨0, 0⟩ (.rgive ⟨.none, .s 9, .none⟩ 8)) ∧
    dec 0x2060FFD09FFC1400 = some (.full .endRun ⟨0, 0⟩ (.rtake ⟨.none, .s 9, .none⟩ 8)) ∧
    dec 0x0062413FFFFC0008 = some (.full .cont ⟨0, 0⟩ (.rdsp ⟨.s 4, .none, .none⟩ .part)) ∧
    dec (0x63 * 2 ^ 48 + 0x3FF * 2 ^ 38 + 0x106 * 2 ^ 28 + 0x3FF * 2 ^ 18 + 3) =
      some (.full .cont ⟨0, 0⟩ (.kick ⟨.none, .s 6, .none⟩ 3)) ∧
    dec 0x0067FFFFFFFC0000 = some (.full .cont ⟨0, 0⟩ (.pub ⟨.none, .none, .none⟩)) ∧
    dec 0x0067FFFFFFFC1000 = some (.full .cont ⟨0, 0⟩ (.acq ⟨.none, .none, .none⟩)) ∧
    dec 0x0067FFFFFFFC2000 = some (.full .cont ⟨0, 0⟩ (.phase ⟨.none, .none, .none⟩)) ∧
    dec 0x0067FFFFFFFC3000 = some (.full .cont ⟨0, 0⟩ (.fence ⟨.none, .none, .none⟩)) := by decide +kernel

theorem test_decode_array :
    dec 0x0070CAD0AFFC0000 = some (.full .cont ⟨0, 0⟩ (.mma ⟨.m 3, .s 10, .none⟩ false)) ∧
    dec 0x0070CA10AFFC0800 = some (.full .cont ⟨0, 0⟩ (.mma ⟨.m 0, .s 10, .none⟩ true)) ∧
    dec 0x0072CA50C0200000 = some (.full .cont ⟨0, 0⟩ (.mmas ⟨.m 1, .s 12, .v 8⟩ false)) ∧
    dec 0x0073CA3FFFFC0000 = some (.full .cont ⟨0, 0⟩ (.mzero ⟨.m 0, .none, .none⟩)) ∧
    dec 0x4065FFFFFFFC0400 = some (.full .park ⟨0, 0⟩ (.waitc ⟨.none, .none, .none⟩ .matrix 0)) := by decide +kernel

theorem test_decode_barrier :
    dec 0x0078FFD044140000 = some (.full .cont ⟨0, 0⟩ (.bari ⟨.none, .s 4, .s 5⟩)) ∧
    dec 0x207941904FFC0000 = some (.full .endRun ⟨0, 0⟩ (.bara ⟨.s 6, .s 4, .none⟩)) ∧
    dec 0x407AFFD044180000 = some (.full .park ⟨0, 0⟩ (.barw ⟨.none, .s 4, .s 6⟩)) ∧
    dec 0x007B41D04FFC0000 = some (.full .cont ⟨0, 0⟩ (.bart ⟨.s 7, .s 4, .none⟩)) := by decide +kernel

theorem test_decode_page_join_gather :
    dec 0x407C415044182000 = some (.full .park ⟨0, 0⟩ (.migr ⟨.s 5, .s 4, .s 6⟩)) ∧
    dec 0x407C41D04FFC3000 = some (.full .park ⟨0, 0⟩ (.pgq ⟨.s 7, .s 4, .none⟩)) ∧
    dec 0x407D415044180000 = some (.full .park ⟨0, 0⟩ (.jarr ⟨.s 5, .s 4, .s 6⟩)) ∧
    dec 0x407D41D04FFC1000 = some (.full .park ⟨0, 0⟩ (.jwait ⟨.s 7, .s 4, .none⟩)) ∧
    dec 0x007DFFFFFFFC2000 = some (.full .cont ⟨0, 0⟩ (.killpt ⟨.none, .none, .none⟩)) ∧
    dec 0x007D42104FFC3000 = some (.full .cont ⟨0, 0⟩ (.jstat ⟨.s 8, .s 4, .none⟩)) ∧
    dec 0x207EFFD0AFFC0000 = some (.full .endRun ⟨0, 0⟩ (.gath ⟨.none, .s 10, .none⟩)) ∧
    dec 0x207EFFD0AFFC1000 = some (.full .endRun ⟨0, 0⟩ (.scad ⟨.none, .s 10, .none⟩)) := by decide +kernel

theorem test_decode_pair :
    dec 0xA084008402120210 = some (.pair .endRun ⟨0, 0⟩ (.pairedIadd ⟨.v 8, .imm 1, 0⟩) ⟨0, 0⟩ (.pairedIadd ⟨.v 9, .imm 1, 0⟩)) := by
  decide +kernel

/-- R77: the bytes of that word in memory. -/
theorem test_pair_bytes : leBytes 8 0xA084008402120210 = [0x10, 0x02, 0x12, 0x02, 0x84, 0x00, 0x84, 0xA0] := by decide

/-- R64, R65, R68, R74, R76: SEAM 11, COND 15, RND 6, a reserved SUB and OPC, bit 0 of a pair: refused. -/
theorem test_reserved_refused :
    dec 0x6000028020100085 = none ∧ dec 0x0780028020100085 = none ∧ dec 0x00000280201000E5 = none ∧
    dec 0x000002802010F085 = none ∧ dec 0x007F028020100000 = none ∧ dec 0xA084008402120211 = none := by decide +kernel

theorem test_table_word : decodeTableWord 64 0x0000028020100085 = some (.iadd ⟨.v 10, .v 2, .v 4, .n32, none, false, true, 1⟩) := by
  decide +kernel

theorem test_decode_manual_words : Obligations.WordsOfTheManualDecode := by
  unfold Obligations.WordsOfTheManualDecode
  exact ⟨rfl, rfl, rfl, rfl, rfl, rfl, rfl, rfl, rfl, rfl, rfl, rfl, rfl, rfl, rfl, rfl, rfl, rfl, rfl, rfl, rfl, rfl, rfl⟩

/-! ### Ill-formed terms -/

/-- R94: an integer addition has no rounding mode. -/
theorem test_form_refused :
    (Instr.iadd ⟨.v 0, .v 1, .v 2, .i32, some .rne, false, false, 0⟩).wf = false ∧
    (Instr.iadd ⟨.v 0, .v 1, .v 2, .i32, none, false, false, 0⟩).wf = true := by decide +kernel

/-- R70, R71: a reserved specifier, an odd register of a pair, a scalar D with a vector source. -/
theorem test_operands_refused :
    (Instr.iadd ⟨.v 0, .bad 0x3FE, .v 2, .i32, none, false, false, 0⟩).wf = false ∧
    (Instr.iadd ⟨.v 1, .v 2, .v 4, .i64, none, false, false, 0⟩).wf = false ∧
    (Instr.iadd ⟨.s 1, .v 2, .v 4, .i32, none, false, false, 0⟩).wf = false := by decide +kernel

/-- R76: slots whose destinations share a bank, a full word of a short instruction, a condition that a slot cannot name. -/
theorem test_pair_refused :
    (DWord.pair .cont ⟨0, 0⟩ (.pairedIadd ⟨.v 8, .imm 1, 0⟩) ⟨0, 0⟩ (.pairedIadd ⟨.v 12, .imm 1, 0⟩)).wf = false ∧
    (DWord.full .cont ⟨0, 0⟩ (.pairedIadd ⟨.v 8, .imm 1, 0⟩)).wf = false ∧
    (DWord.pair .cont ⟨0, 3⟩ (.pairedIadd ⟨.v 8, .imm 1, 0⟩) ⟨0, 0⟩ (.pairedIadd ⟨.v 9, .imm 1, 0⟩)).wf = false ∧
    (DWord.pair .cont ⟨0, 0⟩ (.nop ⟨0, .none, 0⟩) ⟨0, 0⟩ (.pairedIadd ⟨.v 9, .imm 1, 0⟩)).wf = false ∧
    (DWord.pair .cont ⟨0, 0⟩ (.pairedIadd ⟨.v 8, .imm 1, 0⟩) ⟨0, 0⟩ (.pairedIadd ⟨.v 9, .imm 1, 0⟩)).wf = true := by
  decide +kernel

/-! ### Worked examples of the manual -/

/-- A gang of 32 lanes that all hold the given vector registers, its scalars as given, with a word in issue. -/
def lanesState (v : List (Nat × W32)) (sc : List (Nat × W64)) (fsr : W32) : State :=
  let g := placedGang 1 0
  let lane := { Lane.fresh 0 with v := v, fsr := fsr }
  { State.reset with
    gangs := [{ g with regs := { g.regs with lanes := List.replicate 32 lane, s := sc } }]
    cx := ⟨1, 0, 0, 0xFFFFFFFF, 0xFFFFFFFF, false, 0, false⟩ }

/-- What a word leaves due in the gang. -/
def effsOf (i : Instr) (s : State) : List Eff :=
  match exec i s with
  | .next t => (t.gang? 1).elim [] (fun g => g.issue.elim [] (fun r => r.pends.map (·.eff)) ++ g.out.flatMap (·.effs))
  | _ => []

/-- The value due in a vector register of lane 0. -/
def vOf (i : Instr) (s : State) (n : Nat) : Option W32 :=
  (effsOf i s).findSome? (fun e => match e with | .v 0 r x => if r = n then some x else none | _ => none)

/-- The condition code due in lane 0. -/
def kOf (i : Instr) (s : State) : Option Flags :=
  (effsOf i s).findSome? (fun e => match e with | .k 0 _ f => some f | _ => none)

/-- The flags due in lane 0's `%fsr`. -/
def flOf (i : Instr) (s : State) : Option (BitVec 5) :=
  (effsOf i s).findSome? (fun e => match e with | .fsrOr 0 x => some x | _ => none)

/-- The register fields `v4 = v1 op v2`. -/
def r12 (t : Ty) : RRR := ⟨.v 4, .v 1, .v 2, t, none, false, false, 0⟩

/-- The same with a condition code, and SAT. -/
def k12 (t : Ty) (sat : Bool) : RRR := ⟨.v 4, .v 1, .v 2, t, none, sat, true, 1⟩

/-- Two operands in `v1` and `v2`. -/
def ab (a b : W32) : State := lanesState [(1, a), (2, b)] [] 0x20

/-- R95: the low and the high half of a 64-bit addition. -/
theorem test_add_carries :
    vOf (.iadd (k12 .n32 false)) (ab 0xFFFFFFFF 1) 4 = some 0 ∧
    kOf (.iadd (k12 .n32 false)) (ab 0xFFFFFFFF 1) = some ⟨false, true, true, false⟩ := by decide +kernel

theorem test_addc_takes_carry :
    let s := lanesState [(3, 1), (5, 0)] [] 0x20
    let s1 := s.modGang 1 (fun g => { g with regs := { g.regs with lanes := g.regs.lanes.map (fun l => { l with k1 := ⟨false, true, true, false⟩ }) } })
    vOf (.iaddc ⟨.v 11, .v 3, .v 5, .n32, none, false, true, 1⟩) s1 11 = some 2 ∧
    kOf (.iaddc ⟨.v 11, .v 3, .v 5, .n32, none, false, true, 1⟩) s1 = some ⟨false, false, false, false⟩ := by decide +kernel

/-- R96. -/
theorem test_isubs_clamps : vOf (.isubs (k12 .n8 false)) (ab 3 5) 4 = some 0 := by decide +kernel

/-- R97. -/
theorem test_ineg :
    vOf (.ineg { k12 .i32 false with b := .none }) (ab 0x80000000 0) 4 = some 0x80000000 ∧
    (kOf (.ineg { k12 .i32 false with b := .none }) (ab 0x80000000 0)).map (·.v) = some true ∧
    vOf (.ineg { k12 .i32 true with b := .none }) (ab 0x80000000 0) 4 = some 0x7FFFFFFF ∧
    vOf (.ineg { k12 .n32 true with b := .none }) (ab 5 0) 4 = some 0 := by decide +kernel

/-- R98. -/
theorem test_imulh :
    vOf (.imulh (r12 .i32)) (ab 0x80000000 0x80000000) 4 = some 0x40000000 ∧
    vOf (.imulh (r12 .n32)) (ab 0xFFFFFFFF 0xFFFFFFFF) 4 = some 0xFFFFFFFE := by decide +kernel

/-- R100. -/
theorem test_division :
    vOf (.idiv (r12 .i32)) (ab 0xFFFFFFF9 2) 4 = some 0xFFFFFFFD ∧ vOf (.irem (r12 .i32)) (ab 0xFFFFFFF9 2) 4 = some 0xFFFFFFFF ∧
    vOf (.idiv (r12 .n32)) (ab 7 0) 4 = some 0xFFFFFFFF ∧ vOf (.irem (r12 .n32)) (ab 7 0) 4 = some 7 := by decide +kernel

/-- R101, R102. -/
theorem test_logic_and_shifts :
    vOf (.orn (r12 .i8)) (ab 0 0) 4 = some 0xFFFFFFFF ∧ vOf (.shl (r12 .n32)) (ab 3 33) 4 = some 6 ∧
    vOf (.sar (r12 .i8)) (ab 0x80 3) 4 = some 0xFFFFFFF0 := by decide +kernel

/-- R103: the low half is the old D. -/
theorem test_fshr : vOf (.fshr (r12 .n32)) (lanesState [(1, 0xAB), (2, 8), (4, 0x12345678)] [] 0x20) 4 = some 0xAB123456 := by
  decide +kernel

/-- R104: position 8, length 4. -/
theorem test_bfx :
    vOf (.bfx (r12 .i32)) (ab 0xF00 (8 + 64 * 4)) 4 = some 0xFFFFFFFF ∧ vOf (.bfx (r12 .n32)) (ab 0xF00 (8 + 64 * 4)) 4 = some 15 := by
  decide +kernel

/-- R107. -/
theorem test_permb : vOf (.permb (r12 .n32)) (ab 0x44332211 0x8012) 4 = some 0x00112233 := by decide +kernel

/-- R110: `MOVH s5, s4, 0x2345678` of 1, and its successor. -/
theorem test_movh :
    (effsOf (.movh ⟨.s 5, .s 4, 0x2345678⟩) (lanesState [] [(4, 1)] 0x20)) = [.s 5 0x12345678] ∧
    (effsOf (.movh ⟨.s 6, .s 5, 0x9ABCDEF⟩) (lanesState [] [(5, 0x12345678)] 0x20)) = [.s 6 0x0123456789ABCDEF] := by decide +kernel

/-- R112: 0x8000_0000 against 1. -/
theorem test_cmp :
    kOf (.cmp { k12 .i32 false with d := .none }) (ab 0x80000000 1) = some ⟨false, false, true, true⟩ := by decide +kernel

/-- R45, R46, R47, R49: conversions. -/
theorem test_fcvt_ties :
    let f := fun (t : Ty) (m : Rnd) => Instr.fcvt ⟨.v 4, .v 1, .none, t, some m, false, false, 0⟩ .f32
    vOf (f .bf16 .rne) (ab 0x3F808000 0) 4 = some 0x3F80 ∧ flOf (f .bf16 .rne) (ab 0x3F808000 0) = some 0x10 ∧
    vOf (f .bf16 .rup) (ab 0x3F808000 0) 4 = some 0x3F81 ∧ vOf (f .e4m3 .rne) (ab 0x43E60000 0) 4 = some 0x7E ∧
    flOf (f .e4m3 .rne) (ab 0x43EB0000 0) = some 0x14 ∧ vOf (f .e2m1 .rne) (ab 0x7F800000 0) 4 = some 7 := by decide +kernel

theorem test_fcvt_small :
    let f := Instr.fcvt ⟨.v 4, .v 1, .none, .f16, some .rne, false, false, 0⟩ .f32
    vOf f (ab 0x35800000 0) 4 = some 0x10 ∧ vOf f (lanesState [(1, 0x35800000)] [] 0x220) 4 = some 0 ∧
    flOf f (lanesState [(1, 0x35800000)] [] 0x220) = some 0x18 ∧ vOf f (ab 0x7F800001 0) 4 = some 0x7E00 ∧
    flOf f (ab 0x7F800001 0) = some 1 := by decide +kernel

/-- R130. -/
theorem test_fmin :
    vOf (.fmin (r12 .f32)) (ab 0x7F800001 0x3F800000) 4 = some 0x3F800000 ∧
    vOf (.fminm (r12 .f32)) (ab 0x7F800001 0x3F800000) 4 = some 0x7FC00000 ∧
    flOf (.fminm (r12 .f32)) (ab 0x7F800001 0x3F800000) = some 1 := by decide +kernel

/-- R140, R141. -/
theorem test_ftoi_itof :
    let f := fun (t : Ty) (m : Rnd) => Instr.ftoi ⟨.v 4, .v 1, .none, t, some m, false, false, 0⟩ .f32
    vOf (f .i32 .rne) (ab 0x40200000 0) 4 = some 2 ∧ vOf (f .i32 .rna) (ab 0xC0200000 0) 4 = some 0xFFFFFFFD ∧
    vOf (f .i32 .rtz) (ab 0x4F32D05E 0) 4 = some 0x7FFFFFFF ∧ vOf (f .n32 .rtz) (ab 0x4F32D05E 0) 4 = some 0xB2D05E00 ∧
    flOf (f .n32 .rtz) (ab 0xBF800000 0) = some 1 ∧
    vOf (.itof ⟨.v 4, .v 1, .none, .f32, some .rne, false, false, 0⟩ .i32) (ab 0x01000001 0) 4 = some 0x4B800000 := by decide +kernel

/-- R143: quantisation to DS8. -/
theorem test_qds8 :
    vOf (.qds8 ⟨.v 4, .v 1, .none, .ds8, none, false, false, 0⟩) (ab 0x3EB00000 0) 4 = some 0x24 ∧
    vOf (.qds8 ⟨.v 4, .v 1, .v 2, .ds8, none, false, false, 0⟩) (ab 0x3EB00000 0x7E) 4 = some 0x13 := by decide +kernel

/-- R145: `FSSR` replaces RM under its mask and gives the old value. -/
theorem test_fssr :
    effsOf (.fssr ⟨.v 9, .v 1, .v 2, .n32, none, false, false, 0⟩) (lanesState [(1, 0x40), (2, 0xE0)] [] 0x20) |>.contains (.fsrSet 0 0x40) := by
  decide +kernel

/-- R51, R145: an RM of 0 is stored as 1, and one of 5 as it is. -/
theorem test_fssr_rm :
    let e := fun (a : Nat) => effsOf (.fssr ⟨.v 9, .v 1, .v 2, .n32, none, false, false, 0⟩) (lanesState [(1, a), (2, 0xE0)] [] 0x40)
    (e 0).contains (.fsrSet 0 0x20) = true ∧ (e 0xC0).contains (.fsrSet 0 0x20) = true ∧ (e 0xA0).contains (.fsrSet 0 0xA0) = true := by
  decide +kernel

/-- R77: `IADD v8, v8, 1` in a slot. -/
theorem test_paired_iadd : vOf (.pairedIadd ⟨.v 8, .imm 1, 0⟩) (lanesState [(8, 41)] [] 0x20) 8 = some 42 := by decide +kernel

/-- R153, R155: width 8 segments of `SHFL.up` by 1 (`s20` = 0x61): lane 0 and lane 8 wrap, lane 9 reads lane 8. -/
theorem test_shfl_up :
    (shflLane (.shflUp (r12 .n32)) 0 0x61) = (7, true) ∧ (shflLane (.shflUp (r12 .n32)) 8 0x61) = (15, true) ∧
    (shflLane (.shflUp (r12 .n32)) 9 0x61) = (8, false) := by decide +kernel

/-! ### States that meet the statements' hypotheses: words -/

/-- Page tables of context 5 at 0x100000: 0x10000 maps 0x200000 and 0x20000 maps 0x210000 (binary32), 0x30000 a `pod` page
at 0x220000; all read, write, execute. -/
def wMem : List (Nat × Byte) :=
  [(0x100000, 0x01), (0x100001, 0x20), (0x100002, 0x10), (0x102000, 0x01), (0x102001, 0x40), (0x102002, 0x10),
   (0x104000, 0x01), (0x104001, 0x60), (0x104002, 0x10), (0x106000, 0x01), (0x106001, 0x80), (0x106002, 0x10),
   (0x108010, 0x03), (0x108012, 0x20), (0x10801A, 0x1C), (0x108020, 0x03), (0x108022, 0x21), (0x10802A, 0x1C), (0x10802B, 0x04),
   (0x108030, 0x03), (0x108032, 0x22), (0x10803A, 0x1C), (0x10803B, 0x80), (0x200040, 0x11), (0x200041, 0x22)]

/-- A block of launch 3 in context 5, on core 0. -/
def wB : Block :=
  { uid := 7, launch := 3, asid := 5, idx := 0, nblocks := 1, threads := 32, cores := [0], span := 1, localLen := 65536,
    tilesT := 8, vregs0 := 256, sregs0 := 512, phase := .running, commits := 0, lastPc := 0, forced := false, limit := 65536,
    sb := [], sbTiles := [], scads := [], pipeline := [], progress := 0, consumed := 0, consumption := [],
    lastExit := none, avoidQuad := none, lastQuad := none, startedNs := 0, pool := 0, scratch := [], upset := [], commons := [], tiles := [], nextUnit := 1,
    savedGangs := [], savedBytes := 0, drain := false, replies := [] }

/-- Its one gang, with a run of one word in issue at 0x10000; `s4` names a place of the page. -/
def wG : Gang :=
  let g := placedGang 1 0
  let lane := { Lane.fresh 0x10000 with v := [(1, 5), (2, 7)] }
  let regs := { g.regs with lanes := List.replicate 32 lane, s := [(4, 0x10040), (5, 0x20040), (6, 0x10080)] }
  { g with block := 7, regs := regs, issue := g.issue.map (fun r => { r with start := 0x10000, snapshot := regs }) }

/-- A context record of context 5 that is live. -/
def wCtx : BitVec 512 := BitVec.ofNat 512 (0x400000 * 2 ^ 448 + 0x500000 * 2 ^ 384 + 0xFFF * 2 ^ 180 + 5 * 2 ^ 169 + 7 * 2 ^ 164 + 1)

/-- The package with that gang, its word in issue for every lane. -/
def wS : State :=
  { State.reset with
    cycle := 1000, now := 5000000, gangs := [wG], blocks := [wB], mem := wMem, roots := [(5, 0x100001)], ctxs := [(5, wCtx)]
    nextUid := 9, cx := ⟨1, 0x10000, 0, 0xFFFFFFFF, 0xFFFFFFFF, false, 0, false⟩ }

/-- An instruction answers a next state with a property. -/
def after (i : Instr) (s : State) (p : State → Bool) : Bool :=
  match exec i s with
  | .next t => p t
  | _ => false

/-- A property of a gang, of a block. -/
def gangB (t : State) (u : Nat) (p : Gang → Bool) : Bool := (t.gang? u).elim false p

/-- A property of a block. -/
def blockB (t : State) (u : Nat) (p : Block → Bool) : Bool := (t.block? u).elim false p

/-- The pages are mapped as said, the context is live, and the memory has its canonical form. -/
theorem witness_base :
    (lookup wS 0 5 0x10040).toOption.isSome ∧ (lookup wS 0 5 0x20040).toOption.isSome ∧ (lookup wS 0 5 0x30040).toOption.isSome ∧
    ctxLive wS 5 = true ∧ Memory.wf wS.mem = true := by decide +kernel

/-- For every statement about a word of lanes: a resident gang in issue, with the word's shape. -/
theorem witness_lane_words :
    wS.gang? wS.cx.gang = some wG ∧ wG.issue.isSome = true ∧ wS.acts = true ∧ maskHas wS.act 31 = true ∧
    tyInt .i8 = true ∧ tyWord .n64 = true ∧ tyFour .bf16 = true ∧
    Claim.laneWord (.iadd (r12 .i32)) = true ∧ after (.iadd (r12 .i32)) wS (fun _ => true) = true := by decide +kernel

/-- The shape of `v4 = v1 op v2` with latency 1. -/
def wShape : OpShape :=
  { d := .v 4, a := .v 1, b := .v 2, imm := none, wa := false, wb := false, wd := false, third := false, t := .i32
    lat := some 1, ccd := 0 }

theorem witness_status_words :
    wShape.faults wG (lanesOf wS.act) = [] ∧ wS.acts = true := by decide +kernel

theorem witness_effects :
    (Eff.v 0 4 12) ∈ wShape.effects ⟨wS, wG, some wB⟩ 0 [0] ⟨some 12, none, 0⟩ ∧
    (wG.issue.map (·.pends)) = some [] ∧ (Eff.v 0 4 12).isLoc = false ∧ (Eff.v 0 4 12).isCommons = false ∧
    31 < wG.regs.lanes.length := by decide +kernel

/-- R147 to R157: every lane joins; the gathering closes at issue. -/
theorem witness_cross_lane :
    (laneRRR (.ballot ⟨.v 4, .v 1, .ones, .n32, none, false, false, 0⟩)).isSome = true ∧ wS.cx.parked = 0 ∧
    (lanesOf wS.act).all (fun j => (portFault (wG.regs.lane j) (.v 1) false).isNone && (portFault (wG.regs.lane j) .ones false).isNone) = true ∧
    after (.ballot ⟨.v 4, .v 1, .ones, .n32, none, false, false, 0⟩) wS (fun t =>
      gangB t 1 (fun g => g.gath.length == 1 && g.gath.all (fun h => h.closed && h.parts.length == 32))) = true := by decide +kernel

/-- A closed gathering of run 0 in a gang whose run is 1, with an outstanding result. -/
def wGath : Gathering :=
  ⟨9, 0x10000, .ballot ⟨.v 4, .v 1, .ones, .n32, none, false, false, 0⟩, [⟨3, true, 5, 0xFFFFFFFF, 0, 0x20, 0, 4⟩], true, 0xFFFFFFF7⟩

/-- Its gang. -/
def wGg : Gang := { wG with gath := [wGath], out := [⟨4, 0, 0x10000, 0, .unit, [.v 3 4], [], false, true, [], 0, [], false⟩] }

theorem witness_gathering :
    wGg.gath[0]? = some wGath ∧ wGath.closed = true ∧ (laneRRR wGath.op).isSome = true ∧
    wGath.parts.all (fun p => !(wGg.runLive p.run)) = true ∧
    after (.gatheringDelivery 1 0) { wS with gangs := [wGg] } (fun t =>
      gangB t 1 (fun g => g.gath.isEmpty && g.out.all (fun o => o.arrived && o.effs.contains (.v 3 4 8)))) = true := by decide +kernel

/-- R155, R156: a reader of lanes 0 and 1, whose predicates are true and false; one whose lanes all have exited. -/
theorem witness_votes :
    let p := fun (l : Nat) (x : W64) => Participant.mk l true x 0xFFFFFFFF 0 0x20 0 0
    let f : RRR := ⟨.v 4, .v 1, .ones, .n32, none, false, false, 0⟩
    let r : Reader := ⟨0, 0xFFFFFFFF, [p 0 5, p 1 0], 0xFFFFFFFC, false⟩
    let none : Reader := ⟨0, 0xFFFFFFFF, [], 0xFFFFFFFF, false⟩
    (laneResult (.ballot f) f r (p 0 5)).r = 1 ∧ r.preds.contains true = true ∧ r.preds.contains false = true ∧
    r.truths.head?.isSome = true ∧ none.truths.isEmpty = true ∧ (laneResult (.bcast f) f none (p 0 5)).k.z = true := by
  decide +kernel

/-- R115 to R122: a legal and an illegal target. -/
theorem witness_control_flow :
    (let f : JF := ⟨2, .none, 0⟩; (wS.cx.pc + BitVec.ofInt 64 (8 * f.offset.toInt)) = 0x10010) ∧
    after (.bra ⟨2, .none, 0⟩) wS (fun t => gangB t 1 (fun g => g.issue.elim false (fun r => r.targets.length == 32))) = true ∧
    after (.jmpr ⟨0, .s 4, 0⟩) wS (fun t => gangB t 1 (fun g => g.issue.elim false (fun r => r.targets.contains (0, 0x10040)))) = true ∧
    after (.jmpr ⟨0, .v 0, 0⟩) { wS with gangs := [{ wG with regs := { wG.regs with lanes := wG.regs.lanes.map (fun l => { l with v := [(0, 4)] }) } }] }
      (fun t => t.cx.parked == 0xFFFFFFFF) = true ∧
    after (.call ⟨2, .s 9, 0⟩) wS (fun t => gangB t 1 (fun g => g.issue.elim false (fun r => r.pends.contains ⟨1, .s 9 0x10008⟩))) = true ∧
    after (.call ⟨2, .v 8, 0⟩) wS (fun t => gangB t 1 (fun g => g.issue.elim false (fun r => r.pends.contains ⟨1, .v 31 8 0x10008⟩))) = true ∧
    after (.meet ⟨2, .v 8, 0⟩) wS (fun t => gangB t 1 (fun g => g.issue.elim false (fun r =>
      r.pends.contains ⟨1, .mr 31 0x10010⟩ && r.pends.contains ⟨1, .v 31 9 0xFFFFFFFF⟩))) = true := by decide +kernel

theorem test_exit_and_trap :
    after (.exit ⟨0, .none, 0⟩) wS (fun t => gangB t 1 (fun g => g.issue.elim false (fun r => r.exits == 0xFFFFFFFF))) = true ∧
    after (.trap ⟨0, .s 4, 9⟩) wS (fun t => gangB t 1 (fun g => g.issue.elim false (fun r => r.held.any (fun h =>
      match h.eff with | .fault q => q.cause == 6 && q.detail == 9 && q.addr == 0x10040 | _ => false)))) = true := by decide +kernel

theorem witness_end_of_run :
    (wG.issue.map (fun r => r.pends)) = some [] ∧ 31 < wG.regs.lanes.length ∧
    (let g := wG.endRun 1000 0 0x10008 true; g.seam && g.issue.isNone && (g.regs.lane 31).pc == 0x10008) = true := by decide +kernel

/-- A full word and a pair in issue on the partition in focus. -/
def wStep (w : W64) : State :=
  { wS with gangs := [{ wG with issue := wG.issue.map (fun r => { r with words := [w] }) }], cx := Cx.idle }

theorem witness_step_word :
    let s := wStep 0x0000028020100085
    s.regQ = [] ∧ s.therm.shutdown = false ∧ s.sched = [] ∧ s.focus = (0, 0) ∧ (issuingGang s 0 0).isSome = true ∧
    partUsable s 0 0 = true ∧ (wG.issue.map (·.gone)) = some 0 ∧
    (match step s with | .next t => gangB t 1 (fun g => g.issue.isSome || !(g.runs.isEmpty)) | _ => false) = true := by decide +kernel

theorem witness_step_pair :
    let s := wStep 0xA084008402120210
    portWaits wG = false ∧ (match decode 0xA084008402120210 with | .ok (.pair ..) => true | _ => false) = true ∧
    (issuingGang s 0 0).isSome = true ∧ partUsable s 0 0 = true ∧
    (match step s with
      | .next t => gangB t 1 (fun g => g.runs.length == 1 && (g.regs.lane 5).getV 8 == 1 && (g.regs.lane 5).getV 9 == 1)
      | _ => false) = true := by decide +kernel

theorem witness_step_turns :
    (let s := { wS with sched := [.tick 3 2] }; s.regQ = [] ∧ (match step s with | .next t => t.cycle == 1003 | _ => false) = true) ∧
    (let s := { wS with sched := [.event (.noticeClear 1)] }; s.therm.shutdown = false ∧
      (match step s with | .next t => t.sched.isEmpty | _ => false) = true) ∧
    (let s := { wS with regQ := [(0x18, [1, 0, 0, 0, 0, 0, 0, 0].map (fun b => (b, 0xFF)))], notice := 3 };
      (match step s with | .next t => t.notice == 2 | _ => false) = true) ∧
    (let s := { wS with therm := { wS.therm with shutdown := true }, sched := [.issue 0 0] };
      (match step s with | .next t => t.sched.isEmpty && t.gangs == [wG] | _ => false) = true) := by decide +kernel

/-! ### Memory words and words of the gang -/

/-- The fields of a plain access through `s4` (a page without a format) and of an element access through `s5`. -/
def wMF (d : Opd) (z : MSize) : MF := ⟨d, .s 4, .none, 0, z, false, 0⟩

/-- An element access. -/
def wMEF (d : Opd) : MEF := ⟨d, .s 5, .none, 0, .f32, 0⟩

/-- Two lanes act, and core 0 has translated the pages. -/
def wT : State :=
  { wS.modCore 0 (fun c => { c with tlb := [⟨5, 0x10000, 65536, 0x108010, BitVec.ofNat 128 (0x1C * 2 ^ 80 + 0x200003)⟩,
      ⟨5, 0x20000, 65536, 0x108020, BitVec.ofNat 128 (0x41C * 2 ^ 80 + 0x210003)⟩] }) with
    cx := ⟨1, 0x10000, 0, 3, 3, false, 0, false⟩ }

/-- R160 to R166: an access of the gang through a scalar address goes ahead. -/
theorem witness_accesses :
    waitsOf (plainTries wT wG (wMF (.s 9) .b64) [.s 4, .none, .s 9] .read) = [] ∧
    (goodOnes (plainTries wT wG (wMF (.s 9) .b64) [.s 4, .none, .s 9] .read)).map (fun p => (p.1, p.2.length)) = [(none, 8)] ∧
    (goodOnes (plainTries wT wG (wMF .none .n8) [.s 4, .none] .read)).length = 1 ∧
    (goodOnes (plainTries wT wG (wMF (.v 1) .b32) [.s 4, .none, .v 1] .write)).length = 2 ∧
    waitsOf (elemTries wT wG (wMEF (.v 1)) .read false) = [] ∧ (goodOnes (elemTries wT wG (wMEF (.v 1)) .read false)).length = 2 ∧
    (goodOnes (elemTries wT wG (wMEF (.v 1)) .write false)).length = 2 := by decide +kernel

/-- A shape record of 16 by 16 binary32 elements at 0x20000. -/
def wShapeV : Nat :=
  0x20000 + 16 * 2 ^ 128 + 16 * 2 ^ 160 + 2 ^ 192 + 2 ^ 224 + 64 * 2 ^ 256 + 2 * 2 ^ 448

/-- That record in the cache, named by `s6`. -/
def wTr : State := wT.modCore 0 (fun c => { c with recs := [⟨5, 0x10080, leBytes 192 wShapeV⟩] })

/-- R166: an access in the record form, of two lanes, goes ahead. -/
theorem witness_record_accesses :
    let f : MEF := ⟨.v 1, .s 6, .none, 255, .f32, 0⟩
    let l := (elemTries wTr wG f .write true).map (fun a => scaleTry wTr wG wB a)
    wTr.gang? wTr.cx.gang = some wG ∧ wTr.blockOf wG = some wB ∧
    waitsOf (elemTries wTr wG f .read true) = [] ∧ (goodOnes (elemTries wTr wG f .read true)).length = 2 ∧
    waitsOf l = [] ∧ (goodOnes l).map (·.1) = [some 0, some 1] ∧ scaleMisses wTr wG wB (elemTries wTr wG f .write true) = [] ∧
    after (.steSc f) wTr (fun t => gangB t 1 (fun g => g.issue.elim false (fun r => r.held.length == 2))) = true := by decide +kernel

theorem test_load_and_store :
    after (.ld (wMF (.s 9) .n16)) wT (fun t => gangB t 1 (fun g => g.out.length == 1 && g.out.all (fun o => !o.arrived))) = true ∧
    after (.st (wMF (.v 1) .b32)) wT (fun t => gangB t 1 (fun g => g.issue.elim false (fun r => !(r.held.isEmpty)))) = true ∧
    after (.lde (wMEF (.v 1))) wT (fun t => gangB t 1 (fun g => g.out.length == 2)) = true ∧
    after (.ld ⟨.v 3, .s 7, .none, 0, .b32, false, 0⟩) wT (fun t => t.cx.parked == 3) = true := by decide +kernel

theorem witness_scratchpad :
    portFaults wS wG (.v 1) false = [] ∧ (some 31) ∈ performers wS [.v 2, .none, .v 1] ∧
    after (.ldl ⟨.v 1, .v 2, .none, 0, .b32, false, 0⟩) wS (fun t => gangB t 1 (fun g => g.out.length == 32 && g.out.all (fun o =>
      match o.kind with | .ldl r => r.off == 4 | _ => false))) = true := by decide +kernel

theorem witness_atomics :
    waitsOf (atomTries wT wG ⟨.v 3, .s 4, .v 1, .add, false, false, .b32, 0⟩) = [] ∧
    (goodOnes (atomTries wT wG ⟨.v 3, .s 4, .v 1, .add, false, false, .b32, 0⟩)).length = 2 ∧
    (some 1) ∈ performers wT [.v 2, .v 1, .v 3] ∧ (MSize.b32 = .b32) ∧
    after (.atoml ⟨.v 3, .v 2, .v 1, .add, false, false, .b32, 0⟩) wT (fun t =>
      gangB t 1 (fun g => g.issue.elim false (fun r => r.held.length == 1))) = true := by decide +kernel

/-- R168: `.incw` at its bound, `.smax` of −1 and 1, a compare-and-swap that fails. -/
theorem test_atomic_operations :
    (atomNew .incw .b32 7 7 0).1 = 0 ∧ (atomNew .incw .b32 6 7 0).1 = 7 ∧ (atomNew .smax .b32 0xFFFFFFFF 1 0).1 = 1 ∧
    (atomNew .cas .b64 5 9 6).1 = 5 ∧ (atomNew .cas .b64 5 9 5).1 = 9 := by decide +kernel

/-- A gang whose lanes have port 1 bound. -/
def wGp : Gang :=
  { wG with regs := { wG.regs with lanes := wG.regs.lanes.map (fun l => { l with ports := [(1, ⟨64, 4, 2, false, 3⟩)] }) } }

theorem witness_ports :
    (lanesOf wS.act).all (fun i => ((wGp.regs.lane i).port? 1).isSome) = true ∧ (wGp.regs.lane 31).port? 1 = some ⟨64, 4, 2, false, 3⟩ ∧
    after (.spos ⟨.v 6, .v 1, .none⟩ 1) { wS with gangs := [wGp] } (fun t => gangB t 1 (fun g => g.issue.elim false (fun r =>
      r.pends.contains ⟨1, .v 31 6 3⟩ && r.pends.contains ⟨1, .port 31 1 ⟨64, 4, 2, false, 5⟩⟩))) = true ∧
    after (.sbind ⟨.none, .s 4, .v 1, false, 2, 1⟩) wS (fun t => gangB t 1 (fun g => g.issue.elim false (fun r =>
      r.pends.contains ⟨1, .port 0 1 ⟨0x10040, 5, 2, false, 0⟩⟩))) = true ∧
    after (.iadd ⟨.v 4, .rport 1, .v 1, .i32, none, false, false, 0⟩) wS (fun t => t.cx.parked == 0xFFFFFFFF) = true := by decide +kernel

/-- R163: a sign bit; R63, R236: a byte masked, one of another line. -/
theorem witness_home_writes :
    let c : Cell := ⟨0x200040, 0, false, false, none, 5, 0x10040, 0, 3, 0, 16⟩
    let x : StCell := ⟨c, 0x5A, 0xFF⟩
    x.mask = 0xFF ∧ x.cell.poi = false ∧ linkDown wS (homePa wS c.pa) = false ∧ inWindow (homePa wS c.pa) = false ∧
    forwardPa wS c.pa = none ∧ (0x200041 : Nat) ≠ homePa wS c.pa ∧
    viewByte (writeHome wS false [x]) 0 0x200040 = 0x5A ∧ viewByte (writeHome wS false [x]) 0 0x200041 = 0x22 ∧
    viewByte (writeHome wS false [{ x with mask := 0x0F }]) 0 0x200040 = 0x1A ∧
    loadEffs (.v 4) 0 [] 1 .i8 [0x80] = [.v 0 4 0xFFFFFF80] := by decide +kernel

/-- The E fields of most words of the gang: `D = s8, A = s4, B = s6`. -/
def wE : EF := ⟨.s 8, .s 4, .s 6⟩

/-- R66: a word of the gang issues: resident, in issue, some guard true; or none. -/
theorem witness_gang_words :
    wS.gang? wS.cx.gang = some wG ∧ wG.issue.isSome = true ∧ wS.acts = true ∧
    ({ wS with cx := { wS.cx with act := 0 } }).acts = false := by decide +kernel

theorem witness_core_words :
    wE.d = .s 8 ∧ wG.counter 0 + 3 ≤ 65535 ∧
    65535 < ({ wG with regs := { wG.regs with issuedCopy := 65535 } }).counter 0 + 1 ∧
    after (.kick ⟨.none, .s 4, .none⟩ 3) wS (fun t => gangB t 1 (fun g => g.regs.issuedCopy == 3)) = true ∧
    after (.kick ⟨.none, .s 4, .none⟩ 0) wS (fun t => t == wS) = true ∧
    after (.kick ⟨.none, .s 4, .none⟩ 1) { wS with gangs := [{ wG with regs := { wG.regs with issuedCopy := 65535 } }] }
      (fun t => t.cx.stall) = true ∧
    after (.rdsp wE .vregs) wS (fun t => gangB t 1 (fun g => g.issue.elim false (fun r => r.pends.contains ⟨1, .s 8 256⟩))) = true := by
  decide +kernel

theorem witness_record_words :
    (recRead wS 0 5 0x10040 (fun a => xlate wS 0 5 a .read false)).toOption.isSome = true ∧
    after (.recp ⟨.none, .s 4, .none⟩) wS (fun t => (recFind (t.core 0) 5 0x10040).isSome) = true ∧
    after (.recf ⟨.none, .s 4, .none⟩) (wS.modCore 0 (fun c => { c with recs := [⟨5, 0x10040, []⟩, ⟨5, 0x20000, []⟩] }))
      (fun t => (t.core 0).recs.length == 1) = true ∧
    after (.acq ⟨.none, .none, .none⟩) (wS.modCore 0 (fun c => { c with l1 := [⟨1, 0, 2, true, 0⟩, ⟨2, 0, 3, false, 0⟩] }))
      (fun t => (t.core 0).l1.length == 1) = true := by decide +kernel

theorem witness_engine_words :
    wG.counter 1 < 65535 ∧ wG.counter 2 < 65535 ∧
    65535 ≤ ({ wG with regs := { wG.regs with issuedMat := 65535 } }).counter 1 ∧
    65535 ≤ ({ wG with regs := { wG.regs with issuedGath := 65535 } }).counter 2 ∧
    after (.mma ⟨.m 3, .s 4, .none⟩ false) wS (fun t => gangB t 1 (fun g => g.regs.issuedMat == 1)) = true ∧
    after (.gath ⟨.none, .s 4, .none⟩) { wS with gangs := [{ wG with regs := { wG.regs with issuedGath := 65535 } }] }
      (fun t => t.cx.stall) = true := by decide +kernel

theorem witness_barrier_words :
    (match access wS wG 5 0x10040 64 .write with | .ok _ => true | _ => false) = true ∧
    (match access wS wG 5 0x10040 64 .read with | .ok _ => true | _ => false) = true ∧
    (match access wS wG 5 0x10080 128 .write with | .ok _ => true | _ => false) = true ∧
    (match access wS wG 5 0x10080 128 .read with | .ok _ => true | _ => false) = true ∧
    after (.barw wE) wS (fun t => gangB t 1 (fun g => g.issue.elim false (fun r => r.held.length == 1 && r.waits.length == 1))) = true := by
  decide +kernel

theorem test_dispatch_words :
    after (.prog ⟨.none, .s 4, .none⟩) wS (fun t => gangB t 1 (fun g => g.issue.elim false (fun r =>
      r.held.any (fun h => match h.eff with | .prog p => p == 65536 | _ => false)))) = true ∧
    after (.pgq ⟨.s 7, .s 4, .none⟩) wS (fun t => gangB t 1 (fun g => g.out.length == 1)) = true := by decide +kernel

/-! ### Events of the cores -/

theorem witness_clutch :
    formClutch wG.regs = some (0x10000, 0xFFFFFFFF) ∧
    formClutch { wG.regs with lanes := wG.regs.lanes.set 3 { Lane.fresh 0x10008 with stamp := 0 } } = some (0x10000, 0xFFFFFFF7) ∧
    formClutch { wG.regs with lanes := (wG.regs.lanes.map (fun l => { l with stamp := 2 })).set 3 (Lane.fresh 0x10008) } = some (0x10008, 8) ∧
    formClutch { wG.regs with lanes := wG.regs.lanes.map (fun l => { l with status := .exited }) } = none := by decide +kernel

/-- The gang between runs. -/
def wG0 : Gang := { wG with issue := none }

/-- Its package: at 0x10000 stands no legal run. -/
def wR : State := { wS with gangs := [wG0], cx := Cx.idle }

/-- At 0x10000 stands `NOP !end`. -/
def wRnop : State :=
  { wR with mem := (wMem.take 23) ++ [(0x200000, 0xC0), (0x200001, 0xFF), (0x200006, 0x2F), (0x200007, 0x20)] }

theorem witness_run_boundary :
    partUsable wR 0 0 = true ∧ (issuingGang wR 0 0).isNone = true ∧ 15 < (wR.core 0).parts.length ∧
    ((wR.core 0).part 0).leaveEmpty = false ∧
    (boundaryWinner (Claim.boundaryOrder (partTurn wR 0 0) 0 0)).isSome = true ∧
    (boundaryWinner (Claim.boundaryOrder (partTurn { wR with gangs := [] } 0 0) 0 0)).isNone = true ∧
    ((Claim.boundaryState (partTurn wR 0 0) 0 0).gang? 1).isSome = true := by decide +kernel

theorem witness_run_words :
    (match fetchRun (Claim.boundaryState (partTurn wRnop 0 0) 0 0) 0 5 3 0x10000 with
      | .words ws => ws == [0x202F00000000FFC0] && (staticFault 256 512 8 ws).isNone
      | _ => false) = true ∧
    after (.runBoundary 0 0) wRnop (fun t => gangB t 1 (fun g => g.issue.elim false (fun r => r.words == [0x202F00000000FFC0]))) = true := by
  decide +kernel

/-- The first of them with its pages translated. -/
def wRt : State := { wR with cores := wT.cores }

theorem witness_run_refused :
    (match fetchRun (Claim.boundaryState (partTurn wRt 0 0) 0 0) 0 5 3 0x10000 with
      | .words ws => (staticFault 256 512 8 ws).isSome
      | _ => false) = true ∧
    after (.runBoundary 0 0) wRt (fun t => gangB t 1 (fun g => (g.regs.lane 31).status == .parked && g.runs.length == 1)) = true := by
  decide +kernel

theorem witness_boundary_left_empty :
    let s := wR.modCore 0 (fun c => c.modPart 0 (fun p => { p with leaveEmpty := true }))
    ((s.core 0).part 0).leaveEmpty = true ∧ after (.runBoundary 0 0) s (fun t => !((t.core 0).part 0).leaveEmpty) = true := by decide +kernel

/-- A run in quarantine that ended in cycle 960, with a store and a fault record. -/
def wRun : RunRec :=
  ⟨0, 0x10000, 0xFFFFFFFF, 960, [⟨0, 0, 0x10000, .store [⟨⟨0x200040, 0, false, false, none, 5, 0x10040, 0, 3, 0, 16⟩, 1, 0xFF⟩] none 0, 1⟩],
    { wG.regs with s := [(4, 77)] }, 0⟩

theorem witness_quarantine :
    (1000 ≤ wRun.endCycle + 40) ∧ wRun.endCycle + 40 < 1001 ∧
    after (.quarantineExit 1) { wR with gangs := [{ wG0 with runs := [wRun] }] } (fun t => gangB t 1 (fun g => g.runs.length == 1)) = true ∧
    after (.quarantineExit 1) { wR with cycle := 1001, gangs := [{ wG0 with runs := [wRun] }] } (fun t =>
      gangB t 1 (fun g => g.runs.isEmpty && g.relq == wRun.held)) = true := by decide +kernel

/-- An outstanding result of a kind, with effects, arrived or not. -/
def wOut (k : OKind) (es : List Eff) (arrived : Bool) : Outst := ⟨4, 0, 0x10000, 0, k, [], es, arrived, true, [], 0, [], false⟩

theorem witness_park_seam :
    let g := { wG0 with seam := true, out := [wOut .value [.s 9 55] true] }
    g.seamReady = true ∧ g.deferred = [] ∧ g.out.all (fun o => o.clob.isEmpty) = true ∧
    after (.parkSeamComplete 1) { wR with gangs := [g] } (fun t => gangB t 1 (fun g => !g.seam && g.regs.getS 9 == 55)) = true := by
  decide +kernel

theorem witness_returns :
    let load : LoadReq := ⟨some 0, [], .raw .b32, .v 3, some [1, 0, 0, 0], false, false, 0, 3, 1, [], false⟩
    let run := fun (o : Outst) => after (.variableResultReturn 1 0) { wR with gangs := [{ wG0 with out := [o] }] } (fun t =>
      gangB t 1 (fun g => g.out.all (fun x => x.arrived)))
    run (wOut .value [] false) = true ∧ wG0.runLive 0 = false ∧ run (wOut .afterQuar [] false) = true ∧
    run (wOut (.load load) [] false) = true ∧ run (wOut (.ldl ⟨some 0, 8, .b32, .v 3, 0⟩) [] false) = true ∧
    wG0.relq = [] ∧ wG0.runs = [] ∧ run (wOut (.pgq 0x10000 (.s 7)) [] false) = true := by decide +kernel

theorem witness_strike :
    let s := { wR with gangs := [{ wG0 with runs := [wRun] }, { wG0 with uid := 2, core := 5 }] }
    (s.gangs.map (·.uid)).Nodup ∧ ((s.gangs.filter (fun g => g.core == 0)).all (fun g => g.runs.all (fun r => decide (s.cycle ≤ r.endCycle + 40)))) = true ∧
    ((s.gang? 1).map (fun g => (g.liveRuns s.cycle).length)) = some 1 ∧
    after (.strikeReport 0) s (fun t => gangB t 1 (fun g => g.regs.getS 4 == 77 && g.runs.isEmpty && g.replays == 1 && g.run == 0 &&
      g.replayQ == [(0x10000, 0xFFFFFFFF)])) = true := by decide +kernel

theorem witness_chorus :
    let late := { wR with cycle := 61440 }
    let seen := wR.modCore 0 (fun c => c.modPart 0 (fun p => { p with mismatch := some 990 }))
    ((late.core 0).part 0).chorus.any (fun c => decide (c + 61440 ≤ late.cycle)) = true ∧
    ((wR.core 0).part 0).chorus.all (fun c => decide (wR.cycle < c + 61440)) = true ∧
    (∀ l, l < 32 → (List.replicate 32 (0 : W64))[l]? = wR.chorusSigs[2]?) ∧
    after (.chorusCheck 0 0 2 (List.replicate 32 0)) wR (fun t => ((t.core 0).part 0).mismatch == none) = true ∧
    after (.chorusCheckDue 0 0) late (fun t => ((t.core 0).part 0).leaveEmpty) = true ∧
    ((wR.core 0).part 0).mismatch = none ∧ ((seen.core 0).part 0).mismatch = some 990 ∧
    after (.chorusCheck 0 0 2 (List.replicate 32 1)) wR (fun t => ((t.core 0).part 0).mismatch == some 1000 && (t.core 0).fenced == 0) = true ∧
    after (.chorusCheck 0 0 2 (List.replicate 32 1)) seen (fun t => (t.core 0).fenced == 1) = true := by decide +kernel

theorem witness_commons :
    let g := { wG0 with relq := [⟨0, 0, 0x10000, .commons 2 99, 1⟩] }
    let s := { wR with gangs := [g] }
    let s2 := wR.modCore 0 (fun c => { c with arbDone := [⟨998, 1, 7, 0, 2, 99, 0⟩] })
    s.gangs.filter (fun x => x.core == 0) = [g] ∧ g.part < 16 ∧ (firstCommons g).isSome = true ∧ s.gang? 1 = some g ∧
    (s.core 0).arbDone = [] ∧
    after (.commonsArbitration 0) s (fun t => (t.core 0).arbDone.length == 1) = true ∧
    ((s2.core 0).arbDone.filter (fun a => decide (a.cycle + 2 ≤ s2.cycle))).length = 1 ∧
    after (.commonsOverlayRetire 0) s2 (fun t => blockB t 7 (fun b => tabGet 0 b.commons (commonsKey 0 2) == 99)) = true := by decide +kernel

/-- Two gangs of the block whose donations of 16 registers meet. -/
def wGive (v w : Nat) : State :=
  { wR with
    gangs := [{ wG0 with vregs := v, donation := some ⟨true, 1, 16, 0x10000, 0xFFFFFFFF, 0, true⟩ },
      { wG0 with uid := 2, idx := 1, slot := 1, vregs := w, donation := some ⟨false, 0, 16, 0x10000, 0xFFFFFFFF, 0, true⟩ }] }

theorem witness_donation :
    ((wGive 24 240).gang? 1).any (fun g => ((wGive 24 240).gang? 2).any (fun p => donateMeet g p && !g.owesResult && !p.owesResult)) = true ∧
    ((gangOfBlock (wGive 24 240) 7 1).map (·.uid)) = some 2 ∧ 16 + 8 ≤ 24 ∧ 240 + 16 ≤ 256 ∧
    after (.donationTakeEffect 1) (wGive 24 240) (fun t => gangB t 1 (fun g => g.vregs == 8) && gangB t 2 (fun g => g.vregs == 256)) = true ∧
    after (.donationTakeEffect 1) (wGive 16 240) (fun t => gangB t 1 (fun g => g.vregs == 16 && g.donation.isNone) && t.faultQ.length == 2) = true ∧
    after (.donationTakeEffect 2) (wGive 24 248) (fun t => t.faultQ.map (·.cause) == [0x25, 0x25]) = true := by decide +kernel

theorem witness_walk :
    (lookup wR 0 5 0x10000).toOption.isSome = true ∧
    (match lookup wR 0 5 0x90000 with | .error e => e == 0x10 | _ => false) = true ∧
    after (.tlbWalk 0 5 0x10000) wR (fun t => (t.core 0).tlb.any (fun e => e.base == 0x10000 && e.size == 65536)) = true ∧
    after (.tlbWalk 0 5 0x90000) wR (fun t => (t.core 0).tlb.isEmpty) = true := by decide +kernel

/-- A fault record that is asked for. -/
def wReq : FaultReq :=
  ⟨5, 0x06, 9, 0x10000, 0x10040, 0, 0, 0xFFFFFFFF, 0, 0, 3, 0, 0, false, true, false, false, some 1, some 7, none, false, false⟩

theorem witness_fault_record :
    let s := { wR with faultQ := [wReq], slots := [⟨5, 0, 0, wReq⟩] }
    nextFault s 5 = some 0 ∧ ctxValid s 5 = true ∧ freeSlot s 5 = some 1 ∧ wReq.cause ≠ 0x30 ∧
    after (.faultRecordWrite 5) s (fun t => t.slots.length == 2 && t.faultQ.isEmpty && tabGet 0 t.mem (0x400040 + 63 - 56) == 0x06) = true := by decide +kernel

/-- Every slot of the context taken. -/
theorem witness_slots_taken : freeSlot { wR with slots := (List.range 1024).map (fun i => ⟨5, i, 0, wReq⟩) } 5 = none := by
  simp [freeSlot, faultSlots]

/-! ### The copy engine and the array -/

/-- R219: a byte too many sets OVER; FAILS saturates. -/
theorem witness_catchment :
    (leBytes 16 0).length = 16 ∧
    bitsOf (leValue (catchCount (leBytes 16 (3 * 2 ^ 64 + 1 * 2 ^ 32 + 1)) 3 1 0 0)) 1 1 = 0 ∧
    bitsOf (leValue (catchCount (leBytes 16 (3 * 2 ^ 64 + 1 * 2 ^ 32 + 1)) 4 1 0 0)) 1 1 = 1 ∧
    bitsOf (leValue (catchCount (leBytes 16 0xFFFF0000) 0 0 1 0x10)) 31 11 = 0xFFFF * 2 ^ 5 + 0x10 := by decide +kernel

/-- A request of 2 bytes of kind `k` at 0x10040, to scratchpad offset 256; with DIR from there. -/
def wReqC (k : Nat) (dir : Bool) : CopyReq := ⟨List.replicate 32 0, 0x10040, 256, 0, 2, some 4, 0, 0, 3, false, dir, false, k, none⟩

/-- The place of a byte of the page. -/
def wCell (pa : Nat) : Cell := ⟨pa, 0, false, false, some 0x108010, 5, pa - 0x200000 + 0x10000, 0, 3, 0, 16⟩

/-- Its granule. -/
def wGran : Granule := ⟨0, 2, none, [0, 1], [⟨none, [wCell 0x200040], 0, 0⟩, ⟨none, [wCell 0x200041], 0, 0⟩], 2, false, []⟩

/-- The request in flight. -/
def wC (k : Nat) (dir : Bool) (phase : CopyPhase) : CopyOp :=
  { id := 11, gang := 1, block := 7, core := 0, blkpos := 0, asid := 5, pc := 0x10000, cls := 3, req := wReqC k dir, shape := []
    span := 8, ver := [], phase := phase, granules := [wGran], counted := 0, count := 2, pins := [], attempts := 0, flags := 0, cause := 0, staged := none, got := [] }

/-- The package with one request in flight. -/
def wCS (c : CopyOp) : State := { wR with copies := [c], nextOp := 12 }

theorem witness_fetch :
    let e : KickEntry := ⟨1, 0, 2, 0, 0x10000, 5⟩
    let s := wR.modCore 0 (fun c => { c with kickQ := [e] })
    let bad := { s with blocks := [{ wB with scratch := (List.range 64).map (fun i => (scratchKey 0 i, 0xFF)) }] }
    (s.core 0).kickQ = [e] ∧ writesBefore wG0 e.ord = false ∧ s.copies.all (fun c => decide (c.id < s.nextOp)) = true ∧
    (fetchBad s 0 5 (copyReqOf (scratchBytes wB 0 0 64)) 65536).isNone = true ∧
    after (.spillwayFetch 0) s (fun t => t.copies.length == 1 && t.copies.all (fun c => c.phase == .fetched) &&
      (t.core 0).kickQ == [{ e with taken := 1 }]) = true ∧
    after (.spillwayFetch 0) bad (fun t => t.copies.all (fun c => c.phase == .failed) && t.faultQ.map (·.cause) == [0x20]) = true := by
  decide +kernel

theorem witness_walk_ahead :
    let c := wC 0 false .fetched
    let s := { wCS c with cores := wT.cores }
    let w := walkOutcome (copyPlaces s c (shapeNat [])).2
    let far := { c with req := { c.req with global := 0x90000 } }
    let f := walkOutcome (copyPlaces s far (shapeNat [])).2
    s.copy? 11 = some c ∧ w.1 = [] ∧ w.2.1 = none ∧ w.2.2.length = 2 ∧
    inMotion s (w.2.2.flatMap ElemPlace.all) = false ∧ mapBad s 5 c.req (shapeNat []) = none ∧
    after (.walkAheadTranslate 11) s (fun t => t.copies.all (fun c => c.phase == .moving && c.pins == [0x108010])) = true ∧
    f.1 = [] ∧ f.2.1.isSome = true ∧ (s.block? 7).isSome = true ∧ mapBad s 5 far.req (shapeNat []) = none ∧
    after (.walkAheadTranslate 11) { s with copies := [{ c with req := { c.req with len := 0, follow := true } }] }
      (fun t => t.copies.all (fun c => c.phase == .following) && (t.core 0).matQ.length == 1) = true ∧
    after (.walkAheadTranslate 11) { s with copies := [far] } (fun t => t.copies.all (fun c => c.phase == .waitReply)) = true ∧
    after (.walkAheadTranslate 11) { s with copies := [{ c with req := { c.req with len := 0 } }] }
      (fun t => t.copies.all (fun c => c.phase == .landed)) = true := by decide +kernel

theorem witness_granule :
    let load := { wC 0 false .moving with req := { wReqC 0 false with ccat := none } }
    let store := { wC 0 true .moving with req := { wReqC 0 true with ccat := none } }
    let st := granuleCells (wCS store) store wB wGran
    laterCopies (wCS load) load = [] ∧ wGran.asleep (wCS load) false = false ∧ wGran.asleep (wCS store) true = false ∧ laterCopies (wCS store) store = [] ∧ st.2.2 = [] ∧ st.1.length = 2 ∧
    st.1.all (fun x => !(isContribution (wCS store) wB x.cell.pa)) = true ∧
    bufferUse (wCS store) wB (unitCells wB 0 false false st.1) ≤ wB.limit ∧
    after (.copyGranuleTransfer 11 0) (wCS load) (fun t => blockB t 7 (fun b => scratchBytes b 0 256 2 == [0x11, 0x22])) = true ∧
    after (.copyGranuleTransfer 11 0) (wCS store) (fun t => blockB t 7 (fun b => b.sb.length == 2) && t.mem == wMem) = true := by
  decide +kernel

theorem witness_tile_load :
    let c := { wC 2 false .moving with req := { wReqC 2 false with ccat := none }, ver := [wCell 0x200040] }
    let even := { c with ver := [wCell 0x200041], staged := some (0x22, [0x11, 0x22]) }
    let odd := { c with staged := some (0x11, [0x11, 0x22]) }
    let bad := { wCS c with poison := [(0x10002, true)] }
    let cells := wGran.elems.flatMap ElemPlace.all
    c.ver.all (fun x => !((readAny (wCS c) x).2) && !(readAsleep (wCS c) x.pa)) = true ∧ c.ver.any (fun x => (readAny bad x).2) = true ∧
    (nextStaged cells 0).map (·.pa) = [0x200040, 0x200041] ∧ nextStaged cells 2 = [] ∧
    c.attempts + 1 < retryLimit c.req ∧ retryLimit c.req ≤ ({ c with attempts := 63 } : CopyOp).attempts + 1 ∧
    after (.tileLoadAttempt 11) (wCS c) (fun t => t.copies.all (fun x => x.staged == some (0x11, []))) = true ∧
    after (.tileLoadAttempt 11) (wCS { c with staged := some (0x11, []) }) (fun t =>
      t.copies.all (fun x => x.staged == some (0x11, [0x11, 0x22]))) = true ∧
    after (.tileLoadAttempt 11) (wCS odd) (fun t => t.copies.all (fun x => x.attempts == 1 && x.staged.isNone)) = true ∧
    after (.tileLoadAttempt 11) (wCS { odd with attempts := 63 }) (fun t => t.copies.all (fun x => x.phase == .failed) &&
      t.faultQ.map (fun r => (r.cause, r.detail)) == [(0x1A, 64)]) = true ∧
    after (.tileLoadAttempt 11) bad (fun t => t.copies.all (fun x => x.cause == 0x19)) = true ∧
    after (.tileLoadAttempt 11) (wCS even) (fun t => blockB t 7 (fun b => scratchBytes b 0 256 2 == [0x11, 0x22])) = true := by
  decide +kernel

theorem witness_copy_complete :
    let c := wC 0 false .landed
    let g := { wG0 with ops := [⟨0, 11, false, 0, 0⟩] }
    let s := { wCS c with gangs := [g] }
    s.gang? 1 = some g ∧ c.req.follow = false ∧
    after (.copyRequestComplete 11) s (fun t => gangB t 1 (fun g => g.doneCopy == 1) &&
      blockB t 7 (fun b => bitsOf (leValue (scratchBytes b 0 64 16)) 63 32 == 0xFFFFFFFF)) = true ∧
    after (.copyRequestComplete 11) { s with copies := [{ c with phase := .failed, req := { c.req with ccat := none } }] }
      (fun t => t.blocks == [wB]) = true := by decide +kernel

/-- A command of the array, and the command in flight. -/
def wM (op : Nat) (d : Nat) : MatOp :=
  { id := 11, gang := 1, block := 7, core := 0, blkpos := 0, cmd := ⟨op, some 7, 0, false, [], 0x10000, 3, 0, none⟩
    desc := BitVec.ofNat 256 d, walked := true, places := [], pins := [], accepted := 0, pairSeq := none, settled := true
    cause := 0, detail := 0, waitReply := false, latch := none }

theorem witness_command_accept :
    let h : HeldItem := ⟨1, 0, 0x10000, .cmd ⟨3, some 2, 0, false, [], 0x10000, 3, 0, none⟩, 0xFFFFFFFF⟩
    let s := wR.modCore 0 (fun c => { c with matQ := [(1, h)] })
    (s.core 0).matQ[0]? = some (1, h) ∧ writesBefore wG0 h.ord = false ∧
    waitsForDesc s wB 1 ⟨1, some 2, 0, false, [], 0x10000, 3, 0, none⟩ = false ∧
    waitsForWrites s wB ⟨s.nextOp, 1, 7, 0, 0, ⟨1, some 2, 0, false, [], 0x10000, 3, 0, none⟩,
      readDesc s wB 0 ⟨1, some 2, 0, false, [], 0x10000, 3, 0, none⟩, true, [], [], 0, none, true, 0, 0, false, none⟩ = false ∧
    after (.commandAccept 0 0) s (fun t => t.mats.length == 1 && (t.core 0).matQ.isEmpty && t.mats.all (fun m => m.settled && m.cause == 0)) = true := by
  decide +kernel

theorem witness_command_complete :
    let m := wM 3 0
    let b := { wB with tiles := [(0, 1)] }
    let s := { wR with mats := [m], blocks := [b], gangs := [{ wG0 with ops := [⟨1, 3, false, 0, 0⟩] }] }
    let follow := { m with cmd := { m.cmd with follow := some 12 }, cause := 0x20, walked := false }
    s.mat? 11 = some m ∧ matReady s b m = true ∧ (runCommand b m).cells = [] ∧
    matReady { s with mats := [follow] } b follow = true ∧ (runCommand b follow).cells = [] ∧
    after (.commandComplete 11) { s with mats := [follow], copies := [{ wC 0 false .following with id := 12 }] }
      (fun t => t.copies.all (fun c => c.phase == .landed) && t.mats.isEmpty) = true ∧
    after (.commandComplete 11) s (fun t => t.mats.isEmpty && gangB t 1 (fun g => g.doneMat == 1)) = true := by decide +kernel

/-- A drain of one binary32 element. -/
def wDrain : MatOp := { wM 5 (5 + 8 * 2 ^ 22 + 0x10080 * 2 ^ 64) with walked := false }

theorem witness_drain :
    let s := { wR with mats := [wDrain] }.modCore 0 (fun c => { c with recs := [⟨5, 0x10080, leBytes 192 wShapeV⟩] })
    let w := walkOutcome (drainPlaces { s with free := s.free + 1 } 5 wDrain.desc (shapeNat (leBytes 192 wShapeV)))
    s.copy? 11 = none ∧ s.mat? 11 = some wDrain ∧ (drainRecord wDrain.desc (shapeNat (leBytes 192 wShapeV))).1 = 0 ∧
    (recRead s 0 5 (dDrec wDrain.desc) (fun a => xlateWalk s 5 a .read false)).toOption = some (leBytes 192 wShapeV) ∧
    w.1 = [] ∧ w.2.1 = none ∧ w.2.2.length = 1 ∧ inMotion s (w.2.2.flatMap ElemPlace.all) = false ∧
    after (.walkAheadTranslate 11) s (fun t => t.mats.all (fun m => m.walked && m.pins == [0x108020] && m.cause == 0 &&
      m.places.all (fun p => p.cells.all (fun c => c.who == 0 && c.cls == 3)))) = true := by decide +kernel

theorem witness_pair_timeout :
    let b := { wB with cores := [0, 1], span := 2, threads := 64 }
    let p := { wG0 with uid := 2, idx := gangStride b, core := 1 }
    let m := { wM 0 0 with settled := false, pairSeq := some 4, cmd := ⟨0, none, 0, true, [], 0x10000, 3, 0, none⟩ }
    let s := { wR with blocks := [b], gangs := [wG0, p], mats := [m] }
    pairOp s m = none ∧ m.accepted + 100000 ≤ s.now ∧ pairGang s b wG0 = some p ∧ s.gang? 2 = some p ∧
    after (.pairTimeout 11) s (fun t => t.mats.all (fun m => m.settled && m.cause == 0x23) && gangB t 2 (fun g => g.pairLost == [4])) = true := by
  decide +kernel

/-- R259, R268: a multiply of binary16 by binary16; its last tile, row and column. -/
theorem witness_tiles :
    let m := wM 0 (7 * 2 ^ 4 + 10 * 2 ^ 22 + 10 * 2 ^ 27 + 127 * 2 ^ 32 + 127 * 2 ^ 40)
    (descMode m.desc).any (fun md => decide (dN m.desc * kindSize md.acc ≤ 512) && kindSize md.acc * 8 == tyWidth md.acc &&
      decide (128 * kindSize md.acc ≤ 512)) = true ∧ dOp m.desc = 0 ∧ dM m.desc = 128 ∧ dTile m.desc = 7 ∧
    (wM 3 0).cmd.tile = some 7 ∧ 0 < kindSize .f32 ∧ (127 + 1) * kindSize .f32 ≤ 512 := by decide +kernel

/-! ### Buffers, home memory, barriers -/

/-- A gang with one released effect. -/
def wRel (e : Held) : Gang := { wG0 with relq := [⟨0, 0, 0x10000, e, 3⟩] }

/-- The store of one byte. -/
def wSt : List StCell := [⟨wCell 0x200040, 0x5A, 0xFF⟩]

theorem witness_store_accept :
    let s := fun (b : Block) => { wR with gangs := [wRel (.store wSt none 0)], blocks := [b] }
    let small := { wB with limit := 0 }
    wSt.all (fun x => !(isContribution (s wB) wB x.cell.pa)) = true ∧
    bufferUse (s wB) wB (unitCells wB 0 false false wSt) ≤ wB.limit ∧
    small.limit < bufferUse (s small) small (unitCells small 0 false false wSt) ∧
    (nextGlobal (wRel (.store wSt none 0))).isSome = true ∧ fencedOff (wRel (.store wSt none 0)) ⟨0, 0, 0x10000, .store wSt none 0, 3⟩ = false ∧
    after (.storeBufferAccept 1) (s wB) (fun t => blockB t 7 (fun b => b.sb.map (fun e => (e.cell.pa, e.val)) == [(0x200040, 0x5A)]) &&
      t.mem == wMem) = true ∧
    after (.storeBufferAccept 1) (s small) (fun t => blockB t 7 (fun b => b.commits == 1 && b.forced && b.pipeline.length == 1)) = true := by
  decide +kernel

/-- An entry of the buffer. -/
def wSb : SbCell := ⟨wCell 0x200040, 0x5A, 0xFF, 0, 1, false⟩

theorem witness_pub_accept :
    let b := { wB with sb := [wSb] }
    let s := { wR with gangs := [wRel (.pub 4 none)], blocks := [b] }
    isMarked s b = false ∧ gathersBefore s wG0 ⟨0, 0, 0x10000, .pub 4 none, 3⟩ = false ∧
    after (.storeBufferAccept 1) { s with gangs := [wRel (.phase 4 none)] } (fun t =>
      blockB t 7 (fun b => b.pipeline.map (fun c => c.who) == [.phase 1 4])) = true ∧
    after (.storeBufferAccept 1) s (fun t => blockB t 7 (fun b => b.commits == 0 && b.sb.isEmpty && b.pipeline.map (fun c => c.who) == [.pub 1 4])) = true := by
  decide +kernel

/-- A commit with one unit of one byte, or complete. -/
def wCom (who : CommitFor) (us : List CommitUnit) : Commit := ⟨1, 0x10000, false, us, [], who, [], []⟩

theorem witness_home_write :
    let s := { wR with blocks := [{ wB with pipeline := [wCom .forcedBy [⟨[wSb], []⟩]] }] }
    isRemote wSb.cell.pa = false ∧ stackAsleep s wSb.cell.pa = false ∧
    after (.homeWrite 7 0) { s with blocks := [{ wB with pipeline := [wCom .forcedBy [⟨[wSb], [wCell 0x200048]⟩]] }] } (fun t =>
      viewByte t 0 0x200048 == 2) = true ∧
    after (.homeWrite 7 0) s (fun t => viewByte t 0 0x200040 == 0x5A && viewByte t 0 0x200041 == 0x22 &&
      blockB t 7 (fun b => b.pipeline.all (fun c => c.units.isEmpty))) = true := by decide +kernel

theorem witness_commit_complete :
    let s := fun (w : CommitFor) => { wR with
      blocks := [{ wB with pipeline := [wCom w []] }], gangs := [{ wG0 with out := [wOut .unit [] false] }] }
    after (.commitComplete 7) (s .arrival) (fun t => blockB t 7 (fun b => b.pipeline.isEmpty)) = true ∧
    after (.commitComplete 7) (s (.phase 1 4)) (fun t => blockB t 7 (fun b => b.commits == 1) && gangB t 1 (fun g => g.out.all (·.arrived))) = true ∧
    after (.commitComplete 7) (s .forcedBy) (fun t => blockB t 7 (fun b => b.pipeline.isEmpty) && t.gangs == (s .forcedBy).gangs) = true ∧
    after (.commitComplete 7) (s (.pub 1 4)) (fun t => blockB t 7 (fun b => b.commits == 1) && gangB t 1 (fun g => g.out.all (·.arrived))) = true := by decide +kernel

theorem witness_load_home_read :
    let r : LoadReq := ⟨some 0, [wCell 0x200040, wCell 0x200041], .raw .n16, .v 3, none, false, false, 0, 3, 1, [], false⟩
    let o := wOut (.load r) [] false
    let g := { wG0 with out := [o] }
    let s := { wR with gangs := [g] }
    let bad := { s with poison := [(0x10002, true)] }
    olderLoad g o r = false ∧ remoteCells s wB 0 r = [] ∧ r.cells.all (fun c => !(readAsleep s c.pa)) = true ∧ atomAhead s g wB o r = false ∧
    after (.loadHomeRead 1 0 false) bad (fun t => blockB t 7 (fun b => !b.consumption.isEmpty) && gangB t 1 (fun g => g.deferred.length == 1)) = true ∧
    after (.loadHomeRead 1 0 false) s (fun t => gangB t 1 (fun g => g.out.all (fun o =>
      match o.kind with | .load r => r.got == some [0x11, 0x22] | _ => false))) = true := by decide +kernel

theorem test_l1_evict :
    after (.l1Evict 0 0) (wS.modCore 0 (fun c => { c with l1 := [⟨1, 0, 2, true, 0⟩, ⟨0x200040, 0, 3, false, 0⟩] }))
      (fun t => (t.core 0).l1.map (·.pa) == [0x200040]) = true := by decide +kernel

/-- An addition of 3 to the four bytes of a place, of lane 0. -/
def wAl : AtomLane := ⟨some 0, (List.range 4).map (fun i => wCell (0x200040 + i)), 8, 3, 0, false, false⟩

/-- Its word. -/
def wAtom (left : Bool) : AtomReq := ⟨.add, .b32, false, false, .v 3, [wAl], left, 0, 4, []⟩

theorem witness_atomic_perform :
    let s := fun (e : Held) => { wR with gangs := [{ wRel e with out := [wOut .unit [] false] }] }
    (atomLane (wAtom true) 0) = some wAl ∧ gathersBefore (s (.atom (wAtom false))) wG0 ⟨0, 0, 0x10000, .atom (wAtom false), 3⟩ = false ∧
    wAl.cells.all (fun c => !(stackAsleep (s (.atom (wAtom true))) c.pa)) = true ∧ wAl.cells.all (fun c => !(isRemote c.pa)) = true ∧ atomReady wB (wAtom true) wAl = true ∧
    (atomRead (s (.atom (wAtom true))) wB 0 wAl).map (·.2) = [false, false, false, false] ∧
    after (.atomPerform 1 0) (s (.atom (wAtom false))) (fun t => blockB t 7 (fun b => b.commits == 1) && gangB t 1 (fun g =>
      g.relq.all (fun h => match h.eff with | .atom a => a.left | _ => false))) = true ∧
    after (.atomPerform 1 0) (s (.atom (wAtom true))) (fun t => viewByte t 0 0x200040 == 0x14 &&
      gangB t 1 (fun g => g.relq.isEmpty && g.out.all (fun o => o.effs.contains (.v 0 3 0x2211)))) = true ∧
    localBefore (wRel (.atoml (wAtom false))) ⟨0, 0, 0x10000, .atoml (wAtom false), 3⟩ 8 4 = false ∧
    after (.atomPerform 1 0) (s (.atoml (wAtom false))) (fun t => blockB t 7 (fun b => scratchBytes b 0 8 4 == [3, 0, 0, 0]) &&
      gangB t 1 (fun g => g.out.all (fun o => o.effs.contains (.v 0 3 0)))) = true := by decide +kernel

theorem witness_gang_end :
    let dead := { wG0 with regs := { wG0.regs with lanes := wG0.regs.lanes.map (fun l => { l with status := .exited }) } }
    let b := { wB with lastExit := some ⟨990, 0, 0, 0x10020⟩ }
    let s := { wR with gangs := [dead], blocks := [b] }
    dead.isOver = true ∧ b.consumption = [] ∧ dead.deferred = [] ∧
    after (.gangEnd 1) s (fun t => t.gangs.isEmpty && blockB t 7 (fun b => b.phase == .ending && b.lastPc == 0x10020)) = true ∧
    after (.gangEnd 1) { s with gangs := [dead, { wG0 with uid := 2 }] } (fun t => t.gangs.length == 1 && t.blocks == [b]) = true := by
  decide +kernel

/-- A live object of the context that a gang of core 0 may use: EXPECT 2, PHASE 6, with gang 2 waiting for PHASE 6. -/
def wBar (count : Nat) (waiters : List (Nat × Nat × BitVec 32)) : BarObj :=
  ⟨wCell 0x200040, 0x10040, 5, 3, 0, 2, count, 6, 2000, 0, true, false, [], waiters, [], [], 0⟩

/-- An operation at the networks, with gangs 1 and 2 each awaiting a result. -/
def wBarS (e : Held) (bars : List BarObj) : State :=
  let g := { wG0 with out := [wOut .unit [] false] }
  { wR with gangs := [g, { g with uid := 2, idx := 1, slot := 1 }], bars := bars, barQ := [⟨1, ⟨0, 0, 0x10000, e, 1⟩, false⟩] }

theorem witness_barrier_init :
    let e := fun (arg : W64) => Held.bari 0x10040 (wCell 0x200040) 3 arg 4
    let bad := wBarS (e 2) [wBar 0 [(2, 4, 6)]]
    initBad (wBarS (e 2) []) wG0 0x200040 2 = false ∧ initBad (wBarS (e 0) [wBar 0 []]) wG0 0x200040 0 = false ∧
    initBad bad wG0 0x200040 2 = true ∧ barEarly bad 0 ⟨1, ⟨0, 0, 0x10000, e 2, 1⟩, false⟩ = false ∧ barStopped bad 0x200040 = false ∧
    after (.barrierNetworkInit 0) (wBarS (e 2) []) (fun t => t.bars.map (fun o => (o.expect, o.timeout, o.valid)) == [(2, 2000, true)] &&
      t.barQ.isEmpty && gangB t 1 (fun g => g.out.all (·.arrived))) = true ∧
    after (.barrierNetworkInit 0) (wBarS (e 0) [wBar 0 []]) (fun t => t.bars.isEmpty) = true ∧
    after (.barrierNetworkInit 0) bad (fun t => t.bars == bad.bars && gangB t 1 (fun g => g.deferred.length == 1)) = true := by decide +kernel

theorem witness_barrier_arrival :
    let e := Held.bara 0x10040 (wCell 0x200040) 3 (.s 9) 4
    barUseOk (wBarS e [wBar 0 []]) wG0 0x200040 = true ∧ gangMarked (wBarS e [wBar 0 []]) wG0 = false ∧
    after (.barrierNetworkArrival 0) (wBarS e [wBar 0 []]) (fun t => t.bars.map (fun o => (o.count, o.phase, o.start)) == [(1, 6, 5000000)] &&
      gangB t 1 (fun g => g.out.all (fun o => o.effs.contains (.s 9 6)))) = true ∧
    after (.barrierNetworkArrival 0) (wBarS e [wBar 1 [(2, 4, 6)]]) (fun t => t.bars.map (fun o => (o.count, o.phase)) == [(0, 7)] &&
      gangB t 2 (fun g => g.out.all (·.arrived))) = true := by decide +kernel

theorem witness_barrier_wait :
    let e := fun (p : BitVec 32) => Held.barw 0x10040 (wCell 0x200040) 3 p (.s 9) 4
    isMarked (wBarS (e 6) [wBar 1 []]) wB = false ∧
    after (.barrierWaitTest 1) (wBarS (e 6) [wBar 1 []]) (fun t => t.bars.map (·.waiters) == [[(1, 4, 6)]]) = true ∧
    after (.barrierWaitTest 1) (wBarS (e 5) [wBar 1 []]) (fun t => t.bars.map (·.waiters) == [[]] &&
      gangB t 1 (fun g => g.out.all (fun o => o.effs.contains (.s 9 (6 * 2 ^ 32 + 2 ^ 31 + 1))))) = true ∧
    after (.barrierStatusRead 0) (wBarS (.bart 0x10040 (wCell 0x200040) 3 (.s 9) 4) [wBar 1 []]) (fun t => t.barQ.isEmpty &&
      gangB t 1 (fun g => g.out.all (fun o => o.effs.contains (.s 9 (6 * 2 ^ 32 + 2 ^ 31 + 1))))) = true := by decide +kernel

theorem witness_barrier_expiry :
    let o := fun (start : Nat) => { wBar 1 [(1, 4, 6)] with start := start, senders := [(3, 6, 0x30040)] }
    let s := fun (start : Nat) => { wBarS (.killpt 4) [o start] with barQ := [] }
    barDue (s 4000000) (o 4000000) = false ∧ barDue (s 1000) (o 1000) = true ∧
    after (.barrierWatchdogExpiry 0) (s 1000) (fun t => t.notice.getLsbD 3 && t.faultQ.any (fun r => r.cause == 0x30) &&
      t.outbox == [(3, .expired 6 0x30040)]) = true := by decide +kernel

theorem witness_barrier_notices :
    let a := remoteAddr 3 5 0x30040
    let s := wBarS (.killpt 4) [{ wBar 0 [(2, 4, 6)] with cell := wCell a }]
    (s.bar? a).isSome = true ∧ (s.gangs ++ s.blocks.flatMap (·.savedGangs)).all (fun g => !gangMarked s g) = true ∧ tabGet false s.dead 5 = false ∧
    after (.podBarrierReleaseNotice 3 5 0x30040 7) s (fun t => gangB t 2 (fun g => g.out.all (·.arrived))) = true ∧
    after (.podExpiryNotice 3 5 0x30040) s (fun t => t.notice.getLsbD 3) = true := by decide +kernel

/-! ### The Cistern -/

/-- A launch record: one block of 32 threads, 8 vector and 32 scalar registers, L1 of 1 MiB, die 0. -/
def wLr : Nat :=
  0x10000 * 2 ^ 960 + 0x10000 * 2 ^ 896 + 2 ^ 704 + 32 * 2 ^ 624 + 8 * 2 ^ 615 + 32 * 2 ^ 605 + 2 ^ 598 + 2 ^ 568

/-- The bytes of a word that are not 0, from an address. -/
def wBytes (a n v : Nat) : List (Nat × Byte) := ((leBytes n v).mapIdx (fun i x => (a + i, x))).filter (fun p => p.2 != 0)

/-- Queue 0 of context 5 with a ring of one record at 0x600000, filled. -/
def wQ (v : Nat) (en : W64) : State :=
  { wRt with mem := wMem ++ wBytes 0x600000 128 v, qctl := [(0, 0x600000 + en)], qctx := [(0, 5)], qtail := [(0, 1)] }

theorem witness_queues :
    (0 : Nat) < 4096 ∧ tabGet 0 (wQ wLr 1).qhead 0 ≠ tabGet 0 (wQ wLr 1).qtail 0 ∧ slotsFull (wQ wLr 1) 0 = false ∧
    queueBad (wQ wLr 1) 0 none = false ∧ queueBad (wQ wLr 0) 0 none = true ∧
    after (.qtailWrite 0 9) (wQ wLr 1) (fun t => tabGet 0 t.qtail 0 == 1) = true ∧
    after (.launchEnqueue 0 false) (wQ wLr 0) (fun t => t.faultQ.map (fun r => (r.cause, r.detail)) == [(0x40, 4)]) = true := by
  decide +kernel

theorem witness_host_launch :
    after (.launchEnqueue 0 false) (wQ wLr 1) (fun t => t.launches.map (fun l => (l.id, l.asid, l.threads, l.entry)) == [(1, 5, 32, 0x10000)] &&
      tabGet 0 t.qhead 0 == 1 && t.faultQ.isEmpty) = true := by decide +kernel

theorem witness_host_reject :
    after (.launchEnqueue 0 false) (wQ (wLr + 1) 1) (fun t => t.launches.isEmpty && t.faultQ.map (·.detail) == [1]) = true ∧
    after (.launchEnqueue 0 false) ((List.range 64).foldl (fun s c => s.modCore c (fun k => { k with disabled := true })) (wQ wLr 1))
      (fun t => t.launches.isEmpty && t.faultQ.map (·.detail) == [2]) = true := by decide +kernel

/-- A LAUNCH of gang 1 of the record at 0x10080, at the Cistern. -/
def wDev (asid : W64) : State :=
  { wQ 0 1 with
    mem := wMem ++ wBytes 0x200080 128 wLr, qctx := [(0, asid)], gangs := [{ wG0 with out := [wOut .unit [] false] }]
    cisQ := [⟨1, ⟨0, 0, 0x10000, .launch 0x10080 0 (.s 9) 4, 1⟩, false⟩] }

theorem witness_device_launch :
    queueBad (wDev 5) 0 (some wB.asid) = false ∧ queueBad (wDev 4) 0 (some wB.asid) = true ∧
    after (.launchEnqueue 0 true) (wDev 5) (fun t => t.launches.map (fun l => (l.id, l.provisional)) == [(1, some 7)] &&
      gangB t 1 (fun g => g.out.all (fun o => o.effs.contains (.s 9 1)))) = true ∧
    after (.launchEnqueue 0 true) (wDev 4) (fun t => t.launches.isEmpty &&
      gangB t 1 (fun g => g.out.all (fun o => o.effs.contains (.s 9 0xFFFFFFFF00000004)))) = true := by decide +kernel

/-- The launch of that record. -/
def wL : Launch := launchOf wLr [] 3 5 0 0 0 none none

/-- R241, R320: the end commit of a block is complete. -/
theorem witness_block_end_commit :
    after (.commitComplete 7) { wR with blocks := [{ wB with phase := .ending, pipeline := [wCom .blockEnd []] }], launches := [wL] }
      (fun t => t.blocks.isEmpty && t.launches.all (fun l => l.ended == wL.ended + 1)) = true := by decide +kernel

theorem witness_dispatch :
    let s := { wR with launches := [wL], gangs := [], blocks := [] }
    s.blocks.all (fun b => b.phase != .preempting) = true ∧ (dispatchOrder wR 0).isEmpty = true ∧ dispatchOrder s 0 = [wL] ∧
    wL.coop = false ∧ waitingBlocks s wL = [] ∧ nextIndex wL = some 0 ∧ spanOf s wL = some 1 ∧ (s.block? s.nextUid).isNone = true := by
  decide +kernel

theorem witness_dispatch_places :
    let s := { wR with launches := [wL], gangs := [], blocks := [] }
    findPlace s wL 1 (freshSeats wL) none none = some [0] ∧
    after (.dispatchBlock 0) s (fun t => blockB t 9 (fun b => b.cores == [0] && b.idx == 0) && t.gangs.length == 1 &&
      t.gangs.all (fun g => (g.regs.lane 31).getV 0 == 31 && (g.regs.lane 31).pc == 0x10000)) = true := by decide +kernel

theorem witness_launch_complete :
    let done := { wL with ended := 1, depid := 4 }
    let s := { wRt with launches := [done, { wL with id := 4, wait := 2 }] }
    let c := { done with compl := 0x10040 }
    launchOver wR wL = false ∧ launchOver s done = true ∧ s.join? 3 = none ∧ complSent s 3 = false ∧ stackAsleep s 0x200040 = false ∧
    after (.launchComplete 3) s (fun t => t.launches.map (fun l => (l.id, l.wait)) == [(4, 1)]) = true ∧
    (virtCells (fun a => xlateWalk wRt 5 a .write false) 0x10040 8).toOption.isSome = true ∧
    after (.launchComplete 3) { wRt with launches := [c] } (fun t => t.launches.isEmpty && viewByte t 0 0x200040 == 1 &&
      viewByte t 0 0x200041 == 0) = true := by decide +kernel

theorem witness_time_limit :
    let l := { wL with startNs := some 0, tlimit := 3 }
    launchElapsed wR { l with tlimit := 9 } < 1000000 * 9 ∧ 1000000 * l.tlimit ≤ launchElapsed wR l ∧ tabGet false wR.dead 5 = false ∧
    after (.timeLimitExpiry 3) { wR with launches := [l] } (fun t => t.notice.getLsbD 3 && t.faultQ.any (fun r => r.cause == 0x41)) = true := by
  decide +kernel

theorem witness_consumption :
    let c : Consumption := ⟨3, 0, 0x10000, 0x30040, 1, 9⟩
    let b := { wB with consumption := [c] }
    isMarked wR b = false ∧ b.consumption.head? = some c ∧ c.unsure wR = false ∧ b.replayable = true ∧ ({ b with commits := 1 } : Block).replayable = false ∧
    after (.uncorrectableConsumption 7) { wR with blocks := [b] } (fun t => blockB t 7 (fun b =>
      b.phase == .unplaced && b.avoidQuad == some 0 && b.consumed == 1) && t.faultQ.map (fun r => (r.cause, r.detail)) == [(0x19, 0)]) = true ∧
    after (.uncorrectableConsumption 7) { wR with blocks := [{ b with commits := 1 }] } (fun t => t.gangs.isEmpty &&
      t.faultQ.any (fun r => r.cause == 0x19 && r.detail == 1)) = true := by decide +kernel

/-- A record of gang 1 in slot 2, sequence number 6, and its gang with lane 3 parked. -/
def wReply (r : FaultReq) : State :=
  let parked := wG0.regs.lanes.set 3 { Lane.fresh 0x10008 with status := .parked }
  { wR with slots := [⟨5, 2, 6, r⟩], gangs := [{ wG0 with regs := { wG0.regs with lanes := parked } }] }

theorem witness_replies :
    let r := { wReq with lanes := 8 }
    ((wReply r).slots.find? (fun x => x.asid == 5 && x.slot == 2 && x.seq == 7)).isNone = true ∧ r.inert = false ∧
    tabGet false (wReply r).dead r.asid = false ∧ wB.over = false ∧ r.op = none ∧
    after (.freplyRetry 5 2 6) (wReply r) (fun t => gangB t 1 (fun g => (g.regs.lane 3).status == .runnable && (g.regs.lane 3).pc == 0x10000)) = true ∧
    after (.freplyResumeAfter 5 2 6) (wReply r) (fun t => gangB t 1 (fun g => (g.regs.lane 3).pc == 0x10008)) = true ∧
    after (.freplyResumeAfter 5 2 6) (wReply { r with deferred := true }) (fun t => gangB t 1 (fun g => (g.regs.lane 3).pc == 0x10008)) = true ∧
    after (.freplyFree 5 2 6) (wReply { r with inert := true }) (fun t => t.slots.isEmpty) = true ∧
    after (.freplyKill 5 2 6) (wReply r) (fun t => t.slots.isEmpty && t.gangs.isEmpty) = true := by decide +kernel

theorem witness_reply_engine :
    let c := wC 0 false .waitReply
    let s := { wCS c with slots := [⟨5, 2, 6, { wReq with op := some 11 }⟩] }
    s.copy? 11 = some c ∧ c.phase = .waitReply ∧
    after (.freplyRetry 5 2 6) s (fun t => t.copies.all (fun c => c.phase == .fetched)) = true ∧
    after (.freplyResumeAfter 5 2 6) s (fun t => t.copies.all (fun c => c.phase == .failed)) = true := by decide +kernel

/-! ### Memory, pages, management -/

theorem witness_channels :
    let late : ChanReq := ⟨0, 3, 1, 100, 5, 7⟩
    let s := { wR with chanQ := [⟨0, 3, 2, 0, 5, 7⟩, late] }
    let cold := { s with selfRefresh := tabPut false [] 0 true }
    tabGet false s.selfRefresh 0 = false ∧ tabGet false cold.selfRefresh 0 = true ∧ (nextRequest s 0 3) = some 1 ∧
    late.stamp < s.now ∧
    after (.memoryChannelServe 0 3) s (fun t => t.chanQ.length == 1 && tabGet 0 t.misses (missKey 0 5 1) == 1) = true ∧
    after (.hbmThermalSelfRefresh 0 99) s (fun t => tabGet false t.selfRefresh 0) = true ∧
    after (.subarrayRefresh 0 3 7 true) s (fun t => tabGet false t.refreshing (refreshKey 0 3 7)) = true := by decide +kernel

theorem witness_patrol :
    (placeOf wR (32 * 0x10002)).map (·.tier) = some 0 ∧ wR.scrubs = [] ∧ rowCovered wR (32 * 0x10002) = false ∧ tabGet false wR.selfRefresh 0 = false ∧
    after (.geckoPatrol 0x10002 .uncorrectable) wR (fun t => tabGet false t.poison 0x10002) = true := by decide +kernel

/-- R340: a row that a checkpoint read has just covered, and what such a read found, on a sector written since. -/
theorem witness_covered :
    let s := { wR with scrubs := [⟨0x10002, true⟩] }
    (wR.now + 1 < (wR.now + 1) + dayNs ∧ (wR.now + 1 != 0) = true) ∧
    s.scrubs.find? (fun y => y.sector == 0x10002) = some ⟨0x10002, true⟩ ∧
    after (.geckoPatrol 0x10002 .corrected) s (fun t => t.scrubs.isEmpty && t.patrols == [⟨0x10002, true⟩]) = true := by decide +kernel

/-- R340: whichever row an address stands in, it is covered once a read of a region has reached it. -/
theorem witness_row_covered (pa : Nat) :
    rowCovered { wR with covered := tabPut 0 [] (Config.rowOf pa) (wR.now + 1) } pa = true := by
  have h : wR.now = 5000000 := rfl
  simp [rowCovered, Laws.tabGet_tabPut_self, dayNs, h]

/-- The Skink's rings: one free frame of domain 0 in LPDDR 6 and one of domain 1 in HBM4E; domain 0's released ring is empty.
Page 0x10000 is to move for gang 1. -/
def wMig (ctl : W64) : State :=
  { wRt with
    mem := wMem ++ [(0x700005, 0x10), (0x720004, 0x40)]
    rings := [(8, 0x700000), (9, 1), (24, 0x710000), (32, 0x720000), (33, 1)]
    gangs := [{ wG0 with out := [wOut .unit [] false] }]
    cisQ := [⟨1, ⟨0, 0, 0x10000, .migr 5 0 0x10000 ctl (some (0x108010, 0x10000, 65536)) (.s 9) 4, 1⟩, false⟩] }

theorem witness_migration_start :
    let pinned := { wMig 1 with pins := [(0x108010, 1)] }
    (match startMotion (wMig 1) 5 0x108010 0x10000 65536 1 0 none with | .started s => s.motions.length == 1 | _ => false) = true ∧
    (match startMotion (wMig 0) 5 0x108010 0x10000 65536 0 0 none with | .refused _ x => x == 1 | _ => false) = true ∧
    (match startMotion pinned 5 0x108010 0x10000 65536 1 0 none with | .wait => true | _ => false) = true ∧
    after (.migrationStart 0) (wMig 1) (fun t => t.motions.map (fun m => (m.dst, m.stage)) == [(0x100000000000, 0)] &&
      gangB t 1 (fun g => g.out.all (·.arrived))) = true ∧
    after (.migrationStart 0) (wMig 9) (fun t => t.motions.length == 1 && gangB t 1 (fun g => g.out.all (fun o => !o.arrived))) = true ∧
    after (.migrationStart 0) pinned (fun t => t.motions.isEmpty && t.cisQ.length == 1) = true := by decide +kernel

/-- Page 0x10000 on its way to the first frame of LPDDR 6. -/
def wMot (mark stage : Nat) : Motion :=
  ⟨0x200000, 0x100000000000, false, mark, [], 0x108010, BitVec.ofNat 128 (0x1C * 2 ^ 80 + 0x200003), 5, 0x10000, 1, 0, stage, 0, false,
    none, false⟩

/-- The package with it. -/
def wMo (mark stage : Nat) : State := { wMig 1 with cisQ := [], motions := [wMot mark stage] }

theorem witness_copy_unit :
    let s := wMo 0 0
    (wMot 0 0).next = some 0 ∧ sourceBad s (wMot 0 0) 0 = false ∧ destinationDead s (wMot 0 0) = false ∧
    motionAsleep s (wMot 0 0) = false ∧ (0x200000 + (wMot 0 0).size ≤ (wMot 0 0).dst) ∧ (0 + 1) * 256 ≤ (wMot 0 0).size ∧
    after (.migrationCopyUnit 0x200000 .ok) s (fun t => viewByte t 0 0x100000000040 == 0x11 && t.motions.all (fun m => m.mark == 1)) = true ∧
    after (.migrationCopyUnit 0x200000 .source) { s with rings := [] } (fun t => t.faultQ.map (·.cause) == [0x17]) = true ∧
    after (.migrationCopyUnit 0x200000 .destination) { s with rings := [] } (fun t => t.faultQ.map (·.cause) == [0x18]) = true := by
  decide +kernel

theorem witness_migration_end :
    let s := wMo 256 0
    let m := wMot 256 0
    let gone := { m with leaf := BitVec.ofNat 128 (0x1C * 2 ^ 80 + 0x240003) }
    let dead := { m with bad := true }
    m.next = none ∧ destinationDead s m = false ∧ destinationDead s dead = true ∧
    after (.migrationEnd 0x200000) { s with motions := [dead], rings := [] } (fun t => t.faultQ.map (·.cause) == [0x18]) = true ∧ physWord s m.leafPa 8 = (m.leaf.extractLsb' 0 64).toNat ∧
    physWord s m.leafPa 8 ≠ (gone.leaf.extractLsb' 0 64).toNat ∧
    after (.migrationEnd 0x200000) s (fun t => t.motions.all (fun m => m.stage == 1) && t.invals.length == 1) = true ∧
    after (.migrationEnd 0x200000) { s with motions := [gone], rings := [] } (fun t => t.motions.all (fun m => m.abandoned)) = true ∧
    ((ringOf s 0 6).tail - (ringOf s 0 6).head).toNat < (ringOf s 0 6).size ∧
    after (.migrationEnd 0x200000) (wMo 256 2) (fun t => t.motions.isEmpty && tabGet 0 t.rings (ringKey 0 6 1) == 1) = true := by decide +kernel

/-- A leaf below an entry of a table is a leaf of the table. -/
theorem mem_tableLeaves_node (s : State) (table i p : Nat) (l : Level) (rest : List Level)
    (hi : i < 2 ^ l.width) (hok : tableOk s table l.width = true)
    (he : let e : BitVec 128 := BitVec.ofNat 128 (physWord s (globalLocal table + 16 * i) 16)
      entV e = true ∧ ¬(l.num = 0 ∨ entLeaf e = true) ∧ nodeRsvZero e = true ∧ p ∈ tableLeaves s (entAddr e) rest) :
    p ∈ tableLeaves s table (l :: rest) := by
  obtain ⟨h1, h2, h3, h4⟩ := he
  simp only [tableLeaves, hok, if_true, List.mem_flatMap, List.mem_range]
  exact ⟨i, hi, by simp only [h1, h2, h3, Bool.not_true, Bool.false_eq_true, if_false, if_true]; exact h4⟩

/-- R353: the page's leaf is found among those present, through the five levels of its directory. -/
theorem witness_present_leaf : 0x108010 ∈ presentLeaves (wMig 1) := by
  have h0 : 0x108010 ∈ tableLeaves (wMig 1) 0x108000 [⟨0, 16, 5⟩] := by decide +kernel
  have h1 := mem_tableLeaves_node (wMig 1) 0x106000 0 0x108010 ⟨1, 21, 9⟩ [⟨0, 16, 5⟩] (by decide) (by decide +kernel)
    ⟨by decide +kernel, by decide +kernel, by decide +kernel, (by decide +kernel : entAddr (BitVec.ofNat 128 (physWord (wMig 1) (globalLocal 0x106000 + 16 * 0) 16)) = 0x108000) ▸ h0⟩
  have h2 := mem_tableLeaves_node (wMig 1) 0x104000 0 0x108010 ⟨2, 30, 9⟩ _ (by decide) (by decide +kernel)
    ⟨by decide +kernel, by decide +kernel, by decide +kernel, (by decide +kernel : entAddr (BitVec.ofNat 128 (physWord (wMig 1) (globalLocal 0x104000 + 16 * 0) 16)) = 0x106000) ▸ h1⟩
  have h3 := mem_tableLeaves_node (wMig 1) 0x102000 0 0x108010 ⟨3, 39, 9⟩ _ (by decide) (by decide +kernel)
    ⟨by decide +kernel, by decide +kernel, by decide +kernel, (by decide +kernel : entAddr (BitVec.ofNat 128 (physWord (wMig 1) (globalLocal 0x102000 + 16 * 0) 16)) = 0x104000) ▸ h2⟩
  have h4 := mem_tableLeaves_node (wMig 1) 0x100000 0 0x108010 ⟨4, 48, 9⟩ _ (by decide) (by decide +kernel)
    ⟨by decide +kernel, by decide +kernel, by decide +kernel, (by decide +kernel : entAddr (BitVec.ofNat 128 (physWord (wMig 1) (globalLocal 0x100000 + 16 * 0) 16)) = 0x102000) ▸ h3⟩
  simp only [presentLeaves, List.mem_eraseDups, List.mem_flatMap]
  exact ⟨(5, 0x100001), by decide +kernel, by
    rw [if_pos (by decide)]
    exact (by decide +kernel : bitsOf (0x100001 : W64).toNat 55 13 * 8192 = 0x100000) ▸ h4⟩

theorem witness_hotness :
    let p : Promo := ⟨5, 0x10000, 1⟩
    let s := { wMig 1 with cisQ := [], promos := [p], hot := [(0x108010, 9)] }
    tabWf 0 s.hot = true ∧ leafDom s 0x108010 = some 0 ∧ s.promos.filter (fun x => x.dom == 1) = [p] ∧
    (walk s 5 0x10000).toOption.any (fun l => decide (l.leafPa = 0x108010 ∧ l.base = 0x10000 ∧ l.size = 65536)) = true ∧
    (match startMotion s 5 0x108010 0x10000 65536 0 1 none with | .started s => s.motions.length == 1 | _ => false) = true ∧
    tabGet 0 (halveHot s 0x108010).hot 0x108010 = 4 ∧
    after (.promotionStart 1) s (fun t => t.promos.isEmpty && t.motions.map (·.dst) == [0x4000000000]) = true := by decide +kernel

/-- An invalidation in progress. -/
def wInval (holders ops : List Nat) : Inval := ⟨.asid, 5, 0, holders, ops, none, true, false⟩

theorem witness_invalidation :
    (wRt.invals = []) ∧ (wRt.core 0).tlb.length = 2 ∧
    after (.invalidatePage 5 0x10008) wRt (fun t => (t.core 0).tlb.map (·.base) == [0x20000] && t.invCtl.getLsbD 0) = true ∧
    after (.invalidateAsid 5) wRt (fun t => (t.core 0).tlb.isEmpty) = true ∧ after .invalidateAll wRt (fun t => (t.core 0).tlb.isEmpty) = true ∧
    opPinned { wR with copies := [{ wC 0 false .moving with pins := [0x108010] }] } 11 = true ∧
    after .invalidationComplete { wR with invals := [wInval [3] []] } (fun t => t.invals.length == 1) = true ∧
    after .invalidationComplete { wR with invals := [wInval [] []], invCtl := 1 } (fun t => t.invals.isEmpty && t.invCtl == 0) = true := by
  decide +kernel

theorem witness_keys :
    let live := { wR with keys := [(5, ⟨1, 3, 77⟩)], blocks := [{ wB with sb := [wSb] }] }
    (tabGet KeySt.reset wR.keys 5).kst = 0 ∧ (tabGet KeySt.reset live.keys 5).kst = 1 ∧ ctxLive live 5 = true ∧
    after .invalidationComplete { wR with keys := [(5, ⟨3, 3, 77⟩)], invals := [{ wInval [] [] with key := true }] }
      (fun t => (tabGet KeySt.reset t.keys 5).kst == 2) = true ∧
    after (.keyInstall 5 77) wR (fun t => tabGet KeySt.reset t.keys 5 == ⟨1, 1, 77⟩) = true ∧
    after (.keyDestroy 5) live (fun t => tabGet false t.dead 5 && t.invals.length == 1) = true := by decide +kernel

/-- A configuration record. -/
def wCfg : BootConfig := ⟨0, 7, 3, 0xABC, [63], [], 256, [2, 15], 1400, [0, 0], 0, [], 0⟩

theorem witness_management :
    let busy := { wR with mcmd := 1 }
    mcmdBusy wR = false ∧ mcmdBusy busy = true ∧ (wR.blocks.map (·.uid)).Nodup ∧ tabGet false wR.paused 5 = false ∧
    wR.att.go = false ∧ wCfg.failStep = 0 ∧ wCfg.rollback ≤ wCfg.version ∧ wR.att.rollback ≤ wCfg.version ∧
    after (.bootSequence wCfg) { wR with att := { wR.att with rollback := 9 } } (fun t => t.bootstat == 0x30) = true ∧
    after (.mcmdPreemptContext 5 10) wR (fun t => tabGet false t.paused 5 && mcmdBusy t) = true ∧
    after (.mcmdResetCore 0) (wR.modCore 0 (fun c => { c with l1size := 2, off := 4 })) (fun t => t.gangs.isEmpty && mcmdBusy t) = true ∧
    after .mcmdDone busy (fun t => !(mcmdBusy t) && t.notice.getLsbD 4) = true ∧
    after (.bootSequence wCfg) State.reset (fun t => t.bootstat == 7 * 2 ^ 32 + 1 && t.chans == 256 && t.stations == 0x7FFB) = true ∧
    after (.clockStep 2000 115 60) wR (fun t => t.therm.shutdown) = true ∧
    after (.clockStep 2000 110 60) wR (fun t => t.notice.getLsbD 2 && t.therm.tdie == 110) = true ∧
    after (.thermalShutdown 115) wR (fun t => t.therm.shutdown) = true := by decide +kernel

theorem witness_attestation_report :
    let s := { wR with att := { wR.att with go := true, captured := List.replicate 32 1, pend := 0 } }
    s.att.captured.length = 32 ∧ s.att.go = true := by decide +kernel

theorem witness_host_memory :
    let s := { wR with bootstat := 1 }
    bootReady s = true ∧ (0 : Nat) ∉ s.cxlDown ∧ stackAsleep s 0x200040 = false ∧ readAsleep s 0x200040 = false ∧
    after (.hostMemoryWrite 0x200040 [9]) s (fun t => viewByte t 0 0x200040 == 9) = true ∧
    after (.hostMemoryRead 0x200040 2) s (fun t => t.hostRead == [0x11, 0x22]) = true ∧
    after (.cxlLinkDown 0) s (fun t => t.cxlDown == [0]) = true ∧
    after (.fabidWrite 0x403) s (fun t => t.fabid.getLsbD 10) = true ∧
    after (.registerWrite 0x200028 (leBytes 8 0x7001)) s (fun t => tabGet 0 t.roots 5 == 0x6001) = true := by decide +kernel

/-! ### The fabric, gather units, joins -/

/-- The package in a pod, with context 6 of package 3 allowed into context 5. -/
def wF : State := { wR with fabid := 0x400, peers := [(0, 2 ^ 63 + 5 * 2 ^ 52 + 6 * 2 ^ 31 + 3)] }

/-- A request of that package. -/
def wRq (sasid va : Nat) (body : RemoteBody) : RemoteReq := ⟨3, sasid, 8, 0, 0, va, body⟩

theorem witness_target_translates :
    wF.fabid.getLsbD 10 = true ∧ peerOf wF 3 7 = none ∧ peerOf wF 3 6 = some 5 ∧ (peerLeaf wF 5 0x30040).toOption.isSome = true ∧
    (peerLeaf wF 5 0x10040).toOption.isNone = true ∧
    after (.remoteTranslationRequest 3 6 0x30040) wF (fun t => t.holders == [(5, 3)] && t.outbox == [(3, .leaf 0x22 0 0 true true true)]) = true ∧
    after (.remoteTranslationRequest 3 6 0x10040) wF (fun t => t.outbox == [(3, .fault 0x15)]) = true := by decide +kernel

theorem witness_target_serves :
    let wr := wRq 6 0x30040 (.write [7] [0xFF])
    let kept := { wF with replies := [⟨3, 8, 0, wF.now, .ack⟩] }
    (match peerXlate wF 5 0x30040 .read with | .ok x => (x.cells 2).all (fun c => !((readHome wF c).2)) | _ => false) = true ∧
    (match peerXlate wF 5 0x30040 .write with | .ok _ => true | _ => false) = true ∧
    peerStopped wF wr = false ∧ stackAsleep wF 0x220040 = false ∧ readAsleep wF 0x220040 = false ∧
    after (.remoteWriteArrival (wRq 7 0x30040 (.write [7] [0xFF]))) wF (fun t => t.outbox == [(3, .fault 0x10)] && t.replies.length == 1) = true ∧
    (replyGate wF 3 8 0 0).isNone = true ∧ replyGate kept 3 8 0 0 = some .ack ∧
    after (.remoteReadArrival (wRq 6 0x30040 (.read 2))) wF (fun t => t.outbox == [(3, .data [0, 0])]) = true ∧
    after (.remoteWriteArrival wr) wF (fun t => viewByte t 0 0x220040 == 7 && t.outbox == [(3, .ack)]) = true ∧
    after (.remoteWriteArrival wr) kept (fun t => t.mem == wMem && t.outbox == [(3, .ack)]) = true ∧
    after (.remoteInvalidation 3 .asid 5 0) { wF with rtc := [⟨5, 3, 3, 0, 0, true, true, true, 0, 0⟩] } (fun t => t.rtc.isEmpty) = true := by
  decide +kernel

/-- A request of this package to package 3, sent first and last at two times. -/
def wRem (k : RemKind) (first last : Nat) (busy : Bool) : State :=
  let r : LoadReq := ⟨some 0, [{ wCell 0 with pa := remoteAddr 3 5 0x30040 }], .raw .n8, .v 3, none, false, false, 0, 3, 1, [], false⟩
  { wF with
    remOut := [⟨8, k, 3, 5, 2, first, last, busy⟩], gangs := [{ wG0 with out := [wOut (.load r) [] false] }]
    blocks := [{ wB with pipeline := [{ wCom .forcedBy [] with sent := [(8, [])] }] }] }

theorem witness_source :
    let s := wRem (.load 1 4) 4990000 4990000 false
    let old := wRem (.load 1 4) 1000000 1000000 false
    let r : RemOut := ⟨8, .load 1 4, 3, 5, 2, 4990000, 4990000, false⟩
    s.remOut.find? (fun x => x.tag == 8) = some r ∧ r.hasTag = true ∧ r.station ≠ noStation ∧ remAge s r < 180 ∧ 1000 ≤ remAge s { r with firstNs := 1000000 } ∧
    4970000 + 20000 ≤ s.now ∧ 4990000 + 5000 ≤ s.now ∧ s.bars.isEmpty = true ∧
    after (.remoteResponse 8 (.data [9])) s (fun t => t.remOut.isEmpty && gangB t 1 (fun g => g.out.all (fun o =>
      match o.kind with | .load q => q.part == [(remoteAddr 3 5 0x30040, 9)] | _ => false))) = true ∧
    after (.remoteResponse 8 (.leaf 0x22 0 0 true true true)) (wRem (.trans 0 5 0x30040 3) 4990000 4990000 false)
      (fun t => t.rtc.length == 1) = true ∧
    after (.remoteResponse 8 .ack) (wRem (.write 7 1 [] 1 []) 4990000 4990000 false) (fun t => blockB t 7 (fun b => b.pipeline.all (·.tags.isEmpty))) = true ∧
    after (.remoteResponse 8 .busy) s (fun t => t.remOut.all (·.busy)) = true ∧
    after (.remoteRetransmit 8 5) (wRem (.load 1 4) 4970000 4970000 false) (fun t => t.remOut.all (fun r => r.station == 5)) = true ∧
    after (.remoteBusyRetry 8) (wRem (.load 1 4) 4990000 4990000 true) (fun t => t.remOut.all (fun r => !r.busy)) = true ∧
    after (.remoteTimeout 8) { s with remOut := [{ r with station := noStation }] } (fun t => t.remOut.isEmpty) = true ∧
    after (.remoteTimeout 8) old (fun t => t.remOut.isEmpty && gangB t 1 (fun g => g.deferred.map (·.req.cause) == [0x52])) = true := by
  decide +kernel

/-- A gather of two rows of the table of `wShapeV`, whole rows to 512. -/
def wDesc : Nat :=
  0x10080 * 2 ^ 448 + 16 * 2 ^ 428 + 32 * 2 ^ 408 + 0xFFFFF * 2 ^ 388 + 0xFFFFF * 2 ^ 348 + 4 * 2 ^ 336 + 2 ^ 326

/-- GATH at the engine's queue, its descriptor at scratchpad offset 0. -/
def wGat (d : Nat) : State :=
  { wR with
    blocks := [{ wB with scratch := ((leBytes 64 d).mapIdx (fun i x => (scratchKey 0 i, x))).filter (fun p => p.2 != 0) }]
    gangs := [{ wG0 with out := [wOut .unit [] false] }] }.modCore 0 (fun c => { c with
      gathQ := [(1, ⟨1, 0, 0x10000, .gath false 0 4, 3⟩)], recs := [⟨5, 0x10080, leBytes 192 wShapeV⟩] })

theorem witness_gather_accept :
    gathBad false (BitVec.ofNat 512 1) [] = some 0 ∧ gathBad false (BitVec.ofNat 512 wDesc) [] = none ∧
    writesBefore wG0 1 = false ∧ shapeBad 0x10080 (shapeNat (leBytes 192 wShapeV)) true = none ∧
    gathTableOk false (BitVec.ofNat 512 wDesc) (shapeNat (leBytes 192 wShapeV)) = true ∧
    gathShapeBad (BitVec.ofNat 512 wDesc) (shapeNat (leBytes 192 wShapeV)) = none ∧
    after (.gatherAccept 0 0) (wGat 1) (fun t => t.gaths.map (fun g => (g.cause, g.detail)) == [(0x53, 0)]) = true ∧
    after (.gatherAccept 0 0) (wGat wDesc) (fun t => t.gaths.map (fun g => (g.phase, g.idxs)) == [(.accepted, [0, 0])]) = true := by
  decide +kernel

/-- That request in flight, for rows 3 and 20. -/
def wGa (phase : GathPhase) : GathOp :=
  { id := 11, oid := 4, run := 0, gang := 1, block := 7, core := 0, blkpos := 0, asid := 5, pc := 0x10000, cls := 3, scad := false
    desc := BitVec.ofNat 512 wDesc, idxs := [3, 20], segs := [], rows := [], shape := leBytes 192 wShapeV, phase := phase
    entries := [], flags := 0, cause := 0, detail := 0, told := false, sent := false }

/-- SCAD at the engine's queue, of two rows of 64 bytes from scratchpad offset 0, in a buffer of the given limit. -/
def wScad (limit : Nat) : State :=
  let s := wGat (wDesc + 2 * 2 ^ 311)
  { s.modCore 0 (fun c => { c with gathQ := [(1, ⟨1, 0, 0x10000, .gath true 0 4, 3⟩)] }) with
    blocks := s.blocks.map (fun b => { b with limit := limit }) }

theorem witness_scad_accept :
    let d : BitVec 512 := BitVec.ofNat 512 (wDesc + 2 * 2 ^ 311)
    gathBad true d [] = none ∧ gathTableOk true d (shapeNat (leBytes 192 wShapeV)) = true ∧
    gathShapeBad d (shapeNat (leBytes 192 wShapeV)) = none ∧ wB.scads = [] ∧
    after (.gatherAccept 0 0) (wScad 65536) (fun t => t.gaths.map (fun g => (g.phase, g.cause, g.rows.map (·.length))) == [(.accepted, 0, [64, 64])] &&
      blockB t 7 (fun b => b.scads == [1] && b.commits == 0)) = true ∧
    after (.gatherAccept 0 0) (wScad 0) (fun t => blockB t 7 (fun b => b.scads == [1] && b.commits == 1 && b.forced)) = true := by
  decide +kernel

theorem witness_fold_and_merge :
    let e : FoldEntry := ⟨3, 0, [0], 0, 0, false, some ⟨0, 0, 0, [], [], [], 2, []⟩⟩
    let failed := { wGa .folded with cause := 0x53 }
    after (.sluiceFold 11) { wR with gaths := [wGa .accepted] } (fun t => t.gaths.all (fun g => g.phase == .folded &&
      g.entries.map (fun e => (e.row, e.cause)) == [(3, 0), (20, 0x12)])) = true ∧
    after (.sluiceFold 11) { wR with
      gaths := [{ wGa .accepted with scad := true }]
      blocks := [{ wB with pipeline := [{ wCom .blockEnd [] with scads := [11] }] }] } (fun t => t.gaths.all (fun g => g.phase == .folded)) = true ∧
    after (.gatherMerge 11 0) { wR with gaths := [{ wGa .folded with entries := [e] }] } (fun t => t.gaths.all (fun g => g.flags == 2 &&
      g.entries.all (·.answered))) = true ∧
    after (.gatherComplete 11) { wR with gaths := [failed], gangs := [{ wG0 with ops := [⟨2, 4, false, 0, 0⟩] }] }
      (fun t => t.gaths.isEmpty && gangB t 1 (fun g => g.doneGath == 1)) = true := by decide +kernel

/-- A sub-request of package 3 for rows 0 and 1 of two binary32 elements each. -/
def wSub (scad : Bool) : SubRequest :=
  ⟨0, true, 8, 3, 6, 0, scad, 0x20000, 0, 64, 0, 0, 2, 2, 0, 2, 0, 1, [⟨0, 0, 1, 0, [leBytes 8 0x3F80000040000000]⟩, ⟨1, 1, 1, 0, [leBytes 8 0]⟩]⟩

theorem witness_rows :
    let s := fun (scad : Bool) => { wF with subs := [⟨11, none, 5, wSub scad, [0, 1], []⟩] }
    peerOf wF (wSub false).sacc (wSub false).sasid = some 5 ∧
    (rowFind wF 5 .read (wSub false) 0).toOption.isSome = true ∧ (rowFind wF 5 .write (wSub true) 0).toOption.isSome = true ∧
    after (.subrequestReceive (wSub false)) wF (fun t => t.subs.map (fun x => (x.peer, x.left)) == [(5, [0, 1])]) = true ∧
    peerOf wF 3 7 = none ∧ replyGate wF 3 8 0 0 = none ∧
    after (.subrequestReceive (wSub true)) wF (fun t => t.subs.length == 1) = true ∧
    after (.subrequestReceive (wSub true)) (s true) (fun t => t.subs.length == 1 && t.outbox.isEmpty) = true ∧
    after (.subrequestReceive (wSub true)) { wF with replies := [⟨3, 8, 0, wF.now, .ack⟩] } (fun t => t.outbox == [(3, .ack)]) = true ∧
    after (.rillRowRead 11 1) { wF with subs := [⟨11, none, 5, wSub false, [1], []⟩] } (fun t => t.subs.isEmpty && t.outbox.length == 1) = true ∧
    after (.rillRowRead 11 1) { wF with subs := [⟨11, some 11, 5, wSub false, [0, 1], []⟩], gaths := [{ wGa .folded with
        entries := [⟨1, 0, [1], 0, 0, false, none⟩] }] } (fun t => t.gaths.all (fun g => g.entries.all (fun e => e.reply.isSome))) = true ∧
    after (.rillRowUpdate 11 1) { wF with subs := [⟨11, none, 5, wSub true, [1], []⟩] } (fun t => t.subs.isEmpty && t.outbox.length == 1 &&
      t.replies.length == 1) = true ∧
    after (.rillRowRead 11 0) (s false) (fun t => t.subs.map (fun x => (x.left, x.done.length)) == [([1], 1)]) = true := by decide +kernel

theorem witness_row_update :
    after (.rillRowUpdate 11 0) { wF with subs := [⟨11, none, 5, wSub true, [0, 1], []⟩] } (fun t =>
      t.subs.map (·.left) == [[1]] && viewByte t 0 0x210003 == 0x40 && viewByte t 0 0x210007 == 0x3F) = true := by decide +kernel

/-- A join of two tasks with a quorum of one, for launch 3. -/
def wJ : Join :=
  { launch := 3, va := 0x10080, asid := 5, image := 2 * 2 ^ 467 + 2 ^ 454 + 2 * 2 ^ 441, shape := [], tasks := [], spoiled := [], weights := [], arrived := 0
    killed := 0, warr := 0, flags := 0, short := false, poison := false, released := false, visible := false, releaseNs := 0
    pages := [], pins := [] }

/-- A join word of gang 1 at the arbiter. -/
def wJs (e : Held) (j : Join) : State :=
  { wR with
    joins := [j], joinQ := [⟨1, ⟨0, 0, 0x10000, e, 1⟩, false⟩], gangs := [{ wG0 with out := [wOut .unit [] false] }]
    launches := [{ wL with blocks := 2, next := 2 }] }

theorem witness_join_arrival :
    let arr := Held.jarr 0x10080 5 (.s 9) 4
    let marked := { wJ with tasks := [(0, .marked)], released := true }
    joinAt (wJs arr wJ) 5 0x10080 = some wJ ∧ joinQuorum wJ.image = 1 ∧ wJ.task 0 = .pending ∧
    isMarked (wJs (.killpt 4) wJ) wB = false ∧ isMarked (wJs (.killpt 4) marked) wB = true ∧
    after (.joinArrival 0) (wJs arr wJ) (fun t => t.joins.all (fun j => j.released && j.task 0 == .arrived && j.task 1 == .marked) &&
      gangB t 1 (fun g => g.out.all (fun o => o.effs.contains (.s 9 1)))) = true ∧
    after (.joinArrival 0) (wJs arr { wJ with released := true }) (fun t =>
      gangB t 1 (fun g => g.out.all (fun o => o.effs.contains (.s 9 0)))) = true ∧
    after (.joinArrival 0) (wJs (.jstat 0x10080 (wCell 0x200080) (.s 9) 4) wJ) (fun t => gangB t 1 (fun g => g.out.all (·.arrived))) = true ∧
    after (.joinArrival 0) (wJs (.killpt 4) wJ) (fun t => t.joinQ.isEmpty && t.gangs.length == 1) = true ∧
    after (.joinArrival 0) (wJs (.killpt 4) marked) (fun t => t.gangs.isEmpty) = true := by decide +kernel

theorem witness_join_release :
    let j := { wJ with tasks := [(0, .arrived), (1, .marked)], released := true, arrived := 1, releaseNs := 1000 }
    let s := { wJs (.killpt 4) { j with tasks := [(0, .marked)] } with joinQ := [] }
    let soon := { j with tasks := [(0, .marked)], releaseNs := 6000000 }
    (wR.blocks.all (fun b => b.pipeline.isEmpty)) = true ∧ j.pages = [] ∧ wB.over = false ∧ joinGrace j.image = 0 ∧ wR.now < soon.releaseNs + joinGrace soon.image ∧
    after (.joinRelease 3) { wR with joins := [j] } (fun t => t.joins.all (fun j => j.visible && joinBits j.image 389 388 == 2)) = true ∧
    isMarked s wB = true ∧
    after (.stragglerGraceExpiry 7) s (fun t => t.gangs.isEmpty && t.faultQ.map (·.cause) == [0x43]) = true := by decide +kernel

/-! ### Invariants -/

theorem witness_memory_canonical :
    Memory.wf wS.mem = true ∧ (match step (wStep 0x0000028020100085) with | .next t => Memory.wf t.mem | _ => false) = true := by
  decide +kernel

/-- An expired object: a first request gets no answer, one whose response is kept gets that. -/
theorem witness_peer_stopped :
    let rq := wRq 6 0x30040 (.arrive 1 0)
    let s := { wF with bars := [{ wBar 0 [] with cell := wCell 0x220040, va := 0x30040, expired := true }] }
    let kept := { s with replies := [⟨3, 8, 0, wF.now, .ack⟩] }
    peerStopped s rq = true ∧ replyFor s 3 8 = none ∧ (replyFor kept 3 8).isSome = true ∧
    after (.remoteWriteArrival rq) s (fun t => t.outbox.isEmpty) = true ∧
    after (.remoteWriteArrival rq) kept (fun t => t.outbox == [(3, .ack)]) = true := by decide +kernel

/-- A launch whose COMPL lies on a page of package 3. -/
theorem witness_compl_remote :
    let l := { wL with ended := 1, depid := 0xFFFFFFFF, compl := 0x40000 }
    let m := [(0x108040, 0x03), (0x108045, 0xC0), (0x10804A, 0x1C), (0x10804B, 0x80)].foldl (fun m p => tabPut 0 m p.1 p.2) wMem
    let s := { wF with mem := m, launches := [l], rtc := [⟨5, 4, 3, 0, 0, true, true, true, 0, 0⟩] }
    launchOver s l = true ∧ complSent s 3 = false ∧
    after (.launchComplete 3) s (fun t => complSent t 3 && t.launches == [l] && t.mem == m && t.remOut.map (·.target) == [3]) = true ∧
    after (.remoteResponse 8 .ack) { wRem (.compl 3 [] []) 4990000 4990000 false with launches := [l] } (fun t =>
      t.launches.isEmpty && t.remOut.isEmpty) = true := by decide +kernel

/-- The cells of the row are awake and good. -/
theorem witness_row_awake :
    (match rowFind wF 5 .write (wSub true) 0 with
      | .ok (cs, ks) => (cs ++ ks).all (fun c => !(stackAsleep wF c.pa) && !(readAsleep wF c.pa) && !((readSource wF c).2))
      | _ => false) = true := by decide +kernel

/-- R361, R387: a register of the management block, SKPOL of domain 1 and an unlisted offset. -/
theorem test_register_writes :
    after (.registerWrite 0x28 (leBytes 8 0x70FF)) wF (fun t => t.elog.ctl == 0x7000) = true ∧
    after (.registerWrite 0xC01000 (leBytes 8 0x1FF)) wF (fun t => tabGet 0 t.skpol 1 == 0xFF && tabGet 0 t.skpol 0 == 0) = true ∧
    after (.registerWrite 0x2000 (leBytes 8 0x1FF)) wF (fun t => decide (t = wF)) = true := by decide +kernel

/-! ### More states and operands that meet premises: words of lanes -/

open Sys2Proof.Claim

/-- R46, R47: finite deliveries of each directed and each nearest mode, with a tie between two numbers of e4m3 (9.5 between 9 and 10). -/
theorem witness_rounding_modes :
    let at_ := fun (mode : Rnd) => fdecode (fmtOf .e4m3) (roundFin (fmtOf .e4m3) mode false false 19 (-1)).1
    ([Rnd.rtz, .rup, .rdn, .rne, .rna].all (fun m => finite (at_ m))) = true ∧
    at_ .rtz = at_ .rdn ∧ at_ .rup = at_ .rna ∧ (roundFin (fmtOf .e4m3) .rne false false 19 (-1)).1 % 2 = 0 ∧
    finite (fdecode (fmtOf .e4m3) (roundFin (fmtOf .e4m3) .rtz false true 1 40).1) = true := by decide +kernel

/-- R138: operands of every row of the table of exact cases: a NaN, both infinities, both zeros, a negative number, the powers 8 and 16. -/
theorem witness_special_cases :
    let v := fvalue (fmtOf .f32) false
    v 0x7F800001 = .nan true ∧ v 0x7FC00000 = .nan false ∧ v 0x7F800000 = .inf false ∧ v 0xFF800000 = .inf true ∧
    (match v 0 with | .fin false 0 _ => true | _ => false) = true ∧ (match v 0x80000000 with | .fin true 0 _ => true | _ => false) = true ∧
    (match v 0xC0000000 with | .fin true m _ => m != 0 | _ => false) = true ∧
    v 0x41000000 = .fin false (2 ^ 23) (-20) ∧ v 0x41800000 = .fin false (2 ^ 23) (-19) ∧ v 0x40400000 = .fin false (3 * 2 ^ 22) (-22) ∧
    (fspecial .flg2 .f32 0 .rne false false 0x41000000).1 = 0x40400000 ∧
    (fspecial .frsq .f32 0 .rne false false 0x41800000).1 = 0x3E800000 ∧
    (fspecial .fex2 .f32 0 .rne false false 0x40400000).1 = 0x41000000 := by decide +kernel

/-- R70, R173: an operand of each kind, with ports of 8 and of 4 bytes. -/
theorem witness_operands :
    let port := fun (e : Fin 4) => { wG with regs := { wG.regs with lanes := wG.regs.lanes.map (fun l => { l with ports := [(1, ⟨64, 8, e, true, 0⟩)] }) } }
    let b := { wB with scratch := (List.range 8).map (fun i => (scratchKey 0 (64 + i), BitVec.ofNat 8 (0x81 + i))) }
    let sh := fun (o : Opd) (w : Bool) => { wShape with a := o, wa := w }
    ((port 2).regs.lane 0).port? 1 = some ⟨64, 8, 2, true, 0⟩ ∧
    ((sh (.rport 1) false).input ⟨wS, port 2, some b⟩ 0).a = 0x84838281 ∧
    ((sh (.rport 1) false).input ⟨wS, port 0, some b⟩ 0).a = 0xFFFFFF81 ∧
    ((sh (.rport 1) true).input ⟨wS, port 3, some b⟩ 0).a = 0x8887868584838281 ∧
    ((sh (.v 1) true).input ⟨wS, wG, some b⟩ 0).a = 7 * 2 ^ 32 + 5 ∧
    (wShape.imm = none) ∧ ({ wShape with imm := some 3 }.imm = some 3) ∧ ({ wShape with third := true }.third = true) := by decide +kernel

/-- R71, R125, R173: an effect of each kind of destination: a register pair, a scalar, a commons, a condition code, a port; flags. -/
theorem witness_results_written :
    let g := { wG with regs := { wG.regs with lanes := wG.regs.lanes.map (fun l => { l with ports := [(5, ⟨64, 4, 2, false, 3⟩)] }) } }
    let es := fun (sh : OpShape) (o : LaneOut) => sh.effects ⟨wS, g, some wB⟩ 0 [0] o
    let res : LaneOut := ⟨some 0x80000001, none, 0⟩
    Eff.v 0 5 7 ∈ es { wShape with t := .i64 } ⟨some (7 * 2 ^ 32 + 1), none, 0⟩ ∧ Eff.s 4 0xFFFFFFFF80000001 ∈ es { wShape with d := .s 4 } res ∧
    Eff.c 4 0x80000001 wG.ord ∈ es { wShape with d := .c 4, t := .n32 } res ∧ Eff.k 0 2 (Flags.ofNat 1) ∈ es { wShape with d := .k 2 } ⟨some 1, none, 0⟩ ∧
    (g.regs.lane 0).port? 5 = some ⟨64, 4, 2, false, 3⟩ ∧
    (es { wShape with d := .wport 1 } res).any (fun e => match e with | .loc (some 0) l => l.map (·.2) == [1, 0, 0, 0x80] | _ => false) = true ∧
    Eff.k 0 0 (Flags.ofNat 3) ∈ es wShape ⟨none, some (Flags.ofNat 3), 0⟩ ∧ Eff.fsrOr 0 flIV ∈ es wShape ⟨none, none, flIV⟩ ∧
    Eff.sfsrOr flIV ∈ es { wShape with d := .s 4 } ⟨none, none, flIV⟩ := by decide +kernel

/-- R154: the gathering's result of a reader that is the lowest, and the premises of its delivery. -/
theorem witness_gathering_delivered :
    wGath.unsure wGg = false ∧ ((wGath.parts.filter (·.guard)).map (·.oid)).Nodup ∧
    (wGath.parts.map (fun p => (p.guard, p.lane))) = [(true, 3)] ∧ (wGg.out[0]?).map (·.id) = some 4 ∧
    opdUniform (.v 4) = false ∧
    (let h := { wGath with op := .ballot ⟨.s 9, .v 1, .ones, .n32, none, false, true, 1⟩ }
     let g := { wGg with gath := [h], out := [{ (wOut .unit [] false) with blocks := false }] }
     after (.gatheringDelivery 1 0) { wS with gangs := [g] } (fun t => gangB t 1 (fun g => g.out.all (fun o =>
       o.effs.any (fun e => match e with | .s 9 x => x == 8 | _ => false) && o.effs.any (fun e => match e with | .k 3 1 _ => true | _ => false)))) = true) := by
  decide +kernel

/-- The participant of a lane with an operand. -/
def wP (l : Nat) (x : W64) : Participant := ⟨l, true, x, 0xFFFFFFFF, 0, 0x20, 0, 0⟩

/-- A reader of lane 1 that hears of the lanes with these operands. -/
def wRd (ps : List Participant) (scalar : Bool) : Reader := ⟨1, 0xFFFFFFFF, ps, ~~~((BitVec.ofNat 32 (2 ^ ps.length - 1))), scalar⟩

/-- R156: an election with and without contributors, a match, for a vector and a scalar D. -/
theorem witness_elections :
    let f : RRR := ⟨.v 4, .v 1, .none, .i32, none, false, false, 0⟩
    let r := wRd [wP 0 5, wP 1 6, wP 2 5] false
    r.truths.head? = some (wP 0 5) ∧ (wRd [] false).truths = [] ∧ (r.parts.map (·.lane)).Nodup ∧
    (laneResult (.elect f) f r (wP 1 6)).r = 0 ∧ (laneResult (.elect f) f { r with scalar := true } (wP 1 6)).r = 0 ∧
    (laneResult (.elect f) f (wRd [] true) (wP 1 6)).r = 2 ^ 64 - 1 ∧
    (laneResult (.matchL f) f r (wP 0 5)).r = 5 ∧ (laneResult (.matchL f) f r (wP 1 6)).r = 2 ∧
    (laneResult (.matchL f) f { r with scalar := true } (wP 1 6)).r = 5 := by decide +kernel

/-- R157, R158: scans and reductions of nothing, of one, two and three terms, of integers and of binary32. -/
theorem witness_scans :
    let f : RRR := ⟨.v 4, .v 1, .none, .i32, none, false, false, 0⟩
    let h : RRR := { f with ty := .f32 }
    let r := wRd [wP 0 5, wP 1 0xFFFFFFFE, wP 2 1] false
    let q := wRd [wP 0 0x3F800000, wP 1 0x40000000, wP 2 0x3F800000] false
    ((r.truths.filter (fun p => decide (p.lane < 2))).map (fun p => (val .i32 p.opnd.toNat).toNat)) = [5, 0xFFFFFFFE] ∧
    tyInt .i32 = true ∧ tyFour .f32 = true ∧ r.lane + 1 = 2 ∧
    (laneResult (.scan f .add false) f r (wP 1 0)).r = 3 ∧ (laneResult (.scan f .add true) f r (wP 1 0)).r = 5 ∧
    (laneResult (.reduce f .min) f r (wP 1 0)).r = 0xFFFFFFFE ∧ (laneResult (.reduce f .max) f (wRd [] false) (wP 1 0)).r = 0x80000000 ∧
    (laneResult (.reduce h .add) h q (wP 1 0)).r = 0x40800000 ∧ (laneResult (.reduce h .max) h q (wP 1 0)).r = 0x40000000 := by decide +kernel

/-- R159: a block of zeros, one with an infinity, one of ordinary values. -/
theorem witness_quantised :
    let f : RRR := ⟨.v 4, .v 1, .none, .e2m1, none, false, false, 0⟩
    let value := fun (x : W64) => fdecode (fmtOf .f32) (val .f32 x.toNat).toNat
    finite (value 0x7F800000) = false ∧ finite (value 0) = true ∧ finite (value 0x40C00000) = true ∧
    (laneResult (.qmx f) f (wRd [wP 0 0x7F800000] false) (wP 1 0)).r = 0xFF00 ∧
    (laneResult (.qmx f) f (wRd [wP 0 0] false) (wP 1 0)).r = 0 ∧
    (laneResult (.qmx f) f (wRd [wP 0 0x40C00000, wP 1 0x3F800000] false) (wP 1 0)).r = 127 * 256 + 2 := by decide +kernel

/-- R80: at the end of a run three results of one register still due: the one due last stands, of two due at one position the later. -/
theorem witness_results_due :
    let pends : List Pend := [⟨3, .v 31 4 1⟩, ⟨5, .v 31 4 2⟩, ⟨5, .v 31 4 3⟩,
      ⟨4, .s 9 8⟩, ⟨4, .k 31 1 (Flags.ofNat 6)⟩]
    let g := ({ wG with issue := wG.issue.map (fun r => { r with pends := pends }) } : Gang)
    let g' := g.endRun 1000 0 0x10008 false
    pends.all (fun p => decide (p.due ≤ 40)) = true ∧
    ((g'.regs.lane 31).getV 4, (g'.regs.lane 31).getV 1, g'.regs.getS 9, (g'.regs.lane 31).getK 1) = ((3 : W32), (5 : W32), (8 : W64), Flags.ofNat 6) := by decide +kernel

/-! ### More states: accesses, runs, the array -/

/-- R161: the checks of an access in their order: range, alignment, a missing page, a SCOPE above 4, a permission, then the place. -/
theorem witness_access_checks :
    let page := fun (scope perm : Nat) => BitVec.ofNat 128 (scope * 2 ^ 93 + perm * 2 ^ 80 + 0x200003)
    let s := fun (e : BitVec 128) => wR.modCore 0 (fun c => { c with tlb := [⟨5, 0x10000, 65536, 0x108010, e⟩] })
    let l := fun (e : BitVec 128) => tlbFind (s e) 0 5 0x10040
    (match access wR wG 5 (2 ^ 57) 4 .read, access wR wG 5 0x10041 4 .read with
      | .fault a _, .fault b d => (a, b, d) == (0x12, 0x13, 4) | _, _ => false) = true ∧
    tlbFind wR 0 5 0x90000 = none ∧ walkAsleep wR 5 0x90000 = false ∧ (walk wR 5 0x90000).toOption.isNone = true ∧
    (walk wR 5 0x10040).toOption.isSome = true ∧ walkAsleep wR 5 0x10040 = false ∧
    (l (page 5 0x1C)).any (fun l => entScope l.entry == 5) = true ∧ (l (page 0 0x18)).any (fun l => !(entR l.entry)) = true ∧
    (l (page 0 0x1C)).any (fun l => entR l.entry && globalAcc (entAddr l.entry) == accelId wR) = true ∧
    (match access (s (page 5 0x1C)) wG 5 0x10040 4 .read, access (s (page 0 0x18)) wG 5 0x10040 4 .read with
      | .fault a d, .fault b x => (a, d, b, x) == (0x15, 5, 0x11, 0) | _, _ => false) = true := by decide +kernel

/-- R165, R166: elements whose anchor or whose first byte is out of range or misaligned. -/
theorem witness_element_checks :
    let f := fun (r : Fin 512) => ({ wMEF (.v 1) with base := .s 8, index := .s r } : MEF)
    let c := fun (a x : W64) => (⟨wT, { wG with regs := { wG.regs with s := [(8, a), (9, x)] } }, some wB⟩ : Ctx)
    let fault := fun (a x : W64) => match plainElem wT (c a x) 0 (f 9) .read with | .error (.fault q d, p) => (q, d, p) | _ => (0, 0, 0)
    (match xlate wT 0 5 0x20040 .read true with | .ok y => elemBits y.fmt == 32 | _ => false) = true ∧
    fault (2 ^ 57) 0 = (0x12, 0, 2 ^ 57) ∧ fault 0x20040 (2 ^ 60) = (0x12, 0, 2 ^ 62 + 0x20040) ∧ fault 0x20042 0 = (0x13, 4, 0x20042) ∧
    (plainElem wT (c 0x20040 1) 0 (f 9) .read).toOption.any (fun x => x.cells.map (·.va) == [0x20044, 0x20045, 0x20046, 0x20047]) = true := by
  decide +kernel

/-- R166, R172: nothing of the record form lies asleep; a prefetch leaves a read that nothing waits for. -/
theorem witness_prefetch_and_scales :
    (scaleReads wTr wG wB 0 (elemTries wTr wG ⟨.v 1, .s 6, .none, 255, .f32, 0⟩ .write true)).all (fun y => !(readAsleep wTr y.pa)) = true ∧
    after (.pref (wMF .none .n8)) wT (fun t => gangB t 1 (fun g => g.out.map (·.blocks) == [false])) = true := by decide +kernel

/-- R200: RDSP to a scalar and to a commons destination, the values of two specials. -/
theorem witness_special_reads :
    wS.blockOf wG = some wB ∧ wG.vregs = 256 ∧ wB.posOf 0 = 0 ∧ wS.cycle % 2 ^ 64 = 1000 ∧
    after (.rdsp ⟨.c 3, .none, .none⟩ .clock) wS (fun t => gangB t 1 (fun g => g.issue.elim false (fun r =>
      r.pends == [⟨1, .c 3 1000 wG.ord⟩] && r.held.length == 1))) = true := by decide +kernel

/-- The package with the channels' stack that holds an address asleep. -/
def asleep (s : State) (pa : Nat) : State := { s with selfRefresh := tabPut false [] (((placeOf s pa).map (·.slot)).getD 0) true }

/-- R342: a walk and a fault record that meet a stack in self-refresh, and ones that do not. -/
theorem witness_asleep :
    let s := { wR with faultQ := [wReq] }
    walkAsleep (asleep wR 0x108000) 5 0x10000 = true ∧ walkAsleep wR 5 0x10000 = false ∧
    recordAsleep (asleep s 0x400000) 5 0 wReq = true ∧ recordAsleep s 5 0 wReq = false ∧ freeSlot (asleep s 0x400000) 5 = some 0 ∧
    queryAsleep wR 0 5 0x10000 = false ∧ areaAsleep wR 0x600000 128 = false ∧ barAsleep wR (wCell 0x200040) = false ∧
    after (.tlbWalk 0 5 0x10000) (asleep wR 0x108000) (fun t => decide (t = asleep wR 0x108000)) = true := by decide +kernel

/-- R203, R205, R206: a mismatch puts back the gangs of its partition alone; a fenced partition's blocks are relaunched or killed. -/
theorem witness_mismatch :
    let other := { wG0 with uid := 2, part := 1 }
    let s := { wR with gangs := [{ wG0 with runs := [wRun] }, other] }
    let seen := s.modCore 0 (fun c => c.modPart 0 (fun p => { p with mismatch := some 990 }))
    (s.gangs.map (·.uid)).Nodup ∧ (s.blocks.map (·.uid)).Nodup ∧ (partTurn s 0 0).cycle ≤ wRun.endCycle + 40 ∧ s.joins = [] ∧ s.launches = [] ∧
    wB.over = false ∧ wB.replayable = true ∧ ({ wB with commits := 1 } : Block).replayable = false ∧ (partTurn s 0 0).cycle ≤ 990 + 2000000 ∧
    partUsable s 0 0 = true ∧ (issuingGang s 0 0).isNone = true ∧ s.chorusSigs[2]? ≠ some 1 ∧
    after (.chorusCheck 0 0 2 (List.replicate 32 1)) s (fun t => gangB t 1 (fun g => g.runs.isEmpty && g.regs.getS 4 == 77) &&
      (t.gang? 2) == some other) = true ∧
    after (.chorusCheck 0 0 2 (List.replicate 32 1)) seen (fun t => blockB t 7 (fun b => b.phase == .unplaced) && t.gangs.isEmpty &&
      t.faultQ.any (fun r => r.cause == 0x26 && r.detail == 0)) = true := by decide +kernel

/-- R203: the partition has had its turn in the cycle of a strike report. -/
theorem witness_strike_cycle :
    after (.strikeReport 0) { wR with gangs := [{ wG0 with runs := [wRun] }] } (fun t =>
      ((t.core 0).part 0).busy == t.cycle && decide (0 < (t.core 0).parts.length)) = true := by decide +kernel

/-- R195: two partitions present a write, from partition 8 on in cycle 1000; two due writes of one register. -/
theorem witness_commons_order :
    let g := { wG0 with relq := [⟨0, 0, 0x10000, .commons 2 99, 1⟩] }
    let h := { g with uid := 2, part := 9, relq := [⟨0, 0, 0x10000, .commons 2 98, 1⟩] }
    let s := { wR with gangs := [g, h] }
    let s2 := wR.modCore 0 (fun c => { c with arbDone := [⟨998, 1, 7, 0, 2, 99, 0⟩, ⟨998, 1, 7, 0, 2, 97, 0⟩] })
    (s.gangs.map (·.uid)).Nodup ∧ (firstCommons h).isSome = true ∧ s.blockOf h = some wB ∧ (s.core 0).arbDone.all (fun a => a.cycle != 1000) = true ∧
    after (.commonsArbitration 0) s (fun t => (t.core 0).arbDone.map (fun a => (a.cycle, a.gang)) == [(1000, 2), (1000, 1)]) = true ∧
    after (.commonsOverlayRetire 0) s2 (fun t => (t.core 0).arbDone.isEmpty && blockB t 7 (fun b => tabGet 0 b.commons (commonsKey 0 2) == 97)) = true := by
  decide +kernel

/-- R230: a copy with a shape record, to be cut for both directions; one whose place or record is bad. -/
theorem witness_walk_ahead_record :
    let c := fun (dir : Bool) => { wC 0 dir .fetched with req := { wReqC 0 dir with grec := true, global := 0x10080, len := 8 } }
    let bytes := fun (n : Nat) => wBytes 0x200080 192 n
    let s := fun (dir : Bool) (n : Nat) => { wCS (c dir) with cores := wT.cores, mem := wMem ++ bytes n }
    let rec_ := leBytes 192 wShapeV
    (recRead (s false wShapeV) 0 5 0x10080 (fun a => xlateWalk (s false wShapeV) 5 a .read false)).toOption = some rec_ ∧
    shapeBad 0x10080 (shapeNat rec_) false = none ∧ checksAsleep (s false wShapeV) 0 5 (c false).req = false ∧
    (shapeBad 0x10080 wShapeV false).isNone = true ∧ (shapeBad 0x10080 (wShapeV + 13 * 2 ^ 448) false).isSome = true ∧
    after (.walkAheadTranslate 11) (s true wShapeV) (fun t => t.copies.all (fun x => x.phase == .moving && x.granules.all (fun g => g.unit.isSome))) = true ∧
    after (.walkAheadTranslate 11) (s false wShapeV) (fun t => t.copies.all (fun x => x.phase == .moving && x.shape == rec_)) = true ∧
    after (.walkAheadTranslate 11) (s false (wShapeV + 13 * 2 ^ 448)) (fun t => t.copies.all (fun x => x.phase == .failed && x.cause == 0x21)) = true ∧
    after (.walkAheadTranslate 11) { s false wShapeV with copies := [{ c false with req := { (c false).req with global := 0x10081 } }] }
      (fun t => t.faultQ.map (fun r => (r.cause, r.detail)) == [(0x21, 0)]) = true := by decide +kernel

/-- R219, R227: a granule with a catchment; one whose byte is uncorrectable, in both directions. -/
theorem witness_granule_counts :
    let s := fun (dir : Bool) => wCS { wC 0 dir .moving with req := { wReqC 0 dir with ccat := some 20 } }
    let bad := fun (dir : Bool) => { s dir with poison := [(0x10002, true)] }
    let cat := leBytes 16 (2 * 2 ^ 64 + 1 * 2 ^ 32)
    let b := scratchPut wB 0 (placed 320 cat)
    (granuleBytes (s false) { wC 0 false .moving with req := { wReqC 0 false with ccat := some 20 } } wGran).2.2 = false ∧
    (granuleBytes (bad false) { wC 0 false .moving with req := { wReqC 0 false with ccat := some 20 } } wGran).2.2 = true ∧
    after (.copyGranuleTransfer 11 0) { s false with blocks := [b] } (fun t => blockB t 7 (fun b => scratchBytes b 0 320 16 != cat) &&
      t.copies.all (fun c => c.counted == 2)) = true ∧
    after (.copyGranuleTransfer 11 0) (bad false) (fun t => t.copies.all (fun c => c.cause == 0x19) &&
      blockB t 7 (fun b => b.consumption.length == 1)) = true := by decide +kernel

/-- A command of the array of one row and one column over 16 steps, with metadata: its operands of a type, B at offset 256. -/
def wMat (op ty : Nat) (ms : List W32) : MatOp :=
  { wM op (op + ty * 2 ^ 22 + ty * 2 ^ 27 + 16 * 2 ^ 48 + 16 * 2 ^ 84 + 2 * 2 ^ 104 + 2 * 2 ^ 116) with
    cmd := ⟨op, some 0, 0, false, [ms], 0x10000, 3, 0, none⟩ }

/-- R262, R272 to R275: commands that their check lets pass: MMA, MMAX, MMAS with well-formed metadata and with malformed. -/
theorem witness_multiplies :
    let kept : List W32 := [BitVec.ofNat 32 (1672 * (1 + 2 ^ 12))]
    let b := { wB with scratch := [(scratchKey 0 2, 1), (scratchKey 0 3, 0x3C), (scratchKey 0 257, 0x40), (scratchKey 0 258, 3), (scratchKey 0 259, 0x40)] }
    let run := fun (op ty : Nat) (ms : List W32) => runCommand b (wMat op ty ms)
    passes (wMat 0 10 []) ∧ passes (wMat 1 10 []) ∧ passes (wMat 2 6 kept) ∧
    ((descMode (wMat 1 10 []).desc).isSome = true ∧ (descMode (wMat 2 6 []).desc).isSome = true ∧
    dK (wMat 2 6 []).desc = 16 ∧ dM (wMat 2 6 []).desc = 1 ∧ dAtype (wMat 1 10 []).desc = some .f16 ∧ dBtype (wMat 2 6 []).desc = some .i8 ∧
    metaStop (metaString [kept]) 1 16 = none ∧ metaStop (metaString [[]]) 1 16 = some (0, 0) ∧
    (List.range 4).map (metaIndex (metaString [kept]) 1) = [0, 1, 2, 3] ∧
    tileElem (run 0 10 []).b 0 0 .f32 0 0 ≠ 0 ∧ tileElem (run 2 6 kept).b 0 0 .i32 0 0 = 3 + 0x3C * 0x40 ∧
    (run 2 6 []).cause = 0x22 ∧ (run 1 10 []).cause = 0) := by
  refine ⟨⟨rfl, by decide⟩, ⟨rfl, by decide⟩, ⟨rfl, by decide⟩, ?_⟩
  decide +kernel

/-- R276, R277, R279: a tile loaded, one drained to scratchpad, a sparse row compressed: the shapes that keep their rows apart. -/
theorem witness_tile_commands :
    let b := { wB with scratch := [(scratchKey 0 1, 0x3C), (scratchKey 0 3, 0x40), (scratchKey 0 7, 9)], tiles := [] }
    let load := wMat 4 10 []
    let drain := wM 5 (5 + 8 * 2 ^ 22 + 8 * 2 ^ 27 + 1 * 2 ^ 104 + 2 ^ 64 * 64)
    let i8 := { load with desc := BitVec.ofNat 256 (6 + 6 * 2 ^ 27 + 8 * 2 ^ 48 + 1 * 2 ^ 104 + 1 * 2 ^ 116 + 2 ^ 84 * 64 + 2 ^ 152 * 128) }
    let o := runCommand b i8
    passes load ∧ passes drain ∧ passes i8 ∧ dOp load.desc = 4 ∧ dAtype load.desc = some .f16 ∧ mldaType .f16 = true ∧
    dN load.desc * kindSize .f32 ≤ 512 ∧ tileElem (runCommand b load).b 0 0 .f32 0 0 = 0x3F800000 ∧
    dOp drain.desc = 5 ∧ dGlobal drain.desc = false ∧ dBscl drain.desc = false ∧ ceilDiv (dN drain.desc * 32) 8 ≤ dAstr drain.desc ∧
    dAoff drain.desc + dAstr drain.desc * dM drain.desc ≤ b.localLen ∧
    dOp i8.desc = 6 ∧ dAtype i8.desc = some .i8 ∧ dK i8.desc % 8 = 0 ∧ dBoff i8.desc + dBstr i8.desc * dM i8.desc ≤ b.localLen ∧
    dBoff i8.desc + dBstr i8.desc * dM i8.desc ≤ dBsc i8.desc ∧ dBsc i8.desc + 2 ≤ b.localLen ∧
    scratchBytes o.b 0 1024 4 = [0, 0x3C, 0x40, 9] ∧ leValue (scratchBytes o.b 0 2048 2) = 0 + 8 * 1 + 64 * 3 + 512 * 7 := by
  refine ⟨⟨rfl, by decide⟩, ⟨rfl, by decide⟩, ⟨rfl, by decide⟩, ?_⟩
  decide +kernel

/-! ### More states: memory, targets, sources -/

/-- R340: seven corrections of a row within the day, so that the next is the eighth. -/
theorem witness_row_alert :
    let row := Config.rowOf (32 * 0x10002)
    let s := { wR with corrections := List.replicate 7 (row, 4999999) }
    ((s.corrections.filter (fun c => decide (s.now < c.2 + 86400000000000))).filter (fun c => c.1 == row)).length = 7 := by
  intro row s
  have h : s.now = 5000000 := rfl
  have h2 : s.corrections = List.replicate 7 (row, 4999999) := rfl
  have h3 : decide (5000000 < 4999999 + 86400000000000) = true := by norm_num
  rw [h, h2, List.filter_replicate, if_pos h3, List.filter_replicate, if_pos (by simp), List.length_replicate]

/-- R340, R361: the error log with a ring that has room, with a full one, and without one. -/
theorem witness_error_log :
    let s := fun (ctl : W64) (tail : BitVec 32) => { wR with elog := ⟨ctl, 0, tail, 0⟩ }
    (elogWrite (s 0x700000 63) 1 7 0).elog.tail = 64 ∧ viewByte (elogWrite (s 0x700000 63) 1 7 0) 0 (0x700000 + 32 * 63 + 12) = 63 ∧
    (elogWrite (s 0x700000 64) 1 7 0).elog.ovf = 1 ∧ (elogWrite (s 0 0) 1 7 0).elog.ovf = 1 := by decide +kernel

/-- R342, R354, R357, R358: a motion, its ring and a candidate's walk that no sleeping stack holds up; a leaf index for the next report. -/
theorem witness_motions_awake :
    motionAsleep (wMo 256 0) (wMot 256 0) = false ∧ ringAsleep (wMo 256 2) (ringOf (wMo 256 2) 0 6) = false ∧
    walkAsleep (wMig 1) 5 0x10000 = false ∧ motionAsleep (asleep (wMo 0 0) 0x200000) (wMot 0 0) = true ∧
    (let a := { wR.att with leaf := 5, pend := 0 }; decide (a.pend = 0 ∧ 0 < a.leaf ∧ a.leaf ≤ 2 ^ 20) = true) := by decide +kernel

/-- A request that its target, in context 5, performs now. -/
def admits (s : State) (req : RemoteReq) : Bool :=
  s.fabid.getLsbD 10 && stationUp s req.station && (replyGate s req.src req.tag req.age req.station).isNone && !(peerStopped s req) &&
  peerOf s req.src req.sasid == some 5 && !(peerHeld s 5 req) && !(peerAsleep s 5 req) &&
  (match peerXlate s 5 req.va (bodyAccess req.body) with | .ok x => x.cell.pa == 0x220040 | _ => false)

/-- The answers that a request gets. -/
def answered (i : Instr) (s : State) (p : State → List (Nat × RemoteResp) → Bool) : Bool := after i s (fun t => p t t.outbox)

/-- R400, R402: atomics of one lane and of two, and one of poisoned data. -/
theorem witness_peer_atomics :
    let rq := fun (l : List (BitVec 128 × BitVec 128)) => wRq 6 0x30040 (.atomic .add .b32 l)
    let bad := { wF with poison := [(0x11002, true)] }
    admits wF (rq [(3, 0)]) = true ∧ admits wF (rq [(3, 0), (4, 0)]) = true ∧ admits bad (rq [(3, 0)]) = true ∧
    answered (.remoteWriteArrival (rq [(3, 0)])) wF (fun t o => viewByte t 0 0x220040 == 3 && o == [(3, .old [(0, 0)])]) = true ∧
    answered (.remoteWriteArrival (rq [(3, 0), (4, 0)])) wF (fun t o => viewByte t 0 0x220040 == 7 && o == [(3, .old [(0, 0), (3, 0)])]) = true ∧
    answered (.remoteWriteArrival (rq [(3, 0)])) bad (fun t o => t.mem == wMem && o == [(3, .poison)]) = true := by decide +kernel

/-- R216, R402: a tile's first part, its last, which makes both visible and raises the version word, and a repeated one. -/
theorem witness_peer_tiles :
    let part := fun (tag va : Nat) (x : Byte) => ({ wRq 6 va (.tile 2 1 2 [0x30080] [x] [0xFF]) with tag := tag } : RemoteReq)
    let one := { wF with peerTiles := [⟨3, 6, 5, 2, 1, [(part 9 0x30044 7, 4990000)]⟩] }
    let first := part 8 0x30040 6
    (tileKeyOf first).isSome = true ∧ admits wF first = true ∧ admits one first = true ∧ (liveTiles one).length = 1 ∧
    answered (.remoteWriteArrival first) wF (fun t o => t.mem == wMem && o.isEmpty && t.peerTiles.map (fun p => p.parts.length) == [1]) = true ∧
    answered (.remoteWriteArrival first) one (fun t o => viewByte t 0 0x220040 == 6 && viewByte t 0 0x220044 == 7 && viewByte t 0 0x220080 == 2 &&
      t.peerTiles.isEmpty && o.length == 2) = true ∧
    (let again := { wF with peerTiles := [⟨3, 6, 5, 2, 1, [(first, 4990000)]⟩] }
     admits again first = true ∧ answered (.remoteWriteArrival first) again (fun t o => o.isEmpty && t.peerTiles == again.peerTiles) = true) := by decide +kernel

/-- The target's object at the place, EXPECT 2 and PHASE 6, with a count and the waits of other packages. -/
def wObj (count : Nat) (waits : List PeerWait) : State :=
  { wF with bars := [{ wBar count [] with cell := { wCell 0x220040 with va := 0x30040 }, va := 0x30040, remote := waits }] }

/-- R296 to R299, R305: arrivals at an object that is live, that releases, and that is not live. -/
theorem witness_peer_arrivals :
    let rq := wRq 6 0x30040 (.arrive 1 0)
    admits (wObj 0 []) rq = true ∧ admits (wObj 1 [⟨4, 6, 0x30040, 2, 6⟩]) rq = true ∧ admits wF rq = true ∧ barLive wF 0x220040 = false ∧
    ((wObj 0 []).bar? 0x220040).any (fun o => o.valid && o.count + 1 != o.expect) = true ∧
    ((wObj 1 []).bar? 0x220040).any (fun o => o.valid && o.count + 1 == o.expect && o.waiters.isEmpty) = true ∧
    answered (.remoteWriteArrival rq) (wObj 0 []) (fun t o => t.bars.map (·.count) == [1] && o == [(3, .status 6)]) = true ∧
    answered (.remoteWriteArrival rq) (wObj 1 [⟨4, 6, 0x30040, 2, 6⟩]) (fun t o => t.bars.map (fun b => (b.count, b.phase)) == [(0, 7)] &&
      o.contains (4, .released 6 0x30040 7)) = true ∧
    answered (.remoteWriteArrival rq) wF (fun t o => t.bars.isEmpty && o == [(3, .fault 0x31)]) = true := by decide +kernel

/-- R297, R302, R305: a wait on the present phase and on another, a withdrawal, a status read. -/
theorem witness_peer_waits :
    let w := fun (phase : BitVec 32) => wRq 6 0x30040 (.wait 1 0 phase)
    let held := wObj 1 [⟨3, 6, 0x30040, 1, 6⟩, ⟨3, 6, 0x30040, 2, 6⟩]
    let wd := wRq 6 0x30040 (.withdraw 1)
    let st := wRq 6 0x30040 (.status 0)
    admits (wObj 1 []) (w 6) = true ∧ admits (wObj 1 []) (w 5) = true ∧ admits held wd = true ∧
    peerStopped (wObj 1 []) st = false ∧ peerHeld (wObj 1 []) 5 st = false ∧
    answered (.remoteWriteArrival (w 6)) (wObj 1 []) (fun t o => t.bars.map (·.remote) == [[⟨3, 6, 0x30040, 1, 6⟩]] && o == [(3, .ack)]) = true ∧
    answered (.remoteWriteArrival (w 5)) (wObj 1 []) (fun t o => t.bars.all (fun b => b.remote.isEmpty) && (o.map (·.1)) == [3]) = true ∧
    answered (.remoteWriteArrival wd) held (fun t o => t.bars.map (·.remote) == [[⟨3, 6, 0x30040, 2, 6⟩]] && o == [(3, .ack)]) = true ∧
    after (.remoteReadArrival st) (wObj 1 []) (fun t => t.outbox == [(3, .status (6 * 2 ^ 32 + 2 ^ 31 + 1))]) = true := by decide +kernel

/-- R295, R305: an initialisation of an object with waits, with reserved bits, with EXPECT 2, and with EXPECT 0. -/
theorem witness_peer_inits :
    let rq := fun (x : W64) => wRq 6 0x30040 (.init 0 x)
    let busy := wObj 1 [⟨4, 6, 0x30040, 2, 6⟩]
    admits busy (rq 2) = true ∧ admits wF (rq 2) = true ∧ admits (wObj 0 []) (rq 0) = true ∧ bitsOf (0x1000002 : W64).toNat 31 24 ≠ 0 ∧
    answered (.remoteWriteArrival (rq 2)) busy (fun t o => t.bars == busy.bars && o == [(3, .fault 0x31)]) = true ∧
    answered (.remoteWriteArrival (rq 0x1000002)) wF (fun t o => t.bars.isEmpty && o == [(3, .fault 0x31)]) = true ∧
    answered (.remoteWriteArrival (rq 2)) wF (fun t o => t.bars.map (fun b => (b.expect, b.count, b.timeout, b.valid)) == [(2, 0, 2000, true)] && o == [(3, .ack)]) = true ∧
    answered (.remoteWriteArrival (rq 0)) (wObj 0 []) (fun t o => t.bars.isEmpty && o == [(3, .ack)]) = true := by decide +kernel

/-- R207, R401: a station out of use; a package that is not named; a place that the context does not map. -/
theorem witness_peer_refused :
    let wr := fun (sasid va : Nat) => wRq sasid va (.write [7] [0xFF])
    let off := { wF with stations := 0xFFFE }
    stationUp off 0 = false ∧ stationUp wF 0 = true ∧ peerOf wF 3 7 = none ∧ tileKeyOf (wr 6 0x10040) = none ∧
    (match peerXlate wF 5 0x10040 .write with | .error c => c == 0x15 | _ => false) = true ∧
    after (.remoteWriteArrival (wr 6 0x30040)) off (fun t => decide (t = off)) = true ∧
    answered (.remoteWriteArrival (wr 7 0x30040)) wF (fun t o => t.mem == wMem && o == [(3, .fault 0x10)]) = true ∧
    answered (.remoteWriteArrival (wr 6 0x10040)) wF (fun t o => t.mem == wMem && o == [(3, .fault 0x15)]) = true := by decide +kernel

/-- The source's request, of a kind, with its gang's atomic released and its result outstanding. -/
def wOutReq (k : RemKind) : State :=
  let a := { wAtom true with lanes := [{ wAl with cells := wAl.cells.map (fun c => { c with pa := remoteAddr 3 5 0x30040 }) }] }
  let o := [wOut .unit [] false]
  { wRem k 4990000 4990000 false with gangs := [{ wRel (.atom a) with out := o }], blocks := [{ wB with pipeline := [{ wCom .forcedBy [] with sent := [(8, [])] }] }] }

/-- R400, R403: an atomic's old value, its poison, its refusals and its end without a response. -/
theorem witness_source_atomics :
    let s := wOutReq (.atom 1 4 0)
    let r : Option RemOut := s.remOut.head?
    (s.gang? 1).any (fun g => g.relq.length == 1 && (g.relq.any (fun h => match h.eff with | .atom a => a.oid == 4 && (atomLane a 0).isSome && !a.acq | _ => false))) = true ∧
    (s.gang? 1).bind s.blockOf = (s.block? 7) ∧ (r.map (·.tag)) = some 8 ∧
    after (.remoteResponse 8 (.old [(5, 0)])) s (fun t => gangB t 1 (fun g => g.relq.isEmpty && g.out.all (fun o => o.effs.contains (.v 0 3 5)))) = true ∧
    after (.remoteResponse 8 .poison) s (fun t => gangB t 1 (fun g => g.deferred.map (·.req.cause) == [0x19]) &&
      blockB t 7 (fun b => !b.consumption.isEmpty)) = true ∧
    after (.remoteResponse 8 .staleTag) s (fun t => gangB t 1 (fun g => g.deferred.map (·.req.cause) == [0x50])) = true ∧
    after (.remoteResponse 8 (.fault 0x31)) s (fun t => gangB t 1 (fun g => g.deferred.map (·.req.cause) == [0x31])) = true ∧
    after (.remoteResponse 8 (.fault 0x11)) s (fun t => gangB t 1 (fun g => g.deferred.map (fun d => (d.req.cause, d.req.detail)) == [(0x51, 0x11)])) = true := by
  decide +kernel

/-- R399, R403, R404: barrier responses; scale data; a poisoned load; a translation, a write, a scale that end badly. -/
theorem witness_source_others :
    let bar := fun (wait : Bool) => wOutReq (.barrier 1 4 wait 1 0x10000 0x30040)
    let cell := { wCell 0x200040 with pa := remoteAddr 3 5 0x30040 }
    let scale := wOutReq (.scale 1 wG0.replays cell)
    let load := wRem (.load 1 4) 4990000 4990000 false
    let wr := wOutReq (.write 7 1 [] 1 [wSb])
    after (.remoteResponse 8 (.status 6)) (bar true) (fun t => gangB t 1 (fun g => g.out.all (·.arrived))) = true ∧
    after (.remoteResponse 8 .ack) (bar true) (fun t => t.remOut.isEmpty && gangB t 1 (fun g => g.out.all (fun o => !o.arrived))) = true ∧
    after (.remoteResponse 8 .ack) (bar false) (fun t => gangB t 1 (fun g => g.out.all (·.arrived))) = true ∧
    after (.remoteResponse 8 .staleTag) (bar false) (fun t => gangB t 1 (fun g => g.deferred.map (·.req.cause) == [0x50])) = true ∧
    after (.remoteResponse 8 (.data [9])) scale (fun t => gangB t 1 (fun g => g.scales.map (fun x => x.val) == [9])) = true ∧
    after (.remoteResponse 8 .staleTag) scale (fun t => gangB t 1 (fun g => g.scales.map (fun x => x.cause) == [0x50])) = true ∧
    (loadOf (load.gangs.headD wG0) 4).any (fun p => p.1.blocks) = true ∧
    after (.remoteResponse 8 .poison) load (fun t => gangB t 1 (fun g => g.deferred.map (·.req.cause) == [0x19])) = true ∧
    after (.remoteResponse 8 .staleTag) (wOutReq (.trans 0 5 0x30040 3)) (fun t => t.rtc.map (·.cause) == [0x50]) = true ∧
    after (.remoteResponse 8 (.fault 0x15)) wr (fun t => t.faultQ.map (fun f => (f.cause, f.detail, f.lanes)) == [(0x51, 0x15, 0)] &&
      blockB t 7 (fun b => b.pipeline.all (fun c => c.tags.isEmpty))) = true := by decide +kernel

/-- R207, R401: a cancelled request; one that is not due again yet; a station out of use. -/
theorem witness_retransmit :
    let s := wRem .cancelled 1000000 1000000 false
    let soon := wRem (.load 1 4) 4990000 4990000 false
    s.remOut.all (fun x => x.kind == .cancelled) = true ∧ soon.now < 4990000 + 20000 ∧ (soon.remOut.map (·.tag)) = [8] ∧
    after (.remoteRetransmit 8 5) s (fun t => decide (t = s)) = true ∧ after (.remoteBusyRetry 8) s (fun t => decide (t = s)) = true ∧
    after (.remoteRetransmit 8 5) soon (fun t => decide (t = soon)) = true ∧
    after (.remoteRetransmit 8 5) { wRem (.load 1 4) 4970000 4970000 false with stations := 0 } (fun t => t.remOut.all (fun r => r.station == 2)) = true := by
  decide +kernel

/-! ### More states: gather units, row engines, joins -/

/-- R411: five positions that name three rows, one of them beyond the table: those of one row share an entry, each segment its own under a pool. -/
theorem witness_fold :
    let g := { wGa .accepted with idxs := [3, 20, 3, 4, 3], segs := [2, 5] }
    let pooled := { g with desc := BitVec.ofNat 512 (wDesc + 1 * 2 ^ 315 + 2 ^ 317) }
    let fold := fun (g : GathOp) (p : GathOp → Bool) => after (.sluiceFold 11) { wR with gaths := [g] } (fun t => (t.gath? 11).elim false p)
    g.shape ≠ [] ∧ g.scad = false ∧ shDim (shapeNat g.shape) 1 = 16 ∧ rowPkg wR (shapeNat g.shape) 3 = accelId wR ∧ gPool pooled.desc = 1 ∧
    fold g (fun g => g.entries.map (fun e => (e.row, e.positions, e.cause)) == [(3, [0, 2, 4], 0), (20, [1], 0x12), (4, [3], 0)]) = true ∧
    fold pooled (fun g => g.entries.map (fun e => (e.row, e.seg, e.positions)) ==
      [(3, 0, [0]), (20, 0, [1]), (3, 1, [2, 4]), (4, 1, [3])]) = true := by decide +kernel

/-- R411, R417: a SCAD whose commit is not under way waits for it; a folded request with an entry of its own sub-request. -/
theorem witness_fold_waits :
    let g := { wGa .accepted with scad := true }
    scadTurn { wR with gaths := [g] } g = false ∧
    after (.sluiceFold 11) { wR with gaths := [g] } (fun t => t.gaths == [g]) = true ∧
    after (.sluiceFold 11) { wR with gaths := [wGa .accepted] } (fun t => t.subs.map (fun x => (x.own, x.peer, x.req.entries.map (·.row))) ==
      [(some 11, 5, [3])]) = true := by decide +kernel

/-- R413, R416: a row whose page is not mapped, one with a poisoned sector, and a sub-request on a station out of use. -/
theorem witness_rows_fail :
    let q := { wSub false with dbase0 := 0x90000 }
    let bad := { wF with poison := [(0x10800, true)] }
    let s := fun (s : State) (q : SubRequest) => { s with subs := [⟨11, none, 5, q, [0, 1], []⟩] }
    let e : SubEntry := ⟨0, 0, 1, 0, []⟩
    (rowFind (s wF q) 5 .read q 0).toOption.isNone = true ∧ rowAsleep (s wF q) ⟨11, none, 5, q, [0, 1], []⟩ .read e = false ∧
    (rowFind bad 5 .read (wSub false) 0).toOption.any (fun p => (p.1 ++ p.2).any (poisoned bad)) = true ∧
    (rowFind bad 5 .write (wSub true) 0).toOption.any (fun p => p.1.any (fun k => (readSource bad k).2)) = true ∧
    after (.rillRowRead 11 0) (s bad (wSub false)) (fun t => t.subs.map (fun x => x.done.map (·.cause)) == [[0x17]]) = true ∧
    after (.rillRowUpdate 11 0) (s bad (wSub true)) (fun t => t.mem == wMem && t.subs.map (fun x => x.done.map (·.cause)) == [[0x17]]) = true ∧
    after (.subrequestReceive (wSub false)) { wF with stations := 0 } (fun t => t.subs.isEmpty) = true := by decide +kernel

/-- R410, R416: replies without a pool, of sums and of largest values, with an infinity; two adds to a row. -/
theorem witness_row_replies :
    let q := fun (p : Nat) => { wSub false with pool := p }
    let e : SubEntry := ⟨0, 4, 3, 1, []⟩
    let raw := leBytes 8 0x7F80000040000000
    let one := leBytes 8 0x3F8000003F800000
    (rowReply (q 0) e raw []).vals = [] ∧ (rowReply (q 1) e raw []).infs = [(false, false), (true, false)] ∧
    (rowReply (q 1) e raw []).vals.map finite = [true, false] ∧ (rowReply (q 2) e raw []).vals.length = (q 2).width ∧
    8 * raw.length = (wSub true).width * elemBits (wSub true).efmt ∧ (wSub true).efmt = 2 ∧
    (addRow (wSub true) { e with rows := [] } one).1 = one ∧
    (addRow (wSub true) { e with rows := [one, one] } one).1 = leBytes 8 0x4040000040400000 := by decide +kernel

/-- A folded request of two positions whose rows, of one binary32 element each, have come. -/
def wRows (d : Nat) (xs : List RowReply) : GathOp :=
  { wGa .folded with
    desc := BitVec.ofNat 512 (wDesc + d), shape := leBytes 192 (0x20000 + 2 ^ 128 + 16 * 2 ^ 160 + 2 ^ 192 + 2 ^ 224 + 64 * 2 ^ 256 + 2 * 2 ^ 448)
    entries := xs.mapIdx (fun i r => ⟨i, 0, [i], 0, r.cause, true, some r⟩) }

/-- R410: rows unchanged, encoded and failed; pools of a sum, of both infinities, of a largest value, and of nothing. -/
theorem witness_tile_rows :
    let r := fun (raw : Nat) (v : FVal) => (⟨0, 0, 0, leBytes 4 raw, [], [v], 0, [(v == .inf false, v == .inf true)]⟩ : RowReply)
    let two := [r 0x40000000 (.fin false 2 0), r 0x40400000 (.fin false 3 0)]
    let infs := [r 0x7F800000 (.inf false), r 0xFF800000 (.inf true)]
    let g := fun (d : Nat) (xs : List RowReply) => wRows d xs
    let v := shapeNat (wRows 0 []).shape
    shDim v 0 = 1 ∧ (entryAt (g 0 two) 0).any (fun e => e.reply.isSome && e.cause == 0) = true ∧ entryAt (g 0 []) 0 = none ∧
    gDfmt (g 0 two).desc = 0 ∧ gDfmt (g (2 * 2 ^ 311) two).desc = 2 ∧
    plainRow (g 0 two) v 0 = (leBytes 4 0x40000000, 0) ∧ (plainRow (g (4 * 2 ^ 311) two) v 1).1.length = rowBytes 4 1 ∧
    (plainRow (g 0 []) v 0).2 = 0 ∧ (poolRow (g (2 * 2 ^ 311 + 2 ^ 315) []) v 0).2 = 0 ∧
    (poolRow (g (2 * 2 ^ 311 + 2 ^ 315) two) v 0).1 = leBytes 4 0x40A00000 ∧
    (poolRow (g (2 * 2 ^ 311 + 2 * 2 ^ 315) two) v 0).1 = leBytes 4 0x40400000 ∧
    (poolRow (g (2 * 2 ^ 311 + 2 ^ 315) infs) v 0).2 = flIV := by decide +kernel

/-- R414, R415: a request that completes with a tile, a mask and a completion word; one that still waits; one that failed whole. -/
theorem witness_gather_completes :
    let r : RowReply := ⟨0, 0, 0, leBytes 4 0x40000000, [], [], 0, []⟩
    let d := 0x10080 * 2 ^ 448 + 16 * 2 ^ 428 + 32 * 2 ^ 408 + 40 * 2 ^ 388 + 0xFFFFF * 2 ^ 368 + 48 * 2 ^ 348 + 1 * 2 ^ 336 + 2 ^ 326
    let g := { wRows 0 [r, { r with cause := 0x12, raw := [] }] with desc := BitVec.ofNat 512 d }
    let s := fun (g : GathOp) => { wR with gaths := [g], gangs := [{ wG0 with ops := [⟨2, 4, false, 0, 0⟩] }] }
    let open_ := { g with entries := g.entries.map (fun e => { e with answered := false }) }
    scadPending (s g) g = false ∧ gNidx g.desc = 2 ∧ wG0.regs.alive ≠ 0 ∧ gPool g.desc = 0 ∧
    after (.gatherComplete 11) (s open_) (fun t => t.gaths == [open_]) = true ∧
    after (.gatherComplete 11) (s g) (fun t => t.gaths.isEmpty && blockB t 7 (fun b => scratchBytes b 0 512 4 == leBytes 4 0x40000000 &&
      scratchBytes b 0 640 2 == [2, 0] && leValue (scratchBytes b 0 768 8) == 0x12 * 2 ^ 48 + 1 * 2 ^ 38 + 1 * 2 ^ 29 + 2 ^ 15)) = true ∧
    after (.gatherComplete 11) (s { g with cause := 0x53, detail := 3 }) (fun t => gangB t 1 (fun x => x.deferred.map (fun f => (f.req.cause, f.req.detail)) == [(0x53, 3)]) &&
      blockB t 7 (fun b => leValue (scratchBytes b 0 768 8) == 0x53 * 2 ^ 56 + 2 ^ 15)) = true := by decide +kernel

/-- R375, R377: statuses 2, 3 and 4 of an arrival, a marked task's, waits, and a status read. -/
theorem witness_join_statuses :
    let arr := Held.jarr 0x10080 5 (.s 9) 4
    let status := fun (j : Join) (n : W64) => after (.joinArrival 0) (wJs arr j) (fun t => t.joins == [j] && gangB t 1 (fun g => g.out.all (fun o => o.effs.contains (.s 9 n))))
    let wait := Held.jwait 0x10080 (wCell 0x200080) (.s 9) 4
    let op := fun (e : Held) => (⟨1, ⟨0, 0, 0x10000, e, 1⟩, false⟩ : UnitOp)
    status { wJ with tasks := [(0, .arrived)] } 2 = true ∧ status { wJ with tasks := [(0, .failed)], spoiled := [0] } 3 = true ∧
    status { wJ with launch := 4 } 4 = true ∧ joinAt (wJs arr { wJ with launch := 4 }) 5 0x10080 ≠ none ∧
    after (.joinArrival 0) (wJs arr { wJ with tasks := [(0, .marked)], released := true }) (fun t => t.gangs.isEmpty &&
      t.faultQ.map (fun r => (r.cause, r.addr)) == [(0x43, 1)]) = true ∧
    statusAsleep (wJs wait wJ) wB (op wait) = false ∧
    after (.joinArrival 0) (wJs wait wJ) (fun t => t.joinQ.map (·.tested) == [true]) = true ∧
    after (.joinArrival 0) (wJs wait { wJ with visible := true }) (fun t => t.joinQ.isEmpty && gangB t 1 (fun g => g.out.all (·.arrived))) = true ∧
    after (.joinArrival 0) (wJs (.killpt 4) { wJ with tasks := [(0, .marked)], released := true }) (fun t =>
      t.faultQ.map (fun r => (r.cause, r.addr)) == [(0x43, 0)]) = true := by decide +kernel

/-- A released join of two tasks whose first has come with weight 2 and contribution 3; WTOT 4; the fallback of the other 5 with
weight 1; one dependent launch; its target one element at 0x20048. -/
def wJr (fill : Nat) : Join :=
  { wJ with
    image := BitVec.ofNat 1024 (2 * 2 ^ 467 + 2 ^ 454 + 2 * 2 ^ 441 + 0x10200 * 2 ^ 896 + 0x10300 * 2 ^ 832 + 0x10400 * 2 ^ 768 +
      0x10100 * 2 ^ 704 + 0x10500 * 2 ^ 640 + 2 ^ 608 + 0x40800000 * 2 ^ 576 + 2 ^ 399 + fill * 2 ^ 397)
    shape := leBytes 192 (0x20048 + 2 ^ 128 + 2 ^ 160 + 2 ^ 192 + 2 ^ 224 + 64 * 2 ^ 256 + 2 * 2 ^ 448), tasks := [(0, .arrived), (1, .marked)]
    weights := [(0, 0x40000000)], released := true, arrived := 1, pages := [(1, wCell 0x200000), (2, wCell 0x210000)] }

/-- The package with it, and a dependent launch that waits for two. -/
def wRe (fill : Nat) : State :=
  { wR with
    joins := [wJr fill], launches := [{ wL with id := 4, wait := 2 }], blocks := []
    mem := wMem ++ wBytes 0x200200 4 0x40400000 ++ wBytes 0x200340 4 0x40A00000 ++ wBytes 0x200404 4 0x3F800000 ++ wBytes 0x200500 4 4 }

/-- R378: what a release leaves under each FILL, and with a poisoned contribution. -/
theorem witness_releases :
    let target := fun (s : State) => after (.joinRelease 3) s (fun t => t.joins.all (·.visible) && (t.launch? 4).any (fun l => l.wait == 1))
    let value := fun (s : State) (n : Nat) => after (.joinRelease 3) s (fun t => leValue ((List.range 4).map (fun i => viewByte t 0 (0x210048 + i))) == n)
    (wRe 0).join? 3 = some (wJr 0) ∧ (wJr 0).withState .arrived = [0] ∧ joinElems (wJr 0) = 1 ∧ (wRe 0).blocks.isEmpty = true ∧
    target (wRe 0) = true ∧ value (wRe 0) 0x40C00000 = true ∧ value (wRe 1) 0x41400000 = true ∧ value (wRe 2) 0x41300000 = true ∧
    after (.joinRelease 3) { wRe 0 with poison := [(0x10010, true)] } (fun t => t.joins.all (·.poison)) = true := by decide +kernel

end Sys2Proof.Tests
end

section
/-! PROOFS. The statements of family 00: which turn a step takes (log 11, 26), and what it runs on that turn. -/
namespace Sys2Proof.Machine

/-- R386: bytes that are each written with every bit of their mask are their values under the full mask. -/
theorem map_fst_fullMask {xs : List (Byte × Byte)} (full : ∀ x ∈ xs, x.2 = 0xFF#8) :
    (xs.map (·.1)).map (fun b => (b, (0xFF : Byte))) = xs := by
  induction xs with
  | nil => rfl
  | cons x xs ih =>
    obtain ⟨hx, hxs⟩ := List.forall_mem_cons.mp full
    exact congrArg₂ List.cons (Prod.ext rfl hx.symm) (ih hxs)

theorem exec_registerWrite (off : Nat) (bytes : List Byte) (s : State) :
    exec (.registerWrite off bytes) s = windowWrite off (bytes.map (fun b => (b, 0xFF))) s := rfl

/-- R386: a write of the window that masks no bit is the register write of its bytes. -/
theorem windowWrite_eq_registerWrite {xs : List (Byte × Byte)} (full : ∀ x ∈ xs, x.2 = 0xFF#8) (off : Nat) (s : State) :
    windowWrite off xs s = exec (.registerWrite off (xs.map (·.1))) s := by
  rw [exec_registerWrite, map_fst_fullMask full]

/-- R3: a write at the window's arbiter goes before any turn of the schedule. -/
theorem step_of_regQ_cons {s : State} {off : Nat} {xs : List (Byte × Byte)} {rest : List (Nat × List (Byte × Byte))}
    (running : s.therm.shutdown = false) (due : s.regQ = (off, xs) :: rest) :
    step s = windowWrite off xs { s with regQ := rest, cx := Cx.idle } := by
  simp only [step, takeTurn, running, due]

/-- R3, R395: where no write is made first, a step takes the head of the schedule; a turn that a shutdown stops is dropped. -/
theorem step_of_sched_cons {s : State} {t : Turn} {rest : List Turn}
    (noWrite : s.regQ = [] ∨ s.therm.shutdown = true) (head : s.sched = t :: rest) :
    step s = if s.therm.shutdown && offTurn t then .next { s with sched := rest } else runTurn exec t { s with sched := rest } := by
  cases down : s.therm.shutdown with
  | true => simp [step, takeTurn, down, head]
  | false =>
    have empty : s.regQ = [] := noWrite.resolve_right (by simp [down])
    simp [step, takeTurn, down, empty, head]

/-- R395: a turn that is neither time nor the boot is one that a shutdown stops. -/
theorem offTurn_of_ne {t : Turn} (noTick : ∀ a b, t ≠ .tick a b) (noBoot : ∀ cfg, t ≠ .event (.bootSequence cfg)) :
    offTurn t = true := by
  unfold offTurn
  split
  · exact absurd rfl (noTick _ _)
  · exact absurd rfl (noBoot _)
  · rfl

/-- Settles O24: the step's equations for a waiting write and for the head of the schedule, read turn by turn. -/
theorem stepTakesTheNextTurn : Obligations.StepTakesTheNextTurn := by
  refine ⟨fun s cycles ns rest empty head => ?tick, fun s i rest empty running head => ?event,
    fun s off xs rest running due => ?write, fun s t rest down head noTick noBoot => ?shutdown⟩
  case tick => simp [step_of_sched_cons (.inl empty) head, offTurn, runTurn]
  case event => simp [step_of_sched_cons (.inl empty) head, running, runTurn]
  case write =>
    have made := step_of_regQ_cons running due
    exact ⟨made, fun full => made.trans (windowWrite_eq_registerWrite full _ _)⟩
  case shutdown => simp [step_of_sched_cons (.inr down) head, down, offTurn_of_ne noTick noBoot]

end Sys2Proof.Machine
end

section
/-! PROOFS. Rules of the registers of a gang and of sets of lanes, which the statements of family 01 share: what a set of lanes
holds, what a lane or a register reads after a write, what the results due at a position of a run write (R16 to R20, R80). -/
namespace Sys2Proof.Machine
open Sys2Proof.Laws

/-! ### Sets of lanes (R16) -/

theorem getLsbD_laneBit (n i : Nat) : (laneBit n).getLsbD i = (decide (i < 32) && decide (i = n)) := by
  by_cases hi : i < 32 <;> by_cases hn : i = n <;> simp [laneBit, BitVec.getLsbD_one, hi, hn]
  omega

theorem getLsbD_foldl_laneBit (p : Nat → Bool) (n i : Nat) :
    ((List.range n).foldl (fun m j => if p j then m ||| laneBit j else m) 0#32).getLsbD i =
      (decide (i < 32) && decide (i < n) && p i) := by
  induction n with
  | zero => simp
  | succ n ih =>
    rw [List.range_succ, List.foldl_append, List.foldl_cons, List.foldl_nil]
    by_cases hn : i = n
    · subst hn
      by_cases hp : p i <;> simp [hp, ih, getLsbD_laneBit]
    · have hlt : i < n + 1 ↔ i < n := by omega
      by_cases hp : p n <;> simp [hp, ih, getLsbD_laneBit, hn, hlt]

@[simp] theorem maskHas_laneSet (p : Nat → Bool) (i : Nat) : maskHas (laneSet p) i = (decide (i < 32) && p i) := by
  simp only [maskHas, laneSet, getLsbD_foldl_laneBit, Bool.and_self]

@[simp] theorem mem_lanesOf (m : LaneMask) (i : Nat) : i ∈ lanesOf m ↔ i < 32 ∧ maskHas m i = true := by
  simp [lanesOf]

theorem lanesOf_nodup (m : LaneMask) : (lanesOf m).Nodup := List.nodup_range.filter _

/-! ### Lanes of a gang -/

@[simp] theorem modLane_length (r : GangRegs) (j : Nat) (f : Lane → Lane) : (r.modLane j f).lanes.length = r.lanes.length := by
  simp [GangRegs.modLane]

@[simp] theorem modLane_s (r : GangRegs) (j : Nat) (f : Lane → Lane) : (r.modLane j f).s = r.s := rfl

theorem lane_modLane_self (r : GangRegs) {j : Nat} (hj : j < r.lanes.length) (f : Lane → Lane) :
    (r.modLane j f).lane j = f (r.lane j) := by
  simp [GangRegs.lane, GangRegs.modLane, List.getD_eq_getElem?_getD, hj]

theorem lane_modLane_ne (r : GangRegs) {i j : Nat} (h : i ≠ j) (f : Lane → Lane) : (r.modLane j f).lane i = r.lane i := by
  simp [GangRegs.lane, GangRegs.modLane, List.getD_eq_getElem?_getD, Ne.symm h]

/-- A lane without a place in the gang is an exited one. -/
theorem lane_of_length_le (r : GangRegs) {j : Nat} (h : r.lanes.length ≤ j) : r.lane j = Lane.empty := by
  simp [GangRegs.lane, List.getD_eq_getElem?_getD, h]

/-- A change of a lane reads as the change in its place, and every other lane as before. -/
theorem lane_modLane (r : GangRegs) (i j : Nat) (f : Lane → Lane) :
    (r.modLane j f).lane i = if i = j ∧ j < r.lanes.length then f (r.lane i) else r.lane i := by
  split
  · obtain ⟨rfl, hj⟩ := ‹_ ∧ _›
    exact lane_modLane_self r hj f
  · by_cases h : i = j
    · subst h
      have hlen : r.lanes.length ≤ i := by omega
      rw [lane_of_length_le _ (by simpa using hlen), lane_of_length_le _ hlen]
    · exact lane_modLane_ne r h f

@[simp] theorem foldl_modLane_length (f : Nat → Lane → Lane) (js : List Nat) (r : GangRegs) :
    (js.foldl (fun r j => r.modLane j (f j)) r).lanes.length = r.lanes.length :=
  foldl_keeps (fun r => r.lanes.length) _ (fun _ _ => modLane_length _ _ _) js r

@[simp] theorem foldl_modLane_s (f : Nat → Lane → Lane) (js : List Nat) (r : GangRegs) :
    (js.foldl (fun r j => r.modLane j (f j)) r).s = r.s :=
  foldl_keeps GangRegs.s (fun r j => r.modLane j (f j)) (fun _ _ => rfl) js r

/-- Changing each lane of a list once changes just those. -/
theorem lane_foldl_modLane (f : Nat → Lane → Lane) {js : List Nat} (once : js.Nodup) (r : GangRegs) (i : Nat) :
    (js.foldl (fun r j => r.modLane j (f j)) r).lane i =
      if i ∈ js ∧ i < r.lanes.length then f i (r.lane i) else r.lane i := by
  induction js generalizing r with
  | nil => simp
  | cons j js ih =>
    obtain ⟨hj, once⟩ := List.nodup_cons.mp once
    rw [List.foldl_cons, ih once, modLane_length, lane_modLane]
    by_cases hi : i = j
    · subst hi
      simp [hj]
    · simp [hi]

/-! ### Registers (R18 to R20) -/

@[simp] theorem getV_setV_self (l : Lane) (n : Nat) (x : W32) : (l.setV n x).getV n = x := tabGet_tabPut_self 0 l.v n x

theorem getV_setV_ne (l : Lane) {m n : Nat} (h : m ≠ n) (x : W32) : (l.setV n x).getV m = l.getV m :=
  tabGet_tabPut_ne 0 l.v n m x h

@[simp] theorem getS_setS_self (r : GangRegs) (n : Nat) (x : W64) : (r.setS n x).getS n = x := tabGet_tabPut_self 0 r.s n x

theorem getS_setS_ne (r : GangRegs) {m n : Nat} (h : m ≠ n) (x : W64) : (r.setS n x).getS m = r.getS m :=
  tabGet_tabPut_ne 0 r.s n m x h

theorem getK_setK (l : Lane) (m n : Fin 4) (f : Flags) : (l.setK n f).getK m = if m = n then f else l.getK m := by
  fin_cases n <;> fin_cases m <;> rfl

@[simp] theorem getK_setV (l : Lane) (n : Nat) (x : W32) (m : Fin 4) : (l.setV n x).getK m = l.getK m := by
  fin_cases m <;> rfl

@[simp] theorem getV_setK (l : Lane) (n : Fin 4) (f : Flags) (m : Nat) : (l.setK n f).getV m = l.getV m := by
  fin_cases n <;> rfl

/-! ### Effects that become visible (R80) -/

@[simp] theorem apply_length (r : GangRegs) (e : Eff) : (r.apply e).lanes.length = r.lanes.length := by
  cases e <;> simp [GangRegs.apply, GangRegs.setS]

theorem getV_apply_self (r : GangRegs) {j : Nat} (hj : j < r.lanes.length) (n : Nat) (x : W32) :
    ((r.apply (.v j n x)).lane j).getV n = x := by
  rw [GangRegs.apply, lane_modLane_self r hj, getV_setV_self]

theorem getK_apply_self (r : GangRegs) {j : Nat} (hj : j < r.lanes.length) (n : Fin 4) (f : Flags) :
    ((r.apply (.k j n f)).lane j).getK n = f := by
  rw [GangRegs.apply, lane_modLane_self r hj, getK_setK, if_pos rfl]

/-- A vector register keeps its value under every effect that does not name it. -/
theorem getV_apply_of_dst_ne (j n : Nat) (r : GangRegs) (e : Eff) (h : e.dst ≠ .v j n) :
    ((r.apply e).lane j).getV n = (r.lane j).getV n := by
  cases e with
  | v l m x =>
    rw [GangRegs.apply, lane_modLane]
    split
    · obtain ⟨rfl, _⟩ := ‹_ ∧ _›
      exact getV_setV_ne _ (fun eq => h (by rw [eq]; rfl)) x
    · rfl
  | k l m f =>
    rw [GangRegs.apply, lane_modLane]
    split
    · exact getV_setK _ m f n
    · rfl
  | s | c | sfsrOr | sfsrSet | loc => rfl
  | fsrOr | fsrSet | mr | port =>
    rw [GangRegs.apply, lane_modLane]
    split <;> rfl

/-- A condition-code register keeps its value under every effect that does not name it. -/
theorem getK_apply_of_dst_ne (j : Nat) (n : Fin 4) (r : GangRegs) (e : Eff) (h : e.dst ≠ .k j n) :
    ((r.apply e).lane j).getK n = (r.lane j).getK n := by
  cases e with
  | v l m x =>
    rw [GangRegs.apply, lane_modLane]
    split
    · exact getK_setV _ m x n
    · rfl
  | k l m f =>
    rw [GangRegs.apply, lane_modLane]
    split
    · obtain ⟨rfl, _⟩ := ‹_ ∧ _›
      rw [getK_setK, if_neg (fun eq => h (by rw [eq]; rfl))]
    · rfl
  | s | c | sfsrOr | sfsrSet | loc => rfl
  | fsrOr | fsrSet | mr | port =>
    rw [GangRegs.apply, lane_modLane]
    split <;> rfl

/-- A scalar register keeps its value under every effect that does not name it. -/
theorem getS_apply_of_dst_ne (n : Nat) (r : GangRegs) (e : Eff) (h : e.dst ≠ .s n) : (r.apply e).getS n = r.getS n := by
  cases e with
  | s m x => exact getS_setS_ne r (fun eq => h (by rw [eq]; rfl)) x
  | v | c | k | fsrOr | sfsrOr | fsrSet | sfsrSet | mr | port | loc => rfl

/-- Effects of fixed latency that become visible change the registers by each in turn, and of the rest of the gang only the marks
of R82 on its outstanding results. -/
theorem foldl_applyFixed_frame (ps : List Pend) (g : Gang) :
    ∃ out, ps.foldl (fun g p => g.applyFixed p.eff) g =
      { g with regs := ps.foldl (fun r p => r.apply p.eff) g.regs, out := out } := by
  induction ps generalizing g with
  | nil => exact ⟨_, rfl⟩
  | cons p ps ih =>
    obtain ⟨out, h⟩ := ih (g.applyFixed p.eff)
    exact ⟨out, h⟩

/-- R80: what settling the run in issue does. -/
theorem settle_frame {g : Gang} {r : RunIssue} (h : g.issue = some r) (n : Nat) :
    ∃ out, g.settle n = { g with
      regs := (pendsUpTo n r.pends).foldl (fun r p => r.apply p.eff) g.regs
      out := out
      issue := some { r with pends := pendsAfter n r.pends } } := by
  obtain ⟨out, e⟩ := foldl_applyFixed_frame (pendsUpTo n r.pends) g
  refine ⟨out, ?_⟩
  unfold Gang.settle
  rw [h]
  simp only [e]

theorem pendsUpTo_succ (n : Nat) (ps : List Pend) :
    pendsUpTo (n + 1) ps = pendsUpTo n ps ++ ps.filter (fun p => p.due == n + 1) := by
  simp [pendsUpTo, List.range_succ (n := n + 1)]

theorem mem_of_mem_pendsUpTo {n : Nat} {ps : List Pend} {p : Pend} (h : p ∈ pendsUpTo n ps) : p ∈ ps := by
  obtain ⟨_, _, hp⟩ := List.mem_flatMap.mp h
  exact (List.mem_filter.mp hp).1

/-- Results all due at one position are due up to a position all of them or none. -/
theorem pendsUpTo_of_due {ps : List Pend} {d : Nat} (h : ∀ p ∈ ps, p.due = d) (n : Nat) :
    pendsUpTo n ps = if d ≤ n then ps else [] := by
  have dueAt : ∀ m, ps.filter (fun p => p.due == m) = if d = m then ps else [] := by
    intro m
    split
    · exact List.filter_eq_self.mpr (fun p hp => by simp [*])
    · exact List.filter_eq_nil_iff.mpr (fun p hp => by simp [*])
  induction n with
  | zero => simp [pendsUpTo, dueAt]
  | succ n ih =>
    rw [pendsUpTo_succ, ih, dueAt]
    rcases Nat.lt_trichotomy d (n + 1) with hd | hd | hd
    · simp [Nat.le_of_lt_succ hd, Nat.le_of_lt hd, Nat.ne_of_lt hd]
    · simp [hd]
    · have h1 : ¬ d ≤ n := by omega
      have h2 : ¬ d ≤ n + 1 := by omega
      have h3 : d ≠ n + 1 := by omega
      simp [h1, h2, h3]

end Sys2Proof.Machine
end

section
/-! PROOFS. The results of words (R42, R66, R70 to R72, R80, R87, R125, R173). -/
namespace Sys2Proof.Machine
open Sys2Proof.Laws Sys2Proof.Claim

/-! ### Values extended by their type (R42, R87) -/

theorem signExt_eq_toInt (x w : Nat) : signExt x w = (BitVec.ofNat w x).toInt := by
  rw [BitVec.toInt_eq_toNat_cond, BitVec.toNat_ofNat, signExt]
  rcases w with _ | w
  · simp [Nat.mod_one]
  · have : 2 ^ (w + 1) = 2 * 2 ^ w := by rw [Nat.pow_succ]; omega
    simp only [Nat.add_one_ne_zero, if_false, Nat.add_sub_cancel]
    split <;> split <;> omega

theorem wrapInt_eq_toNat_ofInt (x : Int) (w : Nat) : wrapInt x w = (BitVec.ofInt w x).toNat := (BitVec.toNat_ofInt x).symm

/-- R42: a number sign-extended from `v` bits and wrapped to `w` is the sign extension of its low `v` bits. -/
theorem wrapInt_signExt (x v w : Nat) : wrapInt (signExt x v) w = ((BitVec.ofNat v x).signExtend w).toNat := by
  rw [signExt_eq_toInt, wrapInt_eq_toNat_ofInt, BitVec.signExtend]

theorem tyWidth_le (t : Ty) : tyWidth t ≤ 64 := by cases t <;> decide

theorem ofNat_extendTo (t : Ty) (w x : Nat) : BitVec.ofNat w (extendTo t w x) = extended t w x := by
  unfold extendTo extended val
  split
  · rw [wrapInt_signExt, BitVec.ofNat_toNat, BitVec.setWidth_eq]
  · rw [← BitVec.toNat_ofNat, BitVec.ofNat_toNat]

theorem extendTo_64 (t : Ty) (x : Nat) : extendTo t 64 x = (extended t 64 x).toNat := by
  rw [← ofNat_extendTo, BitVec.toNat_ofNat, Nat.mod_eq_of_lt]
  unfold extendTo
  split
  · rw [wrapInt_eq_toNat_ofInt]; exact BitVec.isLt _
  · exact Nat.lt_of_lt_of_le (Nat.mod_lt _ (Nat.two_pow_pos _)) (Nat.pow_le_pow_right (by decide) (tyWidth_le t))

/-! ### Sources (R70 to R72, R87, R173) -/

theorem portBytes_length (c : Ctx) (p : Port) : (c.portBytes p).length = portSize p := by
  unfold Ctx.portBytes
  split <;> simp [gangBytes]

/-- The element of a port fits its size. -/
theorem leValue_portBytes_lt (c : Ctx) (p : Port) : leValue (c.portBytes p) < 2 ^ (8 * 2 ^ p.esz.val) := by
  have h := leValue_lt (c.portBytes p)
  rw [portBytes_length, portSize] at h
  rwa [Nat.pow_mul]

/-- R173: a port delivers its element whole, or extended to 32 bits by SGN. -/
theorem portVal_eq (c : Ctx) (p : Port) (wide : Bool) :
    let el : BitVec (8 * 2 ^ p.esz.val) := BitVec.ofNat _ (leValue (c.portBytes p))
    (wide = true → portVal p wide (c.portBytes p) = el.toNat) ∧
    (wide = false → p.esz ≠ 3 →
      portVal p wide (c.portBytes p) = if p.sgn then (el.signExtend 32).toNat else el.toNat) ∧
    (wide = false → p.esz = 3 → portVal p wide (c.portBytes p) = el.toNat % 2 ^ 32) := by
  have fits := leValue_portBytes_lt c p
  intro el
  have whole : el.toNat = leValue (c.portBytes p) := by simp [el, Nat.mod_eq_of_lt fits]
  refine ⟨?wide, ?narrow, ?cut⟩
  case wide =>
    rintro rfl
    simp [portVal, whole]
  case cut =>
    rintro rfl h
    simp [portVal, whole, h]
  case narrow =>
    rintro rfl h
    have hlt : p.esz.val < 3 := by omega
    by_cases h2 : p.esz.val < 2
    · have small : leValue (c.portBytes p) < 2 ^ 32 :=
        Nat.lt_of_lt_of_le fits (Nat.pow_le_pow_right (by decide) (by
          have := Nat.pow_le_pow_right (n := 2) (by decide) (show p.esz.val ≤ 2 by omega); omega))
      simp only [portVal, h2, decide_true, Bool.and_true, Bool.false_eq_true, if_false]
      split
      · exact wrapInt_signExt _ _ _
      · rw [whole, Nat.mod_eq_of_lt small]
    · have he : p.esz.val = 2 := by omega
      have hw : 8 * 2 ^ p.esz.val = 32 := congrArg (8 * 2 ^ ·) he
      have same : (el.signExtend 32).toNat = el.toNat := by
        clear_value el
        revert el
        rw [hw]
        intro el _
        rw [BitVec.signExtend_eq]
      rw [hw] at fits
      simp only [portVal, h2, same, whole, Nat.mod_eq_of_lt fits, decide_false, Bool.and_false, Bool.false_eq_true, if_false, ite_self]

/-- R70 to R72, R87, R173: what a source operand supplies is what it reads. -/
theorem reads_src (c : Ctx) (lane : Nat) (o : Opd) (wide : Bool) : reads c lane o wide (c.src lane o wide) := by
  cases o with
  | v n => cases wide <;> rfl
  | rport n =>
    intro p hp
    obtain ⟨whole, narrow, cut⟩ := portVal_eq c p wide
    have supplied : c.src lane (.rport n) wide = portVal p wide (c.portBytes p) := by
      unfold Ctx.src
      simp only [hp]
    rw [supplied]
    exact ⟨fun hw _ => whole hw, narrow, cut⟩
  | s | c | k | zero | ones | sp => rfl
  | wport | m | bad | none => trivial

theorem operandsAreThoseNamed : Claim.operandsAreThoseNamed := by
  intro sh c lane
  refine ⟨reads_src .., fun noImm => ?_, fun x imm => ?_, fun third => ?_, rfl, rfl⟩
  · simpa [OpShape.input, noImm] using reads_src c lane sh.b sh.wb
  · simp [OpShape.input, imm]
  · simpa [OpShape.input, third] using reads_src c lane sh.d sh.wd

/-! ### Destinations (R42, R80, R87, R93, R125) -/

/-- What a result does through the write port that D names: its low bytes at the port's next element (R173). -/
def writesPort (c : Ctx) (lane : Nat) (d : Opd) (t : Ty) (x : Nat) (e : Eff) : Prop :=
  ∃ n p, d = .wport n ∧ (c.g.regs.lane lane).port? (4 + n.val) = some p ∧
    e = .loc (some lane) (placed (scratchMod c.b (portOff p)) (leBytes (2 ^ p.esz.val) (extended t 64 x).toNat))

/-- R87: the effects of a result are its write of the register, or of the write port's element, that D names. -/
theorem mem_dst_iff (c : Ctx) (lane : Nat) (d : Opd) (t : Ty) (x : Nat) (e : Eff) :
    e ∈ c.dst lane d t x ↔ writesReg t lane d c.g.ord x e ∨ writesPort c lane d t x e := by
  cases d with
  | v n =>
    simp only [Ctx.dst, writesReg, ofNat_extendTo]
    split <;> simp [writesPort]
  | wport n =>
    cases hp : (c.g.regs.lane lane).port? (4 + n.val) <;>
      simp [Ctx.dst, writesReg, writesPort, hp, extendTo_64, portSize]
  | s | c | k | zero | ones | sp | rport | m | bad | none =>
    simp [Ctx.dst, writesReg, writesPort, ofNat_extendTo]

theorem mem_kEffs_iff (lanes : List Nat) (n : Fin 4) (f : Flags) (e : Eff) : e ∈ kEffs lanes n f ↔ ∃ j ∈ lanes, e = .k j n f := by
  simp [kEffs, eq_comm]

theorem mem_flagEffs_iff (lane : Option Nat) (fl : FFlags) (e : Eff) :
    e ∈ flagEffs lane fl ↔ fl ≠ 0 ∧ e = lane.elim (.sfsrOr fl) (fun l => .fsrOr l fl) := by
  unfold flagEffs
  by_cases h : fl = 0
  · simp [h]
  · cases lane <;> rw [if_neg h] <;> exact List.mem_singleton.trans (iff_and_self.mpr (fun _ => h))

theorem effectsNameTheDestination : Claim.effectsNameTheDestination := by
  intro sh c lane all o e
  have result : e ∈ (match o.res with | none => [] | some x => c.dst lane sh.d sh.t x) ↔
      ∃ x, o.res = some x ∧ (writesReg sh.t lane sh.d c.g.ord x e ∨ writesPort c lane sh.d sh.t x e) := by
    cases o.res <;> simp [mem_dst_iff]
  have codes : e ∈ (match o.k with | none => [] | some f => kEffs all sh.ccd f) ↔
      ∃ j x, j ∈ all ∧ o.k = some x ∧ e = .k j sh.ccd x := by
    cases o.k <;> simp [mem_kEffs_iff]
  have flags : e ∈ flagEffs (if opdUniform sh.d then none else some lane) o.fl ↔
      o.fl ≠ 0 ∧ e = if opdUniform sh.d then .sfsrOr o.fl else .fsrOr lane o.fl := by
    rw [mem_flagEffs_iff]
    cases opdUniform sh.d <;> rfl
  unfold OpShape.effects
  rw [List.mem_append, List.mem_append, or_assoc]
  exact or_congr result (or_congr codes flags)

/-! ### When a result is visible (R80) -/

theorem emit_emit (g : Gang) (due : Nat) (e : Eff) (es : List Eff) : (g.emit due [e]).emit due es = g.emit due (e :: es) := by
  simp only [emit_frame, Option.map_map]
  congr 2
  funext r
  simp

/-- R80: effects on the gang's registers, the commons' apart, are due together at their latency. -/
theorem deliver_fixed {es : List Eff} (own : ∀ e ∈ es, e.isLoc = false ∧ e.isCommons = false) (g : Gang) (pc : W64) (pos lat : Nat) :
    g.deliver pc pos (some lat) es = g.emit (pos + lat) es := by
  induction es generalizing g with
  | nil => exact (emit_nil g _).symm
  | cons e es ih =>
    obtain ⟨⟨noLoc, noCommons⟩, own⟩ := List.forall_mem_cons.mp own
    have one : g.deliver pc pos (some lat) (e :: es) = (g.emit (pos + lat) [e]).deliver pc pos (some lat) es := by
      cases e with
      | loc => exact Bool.noConfusion noLoc
      | c => exact Bool.noConfusion noCommons
      | _ => rfl
    rw [one, ih own, emit_emit]

theorem resultsBecomeVisible : Claim.resultsBecomeVisible := by
  intro g r pc pos lat k es issuing none_due own
  have due : ((g.emit (pos + lat) es).issue) = some { r with pends := es.map (fun e => ⟨pos + lat, e⟩) } := by
    simp [emit_frame, issuing, none_due]
  obtain ⟨out, settled⟩ := settle_frame due k
  rw [deliver_fixed own, settled]
  simp only [emit_regs, pendsUpTo_of_due (d := pos + lat) (ps := es.map (fun e => (⟨pos + lat, e⟩ : Pend))) (by simp)]
  split <;> simp [List.foldl_map]

/-! ### Reading back (R18 to R20, R51) -/

theorem registersReadBack : Claim.registersReadBack := by
  intro r j hj
  refine ⟨fun n x => ⟨getV_apply_self r hj n x, fun m hm => getV_apply_of_dst_ne j m r _ ?_, fun i hi => lane_modLane_ne r hi _, rfl⟩,
    fun n x => ⟨getS_setS_self r n x, fun m hm => getS_setS_ne r hm x, rfl⟩,
    fun n f => ⟨getK_apply_self r hj n f, fun m hm => getK_apply_of_dst_ne j m r _ ?_, fun i hi => lane_modLane_ne r hi _⟩,
    fun fl => ⟨congrArg Lane.fsr (lane_modLane_self r hj _), fun i hi => lane_modLane_ne r hi _⟩⟩
  · simpa [Eff.dst] using Ne.symm hm
  · simpa [Eff.dst] using Ne.symm hm

/-- Settles O15, by its four parts: the operands, the destination, the latency and reading back. -/
theorem resultsOfWords : Obligations.ResultsOfWords :=
  ⟨operandsAreThoseNamed, effectsNameTheDestination, resultsBecomeVisible, registersReadBack⟩

end Sys2Proof.Machine
end

section
/-! PROOFS. The end of a run (R32, R80): the results still due become visible, and the lanes of the clutch move on. -/
namespace Sys2Proof.Machine
open Sys2Proof.Laws Sys2Proof.Claim

/-! ### The result that stands last (R80) -/

/-- The result `p` at place `k` is the one due last on its destination, of two due at one position the later in the run. -/
def isLastDue (ps : List Pend) (k : Nat) (p : Pend) : Prop :=
  ps[k]? = some p ∧ ∀ k' q, ps[k']? = some q → q.eff.dst = p.eff.dst → k' ≠ k → q.due < p.due ∨ (q.due = p.due ∧ k' < k)

/-- The result `q` stands in the run at some place and becomes visible behind the one at place `k`, due at `due`. -/
def comesAfter (ps : List Pend) (k due : Nat) (q : Pend) : Prop :=
  ∃ k', ps[k']? = some q ∧ (due < q.due ∨ q.due = due ∧ k < k')

/-- Of the results due at the position of `p` those behind it stand later in the run. -/
theorem filter_due_split {ps : List Pend} {k : Nat} {p : Pend} (hp : ps[k]? = some p) :
    ∃ xs ys, ps.filter (fun q => q.due == p.due) = xs ++ p :: ys ∧ ∀ q ∈ ys, comesAfter ps k p.due q := by
  obtain ⟨hk, here⟩ := List.getElem?_eq_some_iff.mp hp
  have parts : ps = ps.take k ++ p :: ps.drop (k + 1) := by
    rw [← here, ← List.drop_eq_getElem_cons hk, List.take_append_drop]
  let now := fun q : Pend => q.due == p.due
  refine ⟨(ps.take k).filter now, (ps.drop (k + 1)).filter now, ?_, fun q hq => ?_⟩
  · refine (congrArg (List.filter now) parts).trans ?_
    rw [List.filter_append, List.filter_cons_of_pos (p := now) (beq_self_eq_true p.due)]
  · obtain ⟨mem, due⟩ := List.mem_filter.mp hq
    obtain ⟨i, hi⟩ := List.mem_iff_getElem?.mp mem
    exact ⟨k + 1 + i, by rwa [List.getElem?_drop] at hi, .inr ⟨eq_of_beq due, by omega⟩⟩

/-- R80: of the results due up to a position those applied behind `p` are due later, or stand later in the run. -/
theorem pendsUpTo_split {ps : List Pend} {k n : Nat} {p : Pend} (hp : ps[k]? = some p) (hn : p.due ≤ n) :
    ∃ xs ys, pendsUpTo n ps = xs ++ p :: ys ∧ ∀ q ∈ ys, comesAfter ps k p.due q := by
  obtain ⟨as, bs, same, later⟩ := filter_due_split hp
  induction n with
  | zero => exact ⟨as, bs, by simpa [pendsUpTo, Nat.le_zero.mp hn] using same, later⟩
  | succ n ih =>
    rw [pendsUpTo_succ]
    by_cases now : p.due = n + 1
    · exact ⟨pendsUpTo n ps ++ as, bs, by rw [← now, same, List.append_assoc], later⟩
    · obtain ⟨xs, ys, split, after⟩ := ih (by omega)
      refine ⟨xs, ys ++ ps.filter (fun q => q.due == n + 1), by rw [split]; simp, fun q hq => ?_⟩
      rcases List.mem_append.mp hq with hq | hq
      · exact after q hq
      · obtain ⟨mem, due⟩ := List.mem_filter.mp hq
        obtain ⟨k', hk⟩ := List.mem_iff_getElem?.mp mem
        exact ⟨k', hk, .inl (by rw [eq_of_beq due]; omega)⟩

section reading
variable {A : Type} (read : GangRegs → A) {d : Dst} (keeps : ∀ r e, e.dst ≠ d → read (r.apply e) = read r)
include keeps

/-- What reads one destination is not changed by results for others. -/
theorem read_foldl_apply {ps : List Pend} (others : ∀ p ∈ ps, p.eff.dst ≠ d) (r : GangRegs) :
    read (ps.foldl (fun r p => r.apply p.eff) r) = read r := by
  induction ps generalizing r with
  | nil => rfl
  | cons p ps ih =>
    obtain ⟨hp, others⟩ := List.forall_mem_cons.mp others
    rw [List.foldl_cons, ih others, keeps _ _ hp]

/-- R80: a destination reads what the result due last on it writes. -/
theorem read_pendsUpTo_of_isLastDue {ps : List Pend} {k n : Nat} {p : Pend} (last : isLastDue ps k p) (hd : p.eff.dst = d)
    (due : p.due ≤ n) (r : GangRegs) {x : A} (writes : ∀ r' : GangRegs, r'.lanes.length = r.lanes.length → read (r'.apply p.eff) = x) :
    read ((pendsUpTo n ps).foldl (fun r p => r.apply p.eff) r) = x := by
  obtain ⟨hp, last⟩ := last
  obtain ⟨xs, ys, split, later⟩ := pendsUpTo_split hp due
  have others : ∀ q ∈ ys, q.eff.dst ≠ d := by
    intro q hq same
    obtain ⟨k', hk, behind⟩ := later q hq
    have before := last k' q hk (same.trans hd.symm)
    by_cases here : k' = k
    · subst here
      obtain rfl : q = p := Option.some.inj (hk.symm.trans hp)
      omega
    · have := before here
      omega
  rw [split, List.foldl_append, List.foldl_cons, read_foldl_apply read keeps others]
  exact writes _ (foldl_keeps (fun r => r.lanes.length) _ (fun _ _ => apply_length _ _) xs r)

end reading

/-! ### Lanes that keep their registers -/

theorem sameRegs_refl (l : Lane) : sameRegs l l := ⟨rfl, rfl, rfl, rfl, rfl, rfl, rfl, rfl⟩

theorem sameRegs_trans {a b c : Lane} (h : sameRegs a b) (h' : sameRegs b c) : sameRegs a c := by
  simp only [sameRegs] at *
  simp [h, h']

theorem getV_of_sameRegs {a b : Lane} (h : sameRegs a b) (n : Nat) : b.getV n = a.getV n := by
  obtain ⟨v, _⟩ := h
  rw [Lane.getV, Lane.getV, v]

theorem getK_of_sameRegs {a b : Lane} (h : sameRegs a b) (n : Fin 4) : b.getK n = a.getK n := by
  obtain ⟨_, h0, h1, h2, h3, _⟩ := h
  fin_cases n <;> assumption

/-! ### Gatherings that close (R148, R150) -/

/-- R148: a lane as it was, or one that waited and is runnable again. -/
def goesOn (l l' : Lane) : Prop := l' = l ∨ l.status = .waiting ∧ ∃ k, l' = { l with status := .runnable, stamp := k }

theorem goesOn_trans {a b c : Lane} (h : goesOn a b) (h' : goesOn b c) : goesOn a c := by
  rcases h with rfl | ⟨waits, k, rfl⟩
  · exact h'
  · rcases h' with rfl | ⟨waits', _⟩
    · exact .inr ⟨waits, k, rfl⟩
    · exact absurd waits' (by simp)

theorem sameRegs_of_goesOn {a b : Lane} (h : goesOn a b) : sameRegs a b := by
  rcases h with rfl | ⟨_, k, rfl⟩
  · exact sameRegs_refl _
  · exact ⟨rfl, rfl, rfl, rfl, rfl, rfl, rfl, rfl⟩

theorem pc_of_goesOn {a b : Lane} (h : goesOn a b) : b.pc = a.pc := by
  rcases h with rfl | ⟨_, k, rfl⟩ <;> rfl

theorem exited_of_goesOn {a b : Lane} (h : goesOn a b) (out : a.status = .exited) : b.status = .exited := by
  rcases h with rfl | ⟨waits, _⟩
  · exact out
  · exact absurd (out.symm.trans waits) (by decide)

/-- Changes of lanes change the lanes alone. -/
theorem foldl_modLane_frame (f : Nat → Lane → Lane) (js : List Nat) (r : GangRegs) :
    ∃ lanes, js.foldl (fun r j => r.modLane j (f j)) r = { r with lanes := lanes } := by
  induction js generalizing r with
  | nil => exact ⟨_, rfl⟩
  | cons j js ih =>
    obtain ⟨lanes, h⟩ := ih (r.modLane j (f j))
    exact ⟨lanes, h⟩

theorem goesOn_foldl_modLane {f : Nat → Lane → Lane} (hf : ∀ j l, goesOn l (f j l)) (js : List Nat) (r : GangRegs) (i : Nat) :
    goesOn (r.lane i) ((js.foldl (fun r j => r.modLane j (f j)) r).lane i) := by
  induction js generalizing r with
  | nil => exact .inl rfl
  | cons j js ih =>
    refine goesOn_trans ?_ (ih _)
    rw [lane_modLane]
    split
    · exact hf j _
    · exact .inl rfl

/-- R148: a gathering that closes changes the gatherings and outstanding results, and lets lanes that wait go on. -/
theorem closeOne_frame (g : Gang) (h : Gathering) :
    ∃ gath out lanes, g.closeOne h = { g with gath := gath, out := out, regs := { g.regs with lanes := lanes } } ∧
      ∀ i, goesOn (g.regs.lane i) ((g.closeOne h).regs.lane i) := by
  have wakes : ∀ (_ : Nat) (l : Lane), goesOn l (if l.status = .waiting then { l with status := .runnable, stamp := g.run } else l) := by
    intro _ l
    split
    · exact .inr ⟨‹_›, g.run, rfl⟩
    · exact .inl rfl
  obtain ⟨lanes, e⟩ := foldl_modLane_frame
    (fun _ l => if l.status = .waiting then { l with status := .runnable, stamp := g.run } else l)
    ((h.parts.filter (fun p => p.guard)).map (·.lane)) g.regs
  exact ⟨_, _, lanes, by rw [← e]; rfl, goesOn_foldl_modLane wakes _ g.regs⟩

theorem foldl_closeOne_frame (hs : List Gathering) (g : Gang) :
    ∃ gath out lanes, hs.foldl Gang.closeOne g = { g with gath := gath, out := out, regs := { g.regs with lanes := lanes } } ∧
      ∀ i, goesOn (g.regs.lane i) ((hs.foldl Gang.closeOne g).regs.lane i) := by
  induction hs generalizing g with
  | nil => exact ⟨_, _, _, rfl, fun _ => .inl rfl⟩
  | cons h hs ih =>
    obtain ⟨gath, out, lanes, e, before⟩ := closeOne_frame g h
    obtain ⟨gath', out', lanes', e', rest⟩ := ih (g.closeOne h)
    exact ⟨gath', out', lanes', by rw [List.foldl_cons, e', e], fun i => goesOn_trans (before i) (rest i)⟩

/-! ### The end of a run (R32) -/

/-- R80: the registers once every result still due is visible. -/
def dueRegs (g : Gang) (r : RunIssue) : GangRegs := (pendsUpTo lastDue r.pends).foldl (fun x p => x.apply p.eff) g.regs

/-- R32: the registers once the lanes of the clutch that are left have moved on. -/
def movedRegs (r : RunIssue) (run : Nat) (after : W64) (x : GangRegs) : GangRegs :=
  (lanesOf (r.clutch &&& ~~~r.gone)).foldl (fun t i => t.modLane i (endLane r run after i)) x

theorem dueRegs_length (g : Gang) (r : RunIssue) : (dueRegs g r).lanes.length = g.regs.lanes.length :=
  foldl_keeps (fun r => r.lanes.length) _ (fun _ _ => apply_length _ _) _ g.regs

/-- R32, R80: what the end of a run leaves. -/
theorem endRun_frame {g : Gang} {r : RunIssue} (issuing : g.issue = some r) (cycle bounds : Nat) (after : W64) (park : Bool) :
    ∃ gath out lanes, g.endRun cycle bounds after park = { g with
        gath := gath, out := out, regs := { movedRegs r g.run after (dueRegs g r) with lanes := lanes }
        issue := none
        runs := g.runs ++ [⟨g.run, r.start, r.clutch, cycle, r.held, r.snapshot, r.exits &&& (r.clutch &&& ~~~r.gone)⟩]
        run := g.run + 1, waits := g.waits ++ r.waits, seam := g.seam || park, yielded := r.yielded, ageBase := bounds } ∧
      ∀ i, goesOn ((movedRegs r g.run after (dueRegs g r)).lane i) ((g.endRun cycle bounds after park).regs.lane i) := by
  obtain ⟨out, settled⟩ := settle_frame issuing lastDue
  unfold Gang.endRun Gang.closeGatherings
  rw [settled]
  obtain ⟨gath, out, lanes, e, woken⟩ := foldl_closeOne_frame _ _
  exact ⟨gath, out, lanes, e, woken⟩

theorem sameRegs_endLane (r : RunIssue) (run : Nat) (after : W64) (i : Nat) (l : Lane) : sameRegs l (endLane r run after i l) := by
  unfold endLane
  split <;> exact ⟨rfl, rfl, rfl, rfl, rfl, rfl, rfl, rfl⟩

theorem movedRegs_lane (r : RunIssue) (run : Nat) (after : W64) (x : GangRegs) {j : Nat} (hj : j < x.lanes.length) (h32 : j < 32) :
    (movedRegs r run after x).lane j =
      if maskHas (r.clutch &&& ~~~r.gone) j then endLane r run after j (x.lane j) else x.lane j := by
  simp only [movedRegs, lane_foldl_modLane _ (lanesOf_nodup _), mem_lanesOf, hj, h32, true_and, and_true]

/-- R32: a lane of the gang keeps the registers that the due results leave. -/
theorem sameRegs_endRun {g : Gang} {r : RunIssue} (issuing : g.issue = some r) (cycle bounds : Nat) (after : W64) (park : Bool)
    {j : Nat} (hj : j < g.regs.lanes.length) (h32 : j < 32) :
    sameRegs ((dueRegs g r).lane j) ((g.endRun cycle bounds after park).regs.lane j) := by
  obtain ⟨_, _, _, _, woken⟩ := endRun_frame issuing cycle bounds after park
  refine sameRegs_trans ?_ (sameRegs_of_goesOn (woken j))
  rw [movedRegs_lane r g.run after _ ((dueRegs_length g r).symm ▸ hj) h32]
  split
  · exact sameRegs_endLane ..
  · exact sameRegs_refl _

/-- Settles O22: the end of a run is its due results, then its lanes moved, then gatherings closed; the last two keep every
register. -/
theorem endOfRunMovesTheLanes : Obligations.EndOfRunMovesTheLanes := by
  intro g r cycle bounds after park issuing due g' last
  obtain ⟨gath, out, lanes, e, woken⟩ := endRun_frame issuing cycle bounds after park
  have scalars : ∀ n, g'.regs.getS n = (dueRegs g r).getS n := fun n =>
    congrArg (tabGet 0 · n) ((congrArg (fun g => g.regs.s) e).trans (foldl_modLane_s _ _ _))
  have due : ∀ k p, last k p → p.due ≤ lastDue := fun k p h => due p (List.mem_of_getElem? h.1)
  have pending : ∀ p ∈ pendsUpTo lastDue r.pends, p ∈ r.pends := fun p => mem_of_mem_pendsUpTo
  refine ⟨congrArg Gang.issue e, congrArg Gang.run e, fun hp => ?seam, ?quarantine, fun j hj h32 => ?lane⟩
  case seam => exact (congrArg Gang.seam e).trans (by rw [hp]; exact Bool.or_true _)
  case quarantine =>
    have runs : g'.runs = g.runs ++ [_] := congrArg Gang.runs e
    rw [runs]
    exact ⟨_, List.mem_append_right _ (List.mem_singleton_self _), rfl, rfl, rfl, rfl⟩
  have hj' := (dueRegs_length g r).symm ▸ hj
  have kept := sameRegs_endRun issuing cycle bounds after park hj h32
  refine ⟨fun act => ?moves, fun k p n x hl he => ?v, fun n other => ?vKept, fun k p n x hl he => ?k,
    fun n other => ?kKept, fun k p n x hl he => ?s, fun n other => ?sKept, fun nothing => ?nothingDue⟩
  case moves =>
    have moved := movedRegs_lane r g.run after _ hj' h32
    rw [if_pos act] at moved
    refine ⟨fun exits => exited_of_goesOn (woken j) ?_, fun stays => (pc_of_goesOn (woken j)).trans ?_⟩
    · rw [moved, endLane, if_pos exits]
    · rw [moved, endLane, if_neg (by simp [stays])]
  case v =>
    rw [getV_of_sameRegs kept]
    exact read_pendsUpTo_of_isLastDue (fun r => (r.lane j).getV n) (getV_apply_of_dst_ne j n) hl (he ▸ rfl) (due k p hl) g.regs
      (fun r' len => he ▸ getV_apply_self r' (len.symm ▸ hj) n x)
  case vKept =>
    rw [getV_of_sameRegs kept]
    exact read_foldl_apply (fun r => (r.lane j).getV n) (getV_apply_of_dst_ne j n) (fun p hp => other p (pending p hp)) g.regs
  case k =>
    rw [getK_of_sameRegs kept]
    exact read_pendsUpTo_of_isLastDue (fun r => (r.lane j).getK n) (getK_apply_of_dst_ne j n) hl (he ▸ rfl) (due k p hl) g.regs
      (fun r' len => he ▸ getK_apply_self r' (len.symm ▸ hj) n x)
  case kKept =>
    rw [getK_of_sameRegs kept]
    exact read_foldl_apply (fun r => (r.lane j).getK n) (getK_apply_of_dst_ne j n) (fun p hp => other p (pending p hp)) g.regs
  case s =>
    rw [scalars]
    exact read_pendsUpTo_of_isLastDue (fun r => r.getS n) (getS_apply_of_dst_ne n) hl (he ▸ rfl) (due k p hl) g.regs
      (fun r' _ => he ▸ getS_setS_self r' n x)
  case sKept =>
    rw [scalars]
    exact read_foldl_apply (fun r => r.getS n) (getS_apply_of_dst_ne n) (fun p hp => other p (pending p hp)) g.regs
  case nothingDue =>
    have noneDue : pendsUpTo lastDue r.pends = [] := by simp [nothing, pendsUpTo]
    rwa [dueRegs, noneDue] at kept

end Sys2Proof.Machine
end

section
/-! PROOFS. The clutch (R30) and the run boundary (R78, R83, R85, R189, R204). -/
namespace Sys2Proof.Machine
open Sys2Proof.Laws Sys2Proof.Claim

/-! ### The clutch (R30) -/

/-- What R30 orders lanes by: the ready stamp, then the address. -/
def clutchKey (l : Lane) : Nat × W64 := (l.stamp, l.pc)

/-- R30: a key that has waited as long as another or longer; of equal stamps the lower address. -/
def keyLe (a b : Nat × W64) : Prop := a.1 < b.1 ∨ (a.1 = b.1 ∧ a.2.toNat ≤ b.2.toNat)

theorem keyLe_refl (a : Nat × W64) : keyLe a a := .inr ⟨rfl, Nat.le_refl _⟩

theorem keyLe_trans {a b c : Nat × W64} (h : keyLe a b) (h' : keyLe b c) : keyLe a c := by
  unfold keyLe at *
  omega

/-- The older of the best key so far and that of lane `i`. -/
def olderKey (r : GangRegs) (a : Option (Nat × W64)) (i : Nat) : Option (Nat × W64) :=
  match a with
  | none => some (clutchKey (r.lane i))
  | some b =>
    if (r.lane i).stamp < b.1 ∨ ((r.lane i).stamp = b.1 ∧ (r.lane i).pc.toNat < b.2.toNat) then some (clutchKey (r.lane i)) else a

/-- The lanes of a gang that are runnable. -/
def runnableLanes (r : GangRegs) : List Nat := (List.range 32).filter (fun i => (r.lane i).status == .runnable)

/-- R30: the clutch is the group of the oldest key among the runnable lanes. -/
theorem formClutch_eq (r : GangRegs) : formClutch r = ((runnableLanes r).foldl (olderKey r) none).map (fun b =>
    (b.2, laneSet (fun i => (r.lane i).status == .runnable && (r.lane i).pc == b.2))) := rfl

theorem mem_runnableLanes (r : GangRegs) (i : Nat) : i ∈ runnableLanes r ↔ i < 32 ∧ (r.lane i).status = .runnable := by
  simp [runnableLanes]

/-- The older of two keys is one of them, and at least as old as both. -/
theorem olderKey_spec (r : GangRegs) (a : Option (Nat × W64)) (i : Nat) :
    ∃ b, olderKey r a i = some b ∧ (a = some b ∨ b = clutchKey (r.lane i)) ∧ (∀ x, a = some x → keyLe b x) ∧
      keyLe b (clutchKey (r.lane i)) := by
  cases a with
  | none => exact ⟨_, rfl, .inr rfl, fun _ h => (nomatch h), keyLe_refl _⟩
  | some x =>
    unfold olderKey
    by_cases older : (r.lane i).stamp < x.1 ∨ ((r.lane i).stamp = x.1 ∧ (r.lane i).pc.toNat < x.2.toNat)
    · refine ⟨_, if_pos older, .inr rfl, fun y hy => ?_, keyLe_refl _⟩
      obtain rfl := Option.some.inj hy
      exact older.imp_right (And.imp_right Nat.le_of_lt)
    · refine ⟨_, if_neg older, .inl rfl, fun y hy => Option.some.inj hy ▸ keyLe_refl _, ?_⟩
      simp only [keyLe, clutchKey]
      omega

/-- R30: the key found is the first one or a lane's, and at least as old as all of them. -/
theorem foldl_olderKey_spec (r : GangRegs) (js : List Nat) (a : Option (Nat × W64)) :
    (js.foldl (olderKey r) a = none → a = none ∧ js = []) ∧
    ∀ b, js.foldl (olderKey r) a = some b →
      (a = some b ∨ ∃ j ∈ js, b = clutchKey (r.lane j)) ∧ (∀ x, a = some x → keyLe b x) ∧ ∀ j ∈ js, keyLe b (clutchKey (r.lane j)) := by
  induction js generalizing a with
  | nil =>
    refine ⟨fun h => ⟨h, rfl⟩, fun b h => ⟨.inl h, fun x hx => ?_, fun j hj => absurd hj List.not_mem_nil⟩⟩
    obtain rfl : b = x := Option.some.inj (h.symm.trans hx)
    exact keyLe_refl _
  | cons i js ih =>
    obtain ⟨c, hc, origin, older, own⟩ := olderKey_spec r a i
    obtain ⟨nothing, found⟩ := ih (some c)
    simp only [List.foldl_cons, hc]
    refine ⟨fun h => (nomatch (nothing h).1), fun b h => ?_⟩
    obtain ⟨source, le, all⟩ := found b h
    have le := le c rfl
    refine ⟨?_, fun x hx => keyLe_trans le (older x hx), fun j hj => ?_⟩
    · rcases source with e | ⟨j, hj, e⟩
      · obtain rfl := Option.some.inj e
        exact origin.imp_right (fun e => ⟨i, List.mem_cons_self, e⟩)
      · exact .inr ⟨j, List.mem_cons_of_mem _ hj, e⟩
    · rcases List.mem_cons.mp hj with rfl | hj
      · exact keyLe_trans le own
      · exact all j hj

theorem clutchIsTheOldestGroup : Claim.clutchIsTheOldestGroup := by
  intro r
  obtain ⟨nothing, found⟩ := foldl_olderKey_spec r (runnableLanes r) none
  rw [formClutch_eq]
  refine ⟨⟨fun h i hi runs => ?_, fun idle => ?_⟩, fun pc m h => ?_⟩
  · obtain ⟨_, empty⟩ := nothing (Option.map_eq_none_iff.mp h)
    exact List.not_mem_nil (empty ▸ (mem_runnableLanes r i).mpr ⟨hi, runs⟩)
  · have empty : runnableLanes r = [] := List.eq_nil_iff_forall_not_mem.mpr (fun i hi =>
      have ⟨lt, runs⟩ := (mem_runnableLanes r i).mp hi
      idle i lt runs)
    rw [empty]
    rfl
  · obtain ⟨b, hb, e⟩ := Option.map_eq_some_iff.mp h
    obtain ⟨rfl, rfl⟩ := Prod.mk.inj e
    obtain ⟨origin, _, oldest⟩ := found b hb
    have group : ∀ i, i < 32 → (maskHas (laneSet (fun i => (r.lane i).status == .runnable && (r.lane i).pc == b.2)) i = true ↔
        (r.lane i).status = .runnable ∧ (r.lane i).pc = b.2) := fun i hi => by simp [hi]
    obtain ⟨j, hj, rfl⟩ := origin.resolve_left (fun e => nomatch e)
    obtain ⟨lt, runs⟩ := (mem_runnableLanes r j).mp hj
    exact ⟨group, j, lt, (group j lt).mpr ⟨runs, rfl⟩, fun i hi runs => oldest i ((mem_runnableLanes r i).mpr ⟨hi, runs⟩)⟩

/-! ### Partitions -/

theorem part_modPart_self (c : CoreSt) {p : Nat} (hp : p < c.parts.length) (f : Part → Part) : (c.modPart p f).part p = f (c.part p) := by
  simp [CoreSt.part, CoreSt.modPart, List.getD_eq_getElem?_getD, hp]

@[simp] theorem modPart_length (c : CoreSt) (p : Nat) (f : Part → Part) : (c.modPart p f).parts.length = c.parts.length := by
  simp [CoreSt.modPart]

/-- Changing a partition of a core and reading it gives the change. -/
theorem part_modCore_modPart (s : State) {c p : Nat} (hp : p < (s.core c).parts.length) (f : Part → Part) :
    ((s.modCore c (fun k => k.modPart p f)).core c).part p = f ((s.core c).part p) := by
  rw [core_modCore_self, part_modPart_self _ hp]

@[simp] theorem modCore_modPart_length (s : State) (c p : Nat) (f : Part → Part) :
    ((s.modCore c (fun k => k.modPart p f)).core c).parts.length = (s.core c).parts.length := by
  rw [core_modCore_self, modPart_length]

/-- A turn of a partition at most begins the next cycle. -/
theorem partTurn_frame (s : State) (core part : Nat) : ∃ n, partTurn s core part = { s with cycle := n } := by
  unfold partTurn
  split <;> exact ⟨_, rfl⟩

@[simp] theorem partTurn_mem (s : State) (core part : Nat) : (partTurn s core part).mem = s.mem := by
  obtain ⟨n, h⟩ := partTurn_frame s core part
  rw [h]

@[simp] theorem partTurn_core (s : State) (core part c : Nat) : (partTurn s core part).core c = s.core c := by
  obtain ⟨n, h⟩ := partTurn_frame s core part
  rw [h]
  rfl

/-- R189: a boundary of a partition is counted, and one that Chorus asked for has been left empty. -/
def countBoundary (s : State) (core part : Nat) : State :=
  s.modCore core (fun c => c.modPart part (fun p => { p with bounds := p.bounds + 1, leaveEmpty := false }))

theorem useCycle_part (s : State) {core part : Nat} (hp : part < (s.core core).parts.length) :
    ((useCycle s core part).core core).part part = { (s.core core).part part with busy := s.cycle } := part_modCore_modPart s hp _

theorem countBoundary_part (s : State) {core part : Nat} (hp : part < (s.core core).parts.length) :
    ((countBoundary s core part).core core).part part =
      { (s.core core).part part with bounds := ((s.core core).part part).bounds + 1, leaveEmpty := false } := part_modCore_modPart s hp _

/-! ### What a boundary does (R189, R204) -/

theorem exec_runBoundary (core part : Nat) (s : State) : exec (.runBoundary core part) s = execRunBoundary core part s := rfl

section boundary
variable {s : State} {core part : Nat} (usable : partUsable s core part = true) (idle : issuingGang s core part = none)
include usable idle

/-- R204: a boundary that Chorus asked for is empty. -/
theorem exec_runBoundary_of_leaveEmpty (leave : (((partTurn s core part).core core).part part).leaveEmpty = true) :
    exec (.runBoundary core part) s = .next (countBoundary (useCycle (partTurn s core part) core part) core part) := by
  rw [exec_runBoundary, execRunBoundary]
  simp only [usable, idle, leave, Option.isSome_none, Bool.not_true, Bool.or_self, Bool.false_eq_true, if_false, if_true]
  rfl

/-- R189: with no winner the cycle is empty. -/
theorem exec_runBoundary_of_no_winner (go : (((partTurn s core part).core core).part part).leaveEmpty = false)
    (noWinner : boundaryWinner (boundaryOrder (partTurn s core part) core part) = none) :
    exec (.runBoundary core part) s = .next (useCycle (boundaryState (partTurn s core part) core part) core part) := by
  unfold boundaryOrder at noWinner
  rw [exec_runBoundary, execRunBoundary]
  simp only [usable, idle, go, Option.isSome_none, Bool.not_true, Bool.or_self, Bool.false_eq_true, if_false]
  simp only [activeSlots, noWinner]
  rfl

/-- R189, R191: a winner starts its run from age 0; where nothing enters issue the cycle is empty. -/
theorem exec_runBoundary_of_winner {g : Gang} (go : (((partTurn s core part).core core).part part).leaveEmpty = false)
    (wins : boundaryWinner (boundaryOrder (partTurn s core part) core part) = some g) :
    let t := startRun ((boundaryState (partTurn s core part) core part).modGang g.uid (fun x =>
      { x with ageBase := (((partTurn s core part).core core).part part).bounds + 1 })) g.uid
    exec (.runBoundary core part) s = .next t ∨ exec (.runBoundary core part) s = .next (useCycle t core part) := by
  unfold boundaryOrder at wins
  rw [exec_runBoundary, execRunBoundary]
  simp only [usable, idle, go, Option.isSome_none, Bool.not_true, Bool.or_self, Bool.false_eq_true, if_false]
  simp only [activeSlots, wins]
  split
  · exact .inl rfl
  · exact .inr rfl

end boundary

/-! ### The start of a run (R78, R83, R85) -/

theorem oldCode_frame (s : State) (launch : Nat) (vs : List CodeVer) (acc : List (Nat × Byte)) :
    ∃ f, (oldCode s launch vs acc).2 = { s with free := f } := by
  induction vs generalizing s acc with
  | nil => exact ⟨_, rfl⟩
  | cons v vs ih =>
    unfold oldCode
    dsimp only
    split
    · split
      · exact ih s _
      · split
        · obtain ⟨f, h⟩ := ih s.choose.2 (v.bytes ++ acc)
          exact ⟨f, h⟩
        · exact ⟨_, rfl⟩
    · exact ih s acc

/-- R85: which words a run finds is a matter of free choices alone. -/
theorem codeSeen_frame (s : State) (launch : Nat) : ∃ f, (codeSeen s launch).2 = { s with free := f } := by
  unfold codeSeen
  split
  · exact ⟨_, rfl⟩
  · exact oldCode_frame ..

/-- R336, R359: what the requests of a fetch do. -/
theorem fetchAsk_frame (s : State) (core asid : Nat) (pc : W64) (n : Nat) :
    ∃ m q f, fetchAsk s core asid pc n = { s with motions := m, chanQ := q, free := f } := by
  obtain ⟨m, q, f, walks⟩ := askWalks_eq s core true asid ((List.range n).map (fun i => (wordAfter pc i).toNat))
  unfold fetchAsk
  dsimp only
  rw [walks]
  exact ownRead_eq _ _ _ _

/-- R34: a gang without a recorded clutch has none to issue again. -/
theorem replayClutch_of_nil {g : Gang} (h : g.replayQ = []) : replayClutch g = none := by
  simp [replayClutch, Gang.replaysLeft, h]

/-- R78, R83, R85: the start of a run whose words were fetched: the clutch parks with what the static checks found, else its
words enter issue. -/
theorem startRun_of_words {s : State} {u : Nat} {g : Gang} {pc : W64} {clutch : LaneMask} {ws : List W64} (here : s.gang? u = some g)
    (fresh : g.replayQ = []) (forms : formClutch g.regs = some (pc, clutch))
    (fetched : fetchRun s g.core (gangAsid (s.blockOf g)) ((s.blockOf g).elim 0 (·.launch)) pc = .words ws) :
    ∃ m q f, let asked : State := { s with motions := m, chanQ := q, free := f }
      let check := staticFault g.vregs g.sregs ((s.blockOf g).elim 0 (·.tilesT)) ws
      (check = none → startRun s u = startIssue asked u pc clutch ws) ∧
      ∀ c d i, check = some (c, d, i) → startRun s u = parkAtStart asked u pc clutch c d (wordAfter pc i) := by
  obtain ⟨f, seen⟩ := codeSeen_frame s ((s.blockOf g).elim 0 (·.launch))
  obtain ⟨m, q, f', asked⟩ := fetchAsk_frame { s with free := f } g.core (gangAsid (s.blockOf g)) pc ws.length
  refine ⟨m, q, f', fun passed => ?_, fun c d i failed => ?_⟩
  · unfold startRun
    simp only [here, replayClutch_of_nil fresh, forms, Option.orElse_none, fetched, seen, asked, passed]
  · unfold startRun
    simp only [here, replayClutch_of_nil fresh, forms, Option.orElse_none, fetched, seen, asked, failed]

theorem faultFor_fields (s : State) (g : Gang) (cause detail : Nat) (pc addr : W64) (lanes : LaneMask) :
    let r := faultFor s g cause detail pc addr lanes
    r.cause = cause ∧ r.detail = detail ∧ r.pc = pc ∧ r.addr = addr ∧ r.lanes = lanes := by
  unfold faultFor
  split <;> exact ⟨rfl, rfl, rfl, rfl, rfl⟩

/-- A lane that is runnable has its place in the gang. -/
theorem lt_length_of_runnable {r : GangRegs} {j : Nat} (h : (r.lane j).status = .runnable) : j < r.lanes.length := by
  by_contra out
  rw [lane_of_length_le r (Nat.le_of_not_lt out)] at h
  exact absurd h (by decide)

theorem gangIn_modGang {s : State} {u : Nat} {g : Gang} {f : Gang → Gang} {P : Gang → Prop} (here : s.gang? u = some g)
    (keeps : ∀ g, (f g).uid = g.uid) (holds : P (f g)) : gangIn (s.modGang u f) u P :=
  ⟨f g, by rw [gang?_modGang_self s u f keeps, here]; rfl, holds⟩

theorem eq_of_gang?_modGang {s : State} {u : Nat} {g : Gang} {f : Gang → Gang} (here : (s.modGang u f).gang? u = some g)
    (keeps : ∀ g, (f g).uid = g.uid) : ∃ x, s.gang? u = some x ∧ f x = g :=
  Option.map_eq_some_iff.mp ((gang?_modGang_self s u f keeps).symm.trans here)

/-- R83: the words as fetched enter issue. -/
theorem gangIn_startIssue {s : State} {u : Nat} {g : Gang} (here : s.gang? u = some g) (pc : W64) (clutch : LaneMask) (ws : List W64) :
    gangIn (startIssue s u pc clutch ws) u (fun g1 => g1.regs = g.regs ∧ g1.ageBase = g.ageBase ∧ ∃ r, g1.issue = some r ∧
      r.start = pc ∧ r.words = ws ∧ r.idx = 0 ∧ r.clutch = clutch ∧ r.gone = 0 ∧ r.snapshot = g.regs ∧ r.held = [] ∧ r.pends = []) := by
  exact gangIn_modGang here (fun _ => rfl) ⟨rfl, rfl, _, rfl, rfl, rfl, rfl, rfl, rfl, rfl, rfl, rfl⟩

/-- R78: the clutch parks at the run's first word, and its record stands in quarantine. -/
theorem gangIn_parkAtStart {s : State} {u : Nat} {g : Gang} {pc : W64} {clutch : LaneMask} (here : s.gang? u = some g)
    (forms : formClutch g.regs = some (pc, clutch)) (cause detail : Nat) (addr : W64) :
    gangIn (parkAtStart s u pc clutch cause detail addr) u (fun g1 => g1.issue = g.issue ∧ g1.ageBase = g.ageBase ∧
      (∀ j, j < 32 → maskHas clutch j = true → (g1.regs.lane j).status = .parked ∧ (g1.regs.lane j).pc = pc) ∧
      ∃ q ∈ g1.runs, ∃ h ∈ q.held, ∃ req, h.eff = .fault req ∧ req.cause = cause ∧ req.detail = detail ∧ req.pc = pc ∧
        req.addr = addr ∧ req.lanes = clutch) := by
  refine gangIn_modGang here (fun _ => rfl) ⟨rfl, rfl, fun j hj act => ?_, ?_⟩
  · obtain ⟨runs, stands⟩ := (((clutchIsTheOldestGroup g.regs).2 pc clutch forms).1 j hj).mp act
    have parked := lane_foldl_modLane (fun _ l => { l with status := .parked }) (lanesOf_nodup clutch) g.regs j
    rw [if_pos ⟨(mem_lanesOf clutch j).mpr ⟨hj, act⟩, lt_length_of_runnable runs⟩] at parked
    exact ⟨congrArg Lane.status parked, (congrArg Lane.pc parked).trans stands⟩
  · exact ⟨_, List.mem_append_right _ (List.mem_singleton_self _), _, List.mem_singleton_self _, _, rfl, faultFor_fields ..⟩

/-- A boundary with a winner leaves of memory and of the gangs what the start of its run leaves. -/
theorem after_runBoundary_of_winner {s : State} {core part : Nat} {g : Gang} (usable : partUsable s core part = true)
    (idle : issuingGang s core part = none) (go : (((partTurn s core part).core core).part part).leaveEmpty = false)
    (wins : boundaryWinner (boundaryOrder (partTurn s core part) core part) = some g) {u : Nat} {P : Gang → Prop} {t : State}
    (starts : startRun ((boundaryState (partTurn s core part) core part).modGang g.uid (fun x =>
      { x with ageBase := (((partTurn s core part).core core).part part).bounds + 1 })) g.uid = t)
    (mem : t.mem = s.mem) (holds : gangIn t u P) : After (.runBoundary core part) s (fun t => t.mem = s.mem ∧ gangIn t u P) := by
  subst starts
  rcases exec_runBoundary_of_winner usable idle go wins with e | e
  · exact ⟨_, e, mem, holds⟩
  · exact ⟨_, e, mem, holds⟩

theorem runBoundariesStartRuns : Claim.runBoundariesStartRuns := by
  intro s core part usable idle hpart s1 p done
  have hpart : part < (s1.core core).parts.length := (partTurn_core s core part core).symm ▸ hpart
  refine ⟨fun leave => ⟨_, exec_runBoundary_of_leaveEmpty usable idle leave, rfl, ?_⟩,
    fun go noWinner => ⟨_, exec_runBoundary_of_no_winner usable idle go noWinner, rfl, ?_⟩, ?_⟩
  · rw [countBoundary_part _ ((modCore_modPart_length ..).symm ▸ hpart), useCycle_part _ hpart]
  · have counted : ((boundaryState s1 core part).core core).part part = { p with bounds := p.bounds + 1, leaveEmpty := false } :=
      countBoundary_part (putGangs s1 _) hpart
    rw [useCycle_part _ ((modCore_modPart_length ..).symm ▸ hpart), counted]
    rfl
  · intro g g0 pc clutch ws go wins s2 here fresh forms fetched check
    have age : g0.ageBase = p.bounds + 1 := by
      obtain ⟨x, _, rfl⟩ := eq_of_gang?_modGang here (fun _ => rfl)
      rfl
    have mem : s2.mem = s.mem := partTurn_mem s core part
    obtain ⟨m, q, f, enters, parks⟩ := startRun_of_words here fresh forms fetched
    have here' : ({ s2 with motions := m, chanQ := q, free := f } : State).gang? g.uid = some g0 := here
    refine ⟨fun passed => ?_, fun c d i failed => ?_⟩
    · exact after_runBoundary_of_winner usable idle go wins (enters passed) mem (age ▸ gangIn_startIssue here' pc clutch ws)
    · exact after_runBoundary_of_winner usable idle go wins (parks c d i failed) mem
        (age ▸ gangIn_parkAtStart here' forms c d (wordAt pc i))

/-- Settles O36, by its two parts: the clutch and the boundary. -/
theorem clutchesAndRunBoundaries : Obligations.ClutchesAndRunBoundaries := ⟨clutchIsTheOldestGroup, runBoundariesStartRuns⟩

end Sys2Proof.Machine
end

section
/-! PROOFS. Dispatch (R24, R36, R324, R325): a block of a launch placed on its cores. -/
namespace Sys2Proof.Machine
open Sys2Proof.Laws Sys2Proof.Claim

/-! ### Launches -/

/-- Changing a launch and reading it gives the change, if the change keeps its identifier. -/
theorem launch?_modLaunch_self {s : State} {id : Nat} {l0 : Launch} (h : s.launch? id = some l0) (f : Launch → Launch)
    (keeps : ∀ l, (f l).id = l.id) : (s.modLaunch id f).launch? id = some (f l0) := by
  have moved : (fun l : Launch => l.id == id) ∘ (fun l => if l.id = id then f l else l) = fun l => l.id == id := by
    funext l
    by_cases hl : l.id = id <;> simp [hl, keeps]
  have same : l0.id = id := eq_of_beq (List.find?_some (p := fun l : Launch => l.id == id) h)
  rw [State.launch?] at h
  rw [State.launch?, State.modLaunch, List.find?_map, moved, h, Option.map_some, if_pos same]

/-! ### A block on its cores (R24, R210) -/

/-- R24, R325: a block as it stands on its cores. -/
def stood (s : State) (cores : List Nat) (n : Nat) (b : Block) : Block :=
  { b with cores := cores, span := n, phase := .running, avoidQuad := none, lastQuad := (cores.head?).map quadOf,
           startedNs := s.now, drain := false, pool := dieOf ((cores.head?).getD 0) }

theorem splitCores_frame (s : State) (l : Launch) (cores : List Nat) : ∃ cs, splitCores s l cores = { s with cores := cs } := by
  unfold splitCores
  induction cores generalizing s with
  | nil => exact ⟨_, rfl⟩
  | cons c cores ih =>
    obtain ⟨cs, h⟩ := ih (s.modCore c (fun k => if k.l1size = 0 then { k with l1size := l.l1 } else k))
    exact ⟨cs, h⟩

/-- R327: the notes of the intervals in which a launch's blocks are saved change launches alone, and place no block. -/
theorem markSaved_frame (s : State) (id : Nat) :
    ∃ f : Launch → Launch, (∀ l, (f l).id = l.id) ∧ (∀ l, (f l).next = l.next) ∧ markSaved s id = s.modLaunch id f := by
  refine ⟨_, fun l => ?_, fun l => ?_, rfl⟩ <;> split <;> rfl

/-- R24, R210: what standing on its cores changes beside the block: the splits of cores, and the notes of its launch. -/
theorem standOn_frame (s : State) (l : Launch) (u : Nat) (cores : List Nat) (n : Nat) :
    (∃ cs ls, standOn s l u cores n = { s.modBlock u (stood s cores n) with cores := cs, launches := ls }) ∧
    ∀ l0, s.launch? l.id = some l0 → ∃ l', (standOn s l u cores n).launch? l.id = some l' ∧ l'.next = l0.next := by
  obtain ⟨cs, split⟩ := splitCores_frame (s.modBlock u (stood s cores n)) l cores
  let s1 : State := { s.modBlock u (stood s cores n) with cores := cs }
  obtain ⟨f, keepsId, keepsNext, marked⟩ := markSaved_frame (s1.modLaunch l.id (fun l => l.started s.now)) l.id
  have stands : standOn s l u cores n = (s1.modLaunch l.id (fun l => l.started s.now)).modLaunch l.id f := by
    rw [← marked, ← show _ = s1 from split]
    rfl
  refine ⟨⟨cs, _, stands⟩, fun l0 h => ⟨_, ?_, keepsNext (l0.started s.now)⟩⟩
  have h : s1.launch? l.id = some l0 := h
  rw [stands]
  exact launch?_modLaunch_self (launch?_modLaunch_self h (fun l => l.started s.now) (fun _ => rfl)) f keepsId

/-! ### Gangs at their entry (R24, R36) -/

/-- R36: one gang of a starting block is seated. -/
def seatEntry (l : Launch) (b : Block) (cores : List Nat) (n : Nat) (s : State) (i : Nat) : State :=
  let s' := seatGang l cores n s { entryGang s l b (cores.getD (i / spanStride l n) 0) i with uid := s.nextUid }
  { s' with nextUid := s'.nextUid + 1 }

/-- R24, R36: gang `k` of a block in its entry state, seated beside the gangs `before`; the set it joins is log 91. -/
def entered (s : State) (l : Launch) (b : Block) (cores : List Nat) (n : Nat) (before : List Gang) (k : Nat) (g : Gang) : Prop :=
  g.idx = k ∧ g.block = b.uid ∧ g.core = cores.getD (k / spanStride l n) 0 ∧ g.part = k % 16 ∧ g.vregs = l.vregs ∧ g.sregs = l.sregs ∧
  g.inActive = pendingFull { s with gangs := before } g.core g.part ∧ g.regs.s = entryScalars l b.idx ∧
  g.regs.sfsr = 0x20 ∧ ∀ j, j < 32 → g.regs.lane j = entryLane l (32 * k + j)

/-- R24, R36: the seat of one gang adds that gang, in its entry state, behind the others. -/
theorem seatEntry_frame (s : State) (l : Launch) (b : Block) (cores : List Nat) (n k : Nat) :
    ∃ g, seatEntry l b cores n s k = { s with gangs := s.gangs ++ [g], nextUid := s.nextUid + 1 } ∧
      ∀ s' : State, entered s' l b cores n s.gangs k g := by
  refine ⟨_, rfl, fun s' => ⟨rfl, rfl, rfl, rfl, rfl, rfl, rfl, rfl, rfl, fun j hj => ?_⟩⟩
  simp [GangRegs.lane, entryGang, List.getD_eq_getElem?_getD, hj]

/-- R24, R36: the gangs of a starting block take their seats by number. -/
theorem foldl_seatEntry (l : Launch) (b : Block) (cores : List Nat) (n m : Nat) (s : State) :
    ∃ gs uid, (List.range m).foldl (seatEntry l b cores n) s = { s with gangs := s.gangs ++ gs, nextUid := uid } ∧ gs.length = m ∧
      ∀ (s' : State) (k : Nat) (g : Gang), gs[k]? = some g → entered s' l b cores n (s.gangs ++ gs.take k) k g := by
  induction m with
  | zero => exact ⟨[], s.nextUid, by simp, rfl, fun s' k g h => by simp at h⟩
  | succ m ih =>
    obtain ⟨gs, uid, seated, len, all⟩ := ih
    obtain ⟨g, e, fresh⟩ := seatEntry_frame { s with gangs := s.gangs ++ gs, nextUid := uid } l b cores n m
    refine ⟨gs ++ [g], uid + 1, ?_, by simp [len], fun s' k x h => ?_⟩
    · rw [List.range_succ, List.foldl_append, seated, List.foldl_cons, List.foldl_nil, e]
      simp
    · rcases Nat.lt_or_ge k gs.length with hk | hk
      · rw [List.getElem?_append_left hk] at h
        rw [List.take_append_of_le_length (Nat.le_of_lt hk)]
        exact all s' k x h
      · have last : k = gs.length := by
          have := (List.getElem?_eq_some_iff.mp h).1
          simp at this
          omega
        subst last
        obtain rfl : g = x := by simpa using h
        rw [List.take_left, len]
        exact fresh s'

theorem startBlock_eq (s : State) (l : Launch) (b : Block) (cores : List Nat) (n : Nat) :
    startBlock s l b cores n = (List.range (launchGangs l)).foldl (seatEntry l b cores n) (standOn s l b.uid cores n) := rfl

/-! ### The dispatcher (R324) -/

theorem exec_dispatchBlock (dom : Nat) (s : State) :
    exec (.dispatchBlock dom) s = .next (dispatchFirst (finishSaves s) (dispatchOrder (finishSaves s) dom)) := rfl

/-- R331: with nothing being saved the dispatcher saves nothing. -/
theorem finishSaves_of_none {s : State} (h : ∀ b ∈ s.blocks, b.phase ≠ .preempting) : finishSaves s = s := by
  have noSave : s.blocks.filter (fun b => b.phase == .preempting) = [] :=
    List.filter_eq_nil_iff.mpr (fun b hb => by simpa using h b hb)
  rw [finishSaves, noSave]
  rfl

/-- R324: a package with block `i` of a launch, not yet placed, added to it. -/
def withNewBlock (s : State) (l : Launch) (i : Nat) : State :=
  ({ s with blocks := s.blocks ++ [newBlock l s.nextUid i], nextUid := s.nextUid + 1 } : State).modLaunch l.id (fun l => { l with next := i + 1 })

theorem block?_withNewBlock {s : State} (free : s.block? s.nextUid = none) (l : Launch) (i : Nat) :
    (withNewBlock s l i).block? s.nextUid = some (newBlock l s.nextUid i) := by
  have old : s.blocks.find? (fun b => b.uid == s.nextUid) = none := free
  simp [withNewBlock, State.block?, State.modLaunch, old, newBlock]

theorem launch?_withNewBlock {s : State} {l l0 : Launch} (h : s.launch? l.id = some l0) (i : Nat) :
    (withNewBlock s l i).launch? l.id = some { l0 with next := i + 1 } :=
  launch?_modLaunch_self h (fun l => { l with next := i + 1 }) (fun _ => rfl)

/-- R324: the next block of a launch that is no co-operative grid and has none to place again is a new one. -/
theorem placeNext_of_new {s : State} {l : Launch} {i n : Nat} {cs : List Nat} (single : l.coop = false) (fresh : waitingBlocks s l = [])
    (next : nextIndex l = some i) (span : spanOf s l = some n) (place : findPlace s l n (freshSeats l) none none = some cs) :
    placeNext s l = some (startBlock (withNewBlock s l i) l (newBlock l s.nextUid i) cs n) := by
  simp only [placeNext, single, fresh, next, Bool.false_eq_true, if_false, placeNew, span, place, Option.map_some, withNewBlock]

/-- R24, R36: what the start of the block `b`, just added to a package, leaves. -/
theorem startBlock_spec {s : State} {l : Launch} {b : Block} (here : s.block? b.uid = some b) (cores : List Nat) (n : Nat) :
    (startBlock s l b cores n).mem = s.mem ∧ (startBlock s l b cores n).block? b.uid = some (stood s cores n b) ∧
    (∀ l0, s.launch? l.id = some l0 → ∃ l', (startBlock s l b cores n).launch? l.id = some l' ∧ l'.next = l0.next) ∧
    ∃ gs, (startBlock s l b cores n).gangs = s.gangs ++ gs ∧ gs.length = launchGangs l ∧
      ∀ (s' : State) (k : Nat) (g : Gang), gs[k]? = some g → entered s' l b cores n (s.gangs ++ gs.take k) k g := by
  obtain ⟨⟨cs, ls, stands⟩, launch⟩ := standOn_frame s l b.uid cores n
  obtain ⟨gs, uid, seated, len, all⟩ := foldl_seatEntry l b cores n (launchGangs l) (standOn s l b.uid cores n)
  have gangs : (standOn s l b.uid cores n).gangs = s.gangs := by rw [stands]; rfl
  rw [startBlock_eq, seated]
  rw [gangs] at all ⊢
  refine ⟨by rw [stands]; rfl, ?_, launch, gs, rfl, len, all⟩
  rw [stands]
  exact (block?_modBlock_self s b.uid (stood s cores n) (fun _ => rfl)).trans (congrArg (Option.map _) here)

/-- Settles O46: the dispatcher takes the first launch of its order, and its next block starts on the cores found. -/
theorem dispatchPlacesBlocks : Obligations.DispatchPlacesBlocks := by
  intro s dom nothingSaved
  have dispatches : exec (.dispatchBlock dom) s = .next (dispatchFirst s (dispatchOrder s dom)) := by
    rw [exec_dispatchBlock, finishSaves_of_none nothingSaved]
  refine ⟨fun nothing => by rw [dispatches, nothing]; rfl, fun l rest i n cs order single fresh next span place free => ?_⟩
  rw [order, dispatchFirst, placeNext_of_new single fresh next span place] at dispatches
  obtain ⟨mem, block, launch, gs, gangs, len, all⟩ := startBlock_spec (l := l) (b := newBlock l s.nextUid i) (block?_withNewBlock free l i) cs n
  refine ⟨_, dispatches, mem, ⟨_, block, rfl, rfl, rfl, rfl, rfl, rfl, rfl, rfl, rfl, rfl⟩, fun l0 h => ?_, gs, gangs, len, all s⟩
  exact launch _ (launch?_withNewBlock h i)

end Sys2Proof.Machine
end

section
/-! PROOFS. Exact operations (R126, R134): values as rational numbers, and their sum, product and order. -/
namespace Sys2Proof.Machine
open Sys2Proof.Laws Sys2Proof.Claim

/-! ### Magnitudes as rational numbers -/

/-- The number `m · 2^e`. -/
def mag (m : Nat) (e : Int) : Rat := (m : Rat) * (2 : Rat) ^ e

theorem mag_nonneg (m : Nat) (e : Int) : 0 ≤ mag m e := by unfold mag; positivity

@[simp] theorem mag_zero (e : Int) : mag 0 e = 0 := by simp [mag]

theorem mag_lt_mag_iff {m n : Nat} (e : Int) : mag m e < mag n e ↔ m < n := by
  unfold mag
  rw [mul_lt_mul_iff_left₀ (by positivity), Nat.cast_lt]

theorem mag_le_mag_iff {m n : Nat} (e : Int) : mag m e ≤ mag n e ↔ m ≤ n := by
  unfold mag
  rw [mul_le_mul_iff_left₀ (by positivity), Nat.cast_le]

theorem mag_inj_iff {m n : Nat} (e : Int) : mag m e = mag n e ↔ m = n := by
  unfold mag
  rw [mul_left_inj' (by positivity), Nat.cast_inj]

/-- A magnitude is a greater significand under a lesser exponent. -/
theorem mag_mul_two_pow (m k : Nat) (e : Int) : mag (m * 2 ^ k) e = mag m (e + k) := by
  rw [mag, mag, zpow_add₀ two_ne_zero, zpow_natCast]
  push_cast
  ring

theorem mag_two_pow (k : Nat) (e : Int) : mag (2 ^ k) e = 2 ^ (e + k) := by
  have := mag_mul_two_pow 1 k e
  rwa [Nat.one_mul, mag, mag, Nat.cast_one, one_mul] at this

theorem mag_shiftLeft (m : Nat) {e lo : Int} (h : lo ≤ e) : mag (m <<< (e - lo).toNat) lo = mag m e := by
  rw [Nat.shiftLeft_eq, mag_mul_two_pow]
  congr 1
  omega

theorem magLt_iff (m : Nat) (e : Int) (m' : Nat) (e' : Int) : magLt m e m' e' = true ↔ mag m e < mag m' e' := by
  rw [magLt, decide_eq_true_iff, ← mag_lt_mag_iff (min e e'), mag_shiftLeft m (min_le_left e e'), mag_shiftLeft m' (min_le_right e e')]

@[simp] theorem finite_fin (neg : Bool) (m : Nat) (e : Int) : finite (.fin neg m e) = true := rfl

@[simp] theorem finite_inf (neg : Bool) : finite (.inf neg) = false := rfl

@[simp] theorem finite_nan (s : Bool) : finite (.nan s) = false := rfl

theorem finite_iff (x : FVal) : finite x = true ↔ ∃ neg m e, x = .fin neg m e := by cases x <;> simp

/-- The factor of a sign. -/
def sgn (neg : Bool) : Rat := if neg then -1 else 1

theorem rat_fin (neg : Bool) (m : Nat) (e : Int) : rat (.fin neg m e) = sgn neg * mag m e := by
  cases neg <;> simp [rat, sgn, mag]

theorem signedM_mul (neg : Bool) (m : Nat) (e : Int) : (signedM neg m : Rat) * (2 : Rat) ^ e = rat (.fin neg m e) := by
  cases neg <;> simp [rat, signedM]

/-! ### Exact operations (R126) -/

theorem rat_ofSigned (zneg : Bool) (x e : Int) : finite (ofSigned zneg x e) = true ∧ rat (ofSigned zneg x e) = (x : Rat) * (2 : Rat) ^ e := by
  unfold ofSigned
  split
  · next zero => simp [finite, rat, zero]
  · refine ⟨rfl, ?_⟩
    have back : signedM (decide (x < 0)) x.natAbs = x := by
      by_cases h : x < 0 <;> simp only [signedM, h, decide_true, decide_false, if_true, Bool.false_eq_true, if_false] <;> omega
    rw [← signedM_mul, back]

theorem faddV_exact (mode : Rnd) (na : Bool) (ma : Nat) (ea : Int) (nb : Bool) (mb : Nat) (eb : Int) :
    let s := faddV mode (.fin na ma ea) (.fin nb mb eb)
    finite s.1 = true ∧ rat s.1 = rat (.fin na ma ea) + rat (.fin nb mb eb) ∧ s.2 = 0 := by
  have sum := rat_ofSigned (if ma = 0 ∧ mb = 0 then zeroSumNeg mode na nb else mode == .rdn)
    (signedM na (ma <<< (ea - min ea eb).toNat) + signedM nb (mb <<< (eb - min ea eb).toNat)) (min ea eb)
  refine ⟨sum.1, sum.2.trans ?_, rfl⟩
  push_cast
  rw [add_mul, signedM_mul, signedM_mul, rat_fin, rat_fin, rat_fin, rat_fin, mag_shiftLeft ma (min_le_left ea eb),
    mag_shiftLeft mb (min_le_right ea eb)]

theorem fmulV_exact (na : Bool) (ma : Nat) (ea : Int) (nb : Bool) (mb : Nat) (eb : Int) :
    let p := fmulV (.fin na ma ea) (.fin nb mb eb)
    finite p.1 = true ∧ rat p.1 = rat (.fin na ma ea) * rat (.fin nb mb eb) ∧ p.2 = 0 := by
  refine ⟨rfl, ?_, rfl⟩
  simp only [fmulV, rat_fin, mag, zpow_add₀ (two_ne_zero (α := Rat))]
  cases na <;> cases nb <;> simp [sgn] <;> ring

theorem rat_fnegV (x : FVal) : rat (fnegV x) = -rat x := by
  cases x with
  | fin neg m e => cases neg <;> simp [fnegV, rat]
  | _ => simp [fnegV, rat]

/-- R130: of two finite values that are not both zero, the order is that of their numbers. -/
theorem fltV_iff {na nb : Bool} {ma mb : Nat} {ea eb : Int} (notBoth : ¬(ma = 0 ∧ mb = 0)) :
    fltV (.fin na ma ea) (.fin nb mb eb) = true ↔ rat (.fin na ma ea) < rat (.fin nb mb eb) := by
  have ha := mag_nonneg ma ea
  have hb := mag_nonneg mb eb
  have pos : 0 < mag ma ea + mag mb eb := by
    rcases not_and_or.mp notBoth with h | h
    · have := (mag_lt_mag_iff ea).mpr (Nat.pos_of_ne_zero h); rw [mag_zero] at this; linarith
    · have := (mag_lt_mag_iff eb).mpr (Nat.pos_of_ne_zero h); rw [mag_zero] at this; linarith
  cases na <;> cases nb <;> simp only [fltV, rat_fin, sgn, magLt_iff, bne_self_eq_false, Bool.false_eq_true, if_false, if_true, one_mul, neg_one_mul,
    neg_lt_neg_iff, Bool.bne_true, Bool.not_false, Bool.bne_false, false_iff, true_iff] <;> linarith

/-- R134: the relation of two finite values is that of their numbers. -/
theorem frel_cases (na : Bool) (ma : Nat) (ea : Int) (nb : Bool) (mb : Nat) (eb : Int) :
    let a : FVal := .fin na ma ea
    let b : FVal := .fin nb mb eb
    (frel a b = .lt ∧ rat a < rat b) ∨ (frel a b = .eq ∧ rat a = rat b) ∨ (frel a b = .gt ∧ rat b < rat a) := by
  simp only [frel]
  split
  · next zeros => right; left; simp [rat, zeros.1, zeros.2]
  · next notBoth =>
    have lt := fltV_iff (na := na) (nb := nb) (ea := ea) (eb := eb) notBoth
    have gt := fltV_iff (na := nb) (nb := na) (ea := eb) (eb := ea) (fun h => notBoth h.symm)
    rcases lt_trichotomy (rat (.fin na ma ea)) (rat (.fin nb mb eb)) with h | h | h
    · simp [lt, h]
    · simp [lt, gt, h]
    · simp [lt, gt, h, h.not_gt]

theorem exactOperationsAreExact : Claim.exactOperationsAreExact := by
  intro mode a b ha hb
  obtain ⟨na, ma, ea, rfl⟩ := (finite_iff a).mp ha
  obtain ⟨nb, mb, eb, rfl⟩ := (finite_iff b).mp hb
  obtain ⟨sumFin, sum, sumFlags⟩ := faddV_exact mode na ma ea nb mb eb
  obtain ⟨prodFin, prod, prodFlags⟩ := fmulV_exact na ma ea nb mb eb
  refine ⟨sumFin, sum, sumFlags, prodFin, prod, prodFlags, rat_fnegV _, ?_⟩
  rcases frel_cases na ma ea nb mb eb with ⟨h, lt⟩ | ⟨h, eq⟩ | ⟨h, gt⟩ <;> rw [h]
  · simp [lt, lt.ne, lt.not_gt]
  · simp [eq]
  · simp [gt, gt.ne', gt.not_gt]

end Sys2Proof.Machine
end

section
/-! PROOFS. Number formats (R43, R44): encodings as a sign and a magnitude, which stand in the order of their numbers. -/
namespace Sys2Proof.Machine
open Sys2Proof.Laws Sys2Proof.Claim

/-! ### Spellings of magnitudes (R44) -/

/-- What the formats of R43 have in common: two exponent bits and a mantissa bit, or more. -/
def hasFields (f : FFmt) : Prop := 2 ≤ f.ebits ∧ 1 ≤ f.mbits

theorem fmtOf_hasFields (t : Ty) : hasFields (fmtOf t) := by cases t <;> exact ⟨by decide, by decide⟩

theorem fmtOf_width {t : Ty} (float : tyInt t = false ∧ t ≠ .ds8) : tyWidth t = 1 + ((fmtOf t).ebits + (fmtOf t).mbits) := by
  cases t <;> simp_all [tyInt, tyWidth, fmtOf]

/-- R43, R44: the exponent of a subnormal's last bit. -/
def quantum (f : FFmt) : Int := 1 - f.bias - f.mbits

/-- R44: the encoding of the magnitude `q · 2^qe`, without the sign. -/
def magCode (f : FFmt) (q : Nat) (qe : Int) : Nat := (qe - quantum f).toNat * 2 ^ f.mbits + q

/-- R44: a significand and an exponent as encodings spell them: normal, or subnormal under the least exponent. -/
def spelt (f : FFmt) (q : Nat) (qe : Int) : Prop := quantum f ≤ qe ∧ (2 ^ f.mbits ≤ q ∨ qe = quantum f) ∧ q < 2 ^ (f.mbits + 1)

/-- R44: the significand of an encoding's magnitude, for exponents of any size. -/
def codeSig (f : FFmt) (n : Nat) : Nat := if n < 2 ^ f.mbits then n else 2 ^ f.mbits + n % 2 ^ f.mbits

/-- R44: the exponent of an encoding's magnitude, for exponents of any size. -/
def codeExp (f : FFmt) (n : Nat) : Int := quantum f + ((n / 2 ^ f.mbits - 1 : Nat) : Int)

/-- R44: the number that an encoding's magnitude spells. -/
def codeVal (f : FFmt) (n : Nat) : Rat := mag (codeSig f n) (codeExp f n)

theorem spelt_code (f : FFmt) (n : Nat) : spelt f (codeSig f n) (codeExp f n) ∧ magCode f (codeSig f n) (codeExp f n) = n := by
  have low := Nat.mod_lt n (Nat.two_pow_pos f.mbits)
  have parts := Nat.div_add_mod' n (2 ^ f.mbits)
  unfold spelt magCode codeSig codeExp
  rw [pow_succ]
  split
  · next small =>
    rw [Nat.div_eq_of_lt small]
    exact ⟨⟨by omega, .inr (by simp), by omega⟩, by simp⟩
  · next big =>
    have normal : 1 ≤ n / 2 ^ f.mbits := (Nat.one_le_div_iff (Nat.two_pow_pos _)).mpr (not_lt.mp big)
    refine ⟨⟨by omega, .inl (Nat.le_add_right _ _), by omega⟩, ?_⟩
    rw [add_sub_cancel_left, Int.toNat_natCast, Nat.sub_mul]
    have := Nat.mul_le_mul_right (2 ^ f.mbits) normal
    omega

/-- R44: a spelling is that of its own encoding. -/
theorem code_magCode {f : FFmt} {q : Nat} {qe : Int} (h : spelt f q qe) :
    codeSig f (magCode f q qe) = q ∧ codeExp f (magCode f q qe) = qe := by
  obtain ⟨least, normal, width⟩ := h
  have pos := Nat.two_pow_pos f.mbits
  rw [pow_succ] at width
  unfold codeSig codeExp magCode
  rcases lt_or_ge q (2 ^ f.mbits) with small | big
  · obtain rfl := normal.resolve_left (not_le.mpr small)
    simp [small, Nat.div_eq_of_lt small]
  · obtain ⟨r, rfl⟩ := Nat.exists_eq_add_of_le big
    have e : (qe - quantum f).toNat * 2 ^ f.mbits + (2 ^ f.mbits + r) = r + ((qe - quantum f).toNat + 1) * 2 ^ f.mbits := by ring
    have notSmall : ¬ r + ((qe - quantum f).toNat + 1) * 2 ^ f.mbits < 2 ^ f.mbits := by
      rw [Nat.succ_mul]; omega
    rw [e, if_neg notSmall, Nat.add_mul_mod_self_right, Nat.mod_eq_of_lt (by omega), Nat.add_mul_div_right _ _ pos, Nat.div_eq_of_lt (by omega)]
    exact ⟨rfl, by omega⟩

/-- R44, R46: the number of an encoding, where the significand may have been rounded up to the next power of two. -/
theorem codeVal_magCode {f : FFmt} {q : Nat} {qe : Int} (least : quantum f ≤ qe) (normal : 2 ^ f.mbits ≤ q ∨ qe = quantum f)
    (width : q ≤ 2 ^ (f.mbits + 1)) : codeVal f (magCode f q qe) = mag q qe := by
  rcases width.lt_or_eq with h | rfl
  · rw [codeVal, (code_magCode ⟨least, normal, h⟩).1, (code_magCode ⟨least, normal, h⟩).2]
  · have carried : magCode f (2 ^ (f.mbits + 1)) qe = magCode f (2 ^ f.mbits) (qe + 1) := by
      have e : (qe + 1 - quantum f).toNat = (qe - quantum f).toNat + 1 := by omega
      rw [magCode, magCode, e]
      ring
    have after : spelt f (2 ^ f.mbits) (qe + 1) := ⟨by omega, .inl le_rfl, Nat.pow_lt_pow_succ (by decide)⟩
    rw [carried, codeVal, (code_magCode after).1, (code_magCode after).2, pow_succ]
    exact (mag_mul_two_pow (2 ^ f.mbits) 1 qe).symm

/-- R44: the encodings of magnitudes are in the order of their numbers. -/
theorem codeVal_strictMono (f : FFmt) : StrictMono (codeVal f) := by
  refine strictMono_nat_of_lt_succ fun n => ?_
  obtain ⟨⟨least, normal, width⟩, code⟩ := spelt_code f n
  have after : codeVal f (n + 1) = mag (codeSig f n + 1) (codeExp f n) := by
    rw [← codeVal_magCode least (normal.imp_left Nat.le_succ_of_le) width]
    exact congrArg (fun k => codeVal f (k + 1)) code.symm
  rw [after, codeVal, mag_lt_mag_iff]
  exact Nat.lt_succ_self _

theorem codeVal_zero (f : FFmt) : codeVal f 0 = 0 := by simp [codeVal, codeSig]

/-! ### Encodings of finite numbers (R43, R44) -/

/-- R43: the encoding of the greatest finite magnitude. -/
def maxCode (f : FFmt) : Nat := fmaxEnc f false

theorem fmaxEnc_eq (f : FFmt) (neg : Bool) : fmaxEnc f neg = fsignBit f neg + maxCode f := by
  simp [maxCode, fmaxEnc, fsignBit]

/-- The encodings with the greatest exponent field, from the first one to the last. -/
theorem topField_add (f : FFmt) : (2 ^ f.ebits - 1) * 2 ^ f.mbits + 2 ^ f.mbits = 2 ^ (f.ebits + f.mbits) := by
  rw [pow_add, Nat.sub_mul, Nat.one_mul, Nat.sub_add_cancel (Nat.le_mul_of_pos_left _ (Nat.two_pow_pos _))]

theorem maxCode_lt (f : FFmt) : maxCode f < 2 ^ (f.ebits + f.mbits) := by
  have := topField_add f
  have := Nat.two_pow_pos f.mbits
  unfold maxCode fmaxEnc
  cases f.nan <;> simp only [fsignBit, Bool.false_eq_true, if_false] <;> omega

/-- R43: the magnitudes of the finite numbers of a format, by how it spells infinities and NaN. -/
theorem le_maxCode_iff {f : FFmt} (hf : hasFields f) {n : Nat} (hn : n < 2 ^ (f.ebits + f.mbits)) :
    n ≤ maxCode f ↔ (n / 2 ^ f.mbits = 2 ^ f.ebits - 1 → f.nan = .absent ∨ f.nan = .top ∧ n % 2 ^ f.mbits ≠ 2 ^ f.mbits - 1) := by
  have pos := Nat.two_pow_pos f.mbits
  have two := Nat.pow_le_pow_right (n := 2) (by decide) hf.2
  have four := Nat.pow_le_pow_right (n := 2) (by decide) hf.1
  have notZero : 0 < (2 ^ f.ebits - 1) * 2 ^ f.mbits := Nat.mul_pos (by omega) pos
  have all := topField_add f
  have low := Nat.mod_lt n pos
  have parts := Nat.div_add_mod' n (2 ^ f.mbits)
  have below : n / 2 ^ f.mbits ≠ 2 ^ f.ebits - 1 → n < (2 ^ f.ebits - 1) * 2 ^ f.mbits := fun h => by
    have : n / 2 ^ f.mbits < 2 ^ f.ebits := by rwa [Nat.div_lt_iff_lt_mul pos, ← pow_add]
    rw [← Nat.div_lt_iff_lt_mul pos]
    omega
  unfold maxCode fmaxEnc
  by_cases top : n / 2 ^ f.mbits = 2 ^ f.ebits - 1
  · rw [top] at parts
    cases f.nan <;> simp only [top, fsignBit, Bool.false_eq_true, if_false, forall_const, reduceCtorEq, false_or, true_or, false_and, true_and,
      iff_false, iff_true, ne_eq] <;> omega
  · have := below top
    cases f.nan <;> simp only [top, fsignBit, Bool.false_eq_true, if_false, false_implies, iff_true] <;> omega

theorem leastNormal_le_maxCode {f : FFmt} (hf : hasFields f) : 2 ^ f.mbits ≤ maxCode f := by
  have four := Nat.pow_le_pow_right (n := 2) (by decide) hf.1
  refine (le_maxCode_iff hf (Nat.pow_lt_pow_right (by decide) (by have := hf.1; omega))).mpr fun top => ?_
  rw [Nat.div_self (Nat.two_pow_pos _)] at top
  omega

/-- R43: `fmtMax` is the number of the greatest finite encoding. -/
theorem fmtMax_eq {f : FFmt} (hf : hasFields f) : mag (fmtMax f).1 (fmtMax f).2 = codeVal f (maxCode f) := by
  have m := Nat.pow_le_pow_right (n := 2) (by decide) hf.2
  have e := Nat.pow_le_pow_right (n := 2) (by decide) hf.1
  suffices h : quantum f ≤ (fmtMax f).2 ∧ 2 ^ f.mbits ≤ (fmtMax f).1 ∧ (fmtMax f).1 ≤ 2 ^ (f.mbits + 1) ∧
      magCode f (fmtMax f).1 (fmtMax f).2 = maxCode f by
    obtain ⟨least, normal, width, code⟩ := h
    rw [← code, codeVal_magCode least (.inl normal) width]
  obtain ⟨k, hk⟩ := Nat.exists_eq_add_of_le e
  obtain ⟨p, hp⟩ := Nat.exists_eq_add_of_le m
  have expTop : 2 ^ 2 + k - 1 = k + 3 := by omega
  simp only [magCode, quantum, fmtMax, maxCode, fmaxEnc, fsignBit, Bool.false_eq_true, if_false, pow_add, pow_one, hk, hp]
  cases f.nan with
  | ieee | quiet =>
    refine ⟨by dsimp only; omega, by dsimp only; omega, by dsimp only; omega, ?_⟩
    dsimp only
    generalize he : Int.toNat _ = ex
    obtain rfl : ex = k + 1 := by omega
    simp only [expTop, Nat.add_mul, Nat.mul_add]
    omega
  | top | absent =>
    refine ⟨by dsimp only; omega, by dsimp only; omega, by dsimp only; omega, ?_⟩
    dsimp only
    generalize he : Int.toNat _ = ex
    obtain rfl : ex = k + 2 := by omega
    simp only [expTop, Nat.add_mul, Nat.mul_add]
    omega

/-- R44: an encoding of the format is a sign and a magnitude. -/
theorem exists_sign_code {f : FFmt} {b : Nat} (h : b < 2 ^ (1 + (f.ebits + f.mbits))) :
    ∃ neg n, n < 2 ^ (f.ebits + f.mbits) ∧ b = fsignBit f neg + n := by
  rw [pow_add, pow_one] at h
  rcases lt_or_ge b (2 ^ (f.ebits + f.mbits)) with small | big
  · exact ⟨false, b, small, (Nat.zero_add b).symm⟩
  · exact ⟨true, b - 2 ^ (f.ebits + f.mbits), by omega, by simp only [fsignBit, if_true]; omega⟩

/-- R43, R44: the fields of an encoding. -/
theorem fields_of_code {f : FFmt} (hf : hasFields f) (neg : Bool) {n : Nat} (hn : n < 2 ^ (f.ebits + f.mbits)) :
    (bitsOf (fsignBit f neg + n) (f.ebits + f.mbits) (f.ebits + f.mbits) == 1) = neg ∧
      bitsOf (fsignBit f neg + n) (f.ebits + f.mbits - 1) f.mbits = n / 2 ^ f.mbits ∧
      (fsignBit f neg + n) % 2 ^ f.mbits = n % 2 ^ f.mbits := by
  have exp : f.ebits + f.mbits - 1 + 1 - f.mbits = f.ebits := by have := hf.1; omega
  have sign : fsignBit f neg = 2 ^ f.mbits * (2 ^ f.ebits * neg.toNat) := by
    cases neg <;> simp [fsignBit, pow_add, mul_comm]
  have hn' : n / 2 ^ f.mbits < 2 ^ f.ebits := by rwa [Nat.div_lt_iff_lt_mul (Nat.two_pow_pos _), ← pow_add]
  refine ⟨?_, ?_, ?_⟩
  · rw [bitsOf, Nat.add_sub_cancel_left, Nat.shiftRight_eq_div_pow]
    cases neg <;> simp [fsignBit, Nat.add_div_left, Nat.div_eq_of_lt hn]
  · rw [bitsOf, Nat.shiftRight_eq_div_pow, sign, Nat.mul_add_div (Nat.two_pow_pos _), exp, Nat.mul_add_mod, Nat.mod_eq_of_lt hn']
  · rw [sign, Nat.mul_add_mod]

/-- R43, R44: an encoding is a finite number where its magnitude is not above the greatest one, and then the number it
spells. -/
theorem fdecode_code {f : FFmt} (hf : hasFields f) (neg : Bool) {n : Nat} (hn : n < 2 ^ (f.ebits + f.mbits)) :
    (n ≤ maxCode f → fdecode f (fsignBit f neg + n) = .fin neg (codeSig f n) (codeExp f n)) ∧
      (¬ n ≤ maxCode f → finite (fdecode f (fsignBit f neg + n)) = false) := by
  obtain ⟨sign, exp, man⟩ := fields_of_code hf neg hn
  have pos := Nat.two_pow_pos f.mbits
  have number : (if n / 2 ^ f.mbits = 0 then FVal.fin neg (n % 2 ^ f.mbits) (1 - f.bias - f.mbits)
      else .fin neg (2 ^ f.mbits + n % 2 ^ f.mbits) (((n / 2 ^ f.mbits : Nat) : Int) - f.bias - f.mbits)) =
      .fin neg (codeSig f n) (codeExp f n) := by
    unfold codeSig codeExp quantum
    rcases lt_or_ge n (2 ^ f.mbits) with small | big
    · rw [Nat.div_eq_of_lt small, if_pos rfl, if_pos small, Nat.mod_eq_of_lt small]; simp
    · have normal : 1 ≤ n / 2 ^ f.mbits := (Nat.one_le_div_iff pos).mpr big
      rw [if_neg (by omega), if_neg (by omega)]
      congr 1
      omega
  unfold fdecode
  dsimp only
  rw [sign, exp, man, number, le_maxCode_iff hf hn]
  by_cases top : n / 2 ^ f.mbits = 2 ^ f.ebits - 1
  · cases f.nan <;> simp +contextual [top, apply_ite finite]
  · simp [top]

theorem finite_fdecode_code {f : FFmt} (hf : hasFields f) (neg : Bool) {n : Nat} (hn : n < 2 ^ (f.ebits + f.mbits)) :
    finite (fdecode f (fsignBit f neg + n)) = true ↔ n ≤ maxCode f := by
  obtain ⟨number, none⟩ := fdecode_code hf neg hn
  by_cases h : n ≤ maxCode f
  · simp [h, number h, finite]
  · simp [h, none h]

theorem rat_fdecode_code {f : FFmt} (hf : hasFields f) (neg : Bool) {n : Nat} (hn : n ≤ maxCode f) :
    rat (fdecode f (fsignBit f neg + n)) = sgn neg * codeVal f n := by
  rw [(fdecode_code hf neg (hn.trans_lt (maxCode_lt f))).1 hn, rat_fin, codeVal]

/-- R44: the finite numbers of a format. -/
theorem exists_code_of_finite {f : FFmt} (hf : hasFields f) {b : Nat} (hb : b < 2 ^ (1 + (f.ebits + f.mbits)))
    (number : finite (fdecode f b) = true) : ∃ neg n, n ≤ maxCode f ∧ b = fsignBit f neg + n := by
  obtain ⟨neg, n, hn, rfl⟩ := exists_sign_code hb
  exact ⟨neg, n, (finite_fdecode_code hf neg hn).mp number, rfl⟩

end Sys2Proof.Machine
end

section
/-! PROOFS. Rounding (R46, R47): on the encodings of magnitudes, to the one next below a number or to the one above it. -/
namespace Sys2Proof.Machine
open Sys2Proof.Laws Sys2Proof.Claim

/-! ### The neighbours of a number (R46) -/

/-- R46: whether a magnitude `x`, of the neighbours `lo` not above it and `hi` above it, is rounded to `hi`; `odd` tells
that the last bit of `lo` is 1. -/
def goesUp (mode : Rnd) (neg odd : Bool) (lo x hi : Rat) : Bool :=
  match mode with
  | .rtz => false
  | .rup => !neg && decide (lo < x)
  | .rdn => neg && decide (lo < x)
  | .rne => decide (lo + hi < 2 * x) || decide (lo + hi = 2 * x) && odd
  | .rna => decide (lo + hi ≤ 2 * x)

theorem goesUp_rne {neg odd : Bool} {lo x hi : Rat} :
    goesUp .rne neg odd lo x hi = true ↔ lo + hi < 2 * x ∨ (lo + hi = 2 * x ∧ odd = true) := by
  simp [goesUp]

theorem goesUp_rna {neg odd : Bool} {lo x hi : Rat} : goesUp .rna neg odd lo x hi = true ↔ lo + hi ≤ 2 * x := by simp [goesUp]

/-- R46: what a neighbour already is, is not rounded. -/
theorem goesUp_self (mode : Rnd) (neg odd : Bool) {x hi : Rat} (h : x < hi) : goesUp mode neg odd x x hi = false := by
  have lt : ¬ x + hi < 2 * x := by linarith
  have ne : ¬ x + hi = 2 * x := by intro; linarith
  have le : ¬ x + hi ≤ 2 * x := by linarith
  cases mode <;> simp [goesUp, lt, ne, le]

/-- R46: the decision on a remainder is that between the two neighbours. -/
theorem roundsUp_eq_goesUp (mode : Rnd) (neg : Bool) (q rem s : Nat) (e : Int) :
    roundsUp mode neg q rem s =
      goesUp mode neg (q % 2 == 1) (mag (q * 2 ^ s) e) (mag (q * 2 ^ s + rem) e) (mag ((q + 1) * 2 ^ s) e) := by
  have sums : mag (q * 2 ^ s) e + mag ((q + 1) * 2 ^ s) e = mag (2 * (q * 2 ^ s) + 2 ^ s) e ∧
      2 * mag (q * 2 ^ s + rem) e = mag (2 * (q * 2 ^ s) + 2 * rem) e := by
    constructor <;> simp only [mag] <;> push_cast <;> ring
  cases mode <;> simp only [roundsUp, goesUp, sums.1, sums.2, mag_lt_mag_iff, mag_le_mag_iff, mag_inj_iff] <;> grind

/-- R46: rounding to a multiple of `2^qe` takes one of the two neighbours, exactly where the lower one is the number. -/
theorem roundAt_spec (mode : Rnd) (neg : Bool) (m : Nat) (e qe : Int) :
    ∃ q, mag q qe ≤ mag m e ∧ mag m e < mag (q + 1) qe ∧ ((roundAt mode neg m e qe).2 = true ↔ mag q qe = mag m e) ∧
      (roundAt mode neg m e qe).1 = if goesUp mode neg (q % 2 == 1) (mag q qe) (mag m e) (mag (q + 1) qe) then q + 1 else q := by
  unfold roundAt
  split
  · next h =>
    have same := mag_shiftLeft m h
    have above : mag m e < mag (m <<< (e - qe).toNat + 1) qe := by rw [← same, mag_lt_mag_iff]; exact Nat.lt_succ_self _
    exact ⟨m <<< (e - qe).toNat, same.le, above, by simp [same], by rw [same, goesUp_self _ _ _ above]; rfl⟩
  · next h =>
    obtain ⟨s, rfl⟩ : ∃ s : Nat, qe = e + s := ⟨(qe - e).toNat, by omega⟩
    rw [add_sub_cancel_left, Int.toNat_natCast]
    simp only [← mag_mul_two_pow, Nat.shiftRight_eq_div_pow]
    have parts := Nat.div_add_mod' m (2 ^ s)
    have low := Nat.mod_lt m (Nat.two_pow_pos s)
    refine ⟨m / 2 ^ s, ?_, ?_, ?_, ?_⟩
    · rw [mag_le_mag_iff]; omega
    · rw [mag_lt_mag_iff, Nat.succ_mul]; omega
    · rw [mag_inj_iff, beq_iff_eq]; omega
    · rw [roundsUp_eq_goesUp, parts]

/-- R46: a magnitude below a power of two is rounded to it at most. -/
theorem roundAt_le {m k : Nat} {e qe : Int} (h : mag m e < mag k qe) (mode : Rnd) (neg : Bool) : (roundAt mode neg m e qe).1 ≤ k := by
  obtain ⟨q, le, -, -, rounded⟩ := roundAt_spec mode neg m e qe
  have := (mag_lt_mag_iff qe).mp (le.trans_lt h)
  rw [rounded]
  split <;> omega

/-- The binade of a magnitude. -/
theorem mag_binade {m : Nat} (hm : m ≠ 0) (e : Int) :
    (2 : Rat) ^ ((bitLen m : Int) - 1 + e) ≤ mag m e ∧ mag m e < 2 ^ ((bitLen m : Int) + e) := by
  have unit : (0 : Rat) < 2 ^ e := by positivity
  have length : bitLen m = Nat.log2 m + 1 := if_neg hm
  rw [zpow_add₀ two_ne_zero, zpow_add₀ two_ne_zero, length, Nat.cast_succ, add_sub_cancel_right, ← Nat.cast_succ, zpow_natCast, zpow_natCast,
    mag]
  constructor
  · gcongr; exact_mod_cast Nat.log2_self_le hm
  · gcongr; exact_mod_cast Nat.lt_log2_self

/-- R46: the encoding that a magnitude `x` is rounded to, exponents of any size, of the one next below it. -/
def roundCode (f : FFmt) (mode : Rnd) (neg : Bool) (x : Rat) (n : Nat) : Nat :=
  if goesUp mode neg (n % 2 == 1) (codeVal f n) x (codeVal f (n + 1)) then n + 1 else n

theorem packFin_eq {f : FFmt} (neg : Bool) {q : Nat} {qe : Int} (least : quantum f ≤ qe) (normal : 2 ^ f.mbits ≤ q ∨ qe = quantum f) :
    packFin f neg q qe = fsignBit f neg + magCode f q qe := by
  have pos := Nat.two_pow_pos f.mbits
  have exps : ∀ k : Nat, (qe + k + f.mbits + f.bias).toNat = (qe - quantum f).toNat + 1 + k := by
    intro k
    unfold quantum at least ⊢
    omega
  have here := exps 0
  have after := exps 1
  simp only [Nat.cast_zero, Nat.cast_one, add_zero] at here after
  unfold packFin magCode
  rw [pow_succ]
  by_cases carry : q = 2 ^ f.mbits * 2
  · simp only [carry, if_true, lt_irrefl, if_false, after, Nat.add_mul]
    omega
  · simp only [carry, if_false, here, Nat.add_mul]
    split
    · next small =>
      obtain rfl := normal.resolve_left (not_le.mpr small)
      simp
    · omega

/-- R44, R46: the encoding of a rounded magnitude is what the next below it is rounded to. -/
theorem magCode_roundAt {f : FFmt} (hf : hasFields f) (mode : Rnd) (neg : Bool) {m : Nat} {e qe : Int} (least : quantum f ≤ qe)
    (width : mag m e < mag (2 ^ (f.mbits + 1)) qe) (normal : mag (2 ^ f.mbits) qe ≤ mag m e ∨ qe = quantum f) :
    ∃ n, codeVal f n ≤ mag m e ∧ mag m e < codeVal f (n + 1) ∧
      ((roundAt mode neg m e qe).2 = true ↔ codeVal f n = mag m e) ∧
      magCode f (roundAt mode neg m e qe).1 qe = roundCode f mode neg (mag m e) n ∧
      mag (roundAt mode neg m e qe).1 qe = codeVal f (roundCode f mode neg (mag m e) n) ∧
      ∀ neg', packFin f neg' (roundAt mode neg m e qe).1 qe = fsignBit f neg' + roundCode f mode neg (mag m e) n := by
  obtain ⟨q, le, lt, exactly, rounded⟩ := roundAt_spec mode neg m e qe
  have below : q < 2 ^ (f.mbits + 1) := (mag_lt_mag_iff qe).mp (le.trans_lt width)
  have full : 2 ^ f.mbits ≤ q ∨ qe = quantum f :=
    normal.imp_left fun h => Nat.lt_succ_iff.mp ((mag_lt_mag_iff qe).mp (h.trans_lt lt))
  have low := codeVal_magCode least full below.le
  have high : codeVal f (magCode f q qe + 1) = mag (q + 1) qe := codeVal_magCode least (full.imp_left Nat.le_succ_of_le) below
  have parity : magCode f q qe % 2 = q % 2 := by
    obtain ⟨k, hk⟩ : 2 ∣ (qe - quantum f).toNat * 2 ^ f.mbits := (dvd_pow_self 2 (Nat.one_le_iff_ne_zero.mp hf.2)).mul_left _
    unfold magCode
    omega
  refine ⟨magCode f q qe, low.symm ▸ le, high.symm ▸ lt, low.symm ▸ exactly, ?_⟩
  rw [roundCode, low, high, parity, rounded]
  split
  · exact ⟨rfl, high.symm, fun neg' => packFin_eq neg' least (full.imp_left Nat.le_succ_of_le)⟩
  · exact ⟨rfl, low.symm, fun neg' => packFin_eq neg' least full⟩

/-- R46 to R48: what rounding of a finite value without a flush delivers, `n` being the encoding next below its magnitude: of it
and the one above that which the mode takes, with no flag where it is the number itself, or, where that is no finite one, what
an overflow delivers. -/
def roundsFrom (f : FFmt) (mode : Rnd) (neg : Bool) (m : Nat) (e : Int) (n : Nat) : Prop :=
  codeVal f n ≤ mag m e ∧ mag m e < codeVal f (n + 1) ∧
    (¬ roundCode f mode neg (mag m e) n ≤ maxCode f → (roundFin f mode false neg m e).1 = overflowEnc f mode neg) ∧
    (roundCode f mode neg (mag m e) n ≤ maxCode f →
      (roundFin f mode false neg m e).1 = fsignBit f neg + roundCode f mode neg (mag m e) n ∧
      (codeVal f n = mag m e → (roundFin f mode false neg m e).2 = flNone))

theorem roundsFrom_zero (f : FFmt) (mode : Rnd) (neg : Bool) (e : Int) : roundsFrom f mode neg 0 e 0 := by
  have above : codeVal f 0 < codeVal f 1 := codeVal_strictMono f Nat.zero_lt_one
  have code : roundCode f mode neg 0 0 = 0 := by rw [roundCode, ← codeVal_zero f, goesUp_self _ _ _ above]; rfl
  unfold roundsFrom
  rw [mag_zero, code, codeVal_zero]
  exact ⟨le_rfl, codeVal_zero f ▸ above, fun h => absurd (Nat.zero_le _) h, fun _ => ⟨rfl, fun _ => rfl⟩⟩

section binade
variable {f : FFmt} (hf : hasFields f) (mode : Rnd) (neg : Bool) {m : Nat} (hm : m ≠ 0) {e ex : Int} (hex : (bitLen m : Int) - 1 + e = ex)
include hm hex

theorem mag_lt_binade : mag m e < 2 ^ (ex + 1) := by
  have after : (bitLen m : Int) + e = ex + 1 := by omega
  exact after ▸ (mag_binade hm e).2

include hf

/-- R46, R47: rounding of a value that is not zero: the overflow is judged with exponents of any size (R47), the result
rounded no finer than the least subnormal. -/
theorem roundFin_of_ne_zero :
    (codeVal f (maxCode f) < mag (roundAt mode neg m e (ex - f.mbits)).1 (ex - f.mbits) →
      (roundFin f mode false neg m e).1 = overflowEnc f mode neg) ∧
    (¬ codeVal f (maxCode f) < mag (roundAt mode neg m e (ex - f.mbits)).1 (ex - f.mbits) →
      let r := roundAt mode neg m e (max (ex - f.mbits) (quantum f))
      (roundFin f mode false neg m e).1 = packFin f neg r.1 (max (ex - f.mbits) (quantum f)) ∧
      (r.2 = true → (roundFin f mode false neg m e).2 = flNone)) := by
  have least : (fmtEmin f - f.mbits : Int) = quantum f := rfl
  unfold roundFin
  simp only [hm, if_false, Bool.and_false, Bool.false_and, Bool.false_eq_true, magLt_iff, fmtMax_eq hf, least, hex]
  refine ⟨fun large => by rw [if_pos large], fun fits => ?_⟩
  rw [if_neg fits]
  exact ⟨rfl, fun exactly => if_pos exactly⟩

theorem exists_roundsFrom_normal (normal : quantum f ≤ ex - f.mbits) : ∃ n, roundsFrom f mode neg m e n := by
  have width : mag m e < mag (2 ^ (f.mbits + 1)) (ex - f.mbits) := by
    rw [mag_two_pow]; convert mag_lt_binade hm hex using 2; push_cast; ring
  have full : mag (2 ^ f.mbits) (ex - f.mbits) ≤ mag m e := by
    rw [mag_two_pow]; convert (mag_binade hm e).1 using 2; rw [hex]; ring
  obtain ⟨n, le, lt, exactly, -, val, pack⟩ := magCode_roundAt hf mode neg normal width (.inl full)
  obtain ⟨whenLarge, fit⟩ := roundFin_of_ne_zero hf mode neg hm hex
  rw [val, (codeVal_strictMono f).lt_iff_lt, max_eq_left normal] at fit
  rw [val, (codeVal_strictMono f).lt_iff_lt] at whenLarge
  refine ⟨n, le, lt, fun large => whenLarge (not_le.mp large), fun fits => ?_⟩
  obtain ⟨code, flags⟩ := fit (not_lt.mpr fits)
  exact ⟨code.trans (pack neg), fun same => flags (exactly.mpr same)⟩

theorem exists_roundsFrom_tiny (tiny : ex - f.mbits < quantum f) : ∃ n, roundsFrom f mode neg m e n := by
  have small : mag m e < mag (2 ^ f.mbits) (quantum f) := by
    rw [mag_two_pow]; exact (mag_lt_binade hm hex).trans_le (zpow_le_zpow_right₀ one_le_two (by omega))
  have width : mag m e < mag (2 ^ (f.mbits + 1)) (quantum f) :=
    small.trans_le ((mag_le_mag_iff _).mpr (Nat.pow_le_pow_right (by decide) (Nat.le_succ _)))
  obtain ⟨n, le, lt, exactly, code, -, pack⟩ := magCode_roundAt hf mode neg le_rfl width (.inr rfl)
  have subnormal : ∀ q, magCode f q (quantum f) = q := fun q => by simp [magCode]
  have fits : roundCode f mode neg (mag m e) n ≤ maxCode f := by
    rw [← code, subnormal]
    exact (roundAt_le small mode neg).trans (leastNormal_le_maxCode hf)
  have inside : mag (roundAt mode neg m e (ex - f.mbits)).1 (ex - f.mbits) ≤ codeVal f (maxCode f) :=
    calc mag (roundAt mode neg m e (ex - f.mbits)).1 (ex - f.mbits)
      _ ≤ mag (2 ^ (f.mbits + 1)) (ex - f.mbits) := by
        refine (mag_le_mag_iff _).mpr (roundAt_le ?_ mode neg)
        rw [mag_two_pow]; convert mag_lt_binade hm hex using 2; push_cast; ring
      _ ≤ mag (2 ^ f.mbits) (quantum f) := by
        rw [mag_two_pow, mag_two_pow]; exact zpow_le_zpow_right₀ one_le_two (by push_cast; omega)
      _ = codeVal f (2 ^ f.mbits) := by
        rw [← codeVal_magCode le_rfl (.inr rfl) (Nat.pow_le_pow_right (by decide) (Nat.le_succ _)), subnormal]
      _ ≤ codeVal f (maxCode f) := (codeVal_strictMono f).monotone (leastNormal_le_maxCode hf)
  obtain ⟨made, flags⟩ := (roundFin_of_ne_zero hf mode neg hm hex).2 (not_lt.mpr inside)
  rw [max_eq_right tiny.le] at made flags
  exact ⟨n, le, lt, fun large => absurd fits large, fun _ => ⟨made.trans (pack neg), fun same => flags (exactly.mpr same)⟩⟩

end binade

theorem exists_roundsFrom {f : FFmt} (hf : hasFields f) (mode : Rnd) (neg : Bool) (m : Nat) (e : Int) : ∃ n, roundsFrom f mode neg m e n := by
  by_cases hm : m = 0
  · exact ⟨0, hm ▸ roundsFrom_zero f mode neg e⟩
  · rcases le_or_gt (quantum f) ((bitLen m : Int) - 1 + e - f.mbits) with normal | tiny
    · exact exists_roundsFrom_normal hf mode neg hm rfl normal
    · exact exists_roundsFrom_tiny hf mode neg hm rfl tiny

/-! ### Numbers of the format (R44, R46) -/

theorem roundingKeepsFormatNumbers : Claim.roundingKeepsFormatNumbers := by
  intro t mode b float hb number
  have hf := fmtOf_hasFields t
  rw [fmtOf_width float] at hb
  obtain ⟨neg, k, hk, rfl⟩ := exists_code_of_finite hf hb number
  rw [(fdecode_code hf neg (hk.trans_lt (maxCode_lt _))).1 hk, roundVal]
  obtain ⟨n, le, lt, -, fit⟩ := exists_roundsFrom hf mode neg (codeSig (fmtOf t) k) (codeExp (fmtOf t) k)
  rw [← codeVal] at le lt fit
  have mono := codeVal_strictMono (fmtOf t)
  obtain rfl : n = k := le_antisymm (mono.le_iff_le.mp le) (Nat.lt_succ_iff.mp (mono.lt_iff_lt.mp lt))
  have code : roundCode (fmtOf t) mode neg (codeVal (fmtOf t) n) n = n := by rw [roundCode, goesUp_self _ _ _ lt]; rfl
  rw [code] at fit
  obtain ⟨same, flags⟩ := fit hk
  exact Prod.ext same (flags rfl)

end Sys2Proof.Machine
end

section
/-! PROOFS. The direction of rounding (R46, R47): which number of the format each mode delivers. -/
namespace Sys2Proof.Machine
open Sys2Proof.Laws Sys2Proof.Claim

/-! ### Overflow (R47) -/

theorem fmtOf_ieee {t : Ty} (four : tyFour t = true) : (fmtOf t).nan = .ieee := by cases t <;> simp_all [tyFour, fmtOf]

theorem float_of_tyFour {t : Ty} (four : tyFour t = true) : tyInt t = false ∧ t ≠ .ds8 := by cases t <;> simp_all [tyFour, tyInt]

theorem maxCode_lt_infinity {f : FFmt} (hf : hasFields f) (inf : fmtHasInf f = true) :
    maxCode f < (2 ^ f.ebits - 1) * 2 ^ f.mbits ∧ (2 ^ f.ebits - 1) * 2 ^ f.mbits < 2 ^ (f.ebits + f.mbits) := by
  have four := Nat.pow_le_pow_right (n := 2) (by decide) hf.1
  have notZero : 0 < (2 ^ f.ebits - 1) * 2 ^ f.mbits := Nat.mul_pos (by omega) (Nat.two_pow_pos _)
  have all := topField_add f
  have pos := Nat.two_pow_pos f.mbits
  refine ⟨?_, by omega⟩
  unfold maxCode fmaxEnc fsignBit
  cases kind : f.nan <;> simp only [Bool.false_eq_true, if_false]
  case ieee | quiet => omega
  case top | absent => simp [fmtHasInf, kind] at inf

theorem finite_finfEnc {f : FFmt} (hf : hasFields f) (inf : fmtHasInf f = true) (neg : Bool) : finite (fdecode f (finfEnc f neg)) = false := by
  obtain ⟨above, below⟩ := maxCode_lt_infinity hf inf
  exact (fdecode_code hf neg below).2 (not_le.mpr above)

/-! ### The encoding that a mode takes (R46) -/

section direction
variable {f : FFmt} {x : Rat} {n : Nat} (low : codeVal f n ≤ x) (high : x < codeVal f (n + 1))

include high in
theorem le_of_codeVal_le {k : Nat} (h : codeVal f k ≤ x) : k ≤ n :=
  Nat.lt_succ_iff.mp ((codeVal_strictMono f).lt_iff_lt.mp (h.trans_lt high))

include low in
theorem le_codeVal_of_lt {k : Nat} (h : x < codeVal f k) : n + 1 ≤ k := (codeVal_strictMono f).lt_iff_lt.mp (low.trans_lt h)

include low high

/-- R46, R47: the greatest number of the format that is not above a magnitude. -/
theorem codeVal_min_spec : codeVal f (min n (maxCode f)) ≤ x ∧
    ∀ k, k ≤ maxCode f → codeVal f k ≤ x → codeVal f k ≤ codeVal f (min n (maxCode f)) :=
  have mono := (codeVal_strictMono f).monotone
  ⟨(mono (min_le_left _ _)).trans low, fun _ fits le => mono (le_min (le_of_codeVal_le high le) fits)⟩

/-- R46: the least encoding that is not below a magnitude. -/
theorem codeVal_up_spec : let up := if codeVal f n < x then n + 1 else n
    x ≤ codeVal f up ∧ ∀ k, x ≤ codeVal f k → codeVal f up ≤ codeVal f k := by
  have mono := codeVal_strictMono f
  dsimp only
  split
  · next lt => exact ⟨high.le, fun k h => mono.monotone (mono.lt_iff_lt.mp (lt.trans_le h))⟩
  · next ge => exact ⟨not_lt.mp ge, fun k h => low.trans h⟩

/-- R46: of a magnitude the encoding taken to the nearest is none farther than any other, and of two equally near ones that which
is even, or the greater. -/
theorem roundCode_nearest {mode : Rnd} (nearest : mode = .rne ∨ mode = .rna) (neg : Bool) (k : Nat) :
    let y := codeVal f (roundCode f mode neg x n)
    |x - y| ≤ |x - codeVal f k| ∧
      (codeVal f k ≠ y → |x - codeVal f k| = |x - y| →
        (mode = .rne → roundCode f mode neg x n % 2 = 0) ∧ (mode = .rna → codeVal f k < y)) := by
  have mono := codeVal_strictMono f
  have toLow : |x - codeVal f n| = x - codeVal f n := abs_of_nonneg (by linarith)
  have toHigh : |x - codeVal f (n + 1)| = codeVal f (n + 1) - x := by rw [abs_sub_comm]; exact abs_of_nonneg (by linarith)
  have side : (|x - codeVal f k| = x - codeVal f k ∧ codeVal f k ≤ codeVal f n) ∨
      (|x - codeVal f k| = codeVal f k - x ∧ codeVal f (n + 1) ≤ codeVal f k) := by
    rcases le_or_gt k n with h | h
    · have := mono.monotone h
      exact .inl ⟨abs_of_nonneg (by linarith), this⟩
    · have := mono.monotone (Nat.succ_le_of_lt h)
      exact .inr ⟨by rw [abs_sub_comm]; exact abs_of_nonneg (by linarith), this⟩
  unfold roundCode
  dsimp only
  cases up : goesUp mode neg (n % 2 == 1) (codeVal f n) x (codeVal f (n + 1)) with
  | true =>
    rw [if_pos rfl, toHigh]
    have half : codeVal f n + codeVal f (n + 1) ≤ 2 * x := by
      rcases nearest with rfl | rfl
      · rcases goesUp_rne.mp up with h | h
        · exact h.le
        · exact h.1.le
      · exact goesUp_rna.mp up
    rcases side with ⟨far, le⟩ | ⟨far, ge⟩ <;> rw [far]
    · refine ⟨by linarith, fun _ tie => ⟨fun rne => ?_, fun _ => by linarith⟩⟩
      subst rne
      have odd := ((goesUp_rne.mp up).resolve_left (by linarith)).2
      rw [beq_iff_eq] at odd
      omega
    · exact ⟨by linarith, fun ne tie => absurd (by linarith) ne⟩
  | false =>
    rw [if_neg (by decide), toLow]
    have half : 2 * x ≤ codeVal f n + codeVal f (n + 1) := by
      by_contra more
      rcases nearest with rfl | rfl
      · exact Bool.eq_false_iff.mp up (goesUp_rne.mpr (.inl (not_le.mp more)))
      · exact Bool.eq_false_iff.mp up (goesUp_rna.mpr (not_le.mp more).le)
    rcases side with ⟨far, le⟩ | ⟨far, ge⟩ <;> rw [far]
    · exact ⟨by linarith, fun ne tie => absurd (by linarith) ne⟩
    · refine ⟨by linarith, fun _ tie => ⟨fun rne => ?_, fun rna => ?_⟩⟩
      · subst rne
        by_contra odd
        exact Bool.eq_false_iff.mp up (goesUp_rne.mpr (.inr ⟨by linarith, by simpa using odd⟩))
      · subst rna
        exact absurd (goesUp_rna.mpr (by linarith)) (Bool.eq_false_iff.mp up)

end direction

/-! ### Numbers with signs (R46) -/

/-- R46: an encoding is that of the greatest number of the format not above a magnitude. -/
def isFloor (f : FFmt) (x : Rat) (k : Nat) : Prop :=
  codeVal f k ≤ x ∧ ∀ j, j ≤ maxCode f → codeVal f j ≤ x → codeVal f j ≤ codeVal f k

/-- R46: an encoding is that of the least number of the format not below a magnitude. -/
def isCeil (f : FFmt) (x : Rat) (k : Nat) : Prop := x ≤ codeVal f k ∧ ∀ j, x ≤ codeVal f j → codeVal f k ≤ codeVal f j

theorem codeVal_nonneg (f : FFmt) (k : Nat) : 0 ≤ codeVal f k := mag_nonneg _ _

/-- R46: the number next below, of a sign and its magnitude's neighbour. -/
theorem next_below {f : FFmt} {x : Rat} {k : Nat} {neg : Bool} (hx : 0 ≤ x) (h : if neg then isCeil f x k else isFloor f x k) :
    sgn neg * codeVal f k ≤ sgn neg * x ∧
      ∀ s j, j ≤ maxCode f → sgn s * codeVal f j ≤ sgn neg * x → sgn s * codeVal f j ≤ sgn neg * codeVal f k := by
  have hk := codeVal_nonneg f k
  cases neg with
  | false =>
    obtain ⟨le, best⟩ := h
    refine ⟨by simpa [sgn] using le, fun s j fits => ?_⟩
    have hj := codeVal_nonneg f j
    cases s with
    | false => simpa [sgn] using best j fits
    | true => intro; simp [sgn]; linarith
  | true =>
    obtain ⟨le, best⟩ := h
    refine ⟨by simpa [sgn] using le, fun s j fits => ?_⟩
    have hj := codeVal_nonneg f j
    cases s with
    | false => intro below; simp [sgn] at below ⊢; have := best j (by linarith); linarith
    | true => simpa [sgn] using best j

theorem abs_sgn (neg : Bool) : |sgn neg| = 1 := by cases neg <;> simp [sgn]

theorem sgn_not (neg : Bool) : sgn (!neg) = -sgn neg := by cases neg <;> simp [sgn]

/-- R46: the number next above, of a sign and its magnitude's neighbour. -/
theorem next_above {f : FFmt} {x : Rat} {k : Nat} {neg : Bool} (hx : 0 ≤ x) (h : if neg then isFloor f x k else isCeil f x k) :
    sgn neg * x ≤ sgn neg * codeVal f k ∧
      ∀ s j, j ≤ maxCode f → sgn neg * x ≤ sgn s * codeVal f j → sgn neg * codeVal f k ≤ sgn s * codeVal f j := by
  have mirrored : if (!neg) then isCeil f x k else isFloor f x k := by cases neg <;> exact h
  obtain ⟨le, best⟩ := next_below hx mirrored
  simp only [sgn_not, neg_mul, neg_le_neg_iff] at le best
  refine ⟨le, fun s j fits above => ?_⟩
  have := best (!s) j fits
  simp only [sgn_not, neg_mul, neg_le_neg_iff] at this
  exact this above

/-- R46: distances of numbers with signs: from a number to one of the other sign it is no less than to zero. -/
theorem nearest_signed {f : FFmt} {x : Rat} {k : Nat} {P : Rat → Prop} (hx : 0 ≤ x) (neg : Bool)
    (best : ∀ j, |x - codeVal f k| ≤ |x - codeVal f j| ∧
      (codeVal f j ≠ codeVal f k → |x - codeVal f j| = |x - codeVal f k| → P (codeVal f j))) (s : Bool) (j : Nat) :
    |sgn neg * x - sgn neg * codeVal f k| ≤ |sgn neg * x - sgn s * codeVal f j| ∧
      (sgn s * codeVal f j ≠ sgn neg * codeVal f k → |sgn neg * x - sgn s * codeVal f j| = |sgn neg * x - sgn neg * codeVal f k| →
        P (codeVal f j)) := by
  have same : ∀ y, |sgn neg * x - sgn neg * y| = |x - y| := fun y => by rw [← mul_sub, abs_mul, abs_sgn, one_mul]
  by_cases side : s = neg
  · subst side
    rw [same, same]
    exact ⟨(best j).1, fun ne => (best j).2 fun e => ne (by rw [e])⟩
  · have flipped : sgn s = -sgn neg := by rw [← sgn_not]; congr 1; exact Bool.eq_not.mpr side
    have hj := codeVal_nonneg f j
    have far : |sgn neg * x - sgn s * codeVal f j| = x + codeVal f j := by
      rw [flipped, neg_mul, sub_neg_eq_add, ← mul_add, abs_mul, abs_sgn, one_mul]
      exact abs_of_nonneg (by linarith)
    obtain ⟨nearer, tie⟩ := best 0
    rw [codeVal_zero, sub_zero, abs_of_nonneg hx] at nearer tie
    rw [same, far]
    refine ⟨by linarith, fun ne equal => ?_⟩
    have zero : codeVal f j = 0 := by linarith
    rw [zero] at ne equal ⊢
    exact tie (fun e => ne (by rw [← e]; simp)) (by linarith)

/-! ### What rounding delivers (R46, R47) -/

theorem even_fsignBit {f : FFmt} (hf : hasFields f) (neg : Bool) : fsignBit f neg % 2 = 0 := by
  cases neg with
  | false => rfl
  | true => exact Nat.mod_eq_zero_of_dvd (dvd_pow_self 2 (by have := hf.1; omega))

section delivered
variable {f : FFmt} (hf : hasFields f) (inf : fmtHasInf f = true) (neg : Bool) (m : Nat) (e : Int)

include hf inf

/-- R47: what is rounded towards zero is always finite. -/
theorem roundFin_toZero {mode : Rnd} (toZero : mode = .rtz ∨ (mode = .rup ∧ neg = true) ∨ (mode = .rdn ∧ neg = false)) :
    ∃ k, k ≤ maxCode f ∧ (roundFin f mode false neg m e).1 = fsignBit f neg + k ∧ isFloor f (mag m e) k := by
  obtain ⟨n, low, high, large, fit⟩ := exists_roundsFrom hf mode neg m e
  have code : roundCode f mode neg (mag m e) n = n := if_neg (by rcases toZero with rfl | ⟨rfl, rfl⟩ | ⟨rfl, rfl⟩ <;> simp [goesUp])
  rw [code] at large fit
  refine ⟨min n (maxCode f), min_le_right _ _, ?_, codeVal_min_spec low high⟩
  by_cases fits : n ≤ maxCode f
  · rw [min_eq_left fits, (fit fits).1]
  · have overflow : overflowEnc f mode neg = fmaxEnc f neg := by
      unfold overflowEnc
      rw [if_pos inf]
      rcases toZero with rfl | ⟨rfl, rfl⟩ | ⟨rfl, rfl⟩ <;> rfl
    rw [min_eq_right (not_le.mp fits).le, large fits, overflow, fmaxEnc_eq]

/-- R47: what is rounded otherwise is finite where the encoding rounded to is. -/
theorem roundFin_of_finite {mode : Rnd} (other : mode = .rne ∨ mode = .rna ∨ (mode = .rup ∧ neg = false) ∨ (mode = .rdn ∧ neg = true))
    (delivered : finite (fdecode f (roundFin f mode false neg m e).1) = true) :
    ∃ n, codeVal f n ≤ mag m e ∧ mag m e < codeVal f (n + 1) ∧ roundCode f mode neg (mag m e) n ≤ maxCode f ∧
      (roundFin f mode false neg m e).1 = fsignBit f neg + roundCode f mode neg (mag m e) n := by
  obtain ⟨n, low, high, large, fit⟩ := exists_roundsFrom hf mode neg m e
  refine ⟨n, low, high, ?_⟩
  by_cases fits : roundCode f mode neg (mag m e) n ≤ maxCode f
  · exact ⟨fits, (fit fits).1⟩
  · have overflow : overflowEnc f mode neg = finfEnc f neg := by
      unfold overflowEnc
      rw [if_pos inf]
      rcases other with rfl | rfl | ⟨rfl, rfl⟩ | ⟨rfl, rfl⟩ <;> rfl
    rw [large fits, overflow, finite_finfEnc hf inf] at delivered
    exact absurd delivered (by decide)

/-- R46, R47: what is rounded away from zero. -/
theorem roundFin_fromZero {mode : Rnd} (fromZero : (mode = .rup ∧ neg = false) ∨ (mode = .rdn ∧ neg = true))
    (delivered : finite (fdecode f (roundFin f mode false neg m e).1) = true) :
    ∃ k, k ≤ maxCode f ∧ (roundFin f mode false neg m e).1 = fsignBit f neg + k ∧ isCeil f (mag m e) k := by
  obtain ⟨n, low, high, fits, code⟩ := roundFin_of_finite hf inf neg m e (.inr (.inr fromZero)) delivered
  have up : roundCode f mode neg (mag m e) n = if codeVal f n < mag m e then n + 1 else n := by
    unfold roundCode
    rcases fromZero with ⟨rfl, rfl⟩ | ⟨rfl, rfl⟩ <;> simp [goesUp]
  exact ⟨_, fits, code, up ▸ codeVal_up_spec low high⟩

/-- R46: what is rounded to the nearest. -/
theorem roundFin_nearest {mode : Rnd} (nearest : mode = .rne ∨ mode = .rna)
    (delivered : finite (fdecode f (roundFin f mode false neg m e).1) = true) :
    ∃ k, k ≤ maxCode f ∧ (roundFin f mode false neg m e).1 = fsignBit f neg + k ∧ ∀ s j,
      |sgn neg * mag m e - sgn neg * codeVal f k| ≤ |sgn neg * mag m e - sgn s * codeVal f j| ∧
      (sgn s * codeVal f j ≠ sgn neg * codeVal f k → |sgn neg * mag m e - sgn s * codeVal f j| = |sgn neg * mag m e - sgn neg * codeVal f k| →
        (mode = .rne → k % 2 = 0) ∧ (mode = .rna → codeVal f j < codeVal f k)) := by
  obtain ⟨n, low, high, fits, code⟩ := roundFin_of_finite hf inf neg m e (nearest.imp_right .inl) delivered
  exact ⟨_, fits, code, nearest_signed (P := fun y => (mode = .rne → _ % 2 = 0) ∧ (mode = .rna → y < codeVal f _)) (mag_nonneg m e) neg
    fun j => roundCode_nearest low high nearest neg j⟩

end delivered

theorem roundingIsDirected : Claim.roundingIsDirected := by
  intro t neg m e four
  have hf := fmtOf_hasFields t
  have inf : fmtHasInf (fmtOf t) = true := by rw [fmtHasInf, fmtOf_ieee four]; rfl
  have width := fmtOf_width (float_of_tyFour four)
  have hx := mag_nonneg m e
  generalize fmtOf t = f at *
  have numbers : ∀ P : Rat → Prop, (∀ s j, j ≤ maxCode f → P (sgn s * codeVal f j)) →
      ∀ b, b < 2 ^ tyWidth t → finite (fdecode f b) = true → P (rat (fdecode f b)) := fun P h b hb number => by
    obtain ⟨s, j, fits, rfl⟩ := exists_code_of_finite hf (width ▸ hb) number
    rw [rat_fdecode_code hf s fits]
    exact h s j fits
  intro x code deliv everyNumber off
  have exactly : rat x = sgn neg * mag m e := rat_fin neg m e
  have value : ∀ mode k, k ≤ maxCode f → code mode = fsignBit f neg + k →
      finite (deliv mode) = true ∧ rat (deliv mode) = sgn neg * codeVal f k := fun mode k fits made => by
    simp only [deliv, made]
    exact ⟨(finite_fdecode_code hf neg (fits.trans_lt (maxCode_lt f))).mpr fits, rat_fdecode_code hf neg fits⟩
  have above : ∀ mode k, k ≤ maxCode f → code mode = fsignBit f neg + k → (if neg then isFloor f (mag m e) k else isCeil f (mag m e) k) →
      rat x ≤ rat (deliv mode) ∧ everyNumber (fun y => rat x ≤ y → rat (deliv mode) ≤ y) := fun mode k fits made best => by
    obtain ⟨le, least⟩ := next_above hx best
    rw [← exactly, ← (value mode k fits made).2] at le least
    exact ⟨le, numbers (fun y => rat x ≤ y → rat (deliv mode) ≤ y) least⟩
  have below : ∀ mode k, k ≤ maxCode f → code mode = fsignBit f neg + k → (if neg then isCeil f (mag m e) k else isFloor f (mag m e) k) →
      rat (deliv mode) ≤ rat x ∧ everyNumber (fun y => y ≤ rat x → y ≤ rat (deliv mode)) := fun mode k fits made best => by
    obtain ⟨le, greatest⟩ := next_below hx best
    rw [← exactly, ← (value mode k fits made).2] at le greatest
    exact ⟨le, numbers (fun y => y ≤ rat x → y ≤ rat (deliv mode)) greatest⟩
  refine ⟨?rtz, fun delivered => ?rup, fun delivered => ?rdn, fun delivered => ?rne, fun delivered => ?rna⟩
  case rtz =>
    obtain ⟨k, fits, made, floor⟩ := roundFin_toZero hf inf neg m e (.inl rfl)
    obtain ⟨fin, val⟩ := value _ k fits made
    have hk := codeVal_nonneg f k
    refine ⟨fin, ?_⟩
    cases neg with
    | true =>
      obtain ⟨le, least⟩ := above _ k fits made floor
      exact ⟨le, by rw [val]; simpa [sgn] using hk, least⟩
    | false =>
      obtain ⟨le, greatest⟩ := below _ k fits made floor
      exact ⟨by rw [val]; simpa [sgn] using hk, le, greatest⟩
  case rup =>
    cases neg with
    | true =>
      obtain ⟨k, fits, made, floor⟩ := roundFin_toZero hf inf true m e (.inr (.inl ⟨rfl, rfl⟩))
      exact above _ k fits made floor
    | false =>
      obtain ⟨k, fits, made, ceil⟩ := roundFin_fromZero hf inf false m e (.inl ⟨rfl, rfl⟩) delivered
      exact above _ k fits made ceil
  case rdn =>
    cases neg with
    | true =>
      obtain ⟨k, fits, made, ceil⟩ := roundFin_fromZero hf inf true m e (.inr ⟨rfl, rfl⟩) delivered
      exact below _ k fits made ceil
    | false =>
      obtain ⟨k, fits, made, floor⟩ := roundFin_toZero hf inf false m e (.inr (.inr ⟨rfl, rfl⟩))
      exact below _ k fits made floor
  case rne =>
    obtain ⟨k, fits, made, near⟩ := roundFin_nearest hf inf neg m e (.inl rfl) delivered
    rw [← exactly, ← (value _ k fits made).2] at near
    refine numbers (fun y => off (rat (deliv .rne)) ≤ off y ∧ (y ≠ rat (deliv .rne) → off y = off (rat (deliv .rne)) → code .rne % 2 = 0))
      fun s j _ => ⟨(near s j).1, fun ne tie => ?_⟩
    rw [show code .rne = _ from made, Nat.add_mod, even_fsignBit hf, ((near s j).2 ne tie).1 rfl]
  case rna =>
    obtain ⟨k, fits, made, near⟩ := roundFin_nearest hf inf neg m e (.inr rfl) delivered
    have val := (value _ k fits made).2
    rw [← exactly, ← val] at near
    refine numbers (fun y => off (rat (deliv .rna)) ≤ off y ∧
      (y ≠ rat (deliv .rna) → off y = off (rat (deliv .rna)) → |y| < |rat (deliv .rna)|)) fun s j _ => ⟨(near s j).1, fun ne tie => ?_⟩
    have size : ∀ s k, |sgn s * codeVal f k| = codeVal f k := fun s k => by rw [abs_mul, abs_sgn, one_mul, abs_of_nonneg (codeVal_nonneg f k)]
    rw [val, size, size]
    exact ((near s j).2 ne tie).2 rfl

/-- Settles O12, by its three parts: the exact operations, the direction of rounding, and the numbers of a format. -/
theorem exactnessAndRounding : Obligations.ExactnessAndRounding :=
  ⟨exactOperationsAreExact, roundingIsDirected, roundingKeepsFormatNumbers⟩

end Sys2Proof.Machine
end

section
/-! PROOFS. Votes, broadcasts, shuffles, elections and matches (R154 to R156). -/
namespace Sys2Proof.Machine
open Sys2Proof.Laws Sys2Proof.Claim

/-! ### Sets of lanes as masks (R156) -/

/-- A sum of distinct powers of two has just their bits. -/
theorem testBit_sum_two_pow {js : List Nat} (once : js.Nodup) (j : Nat) : (js.map (2 ^ ·)).sum.testBit j = true ↔ j ∈ js := by
  rw [← List.sum_toFinset _ once, ← Nat.mem_bitIndices, ← List.mem_toFinset, Finset.toFinset_bitIndices_sum_two_pow, List.mem_toFinset]

theorem testBit_partMask {ps : List Participant} (once : (ps.map (·.lane)).Nodup) (j : Nat) :
    (partMask ps).testBit j = true ↔ ∃ p ∈ ps, p.lane = j := by
  have sum : partMask ps = ((ps.map (·.lane)).map (2 ^ ·)).sum := by rw [partMask, List.sum_eq_foldl, List.map_map]; rfl
  rw [sum, testBit_sum_two_pow once, List.mem_map]

/-- R147, R156: the guard-true contributors stand in the order of their lanes. -/
theorem truths_ascending (r : Reader) : r.truths.Pairwise (fun p q => p.lane < q.lane) := by
  refine List.Pairwise.filterMap _ (fun i j hij p hp q hq => ?_) List.pairwise_lt_range
  have lane : ∀ {k : Nat} {p : Participant}, r.contrib.find? (fun p => p.lane == k && p.guard) = some p → p.lane = k := fun h => by
    have := List.find?_some h
    simp only [Bool.and_eq_true, beq_iff_eq] at this
    exact this.1
  rw [lane hp, lane hq]
  exact hij

theorem truths_nodup (r : Reader) : (r.truths.map (·.lane)).Nodup :=
  List.pairwise_map.mpr ((truths_ascending r).imp Nat.ne_of_lt)

theorem ballotsVotesAndBroadcasts : Claim.ballotsVotesAndBroadcasts := by
  intro f r own
  refine ⟨fun j _ => ?ballot, ?every, ?some, ?agree, ?count, fun p rest first => ?bcast, fun none => ?empty⟩
  case ballot =>
    have once : ((r.truths.filter (fun p => predTrue p.opnd)).map (·.lane)).Nodup := (truths_nodup r).sublist (List.filter_sublist.map _)
    refine (testBit_partMask once j).trans ?_
    simp only [List.mem_filter, predTrue, bne_iff_ne, and_assoc, and_comm]
  case every => simp [laneResult, voteRes]
  case some => simp [laneResult, voteRes]
  case agree => simp [laneResult, voteRes, imp_iff_not_or]
  case count => rw [List.count_eq_length_filter]; simp only [beq_true]; rfl
  case bcast => simp only [laneResult, first]
  case empty => simp only [laneResult, none, and_self]

/-! ### Shuffles (R155) -/

theorem bitsOf_eq (x hi lo : Nat) : bitsOf x hi lo = x / 2 ^ lo % 2 ^ (hi + 1 - lo) := by rw [bitsOf, Nat.shiftRight_eq_div_pow]

/-- R155: the width of the segments divides the gang's 32 lanes. -/
theorem segment_dvd (wid : Nat) : (if wid ≤ 5 then 2 ^ wid else 32) ∣ 32 := by
  split
  · next h => exact Nat.pow_dvd_pow 2 h
  · exact dvd_rfl

theorem shuffleSelectsInItsSegment : Claim.shuffleSelectsInItsSegment := by
  intro f lane ctl _ wid W sel
  have width : (if bitsOf ctl 7 5 ≤ 5 then 2 ^ bitsOf ctl 7 5 else 32) = W := by rw [bitsOf_eq]; rfl
  have selector : bitsOf ctl 4 0 = sel := by rw [bitsOf_eq, pow_zero, Nat.div_one]; rfl
  have small : sel < 32 := Nat.mod_lt _ (by decide)
  obtain ⟨c, segments⟩ : W ∣ 32 := segment_dvd wid
  have positive : 0 < W := Nat.pos_of_ne_zero (by rintro h; simp [h] at segments)
  have inside := Nat.mod_lt lane positive
  clear_value W sel
  have asNat : ∀ n : Nat, ((n : Int) % (W : Int)).toNat = n % W := fun n => by rw [← Int.natCast_mod, Int.toNat_natCast]
  have back : ((lane % W : Nat) : Int) - (sel : Int) = ((lane % W + 32 - sel : Nat) : Int) - (W : Int) * c := by
    have : (W : Int) * c = 32 := by exact_mod_cast segments.symm
    omega
  simp only [shflLane, width, selector]
  refine ⟨by rw [asNat], ?_, by rw [← Nat.cast_add, asNat], by rw [asNat]; rfl, ?_, ?_⟩
  · rw [back, Int.sub_mul_emod_self_left, asNat]
  · rw [decide_eq_true_iff]; omega
  · rw [decide_eq_true_iff]; omega

/-! ### Elections and matches (R156) -/

theorem matchRef_eq_some (r : Reader) (own x : W64) :
    matchRef r own = some x ↔ if r.scalar then (r.truths.head?).map (·.opnd) = some x else x = own := by
  unfold matchRef
  cases r.scalar <;> simp [eq_comm]

theorem electionsAndMatches : Claim.electionsAndMatches := by
  intro f r own
  refine ⟨fun p rest first => ?first, fun none => ?none, fun once j _ => ?matched⟩
  case first => simp only [laneResult, first]
  case none => simp only [laneResult, none, and_self]
  case matched =>
    have same : ∀ x y : W64, (x.toNat % 2 ^ tyWidth f.ty == y.toNat % 2 ^ tyWidth f.ty) = true ↔ val f.ty x.toNat = val f.ty y.toNat := fun x y => by
      rw [beq_iff_eq, ← BitVec.toNat_inj, val, val, BitVec.toNat_ofNat, BitVec.toNat_ofNat]
    simp only [← matchRef_eq_some]
    cases found : matchRef r own.opnd with
    | none => simp [laneResult, found, maskRes]
    | some x =>
      have equal : ((r.contrib.filter (fun p => p.opnd.toNat % 2 ^ tyWidth f.ty == x.toNat % 2 ^ tyWidth f.ty)).map (·.lane)).Nodup :=
        once.sublist ((List.filter_sublist.trans List.filter_sublist).map _)
      simp only [laneResult, found, maskRes, testBit_partMask equal, List.mem_filter, same, Option.some.injEq, exists_eq_left', and_assoc, and_comm]

end Sys2Proof.Machine
end

section
/-! PROOFS. Scans and reductions (R157, R158): folds of integers, and of floating-point values. -/
namespace Sys2Proof.Machine
open Sys2Proof.Laws Sys2Proof.Claim

/-! ### Integers (R158) -/

theorem extOf_eq_num (t : Ty) (x : Nat) : extOf t x = num t (val t x) := by
  unfold extOf num val
  split
  · exact signExt_eq_toInt x (tyWidth t)
  · rw [BitVec.toNat_ofNat]

theorem foldInt_add (t : Ty) (a b : Nat) : foldInt .add t a b = (a + b) % 2 ^ tyWidth t := by
  simp [foldInt, aluAdd, lowOf]

theorem foldInt_min (t : Ty) {a b : Nat} (ha : a < 2 ^ tyWidth t) (hb : b < 2 ^ tyWidth t) :
    foldInt .min t a b = if num t (val t b) < num t (val t a) then b else a := by
  simp only [foldInt, aluMin, iresOf, lowOf, extOf_eq_num]
  exact Nat.mod_eq_of_lt (by split <;> assumption)

theorem foldInt_max (t : Ty) {a b : Nat} (ha : a < 2 ^ tyWidth t) (hb : b < 2 ^ tyWidth t) :
    foldInt .max t a b = if -num t (val t b) < -num t (val t a) then b else a := by
  simp only [foldInt, aluMax, iresOf, lowOf, extOf_eq_num, neg_lt_neg_iff]
  exact Nat.mod_eq_of_lt (by split <;> assumption)

theorem foldl_add_mod (w : Nat) (xs : List Nat) (x : Nat) (hx : x < w) : xs.foldl (fun a b => (a + b) % w) x = (x :: xs).sum % w := by
  induction xs generalizing x with
  | nil => simpa using (Nat.mod_eq_of_lt hx).symm
  | cons y ys ih =>
    rw [List.foldl_cons, ih _ (Nat.mod_lt _ (Nat.zero_lt_of_lt hx)), List.sum_cons, Nat.mod_add_mod, List.sum_cons, List.sum_cons, Nat.add_assoc]

/-- A fold that keeps the lesser of two by a key delivers a least element of the list. -/
theorem foldl_least {key : Nat → Int} {op : Nat → Nat → Nat} {ok : Nat → Prop}
    (lesser : ∀ a b, ok a → ok b → op a b = if key b < key a then b else a) (xs : List Nat) (x : Nat) (all : ∀ y ∈ x :: xs, ok y) :
    xs.foldl op x ∈ x :: xs ∧ ∀ z ∈ x :: xs, key (xs.foldl op x) ≤ key z := by
  induction xs generalizing x with
  | nil => simp
  | cons y ys ih =>
    simp only [List.forall_mem_cons] at all
    obtain ⟨hx, hy, rest⟩ := all
    have kept := lesser x y hx hy
    rw [List.foldl_cons, kept]
    split
    · next less =>
      obtain ⟨mem, least⟩ := ih y (List.forall_mem_cons.mpr ⟨hy, rest⟩)
      refine ⟨List.mem_cons_of_mem _ mem, List.forall_mem_cons.mpr ⟨?_, least⟩⟩
      exact (least y List.mem_cons_self).trans less.le
    · next notLess =>
      obtain ⟨mem, least⟩ := ih x (List.forall_mem_cons.mpr ⟨hx, rest⟩)
      obtain ⟨atX, others⟩ := List.forall_mem_cons.mp least
      refine ⟨?_, List.forall_mem_cons.mpr ⟨atX, List.forall_mem_cons.mpr ⟨atX.trans (not_lt.mp notLess), others⟩⟩⟩
      rcases List.mem_cons.mp mem with h | h
      · rw [h]; exact List.mem_cons_self
      · exact List.mem_cons_of_mem _ (List.mem_cons_of_mem _ h)

/-- R158: the fold of integers. -/
theorem foldTerms_int {t : Ty} (int : tyInt t = true) (op : ScanOp) (rnd : Option Rnd) (fsr : W32) {x : Nat} (hx : x < 2 ^ tyWidth t)
    (xs : List Nat) : foldTerms op t rnd fsr (x :: xs) = (xs.foldl (foldInt op t) x, 0) := by
  simp only [foldTerms, int, if_true, lowOf, Nat.mod_eq_of_lt hx]
  rfl

/-! ### Floating-point values (R158) -/

/-- R43: the infinities of a format of the first kind. -/
theorem eq_finfEnc_of_inf {f : FFmt} (hf : hasFields f) (ieee : f.nan = .ieee) {neg : Bool} {b : Nat} (hb : b < 2 ^ (1 + (f.ebits + f.mbits)))
    (inf : fdecode f b = .inf neg) : b = finfEnc f neg := by
  obtain ⟨s, n, hn, rfl⟩ := exists_sign_code hb
  obtain ⟨sign, exp, man⟩ := fields_of_code hf s hn
  have parts := Nat.div_add_mod' n (2 ^ f.mbits)
  unfold fdecode at inf
  rw [sign, exp, man, ieee] at inf
  by_cases top : n / 2 ^ f.mbits = 2 ^ f.ebits - 1
  · by_cases zero : n % 2 ^ f.mbits = 0
    · obtain rfl : s = neg := by simpa [top, zero] using inf
      rw [finfEnc, ← top]
      omega
    · simp [top, zero] at inf
  · simp [top, apply_ite] at inf
    split at inf <;> cases inf

/-- R45: the canonical NaN is a quiet one. -/
theorem fdecode_canonNan {f : FFmt} (hf : hasFields f) (ieee : f.nan = .ieee) : fdecode f (canonNan f) = .nan false := by
  have quiet : 2 ^ (f.mbits - 1) < 2 ^ f.mbits := Nat.pow_lt_pow_right (by decide) (by have := hf.2; omega)
  have all := topField_add f
  obtain ⟨-, exp, man⟩ := fields_of_code hf false (n := (2 ^ f.ebits - 1) * 2 ^ f.mbits + 2 ^ (f.mbits - 1)) (by omega)
  rw [Nat.mul_comm, Nat.mul_add_div (Nat.two_pow_pos _), Nat.div_eq_of_lt quiet] at exp
  rw [Nat.mul_comm, Nat.mul_add_mod, Nat.mod_eq_of_lt quiet] at man
  simp only [fsignBit, Bool.false_eq_true, if_false, Nat.zero_add, Nat.add_zero] at exp man
  unfold fdecode canonNan
  rw [ieee]
  dsimp only
  rw [Nat.mul_comm, exp, man]
  simp

/-- R49: DAZ makes a zero of a finite operand, or leaves the operand as it is. -/
theorem fvalue_cases (f : FFmt) (daz : Bool) (b : Nat) :
    fvalue f daz b = fdecode f b ∨ ∃ neg m e, fdecode f b = .fin neg m e ∧ fvalue f daz b = .fin neg 0 e := by
  unfold fvalue
  cases h : fdecode f b with
  | nan s => exact .inl rfl
  | inf neg => exact .inl rfl
  | fin neg m e =>
    dsimp only
    split
    · exact .inr ⟨neg, m, e, rfl, rfl⟩
    · exact .inl rfl

theorem fIsSubnormal_code {f : FFmt} (hf : hasFields f) (s : Bool) {n : Nat} (hn : n < 2 ^ (f.ebits + f.mbits)) :
    fIsSubnormal f (fsignBit f s + n) = true ↔ n ≠ 0 ∧ n < 2 ^ f.mbits := by
  obtain ⟨-, exp, man⟩ := fields_of_code hf s hn
  rw [fIsSubnormal, exp, man, Bool.and_eq_true, beq_iff_eq, bne_iff_ne, Nat.div_eq_zero_iff_lt (Nat.two_pow_pos _), and_comm]
  exact and_congr_left fun small => by rw [Nat.mod_eq_of_lt small]

/-- R49: an operand that reads as zero, by itself or under DAZ. -/
theorem fvalue_zero {f : FFmt} (hf : hasFields f) (daz : Bool) {b : Nat} (hb : b < 2 ^ (1 + (f.ebits + f.mbits))) {neg : Bool} {e : Int}
    (zero : fvalue f daz b = .fin neg 0 e) : e = quantum f ∧ dazEnc f daz b = fsignBit f neg := by
  obtain ⟨s, n, hn, rfl⟩ := exists_sign_code hb
  have fits : n ≤ maxCode f := by
    by_contra none
    have := (fdecode_code hf s hn).2 none
    unfold fvalue at zero
    cases h : fdecode f (fsignBit f s + n) <;> simp [h] at zero this
  have sub := fIsSubnormal_code hf s hn
  obtain ⟨sign, -, -⟩ := fields_of_code hf s hn
  rw [fvalue, (fdecode_code hf s hn).1 fits] at zero
  dsimp only at zero
  unfold dazEnc
  rw [sign]
  split at zero
  · next flushed =>
    obtain ⟨rfl, rfl⟩ : s = neg ∧ codeExp f n = e := by simpa using zero
    rw [if_pos flushed]
    simp only [Bool.and_eq_true] at flushed
    exact ⟨by simp [codeExp, Nat.div_eq_of_lt (sub.mp flushed.2).2], rfl⟩
  · next kept =>
    obtain ⟨rfl, sig, rfl⟩ : s = neg ∧ codeSig f n = 0 ∧ codeExp f n = e := by simpa using zero
    obtain rfl : n = 0 := by
      unfold codeSig at sig
      split at sig
      · exact sig
      · have := Nat.two_pow_pos f.mbits; omega
    rw [if_neg kept]
    exact ⟨by simp [codeExp], Nat.mod_eq_of_lt (by rw [fmtWidth, Nat.add_assoc]; exact hb)⟩

/-- R158: the first term of a fold: a NaN made canonical, an infinity, a zero or what reads as one, any other number. -/
theorem firstFloat_cases {t : Ty} (four : tyFour t = true) (fsr : W32) {x : Nat} (hx : x < 2 ^ tyWidth t) :
    (∃ s, fvalue (fmtOf t) (fsrDaz fsr) x = .nan s ∧ firstFloat t fsr x = (canonNan (fmtOf t), nanFlags (.nan s))) ∨
    (∃ neg, fvalue (fmtOf t) (fsrDaz fsr) x = .inf neg ∧ fdecode (fmtOf t) x = .inf neg ∧ x = finfEnc (fmtOf t) neg ∧
      firstFloat t fsr x = (x, flNone)) ∨
    (∃ neg, fvalue (fmtOf t) (fsrDaz fsr) x = .fin neg 0 (quantum (fmtOf t)) ∧ dazEnc (fmtOf t) (fsrDaz fsr) x = fsignBit (fmtOf t) neg ∧
      firstFloat t fsr x = (fsignBit (fmtOf t) neg, flNone)) ∨
    ∃ neg m e, m ≠ 0 ∧ fvalue (fmtOf t) (fsrDaz fsr) x = .fin neg m e ∧ fdecode (fmtOf t) x = .fin neg m e ∧ firstFloat t fsr x = (x, flNone) := by
  have hf := fmtOf_hasFields t
  have ieee := fmtOf_ieee four
  have width := fmtOf_width (float_of_tyFour four)
  have signBit : ∀ neg, (if neg then 2 ^ (tyWidth t - 1) else 0) = fsignBit (fmtOf t) neg := fun neg => by
    rw [width, Nat.add_sub_cancel_left]; rfl
  have zero := @fvalue_zero (fmtOf t) hf (fsrDaz fsr) x (width ▸ hx)
  have inf := @eq_finfEnc_of_inf (fmtOf t) hf ieee
  unfold firstFloat
  dsimp only
  cases value : fvalue (fmtOf t) (fsrDaz fsr) x with
  | nan s => exact .inl ⟨s, rfl, by cases s <;> rfl⟩
  | inf neg =>
    have same : fdecode (fmtOf t) x = .inf neg := (fvalue_cases _ _ _).elim (fun h => h ▸ value) fun ⟨_, _, _, _, h⟩ => by simp [h] at value
    exact .inr (.inl ⟨neg, rfl, same, inf (width ▸ hx) same, rfl⟩)
  | fin neg m e =>
    cases m with
    | zero =>
      obtain ⟨rfl, enc⟩ := zero value
      exact .inr (.inr (.inl ⟨neg, rfl, enc, by simp only [signBit]⟩))
    | succ m =>
      have same : fdecode (fmtOf t) x = .fin neg (m + 1) e :=
        (fvalue_cases _ _ _).elim (fun h => h ▸ value) fun ⟨_, _, _, _, h⟩ => by simp [h] at value
      exact .inr (.inr (.inr ⟨neg, m + 1, e, Nat.succ_ne_zero m, rfl, same, rfl⟩))

/-- R45: a value with its NaN, if it is one, made quiet. -/
def quieted : FVal → FVal
  | .nan _ => .nan false
  | x => x

/-- R158: what the first term of a fold is to the later ones: the operand, its NaN made quiet, whose flag is raised already. -/
theorem firstFloat_spec {t : Ty} (four : tyFour t = true) (fsr : W32) {x : Nat} (hx : x < 2 ^ tyWidth t) :
    let f := fmtOf t
    let a := fvalue f (fsrDaz fsr) x
    let first := firstFloat t fsr x
    first.2 = nanFlags a ∧ fdecode f first.1 = quieted a ∧ fvalue f (fsrDaz fsr) first.1 = quieted a ∧
      (isNan a = false → dazEnc f (fsrDaz fsr) first.1 = dazEnc f (fsrDaz fsr) x) := by
  have hf := fmtOf_hasFields t
  have quiet := fdecode_canonNan hf (fmtOf_ieee four)
  have width := fmtOf_width (float_of_tyFour four)
  intro f a first
  obtain ⟨s, value, made⟩ | ⟨neg, value, decoded, -, made⟩ | ⟨neg, value, enc, made⟩ | ⟨neg, m, e, -, value, decoded, made⟩ :=
    firstFloat_cases four fsr hx <;> simp only [f, a, first, made, value]
  · refine ⟨trivial, quiet, ?_, by simp [isNan]⟩
    exact (fvalue_cases _ _ _).elim (fun h => h.trans quiet) fun ⟨_, _, _, h, _⟩ => by simp [h] at quiet
  · exact ⟨rfl, decoded, rfl, fun _ => trivial⟩
  · have zero : fdecode (fmtOf t) (fsignBit (fmtOf t) neg) = .fin neg 0 (quantum (fmtOf t)) := by
      simpa [codeSig, codeExp] using (fdecode_code hf neg (Nat.two_pow_pos _)).1 (Nat.zero_le _)
    have same : fvalue (fmtOf t) (fsrDaz fsr) (fsignBit (fmtOf t) neg) = .fin neg 0 (quantum (fmtOf t)) := by
      rcases fvalue_cases (fmtOf t) (fsrDaz fsr) (fsignBit (fmtOf t) neg) with h | ⟨_, _, _, h, h'⟩
      · exact h.trans zero
      · rw [zero] at h; cases h; exact h'
    have small : fsignBit (fmtOf t) neg < 2 ^ (1 + ((fmtOf t).ebits + (fmtOf t).mbits)) := by
      unfold fsignBit
      split
      · exact Nat.pow_lt_pow_right (by decide) (by omega)
      · exact Nat.two_pow_pos _
    exact ⟨rfl, zero, same, fun _ => ((fvalue_zero hf _ small same).2).trans enc.symm⟩
  · exact ⟨rfl, decoded, rfl, fun _ => trivial⟩

/-- R128: a sum with an operand made quiet, the flag of a signalling one raised beforehand. -/
theorem faddV_quieted (mode : Rnd) (a b : FVal) :
    (faddV mode (quieted a) b).1 = (faddV mode a b).1 ∧ nanFlags a ||| (faddV mode (quieted a) b).2 = (faddV mode a b).2 := by
  cases a with
  | nan s => exact ⟨rfl, by simp [quieted, faddV, nanFlags, flNone]⟩
  | _ => exact ⟨rfl, by simp [quieted, nanFlags, flNone]⟩

/-- R130: a minimum or maximum of an operand made quiet, the flag of a signalling one raised beforehand. -/
theorem fminmax_firstFloat {t : Ty} (four : tyFour t = true) (fsr : W32) {x : Nat} (hx : x < 2 ^ tyWidth t) (isMax : Bool) (y : Nat) :
    let first := firstFloat t fsr x
    let d := fminmax (fmtOf t) (fsrDaz fsr) true isMax first.1 y
    (d.1, first.2 ||| d.2) = fminmax (fmtOf t) (fsrDaz fsr) true isMax x y := by
  obtain ⟨flags, -, value, enc⟩ := firstFloat_spec four fsr hx
  intro first d
  simp only [d, first, fminmax, flags, value]
  cases a : fvalue (fmtOf t) (fsrDaz fsr) x with
  | nan s => cases fvalue (fmtOf t) (fsrDaz fsr) y <;> simp [quieted, isNan, nanFlags, flNone]
  | inf neg =>
    rw [a] at enc
    simp only [enc rfl, quieted, nanFlags, flNone, BitVec.zero_or]
  | fin neg m e =>
    rw [a] at enc
    simp only [enc rfl, quieted, nanFlags, flNone, BitVec.zero_or]

theorem foldTerms_one {t : Ty} (four : tyFour t = true) (op : ScanOp) (rnd : Option Rnd) (fsr : W32) {x : Nat} (hx : x < 2 ^ tyWidth t) :
    let a := fvalue (fmtOf t) (fsrDaz fsr) x
    let d := roundVal (fmtOf t) (rnd.getD (fsrRm fsr)) (fsrFtz fsr) a
    foldTerms op t rnd fsr [x] = (d.1, nanFlags a ||| d.2) := by
  have float := (float_of_tyFour four).1
  have inf : fmtHasInf (fmtOf t) = true := by rw [fmtHasInf, fmtOf_ieee four]; rfl
  obtain ⟨flags, decoded, -, -⟩ := firstFloat_spec four fsr hx
  intro a d
  simp only [foldTerms, float, Bool.false_eq_true, if_false, decoded, d, a, modeOf]
  obtain ⟨s, value, made⟩ | ⟨neg, value, -, enc, made⟩ | ⟨neg, value, -, made⟩ | ⟨neg, m, e, notZero, value, -, made⟩ :=
    firstFloat_cases four fsr hx <;> simp only [made, value, quieted, roundVal, inf, if_true]
  · simp [flNone]
  · simp [← enc, nanFlags, flNone]
  · simp [roundFin, nanFlags, flNone]
  · rw [if_neg notZero]; rfl

/-- R158: a fold of two terms. -/
theorem foldTerms_two {t : Ty} (float : tyInt t = false) (op : ScanOp) (rnd : Option Rnd) (fsr : W32) (x y : Nat) :
    let first := firstFloat t fsr x
    let z := foldFloat op t rnd fsr first.1 y
    foldTerms op t rnd fsr [x, y] = (z.1, first.2 ||| z.2) := by
  simp only [foldTerms, float, Bool.false_eq_true, if_false, List.foldl_cons, List.foldl_nil]

/-- R158: a fold of two terms or more takes in one more. -/
theorem foldTerms_append {t : Ty} (float : tyInt t = false) (op : ScanOp) (rnd : Option Rnd) (fsr : W32) {xs : List Nat} (two : 2 ≤ xs.length)
    (y : Nat) :
    let a := foldTerms op t rnd fsr xs
    let z := foldFloat op t rnd fsr a.1 y
    foldTerms op t rnd fsr (xs ++ [y]) = (z.1, a.2 ||| z.2) := by
  obtain ⟨x, x', rest, rfl⟩ : ∃ x x' rest, xs = x :: x' :: rest := by
    match xs, two with
    | x :: x' :: rest, _ => exact ⟨x, x', rest, rfl⟩
  simp only [foldTerms, float, Bool.false_eq_true, if_false, List.cons_append, List.foldl_cons, List.foldl_append, List.foldl_nil]

theorem scansAndReductionsFold : Claim.scansAndReductionsFold := by
  intro f r own op hi t terms fold fm mode valued out
  refine ⟨?_, rfl, fun int x xs small => ?_, fun four x y hx hy => ?_⟩
  · have res : ∀ hi', hi' = hi → ((foldRes r f own.fsr op hi').r, (foldRes r f own.fsr op hi').fl) = fold terms := fun hi' h => by
      subst h
      simp only [foldRes, fold, terms, val, BitVec.toNat_ofNat, t]
    exact ⟨fun h => res _ h.symm, fun h => res _ h.symm, fun h => res _ h.symm⟩
  · have whole : fold (x :: xs) = (xs.foldl (foldInt op t) x, 0) := foldTerms_int int op f.rnd own.fsr (small x List.mem_cons_self) xs
    rw [whole]
    refine ⟨rfl, fun add => ?_, fun and => ?_, fun or => ?_, fun xor => ?_, fun min => ?_, fun max => ?_⟩ <;> subst op
    · rw [show foldInt .add t = fun a b => (a + b) % 2 ^ tyWidth t from funext₂ (foldInt_add t)]
      exact foldl_add_mod _ xs x (small x List.mem_cons_self)
    · rfl
    · rfl
    · rfl
    · exact foldl_least (key := fun y => num t (val t y)) (fun a b => foldInt_min t) xs x small
    · obtain ⟨mem, least⟩ := foldl_least (key := fun y => -num t (val t y)) (fun a b => foldInt_max t) xs x small
      exact ⟨mem, fun z hz => neg_le_neg_iff.mp (least z hz)⟩
  · have float := (float_of_tyFour four).1
    have two : fold [x, y] = _ := foldTerms_two float op f.rnd own.fsr x y
    obtain ⟨flags, decoded, -, -⟩ := firstFloat_spec four own.fsr hx
    refine ⟨foldTerms_one four op f.rnd own.fsr hx, fun add => ?_, fun min => ?_, fun max => ?_, fun xs long => ?_⟩
    · subst add
      obtain ⟨same, flag⟩ := faddV_quieted mode (valued x) (valued y)
      rw [two, flags]
      simp only [foldFloat, decoded, modeOf, ← BitVec.or_assoc]
      rw [flag, same]
    · subst min; exact two.trans (fminmax_firstFloat four own.fsr hx false y)
    · subst max; exact two.trans (fminmax_firstFloat four own.fsr hx true y)
    · have next : fold (xs ++ [y]) = _ := foldTerms_append float op f.rnd own.fsr long y
      refine ⟨fun add => ?_, fun min => ?_, fun max => ?_⟩ <;> subst op <;> exact next

end Sys2Proof.Machine
end

section
/-! PROOFS. QMX (R57 to R59, R159): the greatest magnitude of a block, its scale, and its elements under that scale. -/
namespace Sys2Proof.Machine
open Sys2Proof.Laws Sys2Proof.Claim

/-! ### The greatest magnitude of a block (R57) -/

theorem abs_rat_fin (neg : Bool) (m : Nat) (e : Int) : |rat (.fin neg m e)| = mag m e := by
  rw [rat_fin, abs_mul, abs_sgn, one_mul, abs_of_nonneg (mag_nonneg m e)]

theorem mag_eq_zero_iff {m : Nat} {e : Int} : mag m e = 0 ↔ m = 0 := by rw [← mag_zero e, mag_inj_iff]

/-- R57: the greatest magnitude, as the quantiser takes it in. -/
def blockMax (xs : List FVal) (a : Nat × Int) : Nat × Int :=
  xs.foldl (fun a x => match x with | .fin _ m e => magMax a (m, e) | _ => a) a

theorem magMax_spec (a b : Nat × Int) : mag a.1 a.2 ≤ mag (magMax a b).1 (magMax a b).2 ∧ mag b.1 b.2 ≤ mag (magMax a b).1 (magMax a b).2 ∧
    (magMax a b = a ∨ magMax a b = b) := by
  unfold magMax
  split
  · next less => exact ⟨((magLt_iff _ _ _ _).mp less).le, le_rfl, .inr rfl⟩
  · next notLess => exact ⟨le_rfl, not_lt.mp fun h => notLess ((magLt_iff _ _ _ _).mpr h), .inl rfl⟩

theorem blockMax_spec (xs : List FVal) (a : Nat × Int) :
    let top := blockMax xs a
    mag a.1 a.2 ≤ mag top.1 top.2 ∧ (∀ x ∈ xs, |rat x| ≤ mag top.1 top.2) ∧ (top = a ∨ ∃ x ∈ xs, |rat x| = mag top.1 top.2) := by
  induction xs generalizing a with
  | nil => exact ⟨le_rfl, by simp, .inl rfl⟩
  | cons x xs ih =>
    cases x with
    | fin neg m e =>
      obtain ⟨old, new, either⟩ := magMax_spec a (m, e)
      obtain ⟨above, all, here⟩ := ih (magMax a (m, e))
      refine ⟨old.trans above, List.forall_mem_cons.mpr ⟨abs_rat_fin neg m e ▸ new.trans above, all⟩, ?_⟩
      rcases here with same | ⟨y, mem, top⟩
      · rcases either with h | h
        · exact .inl (same.trans h)
        · refine .inr ⟨_, List.mem_cons_self, ?_⟩
          rw [abs_rat_fin, show blockMax (.fin neg m e :: xs) a = (m, e) from same.trans h]
      · exact .inr ⟨y, List.mem_cons_of_mem _ mem, top⟩
    | _ =>
      obtain ⟨above, all, here⟩ := ih a
      refine ⟨above, List.forall_mem_cons.mpr ⟨by simpa [rat] using mag_nonneg _ _, all⟩, ?_⟩
      exact here.imp_right fun ⟨y, mem, top⟩ => ⟨y, List.mem_cons_of_mem _ mem, top⟩

/-! ### The scale of a block (R57) -/

/-- R57: the element formats. -/
def isElem (t : Ty) : Prop := t = .e4m3 ∨ t = .e5m2 ∨ t = .e3m2 ∨ t = .e2m3 ∨ t = .e2m1 ∨ t = .ds8

/-- R43, R54: the greatest number of an element format. -/
def elemMax : Ty → Rat
  | .e5m2 => 57344
  | .e4m3 => 448
  | .e3m2 => 28
  | .e2m3 => 15 / 2
  | .e2m1 => 6
  | _ => 2

theorem mag_maxnorm {t : Ty} (elem : isElem t) : mag (maxnorm t).1 (maxnorm t).2 = elemMax t := by
  rcases elem with rfl | rfl | rfl | rfl | rfl | rfl
  · rw [show maxnorm .e4m3 = (14, 5) by decide]; norm_num [mag, elemMax]
  · rw [show maxnorm .e5m2 = (7, 13) by decide]; norm_num [mag, elemMax]
  · rw [show maxnorm .e3m2 = (7, 2) by decide]; norm_num [mag, elemMax]
  · rw [show maxnorm .e2m3 = (15, -1) by decide]; norm_num [mag, elemMax]
  · rw [show maxnorm .e2m1 = (3, 1) by decide]; norm_num [mag, elemMax]
  · rw [show maxnorm .ds8 = (2, 0) by decide]; norm_num [mag, elemMax]

theorem two_le_elemMax (t : Ty) : 2 ≤ elemMax t := by cases t <;> norm_num [elemMax]

theorem scaleExp_bounds (t : Ty) (a : Nat × Int) : -127 ≤ scaleExp t a ∧ scaleExp t a ≤ 127 := by
  unfold scaleExp
  dsimp only
  omega

/-- R57: the least exponent under which a magnitude lies within the greatest one of a format. -/
theorem exists_leastScale {m : Nat} (hm : m ≠ 0) {n : Nat} (hn : n ≠ 0) (k e : Int) :
    let g : Int := (bitLen m : Int) + e - ((bitLen n : Int) + k)
    let s := if magLt n (k + g) m e then g + 1 else g
    mag m e ≤ mag n k * 2 ^ s ∧ mag n k * 2 ^ (s - 1) < mag m e := by
  intro g s
  obtain ⟨floor, ceil⟩ := mag_binade hm e
  obtain ⟨floor', ceil'⟩ := mag_binade hn k
  have scaled : ∀ j : Int, mag n k * 2 ^ j = mag n (k + j) := fun j => by rw [mag, mag, zpow_add₀ two_ne_zero, mul_assoc]
  have shifted : ∀ i j : Int, (2 : Rat) ^ i * 2 ^ j = 2 ^ (i + j) := fun i j => (zpow_add₀ two_ne_zero i j).symm
  by_cases above : magLt n (k + g) m e = true
  · have more := (magLt_iff _ _ _ _).mp above
    simp only [s, above, if_true, add_sub_cancel_right]
    refine ⟨?_, (scaled g).le.trans_lt more⟩
    calc mag m e
      _ ≤ 2 ^ ((bitLen m : Int) + e) := ceil.le
      _ = 2 ^ ((bitLen n : Int) - 1 + k) * 2 ^ (g + 1) := by rw [shifted]; congr 1; omega
      _ ≤ mag n k * 2 ^ (g + 1) := by gcongr
  · have within := not_lt.mp (mt (magLt_iff _ _ _ _).mpr above)
    simp only [s, above]
    refine ⟨(scaled g).ge.trans' within, ?_⟩
    calc mag n k * 2 ^ (g - 1)
      _ < 2 ^ ((bitLen n : Int) + k) * 2 ^ (g - 1) := by gcongr
      _ = 2 ^ ((bitLen m : Int) - 1 + e) := by rw [shifted]; congr 1; omega
      _ ≤ mag m e := floor

theorem scaleExp_spec {t : Ty} (elem : isElem t) {a : Nat × Int} (notZero : a.1 ≠ 0) (small : mag a.1 a.2 < 2 ^ (128 : Int)) :
    let e := scaleExp t a
    mag a.1 a.2 ≤ mag (maxnorm t).1 (maxnorm t).2 * 2 ^ e ∧ (e = -127 ∨ mag (maxnorm t).1 (maxnorm t).2 * 2 ^ (e - 1) < mag a.1 a.2) := by
  have two := mag_maxnorm elem ▸ two_le_elemMax t
  have normal : (maxnorm t).1 ≠ 0 := fun h => by rw [h, mag_zero] at two; linarith
  obtain ⟨le, lt⟩ := exists_leastScale notZero normal (maxnorm t).2 a.2
  unfold scaleExp
  dsimp only at le lt ⊢
  generalize (if magLt (maxnorm t).1 ((maxnorm t).2 + _) a.1 a.2 = true then _ else _ : Int) = s at le lt ⊢
  have bounded : s ≤ 127 := by
    by_contra large
    have : (2 : Rat) ^ (128 : Int) ≤ mag (maxnorm t).1 (maxnorm t).2 * 2 ^ (s - 1) :=
      calc (2 : Rat) ^ (128 : Int)
        _ = 2 * 2 ^ (127 : Int) := by norm_num
        _ ≤ mag (maxnorm t).1 (maxnorm t).2 * 2 ^ (s - 1) := by
          gcongr
          · norm_num
          · omega
    linarith
  rw [min_eq_right bounded]
  rcases le_total s (-127) with low | high
  · rw [max_eq_left low]
    refine ⟨le.trans ?_, .inl rfl⟩
    gcongr
    · norm_num
  · rw [max_eq_right high]
    exact ⟨le, .inr lt⟩

/-! ### Quantised blocks (R57 to R59) -/

theorem quantBlock_of_special (t : Ty) {xs : List FVal} (special : ∃ x ∈ xs, finite x = false) :
    quantBlock t xs = (0xFF, xs.map (fun _ => elemZero t), flIV) := by
  obtain ⟨x, mem, notFinite⟩ := special
  exact if_pos (List.any_eq_true.mpr ⟨x, mem, by cases x <;> simp at notFinite ⊢⟩)

theorem quantBlock_of_finite (t : Ty) {xs : List FVal} (all : ∀ x ∈ xs, finite x = true) :
    let a := blockMax xs (0, 0)
    let e := scaleExp t a
    quantBlock t xs = if a.1 = 0 then (0, xs.map (fun _ => elemZero t), flNone)
      else ((e + 127).toNat, (xs.map (quantElem t e)).map (·.1), (xs.map (quantElem t e)).foldl (fun f q => f ||| q.2) flNone) := by
  refine if_neg fun special => ?_
  obtain ⟨x, mem, notFinite⟩ := List.any_eq_true.mp special
  obtain ⟨neg, m, e, rfl⟩ := (finite_iff x).mp (all x mem)
  cases notFinite

theorem getLsbD_foldl_or (qs : List (Nat × FFlags)) (fl : FFlags) (k : Nat) :
    (qs.foldl (fun f q => f ||| q.2) fl).getLsbD k = true ↔ fl.getLsbD k = true ∨ ∃ q ∈ qs, q.2.getLsbD k = true := by
  induction qs generalizing fl with
  | nil => simp
  | cons q qs ih => simp only [List.foldl_cons, ih, BitVec.getLsbD_or, Bool.or_eq_true, or_assoc, List.exists_mem_cons_iff]

/-- R159: the operand at a position of a reader's block. -/
def blockAt (r : Reader) (j : Nat) : FVal :=
  (r.contrib.find? (fun p => p.lane == j)).elim (.fin false 0 0) (fun p => fdecode (fmtOf .f32) (val .f32 p.opnd.toNat).toNat)

theorem qmxRes_eq (r : Reader) (t : Ty) :
    let q := quantBlock t ((List.range 32).map (blockAt r))
    qmxRes r t = ⟨q.1 * 256 + q.2.1.getD r.lane 0 % 256, ⟨false, false, false, r.absentIn 32⟩, q.2.2⟩ := by
  refine congrArg (fun xs : List FVal => let q := quantBlock t xs
    (⟨q.1 * 256 + q.2.1.getD r.lane 0 % 256, ⟨false, false, false, r.absentIn 32⟩, q.2.2⟩ : LaneRes)) (List.map_congr_left fun j _ => ?_)
  unfold blockAt
  cases r.contrib.find? (fun p => p.lane == j) <;> rfl

/-- R43: a number of binary32 is below `2^128`. -/
theorem blockAt_lt (r : Reader) (j : Nat) : |rat (blockAt r j)| < 2 ^ (128 : Int) := by
  unfold blockAt
  cases r.contrib.find? (fun p => p.lane == j) with
  | none => simp [rat]
  | some p =>
    rw [Option.elim_some]
    by_cases number : finite (fdecode (fmtOf .f32) (val .f32 p.opnd.toNat).toNat) = true
    · have hf := fmtOf_hasFields .f32
      obtain ⟨neg, n, fits, enc⟩ := exists_code_of_finite hf (val .f32 p.opnd.toNat).isLt number
      rw [enc, rat_fdecode_code hf neg fits, abs_mul, abs_sgn, one_mul, abs_of_nonneg (codeVal_nonneg _ _)]
      refine ((codeVal_strictMono _).monotone fits).trans_lt ?_
      rw [← fmtMax_eq hf]
      norm_num [fmtMax, fmtOf, mag]
    · have none : rat (fdecode (fmtOf .f32) (val .f32 p.opnd.toNat).toNat) = 0 := by
        cases h : fdecode (fmtOf .f32) (val .f32 p.opnd.toNat).toNat <;> simp [h, rat] at number ⊢
      rw [none, abs_zero]
      positivity

/-- R59: a value over a scale. -/
def scaleDown (e : Int) : FVal → FVal
  | .fin n m x => .fin n m (x - e)
  | v => v

theorem quantElem_eq (t : Ty) (e : Int) (x : FVal) :
    quantElem t e x = if t = .ds8 then ds8Quantise (scaleDown e x) else roundVal (fmtOf t) .rne false (scaleDown e x) := by
  cases x <;> rfl

/-- R159: what a reader's block comes to at its positions. -/
theorem getD_block (r : Reader) (g : FVal → Nat) {j : Nat} (hj : j < 32) : (((List.range 32).map (blockAt r)).map g).getD j 0 = g (blockAt r j) := by
  simp [hj]

theorem forall_block (r : Reader) (P : FVal → Prop) : (∀ x ∈ (List.range 32).map (blockAt r), P x) ↔ ∀ j, j < 32 → P (blockAt r j) := by simp

theorem exists_block (r : Reader) (P : FVal → Prop) : (∃ x ∈ (List.range 32).map (blockAt r), P x) ↔ ∃ j, j < 32 ∧ P (blockAt r j) := by simp

theorem elemZero_mod (t : Ty) : elemZero t % 256 = elemZero t := by unfold elemZero; split <;> rfl

theorem qmxRes_of_special {r : Reader} (lane : r.lane < 32) (t : Ty) (special : ∃ j, j < 32 ∧ finite (blockAt r j) = false) :
    (qmxRes r t).r = 256 * 0xFF + elemZero t ∧ (qmxRes r t).fl = flIV := by
  rw [qmxRes_eq, quantBlock_of_special t ((exists_block r (fun x => finite x = false)).mpr special)]
  dsimp only
  rw [getD_block r _ lane, elemZero_mod]
  exact ⟨rfl, rfl⟩

/-- R57: the greatest magnitude of a block of finite values. -/
theorem blockMax_block (r : Reader) :
    let a := blockMax ((List.range 32).map (blockAt r)) (0, 0)
    (∀ j, j < 32 → |rat (blockAt r j)| ≤ mag a.1 a.2) ∧ (a.1 = 0 ∨ ∃ j, j < 32 ∧ |rat (blockAt r j)| = mag a.1 a.2) := by
  obtain ⟨-, all, here⟩ := blockMax_spec ((List.range 32).map (blockAt r)) (0, 0)
  exact ⟨(forall_block r _).mp all, here.imp (fun h => by rw [h]) (exists_block r _).mp⟩

theorem qmxRes_of_zeros {r : Reader} (lane : r.lane < 32) (t : Ty) (zeros : ∀ j, j < 32 → finite (blockAt r j) = true ∧ rat (blockAt r j) = 0) :
    (qmxRes r t).r = elemZero t ∧ (qmxRes r t).fl = 0 := by
  have none : (blockMax ((List.range 32).map (blockAt r)) (0, 0)).1 = 0 := by
    rcases (blockMax_block r).2 with h | ⟨j, hj, top⟩
    · exact h
    · rw [(zeros j hj).2, abs_zero] at top
      exact mag_eq_zero_iff.mp top.symm
  rw [qmxRes_eq, quantBlock_of_finite t ((forall_block r (fun x => finite x = true)).mpr fun j hj => (zeros j hj).1), if_pos none]
  dsimp only
  rw [getD_block r _ lane, elemZero_mod]
  exact ⟨by omega, rfl⟩

theorem qmxRes_of_values {r : Reader} (lane : r.lane < 32) (t : Ty) (all : ∀ j, j < 32 → finite (blockAt r j) = true)
    (value : ∃ j, j < 32 ∧ rat (blockAt r j) ≠ 0) :
    ∃ a : Nat × Int, a.1 ≠ 0 ∧ (∀ j, j < 32 → |rat (blockAt r j)| ≤ mag a.1 a.2) ∧ (∃ j, j < 32 ∧ |rat (blockAt r j)| = mag a.1 a.2) ∧
      (qmxRes r t).r = 256 * (scaleExp t a + 127).toNat + (quantElem t (scaleExp t a) (blockAt r r.lane)).1 % 256 ∧
      ∀ k, (qmxRes r t).fl.getLsbD k = true ↔ ∃ j, j < 32 ∧ (quantElem t (scaleExp t a) (blockAt r j)).2.getLsbD k = true := by
  obtain ⟨above, here⟩ := blockMax_block r
  obtain ⟨j, hj, notZero⟩ := value
  have top : (blockMax ((List.range 32).map (blockAt r)) (0, 0)).1 ≠ 0 := fun h => by
    have := above j hj
    rw [h, mag_zero] at this
    exact notZero (abs_nonpos_iff.mp this)
  refine ⟨_, top, above, here.resolve_left top, ?_⟩
  rw [qmxRes_eq, quantBlock_of_finite t ((forall_block r (fun x => finite x = true)).mpr all), if_neg top]
  dsimp only
  refine ⟨?_, fun k => ?_⟩
  · rw [List.map_map, getD_block r _ lane, Nat.mul_comm]
    rfl
  · rw [getLsbD_foldl_or]
    simp [flNone]

theorem qmxQuantisesTheBlock : Claim.qmxQuantisesTheBlock := by
  intro f r own elem lane t greatest block plus0 out
  have norm : greatest = mag (maxnorm t).1 (maxnorm t).2 := by
    rw [mag_maxnorm elem]
    rcases elem with h | h | h | h | h | h <;> simp only [greatest, t, h, elemMax]
  refine ⟨qmxRes_of_special lane t, qmxRes_of_zeros lane t, fun all value => ?_⟩
  obtain ⟨a, notZero, above, ⟨j, hj, top⟩, res, flags⟩ := qmxRes_of_values lane t all value
  obtain ⟨low, high⟩ := scaleExp_bounds t a
  obtain ⟨within, least⟩ := scaleExp_spec elem notZero (top ▸ blockAt_lt r j)
  rw [← norm] at within least
  refine ⟨scaleExp t a, low, high, fun i hi => (above i hi).trans within, least.imp_right fun h => ⟨j, hj, top ▸ h⟩, ?_⟩
  intro scaled q
  have same : ∀ i, q i = quantElem t (scaleExp t a) (blockAt r i) := fun i => by
    rw [quantElem_eq]
    rfl
  simp only [same]
  exact ⟨res, fun k _ => flags k⟩

/-- Settles O19, by its five parts: votes and broadcasts, shuffles, elections and matches, folds, and QMX. -/
theorem votesBroadcastsAndShuffles : Obligations.VotesBroadcastsAndShuffles :=
  ⟨ballotsVotesAndBroadcasts, shuffleSelectsInItsSegment, electionsAndMatches, scansAndReductionsFold, qmxQuantisesTheBlock⟩

end Sys2Proof.Machine
end

section
/-! PROOFS. Memory (R42, R63, R163, R236, R356, R367): the value of a load, and the bytes that a write at home leaves alone. -/
namespace Sys2Proof.Machine
open Sys2Proof.Laws Sys2Proof.Claim

/-! ### Bytes laid in a table -/

theorem tabGet_foldl_tabPut_of_ne {β : Type} [DecidableEq β] (d : β) {l : List (Nat × β)} {k : Nat} (other : ∀ p ∈ l, p.1 ≠ k) (t : List (Nat × β)) :
    tabGet d (l.foldl (fun m p => tabPut d m p.1 p.2) t) k = tabGet d t k := by
  induction l generalizing t with
  | nil => rfl
  | cons p l ih =>
    obtain ⟨hp, hl⟩ := List.forall_mem_cons.mp other
    rw [List.foldl_cons, ih hl, tabGet_tabPut_ne d t p.1 k p.2 (Ne.symm hp)]

theorem placed_cons (o : Nat) (b : Byte) (bs : List Byte) : placed o (b :: bs) = (o, b) :: placed (o + 1) bs := by
  simp only [placed, List.mapIdx_cons, Nat.add_zero, Nat.add_assoc, Nat.add_comm 1]

theorem le_of_mem_placed {o : Nat} {bs : List Byte} {p : Nat × Byte} (h : p ∈ placed o bs) : o ≤ p.1 ∧ p.1 < o + bs.length := by
  obtain ⟨i, hi, rfl⟩ := List.mem_mapIdx.mp h
  exact ⟨Nat.le_add_right _ _, Nat.add_lt_add_left hi _⟩

theorem tabGet_foldl_placed (o : Nat) (bs : List Byte) (t : List (Nat × Byte)) {i : Nat} (hi : i < bs.length) :
    tabGet 0 ((placed o bs).foldl (fun m p => tabPut 0 m p.1 p.2) t) (o + i) = bs[i] := by
  induction bs generalizing o i t with
  | nil => exact absurd hi (Nat.not_lt_zero _)
  | cons b bs ih =>
    rw [placed_cons, List.foldl_cons]
    cases i with
    | zero =>
      rw [tabGet_foldl_tabPut_of_ne 0 (fun p hp => by have := le_of_mem_placed hp; omega)]
      exact tabGet_tabPut_self 0 t o b
    | succ i =>
      rw [show o + (i + 1) = o + 1 + i by omega, ih (o + 1) _ (Nat.lt_of_succ_lt_succ hi), List.getElem_cons_succ]

/-! ### Lines and their views (R367) -/

/-- R367: the bytes of a line as a page of the given view sees them. -/
def viewLine (s : State) (view line : Nat) : List Byte := (List.range 128).map (fun i => viewByte s view (128 * line + i))

theorem viewLine_length (s : State) (view line : Nat) : (viewLine s view line).length = 128 := by simp [viewLine]

/-- R367: a byte is seen alike by every view in two packages that agree on its line and on the keys. -/
theorem viewByte_congr {s t : State} {a : Nat} (key : lineKeyOf t (lineOf a) = lineKeyOf s (lineOf a))
    (mem : ∀ b, lineOf b = lineOf a → tabGet 0 t.mem b = tabGet 0 s.mem b) (bits : t.keyBits = s.keyBits) (pkg : t.fabid = s.fabid)
    (view : Nat) : viewByte t view a = viewByte s view a := by
  have bytes : lineBytes t (lineOf a) = lineBytes s (lineOf a) :=
    List.map_congr_left fun i hi => mem _ (by have := List.mem_range.mp hi; simp only [lineOf]; omega)
  have tweak : lineTweak t = lineTweak s := by unfold lineTweak accelId; rw [pkg]
  have keys : keyOf t = keyOf s := by unfold keyOf; rw [bits]
  have stored : storedLine t (lineOf a) = storedLine s (lineOf a) := by unfold storedLine encryptLine; rw [key, bytes, tweak, keys]
  have same : sameView t = sameView s := by unfold sameView; rw [keys]
  unfold viewByte decryptLine
  dsimp only
  rw [key, same, mem a rfl, stored, keys, tweak]

/-- R367: the view that a line is kept under sees the bytes as they stand. -/
theorem viewByte_of_lineKey {s : State} {view a : Nat} (key : lineKeyOf s (lineOf a) = view) : viewByte s view a = tabGet 0 s.mem a := by
  unfold viewByte
  dsimp only
  rw [key, sameView_self, if_pos rfl]

theorem reviewLine_eq (s : State) {line view : Nat} (moved : lineKeyOf s line ≠ view) :
    reviewLine s line view = { s with
      mem := (placed (128 * line) (viewLine s view line)).foldl (fun m p => tabPut 0 m p.1 p.2) s.mem
      lineKey := tabPut 0 s.lineKey line view } := if_neg moved

theorem reviewLine_frame (s : State) (line view : Nat) : ∃ m k, reviewLine s line view = { s with mem := m, lineKey := k } := by
  by_cases kept : lineKeyOf s line = view
  · exact ⟨_, _, reviewLine_same s line view kept⟩
  · exact ⟨_, _, reviewLine_eq s kept⟩

/-- R367: a line kept under another view leaves every other line, and its key, as they are. -/
theorem reviewLine_other (s : State) {line b : Nat} (other : lineOf b ≠ line) (view : Nat) :
    lineKeyOf (reviewLine s line view) (lineOf b) = lineKeyOf s (lineOf b) ∧
      tabGet 0 (reviewLine s line view).mem b = tabGet 0 s.mem b := by
  by_cases kept : lineKeyOf s line = view
  · rw [reviewLine_same s line view kept]; exact ⟨rfl, rfl⟩
  · rw [reviewLine_eq s kept]
    have length := viewLine_length s view line
    generalize viewLine s view line = bs at length ⊢
    refine ⟨tabGet_tabPut_ne 0 _ _ _ _ other, tabGet_foldl_tabPut_of_ne 0 (fun p hp => ?_) _⟩
    have inLine := le_of_mem_placed hp
    rw [length] at inLine
    unfold lineOf at other
    omega

/-- R367: a line kept under another view from now on holds what that view saw of it. -/
theorem viewByte_reviewLine (s : State) (view a : Nat) : viewByte (reviewLine s (lineOf a) view) view a = viewByte s view a := by
  by_cases kept : lineKeyOf s (lineOf a) = view
  · rw [reviewLine_same s _ _ kept]
  · have place : 128 * lineOf a + a % 128 = a := Nat.div_add_mod a 128
    have seen := tabGet_foldl_placed (128 * lineOf a) (viewLine s view (lineOf a)) s.mem (i := a % 128) (by rw [viewLine_length]; omega)
    rw [viewByte_of_lineKey (lineKeyOf_reviewLine s (lineOf a) view), reviewLine_eq s kept]
    simpa only [viewLine, List.getElem_map, List.getElem_range, place] using seen

/-- R63: what a write of a byte changes of the package. -/
theorem putByte_frame (s : State) (view pa : Nat) (val mask : Byte) :
    ∃ m k p q, putByte s view pa val mask = { s with mem := m, lineKey := k, patrols := p, scrubs := q } := by
  obtain ⟨m, k, h⟩ := reviewLine_frame s (lineOf pa) view
  unfold putByte
  rw [h]
  exact ⟨_, _, _, _, rfl⟩

theorem lineKeyOf_putByte (s : State) (view pa : Nat) (val mask : Byte) (line : Nat) :
    lineKeyOf (putByte s view pa val mask) line = lineKeyOf (reviewLine s (lineOf pa) view) line := rfl

theorem tabGet_putByte_ne (s : State) (view : Nat) {pa b : Nat} (other : b ≠ pa) (val mask : Byte) :
    tabGet 0 (putByte s view pa val mask).mem b = tabGet 0 (reviewLine s (lineOf pa) view).mem b := tabGet_tabPut_ne 0 _ _ _ _ other

/-- R63, R367: a write of a byte under a view leaves every other byte as that view sees it, and every byte of another line as
every view does. -/
theorem viewByte_putByte_ne (s : State) {under view pa a : Nat} (other : a ≠ pa) (apart : under = view ∨ lineOf a ≠ lineOf pa)
    (val mask : Byte) : viewByte (putByte s under pa val mask) view a = viewByte s view a := by
  by_cases line : lineOf a = lineOf pa
  · obtain rfl := apart.resolve_right (not_not_intro line)
    have key := lineKeyOf_reviewLine s (lineOf a) under
    have keyPut : lineKeyOf (putByte s under pa val mask) (lineOf a) = under := by rw [lineKeyOf_putByte, ← line]; exact key
    rw [viewByte_of_lineKey keyPut, ← viewByte_reviewLine s under a, viewByte_of_lineKey key, tabGet_putByte_ne s under other, line]
  · obtain ⟨m, k, p, q, frame⟩ := putByte_frame s under pa val mask
    have key : lineKeyOf (putByte s under pa val mask) (lineOf a) = lineKeyOf s (lineOf a) := by
      rw [lineKeyOf_putByte, (reviewLine_other s line under).1]
    have mem : ∀ b, lineOf b = lineOf a → tabGet 0 (putByte s under pa val mask).mem b = tabGet 0 s.mem b := fun b hb => by
      have line' : lineOf b ≠ lineOf pa := hb ▸ line
      rw [tabGet_putByte_ne s under (fun e => line' (congrArg lineOf e)), (reviewLine_other s line' under).2]
    exact viewByte_congr key mem (by rw [frame]) (by rw [frame]) view

/-! ### Writes at home (R236, R356) -/

/-- Packages that serve and forward every address alike. -/
def sameHomes (s t : State) : Prop := (∀ pa, homePa t pa = homePa s pa) ∧ ∀ pa, forwardPa t pa = forwardPa s pa

theorem sameHomes_of_motions {s t : State} (h : t.motions = s.motions) : sameHomes s t := by
  simp only [sameHomes, homePa, forwardPa, motionOf, h, implies_true, and_self]

/-- R356, R359: an error of a motion, and a unit to copy again, move no page. -/
theorem sameHomes_of_map {s t : State} {f : Motion → Motion} (h : t.motions = s.motions.map f)
    (inert : ∀ m, ∃ b l, f m = { m with bad := b, recopy := l }) : sameHomes s t := by
  have covers : ∀ pa, (fun m : Motion => m.covers pa) ∘ f = fun m => m.covers pa := fun pa => funext fun m => by
    obtain ⟨b, l, e⟩ := inert m
    rw [Function.comp, e]; rfl
  have found : ∀ pa, motionOf t pa = (motionOf s pa).map f := fun pa => by simp only [motionOf, h, List.find?_map, covers]
  constructor <;> intro pa <;> simp only [homePa, forwardPa, found] <;> cases motionOf s pa with
  | none => rfl
  | some m =>
    obtain ⟨b, l, e⟩ := inert m
    simp only [Option.map_some, e]

/-- R63, R356: what storing a byte does: nothing, or its write at home, followed, where a motion forwards it, by a second
write or a note on the motion. -/
theorem storeByte_cases (s : State) (atomic : Bool) (x : StCell) :
    let s1 := putByte s x.cell.view (homePa s x.cell.pa) x.val x.mask
    storeByte s atomic x = s ∨ storeByte s atomic x = s1 ∨
      (∃ d, forwardPa s x.cell.pa = some d ∧ storeByte s atomic x = putByte s1 x.cell.view d x.val x.mask) ∨
      ∃ f : Motion → Motion, (∀ m, ∃ b l, f m = { m with bad := b, recopy := l }) ∧
        storeByte s atomic x = { s1 with motions := s1.motions.map f } := by
  intro s1
  unfold storeByte
  dsimp only
  split
  · exact .inl rfl
  · cases forwardPa s x.cell.pa with
    | none => exact .inr (.inl rfl)
    | some d =>
      dsimp only
      split
      · exact .inr (.inr (.inr ⟨_, fun m => by split <;> exact ⟨_, _, rfl⟩, rfl⟩))
      · split
        · exact .inr (.inr (.inr ⟨_, fun m => by split <;> exact ⟨_, _, rfl⟩, rfl⟩))
        · exact .inr (.inr (.inl ⟨d, rfl, rfl⟩))

theorem sameHomes_storeByte (s : State) (atomic : Bool) (x : StCell) : sameHomes s (storeByte s atomic x) := by
  have still : ∀ s view pa, (putByte s view pa x.val x.mask).motions = s.motions := fun s view pa => by
    obtain ⟨m, k, p, q, frame⟩ := putByte_frame s view pa x.val x.mask
    rw [frame]
  rcases storeByte_cases s atomic x with h | h | ⟨d, _, h⟩ | ⟨f, inert, h⟩ <;> rw [h]
  · exact sameHomes_of_motions rfl
  · exact sameHomes_of_motions (still _ _ _)
  · exact sameHomes_of_motions ((still _ _ _).trans (still _ _ _))
  · exact sameHomes_of_map (congrArg (List.map f) (still _ _ _)) inert

/-- R63, R236: a store leaves a byte alone, as a view sees it: it is written neither at home nor at a second place, and the
store is under that view or in another line. -/
def sparesByte (s : State) (view a : Nat) (x : StCell) : Prop :=
  (a ≠ homePa s x.cell.pa ∧ forwardPa s x.cell.pa ≠ some a) ∧
  (x.cell.view = view ∨ (lineOf a ≠ lineOf (homePa s x.cell.pa) ∧ ∀ d, forwardPa s x.cell.pa = some d → lineOf a ≠ lineOf d))

theorem sparesByte_of_sameHomes {s t : State} (h : sameHomes s t) {view a : Nat} {x : StCell} (spares : sparesByte s view a x) :
    sparesByte t view a x := by
  unfold sparesByte
  rw [h.1, h.2]
  exact spares

theorem viewByte_storeByte (s : State) (atomic : Bool) {x : StCell} {view a : Nat} (spares : sparesByte s view a x) :
    viewByte (storeByte s atomic x) view a = viewByte s view a := by
  obtain ⟨⟨notHome, notSecond⟩, apart⟩ := spares
  have home : viewByte (putByte s x.cell.view (homePa s x.cell.pa) x.val x.mask) view a = viewByte s view a :=
    viewByte_putByte_ne s notHome (apart.imp_right And.left) x.val x.mask
  rcases storeByte_cases s atomic x with h | h | ⟨d, second, h⟩ | ⟨f, _, h⟩ <;> rw [h]
  · exact home
  · refine (viewByte_putByte_ne _ (fun e => notSecond (second.trans (congrArg some e.symm))) ?_ x.val x.mask).trans home
    exact apart.imp_right (fun apart => apart.2 d second)
  · exact home

theorem viewByte_foldl_storeByte (atomic : Bool) {view a : Nat} {xs : List StCell} {s : State} (spares : ∀ x ∈ xs, sparesByte s view a x) :
    viewByte (xs.foldl (fun s x => storeByte s atomic x) s) view a = viewByte s view a := by
  induction xs generalizing s with
  | nil => rfl
  | cons x xs ih =>
    obtain ⟨first, later⟩ := List.forall_mem_cons.mp spares
    rw [List.foldl_cons, ih fun y hy => sparesByte_of_sameHomes (sameHomes_storeByte s atomic x) (later y hy), viewByte_storeByte s atomic first]

/-- R236: what a home's bytes are after a write: those after its stores outside the register window, one by one. -/
theorem viewByte_writeHome (s : State) (atomic : Bool) (xs : List StCell) (view a : Nat) :
    viewByte (writeHome s atomic xs) view a = viewByte ((xs.filter (fun x => !(inWindow (homePa s x.cell.pa)))).foldl
      (fun s x => storeByte s atomic x) (keepStored s (keyLines s xs))) view a := by
  unfold writeHome
  dsimp only
  split <;> rfl

theorem memoryWritesNameTheirBytes : Claim.memoryWritesNameTheirBytes := by
  refine ⟨fun s atomic xs view a notNamed apart => ?_, fun s x whole clean up outside single => ?_⟩
  · rw [viewByte_writeHome, viewByte_foldl_storeByte atomic fun x hx => ?_]
    · rfl
    · have named := (List.mem_filter.mp hx).1
      exact ⟨notNamed x named, apart x named⟩
  · have stores : storeByte (keepStored s (keyLines s [x])) false x =
        putByte (keepStored s (keyLines s [x])) x.cell.view (homePa s x.cell.pa) x.val 0xFF#8 := by
      have here : linkDown (keepStored s (keyLines s [x])) (homePa (keepStored s (keyLines s [x])) x.cell.pa) = false := up
      have alone : forwardPa (keepStored s (keyLines s [x])) x.cell.pa = none := single
      unfold storeByte
      dsimp only
      rw [clean, here, alone, whole]
      rfl
    rw [viewByte_writeHome, List.filter_cons_of_pos (by simp [outside]), List.filter_nil, List.foldl_cons, List.foldl_nil, stores,
      viewByte_putByte_self]

/-! ### Loaded values (R42, R163) -/

/-- R14: the number that the `n` low bytes of a number make. -/
theorem leValue_leBytes_mod (n x : Nat) : leValue (leBytes n x) = x % 256 ^ n := by
  induction n generalizing x with
  | zero => simp [leBytes, leValue, Nat.mod_one]
  | succ n ih => rw [leBytes, leValue, ih, BitVec.toNat_ofNat, pow_succ' 256 n, Nat.mod_mul (a := 256)]

theorem loadEffs_v (n : Fin 256) (lane ord : Nat) {z : MSize} (one : z ≠ .b64 ∧ z ≠ .b128) (bs : List Byte) :
    loadEffs (.v n) lane [] ord z bs = [.v lane n (BitVec.ofNat 32 (extendLoad z bs))] := by
  cases z with
  | b64 => exact absurd rfl one.1
  | b128 => exact absurd rfl one.2
  | _ => simp [loadEffs]

theorem extendLoad_plain {z : MSize} (plain : z ≠ .i8 ∧ z ≠ .i16) (bs : List Byte) : extendLoad z bs = leValue bs := by
  cases z with
  | i8 => exact absurd rfl plain.1
  | i16 => exact absurd rfl plain.2
  | _ => rfl

/-- R163: of a number sign-extended to 64 bits, a register takes the low 32, which extend it by the same sign. -/
theorem ofNat_wrapInt_signExt (x v : Nat) : BitVec.ofNat 32 (wrapInt (signExt x v) 64) = (BitVec.ofNat v x).signExtend 32 := by
  rw [wrapInt_signExt, BitVec.ofNat_toNat]
  ext i hi
  have hi' : i < 64 := Nat.lt_trans hi (by decide)
  simp only [BitVec.getElem_setWidth, BitVec.getLsbD_signExtend, BitVec.getElem_signExtend, hi', decide_true, Bool.true_and]
  split <;> rfl

theorem loadsExtendBySize : Claim.loadsExtendBySize := by
  intro x lane ord n
  have signed : ∀ (v k : Nat), 256 ^ k = 2 ^ v →
      BitVec.ofNat 32 (wrapInt (signExt (leValue (leBytes k x.toNat)) v) 64) = (x.setWidth v).signExtend 32 := fun v k hk => by
    rw [leValue_leBytes_mod, hk, ofNat_wrapInt_signExt, ← BitVec.toNat_setWidth, BitVec.ofNat_toNat, BitVec.setWidth_eq]
  have unsigned : ∀ (v k : Nat), 256 ^ k = 2 ^ v → BitVec.ofNat 32 (leValue (leBytes k x.toNat)) = (x.setWidth v).setWidth 32 := fun v k hk => by
    rw [leValue_leBytes_mod, hk, ← BitVec.toNat_setWidth, BitVec.ofNat_toNat]
  have whole : leValue (leBytes 4 x.toNat) = x.toNat := leValue_leBytes 4 _ x.isLt
  refine ⟨?_, ?_, ?_, ?_, ?_, whole⟩ <;> rw [loadEffs_v n lane ord (by decide)]
  · rw [extendLoad_plain (by decide), unsigned 8 1 rfl]
  · rw [extendLoad, signed 8 1 rfl]
  · rw [extendLoad_plain (by decide), unsigned 16 2 rfl]
  · rw [extendLoad, signed 16 2 rfl]
  · rw [extendLoad_plain (by decide), whole, BitVec.ofNat_toNat, BitVec.setWidth_eq]

/-- Settles O31, by its two parts: the value of a load, and the bytes that a write at home leaves alone or writes. -/
theorem loadedValuesAndHomeWrites : Obligations.LoadedValuesAndHomeWrites := ⟨loadsExtendBySize, memoryWritesNameTheirBytes⟩

end Sys2Proof.Machine
end

section
/-! PROOFS. The codes and fields of words: each table of codes is one to one, and a slice of bits is what was packed there (R64 to R77). -/
namespace Sys2Proof
open Sys2Proof.Machine Sys2Proof.Laws

/-! ### Slices of a word -/

theorem eq_append_iff {m n : Nat} {x : BitVec (m + n)} {a : BitVec m} {b : BitVec n} :
    x = a ++ b ↔ x.extractLsb' n m = a ∧ x.extractLsb' 0 n = b := by
  constructor
  · rintro rfl
    exact ⟨BitVec.extractLsb'_append_eq_left, BitVec.extractLsb'_append_eq_right⟩
  · rintro ⟨rfl, rfl⟩
    exact BitVec.extractLsb'_append_extractLsb'.symm

/-- A slice is two fields put together where its parts are these fields. -/
theorem slice_eq_append_iff {v m n : Nat} {x : BitVec v} (k : Nat) {a : BitVec m} {b : BitVec n} :
    x.extractLsb' k (m + n) = a ++ b ↔ x.extractLsb' (k + n) m = a ∧ x.extractLsb' k n = b := by
  rw [← BitVec.extractLsb'_append_extractLsb'_eq_extractLsb' (x := x) (start₁ := k) (rfl : k + n = k + n), eq_append_iff,
    BitVec.extractLsb'_append_eq_left, BitVec.extractLsb'_append_eq_right]

theorem bit_eq_ofBool_iff {w : Nat} (x : BitVec w) (i : Nat) (b : Bool) : x.extractLsb' i 1 = BitVec.ofBool b ↔ x.getLsbD i = b := by
  rw [BitVec.getLsbD_eq_extractLsb']
  generalize x.extractLsb' i 1 = y
  revert y b
  decide

theorem toNat_eq_iff_eq_ofNat {w : Nat} (x : BitVec w) {n : Nat} (h : n < 2 ^ w) : x.toNat = n ↔ x = BitVec.ofNat w n := by
  rw [← BitVec.toNat_inj, BitVec.toNat_ofNat, Nat.mod_eq_of_lt h]

/-! ### Codes -/

theorem tyOf_eq_some_iff (n : Nat) (t : Ty) : tyOf n = some t ↔ n = tyCode t := by
  constructor
  · intro h
    unfold tyOf at h
    split at h <;> cases h <;> rfl
  · rintro rfl
    cases t <;> rfl

theorem rndField_eq_some_iff (n : Nat) (r : Option Rnd) : rndField n = some r ↔ n = rndBits r := by
  constructor
  · intro h
    unfold rndField at h
    split at h <;> cases h <;> rfl
  · rintro rfl
    rcases r with _ | r
    · rfl
    · cases r <;> rfl

theorem sizeOf_eq_some_iff (n : Nat) (z : MSize) : Sys2Proof.sizeOf n = some z ↔ n = sizeCode z := by
  constructor
  · intro h
    unfold Sys2Proof.sizeOf at h
    split at h <;> cases h <;> rfl
  · rintro rfl
    cases z <;> rfl

theorem elemTyOf_eq_some_iff (n : Nat) (z : ElemTy) : elemTyOf n = some z ↔ n = elemTyCode z := by
  constructor
  · intro h
    unfold elemTyOf at h
    split at h <;> cases h <;> rfl
  · rintro rfl
    cases z <;> rfl

theorem aopOf_eq_some_iff (n : Nat) (op : Aop) : aopOf n = some op ↔ n = aopCode op := by
  constructor
  · intro h
    unfold aopOf at h
    split at h <;> cases h <;> rfl
  · rintro rfl
    cases op <;> rfl

theorem scanOf_eq_some_iff (n : Nat) (op : ScanOp) : scanOf n = some op ↔ n = scanCode op := by
  constructor
  · intro h
    unfold scanOf at h
    split at h <;> cases h <;> rfl
  · rintro rfl
    cases op <;> rfl

theorem coreSpOf_eq_some_iff (n : Nat) (r : CoreSpecial) : coreSpOf n = some r ↔ n = coreSpCode r := by
  constructor
  · intro h
    unfold coreSpOf at h
    split at h <;> cases h <;> rfl
  · rintro rfl
    cases r <;> rfl

theorem seamOf_eq_some_iff (n : Nat) (z : Seam) : seamOf n = some z ↔ n = seamCode z := by
  constructor
  · intro h
    unfold seamOf at h
    split at h <;> cases h <;> rfl
  · rintro rfl
    cases z <;> rfl

theorem specialOf_eq_some_iff (n : Nat) (r : Special) : specialOf n = some r ↔ n = specialCode r := by
  constructor
  · intro h
    unfold specialOf at h
    split at h <;> cases h <;> rfl
  · rintro rfl
    cases r <;> rfl

theorem classOf_eq_iff (x : BitVec 2) (c : OpClass) : classOf x.toNat = c ↔ x = BitVec.ofNat 2 (classCode c) := by
  revert x
  cases c <;> decide

theorem fin4_eq_iff (x : BitVec 2) (n : Fin 4) : fin4 x = n ↔ x = BitVec.ofNat 2 n.val := by
  revert x n
  decide

/-! ### Operand specifiers (R70) -/

theorem opdBits_opdOf (x : BitVec 10) : opdBits (opdOf x) = x := by
  apply BitVec.eq_of_toNat_eq
  unfold opdOf
  dsimp only
  split_ifs with hv hs hc hr hw hm hk hzero hones hnone
  iterate 7
    · simp only [opdBits, BitVec.toNat_ofNat]
      omega
  · exact hzero.symm
  · exact hones.symm
  · exact hnone.symm
  · cases special : specialOf x.toNat with
    | some r =>
      simp only [opdBits, BitVec.toNat_ofNat, ← (specialOf_eq_some_iff _ _).mp special]
      exact Nat.mod_eq_of_lt x.isLt
    | none => rfl

/-- An operand that its own specifier decodes to: every one but a raw specifier (`.bad`) that has a meaning. -/
def canon (o : Opd) : Prop := opdOf (opdBits o) = o

theorem opdOf_eq_iff (x : BitVec 10) (o : Opd) : opdOf x = o ↔ x = opdBits o ∧ canon o := by
  constructor
  · rintro rfl
    exact ⟨(opdBits_opdOf x).symm, by rw [canon, opdBits_opdOf]⟩
  · rintro ⟨rfl, h⟩
    exact h

theorem canon_of_ne_bad {o : Opd} (h : ∀ raw, o ≠ .bad raw) : canon o := by
  unfold canon
  cases o with
  | v n => have := n.isLt; simp [opdOf, opdBits, Nat.mod_eq_of_lt (show n.val < 1024 by omega)]
  | s n =>
    have := n.isLt
    have e : (256 + n.val) % 1024 = 256 + n.val := by omega
    simp [opdOf, opdBits, e, show 256 + n.val < 768 by omega]
  | c n => fin_cases n <;> rfl
  | rport n => fin_cases n <;> rfl
  | wport n => fin_cases n <;> rfl
  | m n => fin_cases n <;> rfl
  | k n => fin_cases n <;> rfl
  | sp r => cases r <;> rfl
  | zero | ones | none => rfl
  | bad raw => exact absurd rfl (h raw)

/-! ### Layouts of words -/

/-- R67: a full word is put together from its fields. -/
theorem eq_packFull_iff (w : W64) (r : RawFull) : w = packFull r ↔ w.getLsbD 63 = false ∧ unpackFull w = r := by
  obtain ⟨seam, ksel, cond, opc, d, a, b, md⟩ := r
  have whole : w = packFull ⟨seam, ksel, cond, opc, d, a, b, md⟩ ↔
      w.extractLsb' 0 (1 + (2 + (2 + (4 + (7 + (10 + (10 + (10 + 18)))))))) =
        BitVec.ofBool false ++ (seam ++ (ksel ++ (cond ++ (opc ++ (d ++ (a ++ (b ++ md))))))) := by
    rw [BitVec.extractLsb'_eq_self]; rfl
  rw [whole]
  simp only [slice_eq_append_iff]
  simp only [bit_eq_ofBool_iff, Nat.reduceAdd, unpackFull, RawFull.mk.injEq, Fields.mk.injEq]

/-- R75: a slot is put together from its fields. -/
theorem eq_packSlot_iff (x : BitVec 30) (r : RawSlot) : x = packSlot r ↔ unpackSlot x = r := by
  obtain ⟨sop, d, s, ksel, conds, imm, str, qual⟩ := r
  have whole : x = packSlot ⟨sop, d, s, ksel, conds, imm, str, qual⟩ ↔
      x.extractLsb' 0 (6 + (8 + (8 + (2 + (2 + (1 + (1 + 2))))))) =
        sop ++ (d ++ (s ++ (ksel ++ (conds ++ (imm ++ (str ++ qual)))))) := by
    rw [BitVec.extractLsb'_eq_self]; rfl
  rw [whole]
  simp only [slice_eq_append_iff]
  simp only [Nat.reduceAdd, unpackSlot, RawSlot.mk.injEq]

/-- R64, R75: a paired word is put together from its seam and its two slots. -/
theorem eq_pairWord_iff (w : W64) (seam : BitVec 2) (x y : BitVec 30) : w = 1#1 ++ (seam ++ (x ++ (y ++ 0#1))) ↔
    w.getLsbD 63 = true ∧ w.extractLsb' 61 2 = seam ∧ w.extractLsb' 31 30 = x ∧ w.extractLsb' 1 30 = y ∧ w.getLsbD 0 = false := by
  have whole : w = 1#1 ++ (seam ++ (x ++ (y ++ 0#1))) ↔
      w.extractLsb' 0 (1 + (2 + (30 + (30 + 1)))) = BitVec.ofBool true ++ (seam ++ (x ++ (y ++ BitVec.ofBool false))) := by
    rw [BitVec.extractLsb'_eq_self]; rfl
  rw [whole]
  simp only [slice_eq_append_iff]
  simp only [bit_eq_ofBool_iff, Nat.reduceAdd]

end Sys2Proof
end

section
/-! PROOFS. The instruction formats: the fields read back from a format are those written into it (R67 to R73). -/
namespace Sys2Proof
open Sys2Proof.Machine Sys2Proof.Laws

/-! ### Formats of full words (R67, R68, R73) -/

theorem tyCode_lt (t : Ty) : tyCode t < 32 := by cases t <;> decide

theorem rndBits_lt (r : Option Rnd) : rndBits r < 8 := by
  rcases r with _ | r
  · decide
  · cases r <;> decide

theorem sizeCode_lt (z : MSize) : sizeCode z < 8 := by cases z <;> decide

theorem elemTyCode_lt (z : ElemTy) : elemTyCode z < 8 := by cases z <;> decide

theorem aopCode_lt (op : Aop) : aopCode op < 16 := by cases op <;> decide

theorem tyField_iff (x : BitVec 5) (t : Ty) : tyOf x.toNat = some t ↔ x = BitVec.ofNat 5 (tyCode t) := by
  rw [tyOf_eq_some_iff, toNat_eq_iff_eq_ofNat x (tyCode_lt t)]

theorem rndField_iff (x : BitVec 3) (r : Option Rnd) : rndField x.toNat = some r ↔ x = BitVec.ofNat 3 (rndBits r) := by
  rw [rndField_eq_some_iff, toNat_eq_iff_eq_ofNat x (rndBits_lt r)]

theorem sizeField_iff (x : BitVec 3) (z : MSize) : sizeOf x.toNat = some z ↔ x = BitVec.ofNat 3 (sizeCode z) := by
  rw [sizeOf_eq_some_iff, toNat_eq_iff_eq_ofNat x (sizeCode_lt z)]

theorem elemTyField_iff (x : BitVec 3) (z : ElemTy) : elemTyOf x.toNat = some z ↔ x = BitVec.ofNat 3 (elemTyCode z) := by
  rw [elemTyOf_eq_some_iff, toNat_eq_iff_eq_ofNat x (elemTyCode_lt z)]

theorem aopField_iff (x : BitVec 6) (op : Aop) : aopOf x.toNat = some op ↔ x = BitVec.ofNat 6 (aopCode op) := by
  rw [aopOf_eq_some_iff, toNat_eq_iff_eq_ofNat x (by have := aopCode_lt op; omega)]

theorem eq_rrrMd_iff (md : BitVec 18) (sub : Nat) (f : RRR) : md = rrrMd sub f ↔
    md.extractLsb' 12 6 = BitVec.ofNat 6 sub ∧ md.extractLsb' 7 5 = BitVec.ofNat 5 (tyCode f.ty) ∧
    md.extractLsb' 4 3 = BitVec.ofNat 3 (rndBits f.rnd) ∧ md.getLsbD 3 = f.sat ∧ md.getLsbD 2 = f.cce ∧
    md.extractLsb' 0 2 = BitVec.ofNat 2 f.ccd.val := by
  have whole : md = rrrMd sub f ↔ md.extractLsb' 0 (6 + (5 + (3 + (1 + (1 + 2))))) = rrrMd sub f := by
    rw [BitVec.extractLsb'_eq_self]
  rw [whole, rrrMd]
  simp only [slice_eq_append_iff]
  simp only [bit_eq_ofBool_iff, Nat.reduceAdd]

/-- R68: an RRR word's fields decode to those that it encodes. -/
theorem rrrOf_eq_some_iff (F : Fields) (f : RRR) : rrrOf F = some f ↔
    F = encRRR F.opc.toNat F.sub f ∧ canon f.d ∧ canon f.a ∧ canon f.b := by
  obtain ⟨opc, d, a, b, md⟩ := F
  obtain ⟨fd, fa, fb, ty, rnd, sat, cce, ccd⟩ := f
  have decoded : rrrOf ⟨opc, d, a, b, md⟩ = some ⟨fd, fa, fb, ty, rnd, sat, cce, ccd⟩ ↔
      tyOf (md.extractLsb' 7 5).toNat = some ty ∧ rndField (md.extractLsb' 4 3).toNat = some rnd ∧ opdOf d = fd ∧ opdOf a = fa ∧
      opdOf b = fb ∧ md.getLsbD 3 = sat ∧ md.getLsbD 2 = cce ∧ fin4 (md.extractLsb' 0 2) = ccd := by
    simp only [rrrOf]
    cases tyOf (md.extractLsb' 7 5).toNat <;> cases rndField (md.extractLsb' 4 3).toNat <;> simp
    tauto
  rw [decoded, tyField_iff, rndField_iff, fin4_eq_iff, opdOf_eq_iff, opdOf_eq_iff, opdOf_eq_iff]
  simp only [encRRR, Fields.mk.injEq, eq_rrrMd_iff, Fields.sub, BitVec.ofNat_toNat, BitVec.setWidth_eq]
  tauto

theorem riOf_eq_iff (F : Fields) (f : RI) : riOf F = f ↔ F = encRI F.opc.toNat f ∧ canon f.d ∧ canon f.a := by
  obtain ⟨opc, d, a, b, md⟩ := F
  obtain ⟨fd, fa, imm⟩ := f
  simp only [riOf, encRI, RI.mk.injEq, Fields.mk.injEq, opdOf_eq_iff, eq_comm (a := b ++ md), BitVec.ofNat_toNat, BitVec.setWidth_eq]
  have whole : imm = b ++ md ↔ imm.extractLsb' 0 (10 + 18) = b ++ md := by rw [BitVec.extractLsb'_eq_self]
  rw [whole, slice_eq_append_iff]
  simp only [Nat.reduceAdd, eq_comm (a := b), eq_comm (a := md)]
  tauto

theorem jOf_eq_iff (F : Fields) (f : JF) : jOf F = f ↔ F = encJ F.opc.toNat f ∧ canon f.aux := by
  obtain ⟨opc, d, a, b, md⟩ := F
  obtain ⟨offset, aux, jmod⟩ := f
  have whole : offset = d ++ (a ++ (b ++ md.extractLsb' 16 2)) ↔
      offset.extractLsb' 0 (10 + (10 + (10 + 2))) = d ++ (a ++ (b ++ md.extractLsb' 16 2)) := by rw [BitVec.extractLsb'_eq_self]
  have low : md = offset.extractLsb' 0 2 ++ (opdBits aux ++ jmod) ↔
      md.extractLsb' 0 (2 + (10 + 6)) = offset.extractLsb' 0 2 ++ (opdBits aux ++ jmod) := by rw [BitVec.extractLsb'_eq_self]
  simp only [jOf, encJ, JF.mk.injEq, Fields.mk.injEq, opdOf_eq_iff, BitVec.ofNat_toNat, BitVec.setWidth_eq]
  rw [eq_comm, whole, low]
  simp only [slice_eq_append_iff]
  simp only [Nat.reduceAdd, eq_comm (a := d), eq_comm (a := a), eq_comm (a := b), eq_comm (a := md.extractLsb' 16 2)]
  tauto

theorem mOf_eq_some_iff (F : Fields) (f : MF) : mOf F = some f ↔
    F = encM F.opc.toNat f ∧ canon f.d ∧ canon f.base ∧ canon f.index := by
  obtain ⟨opc, d, a, b, md⟩ := F
  obtain ⟨fd, base, index, off, size, sc, svc⟩ := f
  have low : md = off ++ (BitVec.ofNat 3 (sizeCode size) ++ (BitVec.ofBool sc ++ BitVec.ofNat 2 svc.val)) ↔
      md.extractLsb' 0 (12 + (3 + (1 + 2))) = off ++ (BitVec.ofNat 3 (sizeCode size) ++ (BitVec.ofBool sc ++ BitVec.ofNat 2 svc.val)) := by
    rw [BitVec.extractLsb'_eq_self]
  simp only [mOf, encM, Option.map_eq_some_iff, MF.mk.injEq, Fields.mk.injEq, opdOf_eq_iff, BitVec.ofNat_toNat, BitVec.setWidth_eq,
    sizeField_iff, fin4_eq_iff, low, slice_eq_append_iff]
  simp only [Nat.reduceAdd, bit_eq_ofBool_iff]
  constructor
  · rintro ⟨z, h⟩
    simp_all
  · intro h
    exact ⟨size, by simp_all⟩

theorem meOf_eq_some_iff (F : Fields) (f : MEF) : meOf F = some f ↔
    F = encME F.opc.toNat (F.md.getLsbD 2) f ∧ canon f.d ∧ canon f.base ∧ canon f.index := by
  obtain ⟨opc, d, a, b, md⟩ := F
  obtain ⟨fd, base, index, off, rt, svc⟩ := f
  have low (sc : Bool) : md = off ++ (BitVec.ofNat 3 (elemTyCode rt) ++ (BitVec.ofBool sc ++ BitVec.ofNat 2 svc.val)) ↔
      md.extractLsb' 0 (12 + (3 + (1 + 2))) =
        off ++ (BitVec.ofNat 3 (elemTyCode rt) ++ (BitVec.ofBool sc ++ BitVec.ofNat 2 svc.val)) := by
    rw [BitVec.extractLsb'_eq_self]
  simp only [meOf, encME, Option.map_eq_some_iff, MEF.mk.injEq, Fields.mk.injEq, opdOf_eq_iff, BitVec.ofNat_toNat, BitVec.setWidth_eq,
    elemTyField_iff, fin4_eq_iff, low, slice_eq_append_iff]
  simp only [Nat.reduceAdd, bit_eq_ofBool_iff]
  constructor
  · rintro ⟨z, h⟩
    simp_all
  · intro h
    exact ⟨rt, by simp_all⟩

theorem aOf_eq_some_iff (F : Fields) (f : AF) : aOf F = some f ↔
    F = encA F.opc.toNat f ∧ canon f.d ∧ canon f.base ∧ canon f.data := by
  obtain ⟨opc, d, a, b, md⟩ := F
  obtain ⟨fd, base, data, aop, acq, rel, size, svc⟩ := f
  have low : md = BitVec.ofNat 6 (aopCode aop) ++ (BitVec.ofBool rel ++ (BitVec.ofBool acq ++ (0#4 ++
        (BitVec.ofNat 3 (sizeCode size) ++ (BitVec.ofBool false ++ BitVec.ofNat 2 svc.val))))) ↔
      md.extractLsb' 0 (6 + (1 + (1 + (4 + (3 + (1 + 2)))))) = BitVec.ofNat 6 (aopCode aop) ++ (BitVec.ofBool rel ++
        (BitVec.ofBool acq ++ (0#4 ++ (BitVec.ofNat 3 (sizeCode size) ++ (BitVec.ofBool false ++ BitVec.ofNat 2 svc.val))))) := by
    rw [BitVec.extractLsb'_eq_self]
  have decoded : aOf ⟨opc, d, a, b, md⟩ = some ⟨fd, base, data, aop, acq, rel, size, svc⟩ ↔
      (aopOf (md.extractLsb' 12 6).toNat = some aop ∧ Sys2Proof.sizeOf (md.extractLsb' 3 3).toNat = some size) ∧
      (md.extractLsb' 6 4 = 0#4 ∧ md.getLsbD 2 = false) ∧ opdOf d = fd ∧ opdOf a = base ∧ opdOf b = data ∧ md.getLsbD 10 = acq ∧
      md.getLsbD 11 = rel ∧ fin4 (md.extractLsb' 0 2) = svc := by
    simp only [aOf]
    cases aopOf (md.extractLsb' 12 6).toNat <;> cases Sys2Proof.sizeOf (md.extractLsb' 3 3).toNat <;> simp
    tauto
  rw [decoded, aopField_iff, sizeField_iff, fin4_eq_iff, opdOf_eq_iff, opdOf_eq_iff, opdOf_eq_iff]
  have fields : encA opc.toNat ⟨fd, base, data, aop, acq, rel, size, svc⟩ =
      ⟨BitVec.ofNat 7 opc.toNat, opdBits fd, opdBits base, opdBits data, BitVec.ofNat 6 (aopCode aop) ++ (BitVec.ofBool rel ++
        (BitVec.ofBool acq ++ (0#4 ++ (BitVec.ofNat 3 (sizeCode size) ++ (BitVec.ofBool false ++ BitVec.ofNat 2 svc.val)))))⟩ := rfl
  simp only [fields, Fields.mk.injEq, low, slice_eq_append_iff, BitVec.ofNat_toNat, BitVec.setWidth_eq]
  simp only [Nat.reduceAdd, bit_eq_ofBool_iff]
  tauto

/-- R73: an E word is put together from its operands, SUB and CMD. -/
theorem eOf_eq_iff (F : Fields) (f : EF) : eOf F = f ↔ F = encE F.opc.toNat F.sub F.cmd f ∧ canon f.d ∧ canon f.a ∧ canon f.b := by
  obtain ⟨opc, d, a, b, md⟩ := F
  obtain ⟨fd, fa, fb⟩ := f
  have low : md.extractLsb' 12 6 ++ md.extractLsb' 0 12 = md := BitVec.extractLsb'_append_extractLsb' (w := 6) (len := 12)
  simp only [eOf, encE, EF.mk.injEq, Fields.mk.injEq, opdOf_eq_iff, Fields.sub, Fields.cmd, BitVec.ofNat_toNat, BitVec.setWidth_eq, low]
  tauto

/-! ### The parts of an encoding -/

section parts
variable (opc sub : Nat) (cmd : BitVec 12)

theorem encRRR_opc (f : RRR) : (encRRR opc sub f).opc.toNat = opc % 128 := BitVec.toNat_ofNat opc 7

theorem encRRR_sub (f : RRR) : (encRRR opc sub f).sub = sub % 64 := by
  rw [Fields.sub, ((eq_rrrMd_iff (encRRR opc sub f).md sub f).mp rfl).1]
  exact BitVec.toNat_ofNat sub 6

theorem encE_opc (f : EF) : (encE opc sub cmd f).opc.toNat = opc % 128 := BitVec.toNat_ofNat opc 7

theorem encE_sub (f : EF) : (encE opc sub cmd f).sub = sub % 64 := by
  rw [Fields.sub, show (encE opc sub cmd f).md = BitVec.ofNat 6 sub ++ cmd from rfl, BitVec.extractLsb'_append_eq_left]
  exact BitVec.toNat_ofNat sub 6

@[simp] theorem encE_cmd (f : EF) : (encE opc sub cmd f).cmd = cmd := BitVec.extractLsb'_append_eq_right

end parts

theorem encRRR_self {opc sub : Nat} (hopc : opc < 128) (hsub : sub < 64) {f : RRR} (ops : canon f.d ∧ canon f.a ∧ canon f.b) :
    rrrOf (encRRR opc sub f) = some f := by
  rw [rrrOf_eq_some_iff, encRRR_opc, encRRR_sub, Nat.mod_eq_of_lt hopc, Nat.mod_eq_of_lt hsub]
  exact ⟨rfl, ops⟩

end Sys2Proof
end

section
/-! PROOFS. From a full word to its instruction and back (R74, R78): the opcode maps name one encoding per instruction. -/
namespace Sys2Proof
open Sys2Proof.Machine Sys2Proof.Laws

/-! ### The opcode map (R74) -/

theorem fieldsOf_of_rrrInstr {opc sub : Nat} {f : RRR} {i : Instr} (h : rrrInstr opc sub f = some i) :
    fieldsOf i = some (encRRR opc sub f) := by
  unfold rrrInstr at h
  repeat' split at h
  all_goals cases h
  all_goals rfl

theorem rrrInstr_range {opc sub : Nat} {f : RRR} {i : Instr} (h : rrrInstr opc sub f = some i) :
    opc < 0x58 ∧ sub < 64 ∧ ¬(opc = 0x3B ∨ opc = 0x3C ∨ opc = 0x3D ∨ opc = 0x56 ∨ opc = 0x57) ∧
    ¬(opc = 0x0F ∨ opc = 0x10 ∨ (0x14 ≤ opc ∧ opc ≤ 0x1D)) ∧ ¬(0x28 ≤ opc ∧ opc ≤ 0x2F) := by
  unfold rrrInstr at h
  repeat' split at h
  all_goals cases h
  all_goals decide

theorem fieldsOf_of_convInstr {opc sub : Nat} {f : RRR} {i : Instr} (h : convInstr opc sub f = some i) :
    fieldsOf i = some (encRRR opc sub f) := by
  unfold convInstr at h
  split at h
  case h_1 | h_2 | h_3 =>
    obtain ⟨t, code, rfl⟩ := Option.map_eq_some_iff.mp h
    rw [(tyOf_eq_some_iff sub t).mp code]
    rfl
  case h_4 =>
    split at h
    · obtain ⟨op, code, rfl⟩ := Option.map_eq_some_iff.mp h
      have low : sub % 8 = scanCode op := (scanOf_eq_some_iff _ op).mp code
      have whole : scanCode op + (if decide (8 ≤ sub) then 8 else 0) = sub := by
        by_cases big : 8 ≤ sub <;> simp [big] <;> omega
      simp only [fieldsOf, whole]
    · cases h
  case h_5 =>
    obtain ⟨op, code, rfl⟩ := Option.map_eq_some_iff.mp h
    rw [(scanOf_eq_some_iff sub op).mp code]
    rfl
  case h_6 => cases h

theorem fieldsOf_of_riInstr {opc : Nat} {f : RI} {i : Instr} (h : riInstr opc f = some i) : fieldsOf i = some (encRI opc f) := by
  unfold riInstr at h
  split at h
  all_goals cases h
  all_goals rfl

theorem fieldsOf_of_jInstr {opc : Nat} {f : JF} {i : Instr} (h : jInstr opc f = some i) : fieldsOf i = some (encJ opc f) := by
  unfold jInstr at h
  repeat' split at h
  all_goals cases h
  all_goals rfl

theorem fieldsOf_of_mInstr {F : Fields} {i : Instr} (h : mInstr F.opc.toNat F = some i) : fieldsOf i = some F := by
  have plain : ∀ f, mOf F = some f → encM F.opc.toNat f = F := fun f hf => ((mOf_eq_some_iff F f).mp hf).1.symm
  have elem : ∀ f, meOf F = some f → encME F.opc.toNat (F.md.getLsbD 2) f = F := fun f hf => ((meOf_eq_some_iff F f).mp hf).1.symm
  have atomic : ∀ f, aOf F = some f → encA F.opc.toNat f = F := fun f hf => ((aOf_eq_some_iff F f).mp hf).1.symm
  unfold mInstr at h
  split at h
  case h_1 opc =>
    rw [opc] at plain
    obtain ⟨f, hf, rfl⟩ := Option.map_eq_some_iff.mp h
    split <;> simp only [fieldsOf, plain f hf]
  case h_2 opc | h_5 opc | h_6 opc =>
    rw [opc] at plain
    obtain ⟨f, hf, rfl⟩ := Option.map_eq_some_iff.mp h
    simp only [fieldsOf, plain f hf]
  case h_3 opc | h_4 opc =>
    rw [opc] at elem
    obtain ⟨f, hf, rfl⟩ := Option.map_eq_some_iff.mp h
    have word := elem f hf
    split
    · rename_i sc
      rw [sc] at word
      simp only [fieldsOf, word]
    · rename_i sc
      rw [Bool.eq_false_of_not_eq_true sc] at word
      simp only [fieldsOf, word]
  case h_7 opc | h_8 opc =>
    rw [opc] at atomic
    obtain ⟨f, hf, rfl⟩ := Option.map_eq_some_iff.mp h
    simp only [fieldsOf, atomic f hf]
  case h_9 => cases h

/-- R73: CMD with its low bits zero is put together from the field above them. -/
theorem cmd_eq_append_zero {n m : Nat} {c : BitVec (m + n)} (low : c.extractLsb' 0 n = 0) :
    BitVec.ofNat m (c.extractLsb' n m).toNat ++ (0 : BitVec n) = c := by
  rw [BitVec.ofNat_toNat, BitVec.setWidth_eq, ← low]
  exact BitVec.extractLsb'_append_extractLsb'

theorem cmd_eq_zero_append {n m : Nat} {c : BitVec (m + n)} (high : c.extractLsb' n m = 0) :
    (0 : BitVec m) ++ BitVec.ofNat n (c.extractLsb' 0 n).toNat = c := by
  rw [BitVec.ofNat_toNat, BitVec.setWidth_eq, ← high]
  exact BitVec.extractLsb'_append_extractLsb'

theorem cmd_eq_bit_append_zero {c : BitVec 12} (low : c.extractLsb' 0 11 = 0) : BitVec.ofBool (c.getLsbD 11) ++ 0#11 = c := by
  have bit : c.extractLsb' 11 1 = BitVec.ofBool (c.getLsbD 11) := (bit_eq_ofBool_iff c 11 _).mpr rfl
  rw [← bit, ← show c.extractLsb' 0 11 = 0#11 from low]
  exact BitVec.extractLsb'_append_extractLsb' (w := 1) (len := 11)

/-- An E word is the encoding of its operands under its opcode, SUB and CMD. -/
theorem encE_eOf {F : Fields} {opc sub : Nat} {cmd : BitVec 12} (hopc : F.opc.toNat = opc) (hsub : F.sub = sub) (hcmd : cmd = F.cmd) :
    some (encE opc sub cmd (eOf F)) = some F := by
  rw [← hopc, ← hsub, hcmd, ← ((eOf_eq_iff F _).mp rfl).1]

/-- R173: CMD of SBIND. -/
def sbindCmd (f : SbindF) : BitVec 12 :=
  0#5 ++ (BitVec.ofBool f.sgn ++ (BitVec.ofBool false ++ (BitVec.ofNat 2 f.esz.val ++ BitVec.ofNat 3 f.port.val)))

theorem encSbind_eq (f : SbindF) : encSbind f = encE 0x61 0 (sbindCmd f) ⟨f.d, f.a, f.b⟩ := rfl

theorem eq_sbindCmd_iff (c : BitVec 12) (f : SbindF) : c = sbindCmd f ↔ c.extractLsb' 7 5 = 0 ∧ c.getLsbD 6 = f.sgn ∧
    c.getLsbD 5 = false ∧ c.extractLsb' 3 2 = BitVec.ofNat 2 f.esz.val ∧ c.extractLsb' 0 3 = BitVec.ofNat 3 f.port.val := by
  have whole : c = sbindCmd f ↔ c.extractLsb' 0 (5 + (1 + (1 + (2 + 3)))) = sbindCmd f := by rw [BitVec.extractLsb'_eq_self]
  rw [whole, sbindCmd]
  simp only [slice_eq_append_iff]
  simp only [bit_eq_ofBool_iff, Nat.reduceAdd, BitVec.ofNat_eq_ofNat]

theorem sbindOf_eq_some {F : Fields} {i : Instr} (h : sbindOf F = some i) :
    ∃ f : SbindF, i = .sbind f ∧ eOf F = ⟨f.d, f.a, f.b⟩ ∧ F.cmd = sbindCmd f := by
  unfold sbindOf at h
  dsimp only at h
  split at h
  · obtain ⟨zero, low⟩ := ‹_ ∧ _›
    refine ⟨_, (Option.some.inj h).symm, rfl, (eq_sbindCmd_iff _ _).mpr ⟨zero, rfl, low, ?_, ?_⟩⟩
    · simp only [BitVec.ofNat_toNat, BitVec.setWidth_eq]
    · simp only [BitVec.ofNat_toNat, BitVec.setWidth_eq]
  · cases h

theorem fieldsOf_of_eField {F : Fields} {i : Instr} (h : eField F.opc.toNat F.sub F = some i) : fieldsOf i = some F := by
  unfold eField at h
  dsimp only at h
  split at h
  case h_1 opc =>
    split at h
    · have cmd := cmd_eq_append_zero (m := 5) ‹_›
      split at h
      case h_1 sub | h_2 sub =>
        cases h
        exact encE_eOf opc sub cmd
      case h_3 => cases h
    · cases h
  case h_2 opc =>
    split at h
    case h_1 sub =>
      obtain ⟨f, rfl, fields, cmd⟩ := sbindOf_eq_some h
      rw [fieldsOf, encSbind_eq, ← fields]
      exact encE_eOf opc sub cmd.symm
    case h_2 sub =>
      split at h
      · have cmd := cmd_eq_zero_append (m := 9) ‹_›
        cases h
        exact encE_eOf opc sub cmd
      · cases h
    case h_3 => cases h
  case h_3 opc =>
    split at h
    · rename_i sub
      obtain ⟨r, code, rfl⟩ := Option.map_eq_some_iff.mp h
      have cmd : BitVec.ofNat 12 (coreSpCode r) = F.cmd := by
        rw [← (coreSpOf_eq_some_iff _ r).mp code, BitVec.ofNat_toNat, BitVec.setWidth_eq]
      exact encE_eOf opc sub cmd
    · cases h
  case h_4 opc | h_5 opc =>
    split at h
    · rename_i sub
      cases h
      have cmd : BitVec.ofNat 12 F.cmd.toNat = F.cmd := by rw [BitVec.ofNat_toNat, BitVec.setWidth_eq]
      exact encE_eOf opc sub cmd
    · cases h
  case h_6 opc =>
    split at h
    · rename_i sub
      cases h
      have cmd : BitVec.ofNat 2 (classCode (classOf (F.cmd.extractLsb' 10 2).toNat)) ++ BitVec.ofNat 10 (F.cmd.extractLsb' 0 10).toNat = F.cmd := by
        rw [← (classOf_eq_iff _ _).mp rfl, BitVec.ofNat_toNat, BitVec.setWidth_eq]
        exact BitVec.extractLsb'_append_extractLsb' (w := 2) (len := 10)
      exact encE_eOf opc sub cmd
    · cases h
  case h_7 opc | h_8 opc | h_9 opc =>
    split at h
    · obtain ⟨sub, low⟩ := ‹_ ∧ _›
      cases h
      exact encE_eOf opc sub (cmd_eq_bit_append_zero low)
    · cases h
  case h_10 => cases h

theorem fieldsOf_of_ePlain {opc sub : Nat} {f : EF} {i : Instr} (h : ePlain opc sub f = some i) :
    fieldsOf i = some (encE opc sub 0#12 f) := by
  unfold ePlain at h
  repeat' split at h
  all_goals cases h
  all_goals rfl

/-- R74: the instruction that a full word's fields name is encoded in those fields. -/
theorem fieldsOf_of_instrOf {F : Fields} {i : Instr} (h : instrOf F = some i) : fieldsOf i = some F := by
  have rrr : ∀ f, rrrOf F = some f → F = encRRR F.opc.toNat F.sub f := fun f hf => ((rrrOf_eq_some_iff F f).mp hf).1
  unfold instrOf at h
  dsimp only at h
  split_ifs at h with conv ri j plain m field cmd
  · obtain ⟨f, hf, hi⟩ := Option.bind_eq_some_iff.mp h
    rw [fieldsOf_of_convInstr hi, ← rrr f hf]
  · rw [fieldsOf_of_riInstr h, ← ((riOf_eq_iff F _).mp rfl).1]
  · rw [fieldsOf_of_jInstr h, ← ((jOf_eq_iff F _).mp rfl).1]
  · obtain ⟨f, hf, hi⟩ := Option.bind_eq_some_iff.mp h
    rw [fieldsOf_of_rrrInstr hi, ← rrr f hf]
  · exact fieldsOf_of_mInstr h
  · exact fieldsOf_of_eField h
  · rw [fieldsOf_of_ePlain h]
    exact encE_eOf rfl rfl cmd.symm

theorem guardOf_eq_some_iff (ksel : BitVec 2) (cond : BitVec 4) (g : Guard) :
    guardOf ksel cond = some g ↔ ksel = BitVec.ofNat 2 g.ksel.val ∧ cond = BitVec.ofNat 4 g.cond.val := by
  obtain ⟨k, c⟩ := g
  have code : ∀ n : Fin 15, cond.toNat = n.val ↔ cond = BitVec.ofNat 4 n.val := fun n => toNat_eq_iff_eq_ofNat cond (by omega)
  unfold guardOf
  split
  · rw [Option.some.injEq, Guard.mk.injEq, fin4_eq_iff, ← code, Fin.ext_iff]
  · have : cond.toNat ≠ c.val := by omega
    simp [← code, this]

theorem seamField_iff (x : BitVec 2) (z : Seam) : seamOf x.toNat = some z ↔ x = BitVec.ofNat 2 (seamCode z) := by
  rw [seamOf_eq_some_iff, toNat_eq_iff_eq_ofNat x (by cases z <;> decide)]

/-- R78: what a full word decodes to. -/
theorem decodeFull_eq_ok_iff (r : RawFull) (d : DWord) : decodeFull r = .ok d ↔
    ∃ seam g i, .full seam g i = d ∧ seamOf r.seam.toNat = some seam ∧ guardOf r.ksel r.cond = some g ∧ instrOf r.f = some i ∧
      formOk i = true := by
  unfold decodeFull
  cases seamOf r.seam.toNat with
  | none => simp
  | some seam =>
    cases guardOf r.ksel r.cond with
    | none => simp
    | some g =>
      cases instrOf r.f with
      | none => simp
      | some i => by_cases form : formOk i = true <;> simp [form]

theorem decodePair_eq_ok_iff (w : W64) (d : DWord) : decodePair w = .ok d ↔
    ∃ seam g0 i0 g1 i1, .pair seam g0 i0 g1 i1 = d ∧ seamOf (w.extractLsb' 61 2).toNat = some seam ∧
      slotInstr (unpackSlot (w.extractLsb' 31 30)) = some (g0, i0) ∧ slotInstr (unpackSlot (w.extractLsb' 1 30)) = some (g1, i1) ∧
      w.getLsbD 0 = false ∧ pairOk i0 i1 = true := by
  unfold decodePair
  cases seamOf (w.extractLsb' 61 2).toNat with
  | none => simp
  | some seam =>
    cases slotInstr (unpackSlot (w.extractLsb' 31 30)) with
    | none => simp
    | some a =>
      cases slotInstr (unpackSlot (w.extractLsb' 1 30)) with
      | none => simp
      | some b =>
        obtain ⟨g0, i0⟩ := a
        obtain ⟨g1, i1⟩ := b
        generalize w.getLsbD 0 = low
        by_cases legal : low = false ∧ pairOk i0 i1 = true <;> simp [legal]

end Sys2Proof
end

section
/-! PROOFS. The slots of paired words (R75 to R77), from their bits to the short instruction and back. -/
namespace Sys2Proof
open Sys2Proof.Machine Sys2Proof.Laws

/-! ### Slots of a paired word (R75 to R77) -/

theorem shortOf_eq_some_iff (sop : Nat) (f : Slot) (i : Instr) : shortOf sop f = some i ↔ sopOf i = some (sop, f) := by
  constructor
  · intro h
    unfold shortOf at h
    split at h
    all_goals cases h
    all_goals rfl
  · intro h
    unfold sopOf at h
    split at h
    all_goals cases h
    all_goals rfl

/-- R75: whether a slot's S is an immediate. -/
def srcImm : SSrc → Bool
  | .imm _ => true
  | _ => false

theorem sdstOf_sdstBits (d : SDst) : sdstOf (sdstBits d) (opdPortish (sdstOpd d)) = some d := by
  cases d with
  | v n => simp [sdstOf, sdstBits, sdstOpd, opdPortish, show n.val % 256 = n.val by omega]
  | s n => simp [sdstOf, sdstBits, sdstOpd, opdPortish, show (128 + n.val) % 256 = 128 + n.val by omega]
  | port n => simp [sdstOf, sdstBits, sdstOpd, opdPortish, show n.val % 256 = n.val by omega]

theorem sdstOf_eq_some {x : BitVec 8} {port : Bool} {d : SDst} (h : sdstOf x port = some d) :
    sdstBits d = x ∧ opdPortish (sdstOpd d) = port := by
  have := x.isLt
  unfold sdstOf at h
  dsimp only at h
  split_ifs at h with hp <;> cases h
  all_goals exact ⟨BitVec.eq_of_toNat_eq (by simp only [sdstBits, BitVec.toNat_ofNat]; omega), by simp_all [sdstOpd, opdPortish]⟩

theorem ssrcOf_ssrcBits (s : SSrc) : ssrcOf (ssrcBits s) (srcImm s) (opdPortish (ssrcOpd s)) = some s := by
  cases s with
  | v n => simp [ssrcOf, ssrcBits, ssrcOpd, opdPortish, srcImm, show n.val % 256 = n.val by omega]
  | s n => simp [ssrcOf, ssrcBits, ssrcOpd, opdPortish, srcImm, show (128 + n.val) % 256 = 128 + n.val by omega]
  | imm x => rfl
  | port n => simp [ssrcOf, ssrcBits, ssrcOpd, opdPortish, srcImm, show n.val % 256 = n.val by omega]

theorem ssrcOf_eq_some {x : BitVec 8} {imm port : Bool} {s : SSrc} (one : imm = true → port = false) (h : ssrcOf x imm port = some s) :
    ssrcBits s = x ∧ srcImm s = imm ∧ opdPortish (ssrcOpd s) = port := by
  have := x.isLt
  unfold ssrcOf at h
  dsimp only at h
  split_ifs at h with hi hp <;> cases h
  case pos => exact ⟨rfl, hi.symm, (one hi).symm⟩
  all_goals exact ⟨BitVec.eq_of_toNat_eq (by simp only [ssrcBits, BitVec.toNat_ofNat]; omega), by simp_all [ssrcOpd, opdPortish, srcImm]⟩

theorem condsBits_condsOf (x : BitVec 2) : condsBits (condsOf x) = x := by
  revert x
  decide

theorem condsOf_condsBits {c : Fin 15} (h : slotCond c = true) : condsOf (condsBits c) = c := by
  revert c
  decide

theorem form_of_short {i : Instr} {sop : Nat} {f : Slot} (h : sopOf i = some (sop, f)) (form : formOk i = true) :
    (sop = 0 ∧ f = slotNop) ∨ (0 < sop ∧ ∃ n, slotForm f n (decide (sop = 0x0D)) = true) := by
  unfold sopOf at h
  split at h
  case h_1 =>
    cases h
    exact .inl ⟨rfl, eq_of_beq form⟩
  all_goals cases h
  all_goals exact .inr ⟨by decide, _, form⟩

theorem ports_of_slotForm {f : Slot} {n : Nat} {mov : Bool} (h : slotForm f n mov = true) :
    opdPortish (sdstOpd f.d) = (slotPort f && mov) ∧ opdPortish (ssrcOpd f.s) = (slotPort f && !mov) ∧
    ¬(srcImm f.s = true ∧ slotPort f = true) := by
  obtain ⟨d, s, qual⟩ := f
  cases d <;> cases s <;> cases mov <;> simp_all [slotForm, slotPort, sdstOpd, ssrcOpd, opdPortish, srcImm]

theorem rawSlot_eq (g : Guard) (sop : Nat) (f : Slot) : rawSlot g sop f =
    ⟨BitVec.ofNat 6 sop, sdstBits f.d, ssrcBits f.s, BitVec.ofNat 2 g.ksel.val, condsBits g.cond, BitVec.ofBool (srcImm f.s),
      BitVec.ofBool (slotPort f), BitVec.ofNat 2 f.qual.val⟩ := by
  obtain ⟨d, s, qual⟩ := f
  cases s <;> rfl

theorem bit_eq_ofBool_iff_decide (x : BitVec 1) (b : Bool) : x = BitVec.ofBool b ↔ decide (x = 1) = b := by
  revert x b
  decide

@[simp] theorem ofBool_eq_one_iff (b : Bool) : BitVec.ofBool b = 1 ↔ b = true := by cases b <;> decide

/-- R75, R77: what a slot decodes to. -/
theorem slotInstr_eq_some_iff (r : RawSlot) (g : Guard) (i : Instr) : slotInstr r = some (g, i) ↔
    ¬((r.sop = 0 ∧ ¬(r.d = 0 ∧ r.s = 0 ∧ r.imm = 0 ∧ r.str = 0 ∧ r.qual = 0)) ∨ (r.imm = 1 ∧ r.str = 1)) ∧
    ∃ d s, sdstOf r.d (decide (r.str = 1) && decide (r.sop.toNat = 0x0D)) = some d ∧
      ssrcOf r.s (decide (r.imm = 1)) (decide (r.str = 1) && !decide (r.sop.toNat = 0x0D)) = some s ∧
      shortOf r.sop.toNat ⟨d, s, fin4 r.qual⟩ = some i ∧ formOk i = true ∧ ⟨fin4 r.ksel, condsOf r.conds⟩ = g := by
  simp only [← Bool.decide_and, ← decide_not]
  unfold slotInstr
  dsimp only
  split
  case isTrue bad => exact iff_of_false (by simp) (fun h => h.1 bad)
  case isFalse legal =>
    rw [and_iff_right legal]
    cases sdstOf r.d (decide (r.str = 1 ∧ r.sop.toNat = 0x0D)) with
    | none => simp
    | some d =>
      cases ssrcOf r.s (decide (r.imm = 1)) (decide (r.str = 1 ∧ ¬r.sop.toNat = 0x0D)) with
      | none => simp
      | some s =>
        cases short : shortOf r.sop.toNat ⟨d, s, fin4 r.qual⟩ with
        | none => simp [short]
        | some j => by_cases form : formOk j = true <;> grind

/-- R75: a slot that decodes is the encoding of what it decodes to. -/
theorem rawSlot_of_slotInstr {r : RawSlot} {g : Guard} {i : Instr} (h : slotInstr r = some (g, i)) :
    ∃ sop f, sopOf i = some (sop, f) ∧ rawSlot g sop f = r := by
  obtain ⟨sop, rd, rs, ksel, conds, rimm, rstr, qual⟩ := r
  obtain ⟨legal, d, s, hd, hs, short, -, rfl⟩ := (slotInstr_eq_some_iff _ _ _).mp h
  obtain ⟨bitsD, portD⟩ := sdstOf_eq_some hd
  obtain ⟨bitsS, immS, portS⟩ := ssrcOf_eq_some (by simp; tauto) hs
  have imm : rimm = BitVec.ofBool (srcImm s) := (bit_eq_ofBool_iff_decide _ _).mpr immS.symm
  have str : rstr = BitVec.ofBool (slotPort ⟨d, s, fin4 qual⟩) := by
    rw [bit_eq_ofBool_iff_decide, slotPort, portD, portS]
    by_cases mov : sop.toNat = 0x0D <;> simp [mov]
  refine ⟨_, _, (shortOf_eq_some_iff _ _ _).mp short, ?_⟩
  rw [rawSlot_eq, bitsD, bitsS, ← imm, ← str, condsBits_condsOf, ← (fin4_eq_iff ksel _).mp rfl, ← (fin4_eq_iff qual _).mp rfl,
    BitVec.ofNat_toNat, BitVec.setWidth_eq]

theorem sop_lt {i : Instr} {sop : Nat} {f : Slot} (h : sopOf i = some (sop, f)) : sop < 64 := by
  unfold sopOf at h
  split at h
  all_goals cases h
  all_goals decide

theorem ports_of_short {i : Instr} {sop : Nat} {f : Slot} (h : sopOf i = some (sop, f)) (form : formOk i = true) :
    opdPortish (sdstOpd f.d) = (slotPort f && decide (sop = 0x0D)) ∧ opdPortish (ssrcOpd f.s) = (slotPort f && !decide (sop = 0x0D)) ∧
    ¬(srcImm f.s = true ∧ slotPort f = true) := by
  rcases form_of_short h form with ⟨rfl, rfl⟩ | ⟨_, _, legal⟩
  · decide
  · exact ports_of_slotForm legal

/-- R75: the encoding of a short instruction whose fields are legal decodes to it. -/
theorem slotInstr_rawSlot {g : Guard} {i : Instr} {sop : Nat} {f : Slot} (h : sopOf i = some (sop, f)) (form : formOk i = true)
    (cond : slotCond g.cond = true) : slotInstr (rawSlot g sop f) = some (g, i) := by
  have code : (BitVec.ofNat 6 sop).toNat = sop := (BitVec.toNat_ofNat sop 6).trans (Nat.mod_eq_of_lt (sop_lt h))
  have fin (n : Fin 4) : fin4 (BitVec.ofNat 2 n.val) = n := (fin4_eq_iff _ _).mpr rfl
  obtain ⟨portD, portS, one⟩ := ports_of_short h form
  rw [rawSlot_eq, slotInstr_eq_some_iff]
  simp only [code, fin, ofBool_eq_one_iff, Bool.decide_eq_true, ← portD, ← portS, condsOf_condsBits cond]
  refine ⟨?_, f.d, f.s, sdstOf_sdstBits f.d, ssrcOf_ssrcBits f.s, (shortOf_eq_some_iff _ _ _).mpr h, form, trivial⟩
  rintro (⟨zero, used⟩ | both)
  · rcases form_of_short h form with ⟨rfl, rfl⟩ | ⟨pos, _⟩
    · exact used (by decide)
    · rw [zero] at code
      simp at code
      omega
  · exact one both

end Sys2Proof
end

section
/-! PROOFS. Every legal full instruction has fields that decode to it (R70, R74). -/
namespace Sys2Proof
open Sys2Proof.Machine Sys2Proof.Laws

/-! ### Operands that the static checks let pass (R70, R71) -/

/-- An operand that passes a check which no reserved specifier passes has its own specifier. -/
theorem canon_of_check {p : Opd → Bool} {o : Opd} (h : p o = true) (reserved : ∀ raw, p (.bad raw) = false) : canon o :=
  canon_of_ne_bad (fun raw eq => Bool.noConfusion ((reserved raw).symm.trans (eq ▸ h)))

theorem canon_of_useSrc {o : Opd} {wide : Bool} (h : (useSrc o wide).ok = true) : canon o :=
  canon_of_check (p := fun o => (useSrc o wide).ok) h (fun _ => rfl)

theorem canon_of_useOpt {o : Opd} {wide : Bool} (h : (useOpt o wide).ok = true) : canon o :=
  canon_of_check (p := fun o => (useOpt o wide).ok) h (fun _ => rfl)

theorem canon_of_useDst {o : Opd} {wide : Bool} (h : (useDst o wide).ok = true) : canon o :=
  canon_of_check (p := fun o => (useDst o wide).ok) h (fun _ => rfl)

theorem canon_of_useThird {o : Opd} {wide : Bool} (h : (useThird o wide).ok = true) : canon o :=
  canon_of_check (p := fun o => (useThird o wide).ok) h (fun _ => rfl)

theorem canon_of_useNone {o : Opd} (h : (useNone o).ok = true) : canon o :=
  canon_of_check (p := fun o => (useNone o).ok) h (fun _ => rfl)

theorem canon_of_useGang {o : Opd} (h : (useGang o).ok = true) : canon o :=
  canon_of_check (p := fun o => (useGang o).ok) h (fun _ => rfl)

theorem canon_of_useGangOpt {o : Opd} (h : (useGangOpt o).ok = true) : canon o :=
  canon_of_check (p := fun o => (useGangOpt o).ok) h (fun _ => rfl)

theorem canon_of_useGangDst {o : Opd} (h : (useGangDst o).ok = true) : canon o :=
  canon_of_check (p := fun o => (useGangDst o).ok) h (fun _ => rfl)

theorem canon_of_useGangDstOpt {o : Opd} (h : (useGangDstOpt o).ok = true) : canon o :=
  canon_of_check (p := fun o => (useGangDstOpt o).ok) h (fun _ => rfl)

theorem canon_of_useTile {o : Opd} (h : (useTile o).ok = true) : canon o :=
  canon_of_check (p := fun o => (useTile o).ok) h (fun _ => rfl)

theorem canon_of_useMeta {o : Opd} (h : (useMeta o).ok = true) : canon o :=
  canon_of_check (p := fun o => (useMeta o).ok) h (fun _ => rfl)

theorem canon_of_useBind {o : Opd} (h : (useBind o).ok = true) : canon o :=
  canon_of_check (p := fun o => (useBind o).ok) h (fun _ => rfl)

/-- Every use of a shape passes its check. -/
def passes (sh : Shape) : Prop := sh.uses.all (fun u => u.ok) = true

theorem passes_cons {u : Use} {us : List Use} {j : Bool} : passes ⟨u :: us, j⟩ ↔ u.ok = true ∧ passes ⟨us, j⟩ := by
  simp [passes]

theorem passes_three {u v w : Use} {j : Bool} : passes ⟨[u, v, w], j⟩ ↔ u.ok = true ∧ v.ok = true ∧ w.ok = true := by
  simp [passes]

/-- An operand under each of three checks, as the RRR and E words have them. -/
theorem canon_three {u v w : Use} {j : Bool} {d a b : Opd} (ok : passes ⟨[u, v, w], j⟩) (hd : u.ok = true → canon d)
    (ha : v.ok = true → canon a) (hb : w.ok = true → canon b) : canon d ∧ canon a ∧ canon b := by
  obtain ⟨du, av, bw⟩ := passes_three.mp ok
  exact ⟨hd du, ha av, hb bw⟩

/-- The operands of an RRR word. -/
def canonRRR (f : RRR) : Prop := canon f.d ∧ canon f.a ∧ canon f.b

theorem canon_shape2 {f : RRR} {wd wa wb j : Bool} (h : passes ⟨[useDst f.d wd, useSrc f.a wa, useSrc f.b wb], j⟩) : canonRRR f :=
  canon_three h canon_of_useDst canon_of_useSrc canon_of_useSrc

theorem canon_shape1 {f : RRR} {wd wa j : Bool} (h : passes ⟨[useDst f.d wd, useSrc f.a wa, useNone f.b], j⟩) : canonRRR f :=
  canon_three h canon_of_useDst canon_of_useSrc canon_of_useNone

theorem canon_shape3 {f : RRR} {wd wa wb j : Bool} (h : passes ⟨[useThird f.d wd, useSrc f.a wa, useSrc f.b wb], j⟩) : canonRRR f :=
  canon_three h canon_of_useThird canon_of_useSrc canon_of_useSrc

/-- A word whose B may be none. -/
theorem canon_shapeOptB {f : RRR} {wd wa wb j : Bool} (h : passes ⟨[useDst f.d wd, useSrc f.a wa, useOpt f.b wb], j⟩) : canonRRR f :=
  canon_three h canon_of_useDst canon_of_useSrc canon_of_useOpt

theorem canon_shapeMov {f : RRR} (h : passes (shapeMov f)) : canonRRR f := by
  unfold shapeMov at h
  split at h
  · rename_i d a
    obtain ⟨-, -, hb⟩ := passes_three.mp h
    rw [canonRRR, d, a]
    exact ⟨canon_of_ne_bad nofun, canon_of_ne_bad nofun, canon_of_useNone hb⟩
  · exact canon_shape1 h

theorem canon_shapeLane {f : RRR} {sc wd wa opt : Bool} (h : passes (shapeLane f sc wd wa opt)) : canonRRR f := by
  obtain ⟨hd, ha, hb⟩ := passes_three.mp h
  refine ⟨canon_of_check (p := fun o => dstOk o && !opdPortish o && (sc || !opdSC o) && (!wd || evenOk o)) hd (fun _ => rfl),
    canon_of_useSrc ha, ?_⟩
  cases opt
  · exact canon_of_useSrc hb
  · exact canon_of_useOpt hb

theorem canon_elect {f : RRR} (h : passes (shapeOf (.elect f))) : canonRRR f := by
  obtain ⟨hd, ha, hb⟩ := passes_three.mp h
  exact ⟨canon_of_check (p := fun o => dstOk o && !opdPortish o && (true || !opdSC o) && (!false || evenOk o)) hd (fun _ => rfl),
    canon_of_useNone ha, canon_of_useOpt hb⟩

theorem canon_of_opdV {o : Opd} (h : opdV o = true) : canon o := canon_of_check (p := opdV) h (fun _ => rfl)

theorem canon_fgsr {f : RRR} (h : passes (shapeOf (.fgsr f))) : canonRRR f := by
  obtain ⟨hd, ha, hb⟩ := passes_three.mp h
  refine ⟨canon_of_check (p := fun o => if f.ty = .n32 then opdV o || o == .none else (opdV o && evenOk o) || opdSC o || o == .none)
    hd (fun _ => ?_), canon_of_useNone ha, canon_of_useNone hb⟩
  split <;> rfl

theorem canon_fssr {f : RRR} (h : passes (shapeOf (.fssr f))) : canonRRR f := by
  have lanesOrGang : passes (if f.ty = .n32 then
      ⟨[{ useDst f.d false with ok := opdV f.d || f.d == .none }, useSrc f.a false, useOpt f.b false], true⟩
    else ⟨[useScalarDstOpt f.d, useGangOpt f.a, useGangOpt f.b], true⟩) := h
  split at lanesOrGang
  · obtain ⟨hd, ha, hb⟩ := passes_three.mp lanesOrGang
    exact ⟨canon_of_check (p := fun o => opdV o || o == .none) hd (fun _ => rfl), canon_of_useSrc ha, canon_of_useOpt hb⟩
  · obtain ⟨hd, ha, hb⟩ := passes_three.mp lanesOrGang
    exact ⟨canon_of_check (p := fun o => (useScalarDstOpt o).ok) hd (fun _ => rfl), canon_of_useGangOpt ha, canon_of_useGangOpt hb⟩

theorem canon_shapeRI {f : RI} (h : passes (shapeRI f)) : canon f.d ∧ canon f.a := by
  obtain ⟨hd, rest⟩ := passes_cons.mp h
  exact ⟨canon_of_useDst hd, canon_of_useSrc (passes_cons.mp rest).1⟩

theorem canon_useAddr {base index : Opd} {wide j : Bool} (h : passes ⟨useAddr base index wide, j⟩) : canon base ∧ canon index := by
  obtain ⟨hbase, rest⟩ := passes_cons.mp h
  exact ⟨canon_of_check (p := fun o => baseOk o wide) hbase (fun _ => rfl), canon_of_check (p := indexOk) (passes_cons.mp rest).1 (fun _ => rfl)⟩

/-- The operands of a plain memory word. -/
def canonMF (f : MF) : Prop := canon f.d ∧ canon f.base ∧ canon f.index

/-- The operands of an element access. -/
def canonMEF (f : MEF) : Prop := canon f.d ∧ canon f.base ∧ canon f.index

theorem canon_of_srcOk {o : Opd} (h : srcOk o = true) : canon o := canon_of_check (p := srcOk) h (fun _ => rfl)

theorem canon_of_dstOk {o : Opd} (h : dstOk o = true) : canon o := canon_of_check (p := dstOk) h (fun _ => rfl)

theorem canon_shapeLoad {f : MF} {wide : Bool} (h : passes (shapeLoad f wide)) : canonMF f := by
  obtain ⟨hd, addr⟩ := passes_cons.mp h
  exact ⟨canon_of_dstOk (Bool.and_eq_true_iff.mp hd).1, canon_useAddr addr⟩

theorem canon_shapeStore {f : MF} {wide : Bool} (h : passes (shapeStore f wide)) : canonMF f := by
  obtain ⟨hd, addr⟩ := passes_cons.mp h
  exact ⟨canon_of_srcOk (Bool.and_eq_true_iff.mp hd).1, canon_useAddr addr⟩

theorem canon_pref {f : MF} (h : passes (shapeOf (.pref f))) : canonMF f := by
  obtain ⟨hd, addr⟩ := passes_cons.mp h
  exact ⟨canon_of_useNone hd, canon_useAddr addr⟩

theorem canon_shapeElem {f : MEF} {store sc : Bool} (h : passes (shapeElem f store sc)) : canonMEF f := by
  obtain ⟨hd, addr⟩ := passes_cons.mp h
  refine ⟨?_, canon_useAddr addr⟩
  cases store
  · exact canon_of_dstOk hd
  · exact canon_of_srcOk hd

theorem canon_shapeAtom {f : AF} {wide : Bool} (h : passes (shapeAtom f wide)) : canon f.d ∧ canon f.base ∧ canon f.data := by
  obtain ⟨hd, rest⟩ := passes_cons.mp h
  obtain ⟨hbase, rest⟩ := passes_cons.mp rest
  obtain ⟨hdata, -⟩ := passes_cons.mp rest
  exact ⟨canon_of_check (p := fun o => if f.aop = .st then o == .none else dstOk o && (o == .none || groupOk o f.size)) hd
      (fun _ => by split <;> rfl),
    canon_of_check (p := fun o => baseOk o wide) hbase (fun _ => rfl),
    canon_of_check (p := fun o => if f.aop = .ld then o == .none else indexOk o && o != .none && groupOk o f.size) hdata
      (fun _ => by split <;> rfl)⟩

/-- The operands of an E word. -/
def canonEF (f : EF) : Prop := canon f.d ∧ canon f.a ∧ canon f.b

/-! ### Decoding an encoding (R74) -/

theorem encRRR_decodes {opc sub : Nat} {f : RRR} (ops : canonRRR f) (hopc : opc < 128) (hsub : sub < 64) :
    (encRRR opc sub f).opc.toNat = opc ∧ (encRRR opc sub f).sub = sub ∧ rrrOf (encRRR opc sub f) = some f :=
  ⟨(encRRR_opc opc sub f).trans (Nat.mod_eq_of_lt hopc), (encRRR_sub opc sub f).trans (Nat.mod_eq_of_lt hsub),
    encRRR_self hopc hsub ops⟩

theorem instrOf_encRRR {opc sub : Nat} {f : RRR} {i : Instr} (ops : canonRRR f) (h : rrrInstr opc sub f = some i) :
    instrOf (encRRR opc sub f) = some i := by
  obtain ⟨hopc, hsub, conv, ri, j⟩ := rrrInstr_range h
  obtain ⟨opcode, subcode, fields⟩ := encRRR_decodes ops (Nat.lt_trans hopc (by decide)) hsub
  simp only [instrOf, opcode, subcode, if_neg conv, if_neg ri, if_neg j, if_pos hopc, fields, Option.bind_some, h]

theorem instrOf_encRRR_conv {opc sub : Nat} {f : RRR} {i : Instr} (ops : canonRRR f) (hsub : sub < 64)
    (conv : opc = 0x3B ∨ opc = 0x3C ∨ opc = 0x3D ∨ opc = 0x56 ∨ opc = 0x57) (h : convInstr opc sub f = some i) :
    instrOf (encRRR opc sub f) = some i := by
  obtain ⟨opcode, subcode, fields⟩ := encRRR_decodes ops (opc := opc) (by rcases conv with rfl | rfl | rfl | rfl | rfl <;> decide) hsub
  simp only [instrOf, opcode, subcode, if_pos conv, fields, Option.bind_some, h]

theorem instrOf_encRI {opc : Nat} {f : RI} {i : Instr} (d : canon f.d) (a : canon f.a) (h : riInstr opc f = some i) :
    instrOf (encRI opc f) = some i := by
  have hopc : opc < 128 ∧ ¬(opc = 0x3B ∨ opc = 0x3C ∨ opc = 0x3D ∨ opc = 0x56 ∨ opc = 0x57) ∧
      (opc = 0x0F ∨ opc = 0x10 ∨ (0x14 ≤ opc ∧ opc ≤ 0x1D)) := by
    unfold riInstr at h
    split at h
    all_goals cases h
    all_goals decide
  obtain ⟨hlt, conv, ri⟩ := hopc
  have opcode : (encRI opc f).opc.toNat = opc := (BitVec.toNat_ofNat opc 7).trans (Nat.mod_eq_of_lt hlt)
  have fields : riOf (encRI opc f) = f := (riOf_eq_iff _ f).mpr ⟨by rw [opcode], d, a⟩
  simp only [instrOf, opcode, if_neg conv, if_pos ri, fields, h]

theorem instrOf_encJ {opc : Nat} {f : JF} {i : Instr} (aux : canon f.aux) (h : jInstr opc f = some i) :
    instrOf (encJ opc f) = some i := by
  have hopc : opc < 128 ∧ ¬(opc = 0x3B ∨ opc = 0x3C ∨ opc = 0x3D ∨ opc = 0x56 ∨ opc = 0x57) ∧
      ¬(opc = 0x0F ∨ opc = 0x10 ∨ (0x14 ≤ opc ∧ opc ≤ 0x1D)) ∧ (0x28 ≤ opc ∧ opc ≤ 0x2F) := by
    unfold jInstr at h
    repeat' split at h
    all_goals cases h
    all_goals decide
  obtain ⟨hlt, conv, ri, j⟩ := hopc
  have opcode : (encJ opc f).opc.toNat = opc := (BitVec.toNat_ofNat opc 7).trans (Nat.mod_eq_of_lt hlt)
  have fields : jOf (encJ opc f) = f := (jOf_eq_iff _ f).mpr ⟨by rw [opcode], aux⟩
  simp only [instrOf, opcode, if_neg conv, if_neg ri, if_pos j, fields, h]

theorem instrOf_of_mInstr {F : Fields} {opc : Nat} {i : Instr} (op : F.opc.toNat = opc) (m : 0x58 ≤ opc ∧ opc < 0x60)
    (h : mInstr opc F = some i) : instrOf F = some i := by
  have conv : ¬(opc = 0x3B ∨ opc = 0x3C ∨ opc = 0x3D ∨ opc = 0x56 ∨ opc = 0x57) := by omega
  have ri : ¬(opc = 0x0F ∨ opc = 0x10 ∨ (0x14 ≤ opc ∧ opc ≤ 0x1D)) := by omega
  have j : ¬(0x28 ≤ opc ∧ opc ≤ 0x2F) := by omega
  simp only [instrOf, op, if_neg conv, if_neg ri, if_neg j, if_neg (Nat.not_lt.mpr m.1), if_pos m.2, h]

theorem instrOf_encM {opc : Nat} {f : MF} (ops : canonMF f) (m : 0x58 ≤ opc ∧ opc < 0x60) (g : MF → Instr)
    (row : ∀ F, mInstr opc F = (mOf F).map g) : instrOf (encM opc f) = some (g f) := by
  have opcode : (encM opc f).opc.toNat = opc := (BitVec.toNat_ofNat opc 7).trans (Nat.mod_eq_of_lt (by omega))
  have fields : mOf (encM opc f) = some f := (mOf_eq_some_iff _ f).mpr ⟨by rw [opcode], ops⟩
  exact instrOf_of_mInstr opcode m (by rw [row, fields, Option.map_some])

theorem encME_sc (opc : Nat) (sc : Bool) (f : MEF) : (encME opc sc f).md.getLsbD 2 = sc := by
  have md : (encME opc sc f).md = f.off ++ (BitVec.ofNat 3 (elemTyCode f.rt) ++ (BitVec.ofBool sc ++ BitVec.ofNat 2 f.svc.val)) := rfl
  rw [md, BitVec.getLsbD_append, BitVec.getLsbD_append, BitVec.getLsbD_append]
  simp

theorem instrOf_encME {opc : Nat} {sc : Bool} {f : MEF} (ops : canonMEF f) (m : 0x58 ≤ opc ∧ opc < 0x60) (g : Bool → MEF → Instr)
    (row : ∀ F, mInstr opc F = (meOf F).map (g (F.md.getLsbD 2))) : instrOf (encME opc sc f) = some (g sc f) := by
  have opcode : (encME opc sc f).opc.toNat = opc := (BitVec.toNat_ofNat opc 7).trans (Nat.mod_eq_of_lt (by omega))
  have fields : meOf (encME opc sc f) = some f := (meOf_eq_some_iff _ f).mpr ⟨by rw [opcode, encME_sc], ops⟩
  exact instrOf_of_mInstr opcode m (by rw [row, fields, Option.map_some, encME_sc])

theorem instrOf_encA {opc : Nat} {f : AF} (ops : canon f.d ∧ canon f.base ∧ canon f.data) (m : 0x58 ≤ opc ∧ opc < 0x60) (g : AF → Instr)
    (row : ∀ F, mInstr opc F = (aOf F).map g) : instrOf (encA opc f) = some (g f) := by
  have opcode : (encA opc f).opc.toNat = opc := (BitVec.toNat_ofNat opc 7).trans (Nat.mod_eq_of_lt (by omega))
  have fields : aOf (encA opc f) = some f := (aOf_eq_some_iff _ f).mpr ⟨by rw [opcode], ops⟩
  exact instrOf_of_mInstr opcode m (by rw [row, fields, Option.map_some])

theorem encE_decodes {opc sub : Nat} {cmd : BitVec 12} {f : EF} (ops : canonEF f) (hopc : opc < 128) (hsub : sub < 64) :
    (encE opc sub cmd f).opc.toNat = opc ∧ (encE opc sub cmd f).sub = sub ∧ eOf (encE opc sub cmd f) = f := by
  have opcode := (encE_opc opc sub cmd f).trans (Nat.mod_eq_of_lt hopc)
  have subcode := (encE_sub opc sub cmd f).trans (Nat.mod_eq_of_lt hsub)
  exact ⟨opcode, subcode, (eOf_eq_iff _ f).mpr ⟨by rw [opcode, subcode, encE_cmd], ops⟩⟩

theorem instrOf_of_ge {F : Fields} (low : 0x60 ≤ F.opc.toNat) : instrOf F =
    if (0x60 ≤ F.opc.toNat ∧ F.opc.toNat ≤ 0x63) ∨ (F.opc.toNat = 0x64 ∧ F.sub = 0) ∨ F.opc.toNat = 0x65 ∨
        (0x70 ≤ F.opc.toNat ∧ F.opc.toNat ≤ 0x72) then eField F.opc.toNat F.sub F
    else if F.cmd = 0 then ePlain F.opc.toNat F.sub (eOf F) else none := by
  have conv : ¬(F.opc.toNat = 0x3B ∨ F.opc.toNat = 0x3C ∨ F.opc.toNat = 0x3D ∨ F.opc.toNat = 0x56 ∨ F.opc.toNat = 0x57) := by omega
  have ri : ¬(F.opc.toNat = 0x0F ∨ F.opc.toNat = 0x10 ∨ (0x14 ≤ F.opc.toNat ∧ F.opc.toNat ≤ 0x1D)) := by omega
  have j : ¬(0x28 ≤ F.opc.toNat ∧ F.opc.toNat ≤ 0x2F) := by omega
  have rrr : ¬F.opc.toNat < 0x58 := by omega
  have m : ¬F.opc.toNat < 0x60 := by omega
  simp only [instrOf, if_neg conv, if_neg ri, if_neg j, if_neg rrr, if_neg m]

theorem instrOf_encE {opc sub : Nat} {f : EF} {i : Instr} (ops : canonEF f) (h : ePlain opc sub f = some i) :
    instrOf (encE opc sub 0#12 f) = some i := by
  have hopc : opc < 128 ∧ sub < 64 ∧ 0x60 ≤ opc ∧
      ¬((0x60 ≤ opc ∧ opc ≤ 0x63) ∨ (opc = 0x64 ∧ sub = 0) ∨ opc = 0x65 ∨ (0x70 ≤ opc ∧ opc ≤ 0x72)) := by
    unfold ePlain at h
    repeat' split at h
    all_goals cases h
    all_goals decide
  obtain ⟨hlt, hsub, low, plain⟩ := hopc
  obtain ⟨opcode, subcode, fields⟩ := encE_decodes (cmd := 0#12) ops hlt hsub
  rw [instrOf_of_ge (by rw [opcode]; exact low), opcode, subcode, if_neg plain, encE_cmd, if_pos (BitVec.ofNat_eq_ofNat ..).symm, fields, h]

theorem instrOf_encE_field {opc sub : Nat} {cmd : BitVec 12} {f : EF} {i : Instr} (ops : canonEF f) (hsub : sub < 64)
    (hopc : opc < 128 ∧ 0x60 ≤ opc ∧ ((0x60 ≤ opc ∧ opc ≤ 0x63) ∨ (opc = 0x64 ∧ sub = 0) ∨ opc = 0x65 ∨ (0x70 ≤ opc ∧ opc ≤ 0x72)))
    (h : ∀ F : Fields, F.cmd = cmd → eOf F = f → eField opc sub F = some i) : instrOf (encE opc sub cmd f) = some i := by
  obtain ⟨hlt, low, field⟩ := hopc
  obtain ⟨opcode, subcode, fields⟩ := encE_decodes (cmd := cmd) ops hlt hsub
  rw [instrOf_of_ge (by rw [opcode]; exact low), opcode, subcode, if_pos field, h _ (encE_cmd ..) fields]

/-! ### E words whose CMD carries fields -/

theorem jmod_of_jForm {f : JF} {offset aux : Bool} {n : Nat} (h : jForm f offset aux (some n) = true) : f.jmod.toNat = n := by
  simp only [jForm, Bool.and_eq_true] at h
  exact eq_of_beq h.2

theorem toNat_eq_of_eq_ofNat {w n : Nat} {x : BitVec w} (h : x = BitVec.ofNat w n) (lt : n < 2 ^ w) : x.toNat = n :=
  (toNat_eq_iff_eq_ofNat x lt).mpr h

theorem eField_ring {F : Fields} {f : EF} {n : Nat} (cmd : F.cmd = BitVec.ofNat 5 n ++ 0#7) (ops : eOf F = f) (h : 1 ≤ n ∧ n ≤ 31) :
    eField 0x60 0 F = some (.rgive f n) ∧ eField 0x60 1 F = some (.rtake f n) := by
  obtain ⟨high, low⟩ := (eq_append_iff (m := 5) (n := 7)).mp cmd
  have count : (F.cmd.extractLsb' 7 5).toNat = n := toNat_eq_of_eq_ofNat high (by omega)
  simp [eField, low, count, ops]

theorem eField_rdsp {F : Fields} {f : EF} {r : CoreSpecial} (cmd : F.cmd = BitVec.ofNat 12 (coreSpCode r)) (ops : eOf F = f) :
    eField 0x62 0 F = some (.rdsp f r) := by
  have code : coreSpOf F.cmd.toNat = some r := (coreSpOf_eq_some_iff _ r).mpr (toNat_eq_of_eq_ofNat cmd (by cases r <;> decide))
  simp only [eField, code, ops, ↓reduceIte, Option.map_some]

theorem eField_count {F : Fields} {f : EF} {n : Nat} (cmd : F.cmd = BitVec.ofNat 12 n) (ops : eOf F = f) (h : n < 4096) :
    eField 0x63 0 F = some (.kick f n) ∧ eField 0x64 0 F = some (.cati f n) := by
  have count : F.cmd.toNat = n := toNat_eq_of_eq_ofNat cmd h
  simp only [eField, count, ops, ↓reduceIte, and_self]

theorem eField_waitc {F : Fields} {f : EF} {cls : OpClass} {n : Nat} (cmd : F.cmd = BitVec.ofNat 2 (classCode cls) ++ BitVec.ofNat 10 n)
    (ops : eOf F = f) (h : n < 1024) : eField 0x65 0 F = some (.waitc f cls n) := by
  obtain ⟨high, low⟩ := (eq_append_iff (m := 2) (n := 10)).mp cmd
  have count : (F.cmd.extractLsb' 0 10).toNat = n := toNat_eq_of_eq_ofNat low h
  have code : classOf (F.cmd.extractLsb' 10 2).toNat = cls := (classOf_eq_iff _ cls).mpr high
  simp only [eField, count, code, ops, ↓reduceIte]

theorem eField_matrix {F : Fields} {f : EF} {p : Bool} (cmd : F.cmd = BitVec.ofBool p ++ 0#11) (ops : eOf F = f) :
    eField 0x70 0 F = some (.mma f p) ∧ eField 0x71 0 F = some (.mmax f p) ∧ eField 0x72 0 F = some (.mmas f p) := by
  obtain ⟨high, low⟩ := (eq_append_iff (m := 1) (n := 11)).mp cmd
  have bit : F.cmd.getLsbD 11 = p := (bit_eq_ofBool_iff _ 11 p).mp high
  have zero : F.cmd.extractLsb' 0 11 = 0 := low
  simp only [eField, zero, bit, ops, and_self, ↓reduceIte]

theorem eField_spos {F : Fields} {f : EF} {p : Fin 8} (cmd : F.cmd = 0#9 ++ BitVec.ofNat 3 p.val) (ops : eOf F = f) :
    eField 0x61 1 F = some (.spos f p) := by
  obtain ⟨high, low⟩ := (eq_append_iff (m := 9) (n := 3)).mp cmd
  have port : (F.cmd.extractLsb' 0 3).toNat = p.val := toNat_eq_of_eq_ofNat low p.isLt
  have zero : F.cmd.extractLsb' 3 9 = 0 := high
  simp only [eField, zero, port, ops, ↓reduceIte]

theorem sbindOf_sbindCmd {F : Fields} {f : SbindF} (cmd : F.cmd = sbindCmd f) (ops : eOf F = ⟨f.d, f.a, f.b⟩) : sbindOf F = some (.sbind f) := by
  obtain ⟨zero, sgn, low, esz, port⟩ := (eq_sbindCmd_iff _ f).mp cmd
  obtain ⟨d, a, b, sgn', esz', port'⟩ := f
  have esz := toNat_eq_of_eq_ofNat esz esz'.isLt
  have port := toNat_eq_of_eq_ofNat port port'.isLt
  simp only [eOf, EF.mk.injEq] at ops
  unfold sbindOf
  dsimp only
  rw [if_pos ⟨zero, low⟩]
  simp [ops, esz, port]
  exact sgn

/-! ### Every full instruction -/

/-- R74: a legal full instruction is encoded in fields, and they name it. -/
theorem exists_fieldsOf {i : Instr} (form : formOk i = true) (ok : passes (shapeOf i)) (long : isShort i = false) :
    ∃ F, fieldsOf i = some F ∧ instrOf F = some i := by
  cases i with
  | iadd f | iaddc f | iadds f | isub f | isubb f | isubs f | imin f | imax f | imul f | imulh f | idiv f | irem f | and f | or f | xor f
  | andn f | orn f | shl f | shr f | sar f | rol f | bfx f | permb f | sext f | zext f | fadd f | fsub f | fmul f | fmin f | fmax f
  | fminm f | fmaxm f | fcpys f | fdiv f | fscale f =>
    exact ⟨_, rfl, instrOf_encRRR (canon_shape2 ok) rfl⟩
  | ineg f | iabs f | brev f | popc f | clz f | ctz f | fabs f | fneg f | fsqrt f | frcp f | frsq f | fex2 f | flg2 f | fsin f | fcos f
  | frint f =>
    exact ⟨_, rfl, instrOf_encRRR (canon_shape1 ok) rfl⟩
  | imad f | fshl f | fshr f | bfi f | sel f | ffma f | ffma2 f | fdot4 f | imadw f =>
    exact ⟨_, rfl, instrOf_encRRR (canon_shape3 ok) rfl⟩
  | cmp f | tst f | fcmp f =>
    exact ⟨_, rfl, instrOf_encRRR (canon_three ok canon_of_useNone canon_of_useSrc canon_of_useSrc) rfl⟩
  | mov f =>
    exact ⟨_, rfl, instrOf_encRRR (canon_shapeMov ok) rfl⟩
  | shflIdx f | shflUp f | shflDown f | shflXor f | ballot f | voteEvery f | voteSome f | voteAgree f | voteCount f | bcast f | matchL f
  | qmx f =>
    exact ⟨_, rfl, instrOf_encRRR (canon_shapeLane ok) rfl⟩
  | setk f =>
    exact ⟨_, rfl, instrOf_encRRR (canon_three ok canon_of_useNone canon_of_useSrc canon_of_useNone) rfl⟩
  | getk f =>
    exact ⟨_, rfl, instrOf_encRRR (canon_three ok canon_of_opdV canon_of_useNone canon_of_useNone) rfl⟩
  | fclass f | qds8 f =>
    exact ⟨_, rfl, instrOf_encRRR (canon_shapeOptB ok) rfl⟩
  | fgsr f =>
    exact ⟨_, rfl, instrOf_encRRR (canon_fgsr ok) rfl⟩
  | fssr f =>
    exact ⟨_, rfl, instrOf_encRRR (canon_fssr ok) rfl⟩
  | elect f =>
    exact ⟨_, rfl, instrOf_encRRR (canon_elect ok) rfl⟩
  | fcvt f src | ftoi f src | itof f src =>
    have code : tyOf (tyCode src) = some src := (tyOf_eq_some_iff _ src).mpr rfl
    refine ⟨_, rfl, instrOf_encRRR_conv (canon_shape1 ok) (Nat.lt_trans (tyCode_lt src) (by decide)) (by decide) ?_⟩
    simp only [convInstr, code, Option.map_some]
  | scan f op excl =>
    refine ⟨_, rfl, instrOf_encRRR_conv (canon_shapeLane ok) ?_ (by decide) ?_⟩
    · cases op <;> cases excl <;> decide
    · cases op <;> cases excl <;> rfl
  | reduce f op =>
    refine ⟨_, rfl, instrOf_encRRR_conv (canon_shapeLane ok) ?_ (by decide) ?_⟩
    · cases op <;> decide
    · cases op <;> rfl
  | bfxImm f | movh f | iaddImm f | andImm f | orImm f | xorImm f | shlImm f | shrImm f | sarImm f | imulImm f =>
    exact ⟨_, rfl, instrOf_encRI (canon_shapeRI ok).1 (canon_shapeRI ok).2 rfl⟩
  | movi f =>
    obtain ⟨hd, rest⟩ := passes_cons.mp ok
    exact ⟨_, rfl, instrOf_encRI (canon_of_useDst hd) (canon_of_useNone (passes_cons.mp rest).1) rfl⟩
  | cmpImm f =>
    obtain ⟨hd, rest⟩ := passes_cons.mp ok
    exact ⟨_, rfl, instrOf_encRI (canon_of_useNone hd) (canon_of_useSrc (passes_cons.mp rest).1) rfl⟩
  | bra f | exit f =>
    exact ⟨_, rfl, instrOf_encJ (canon_of_useNone (passes_cons.mp ok).1) rfl⟩
  | jmpr f | ret f =>
    exact ⟨_, rfl, instrOf_encJ (canon_of_check (p := auxReg) (passes_cons.mp ok).1 (fun _ => rfl)) rfl⟩
  | call f =>
    exact ⟨_, rfl, instrOf_encJ (canon_of_check (p := fun o => auxReg o || o == .none) (passes_cons.mp ok).1 (fun _ => rfl)) rfl⟩
  | trap f =>
    exact ⟨_, rfl, instrOf_encJ (canon_of_check (p := fun o => opdV o || gangSrcOk o || o == .none) (passes_cons.mp ok).1 (fun _ => rfl)) rfl⟩
  | nop f =>
    have jmod : f.jmod ≠ 1 := fun one => by have := jmod_of_jForm form; simp [one] at this
    exact ⟨_, rfl, instrOf_encJ (canon_of_useNone (passes_cons.mp ok).1) (if_neg jmod)⟩
  | yield f =>
    have jmod : f.jmod = 1 := BitVec.eq_of_toNat_eq (jmod_of_jForm form)
    exact ⟨_, rfl, instrOf_encJ (canon_of_useNone (passes_cons.mp ok).1) (if_pos jmod)⟩
  | meet f =>
    have jmod : f.jmod ≠ 1 := fun one => by have := jmod_of_jForm form; simp [one] at this
    exact ⟨_, rfl, instrOf_encJ (canon_of_check (p := fun o => (opdV o && evenOk o) || o == .none) (passes_cons.mp ok).1 (fun _ => rfl)) (if_neg jmod)⟩
  | meetR f =>
    have jmod : f.jmod = 1 := BitVec.eq_of_toNat_eq (jmod_of_jForm form)
    exact ⟨_, rfl, instrOf_encJ (canon_of_check (p := fun o => auxReg o || o == .none) (passes_cons.mp ok).1 (fun _ => rfl)) (if_pos jmod)⟩
  | ld f =>
    have d : f.d ≠ .none := bne_iff_ne.mp form
    exact ⟨_, rfl, (instrOf_encM (canon_shapeLoad ok) (by decide) _ (fun _ => rfl)).trans (by rw [if_neg d])⟩
  | pref f =>
    have d : f.d = .none := eq_of_beq form
    exact ⟨_, rfl, (instrOf_encM (canon_pref ok) (by decide) _ (fun _ => rfl)).trans (by rw [if_pos d])⟩
  | st f | stl f =>
    exact ⟨_, rfl, instrOf_encM (canon_shapeStore ok) (by decide) _ (fun _ => rfl)⟩
  | ldl f =>
    exact ⟨_, rfl, instrOf_encM (canon_shapeLoad ok) (by decide) _ (fun _ => rfl)⟩
  | lde f | ldeSc f =>
    exact ⟨_, rfl, instrOf_encME (canon_shapeElem ok) (by decide) (fun sc m => if sc then .ldeSc m else .lde m) (fun _ => rfl)⟩
  | ste f | steSc f =>
    exact ⟨_, rfl, instrOf_encME (canon_shapeElem ok) (by decide) (fun sc m => if sc then .steSc m else .ste m) (fun _ => rfl)⟩
  | atom f | atoml f =>
    exact ⟨_, rfl, instrOf_encA (canon_shapeAtom ok) (by decide) _ (fun _ => rfl)⟩
  | rgive f n =>
    exact ⟨_, rfl, instrOf_encE_field (canon_three ok canon_of_useNone canon_of_useGang canon_of_useNone) (by decide) (by decide)
      (fun F cmd ops => (eField_ring cmd ops (of_decide_eq_true form)).1)⟩
  | rtake f n =>
    exact ⟨_, rfl, instrOf_encE_field (canon_three ok canon_of_useNone canon_of_useGang canon_of_useNone) (by decide) (by decide)
      (fun F cmd ops => (eField_ring cmd ops (of_decide_eq_true form)).2)⟩
  | rdsp f r =>
    exact ⟨_, rfl, instrOf_encE_field (canon_three ok canon_of_useGangDst canon_of_useNone canon_of_useNone) (by decide) (by decide)
      (fun F cmd ops => eField_rdsp cmd ops)⟩
  | kick f n =>
    exact ⟨_, rfl, instrOf_encE_field (canon_three ok canon_of_useNone canon_of_useGang canon_of_useGangOpt) (by decide) (by decide)
      (fun F cmd ops => (eField_count cmd ops (of_decide_eq_true (Bool.and_eq_true_iff.mp form).1)).1)⟩
  | cati f n =>
    exact ⟨_, rfl, instrOf_encE_field (canon_three ok canon_of_useNone canon_of_useGang canon_of_useGangOpt) (by decide) (by decide)
      (fun F cmd ops => (eField_count cmd ops (of_decide_eq_true form)).2)⟩
  | waitc f cls n =>
    exact ⟨_, rfl, instrOf_encE_field (canon_three ok canon_of_useNone canon_of_useGangOpt canon_of_useNone) (by decide) (by decide)
      (fun F cmd ops => eField_waitc cmd ops (of_decide_eq_true (Bool.and_eq_true_iff.mp form).1))⟩
  | mma f p =>
    exact ⟨_, rfl, instrOf_encE_field (canon_three ok canon_of_useTile canon_of_useGang canon_of_useNone) (by decide) (by decide)
      (fun F cmd ops => (eField_matrix cmd ops).1)⟩
  | mmax f p =>
    exact ⟨_, rfl, instrOf_encE_field (canon_three ok canon_of_useTile canon_of_useGang canon_of_useNone) (by decide) (by decide)
      (fun F cmd ops => (eField_matrix cmd ops).2.1)⟩
  | mmas f p =>
    exact ⟨_, rfl, instrOf_encE_field (canon_three ok canon_of_useTile canon_of_useGang canon_of_useMeta) (by decide) (by decide)
      (fun F cmd ops => (eField_matrix cmd ops).2.2)⟩
  | sbind f =>
    refine ⟨encSbind f, rfl, ?_⟩
    rw [encSbind_eq]
    exact instrOf_encE_field (canon_three ok canon_of_useNone canon_of_useBind canon_of_useBind) (by decide) (by decide)
      (fun F cmd ops => sbindOf_sbindCmd cmd ops)
  | spos f p =>
    have dst : opdV f.d || f.d == .none → canon f.d := fun h => canon_of_check (p := fun o => opdV o || o == .none) h (fun _ => rfl)
    exact ⟨_, rfl, instrOf_encE_field (canon_three ok dst canon_of_useOpt canon_of_useNone) (by decide) (by decide)
      (fun F cmd ops => eField_spos cmd ops)⟩
  | recp f | spcomp f | prog f | gath f | scad f =>
    exact ⟨_, rfl, instrOf_encE (canon_three ok canon_of_useNone canon_of_useGang canon_of_useNone) rfl⟩
  | recf f =>
    exact ⟨_, rfl, instrOf_encE (canon_three ok canon_of_useNone canon_of_useGangOpt canon_of_useNone) rfl⟩
  | pub f | acq f | phase f | fence f | killpt f =>
    exact ⟨_, rfl, instrOf_encE (canon_three ok canon_of_useNone canon_of_useNone canon_of_useNone) rfl⟩
  | mlda f | mdrain f =>
    exact ⟨_, rfl, instrOf_encE (canon_three ok canon_of_useTile canon_of_useGang canon_of_useNone) rfl⟩
  | mzero f =>
    exact ⟨_, rfl, instrOf_encE (canon_three ok canon_of_useTile canon_of_useNone canon_of_useNone) rfl⟩
  | bari f =>
    exact ⟨_, rfl, instrOf_encE (canon_three ok canon_of_useNone canon_of_useGang canon_of_useGang) rfl⟩
  | catw f | bara f | jwait f =>
    exact ⟨_, rfl, instrOf_encE (canon_three ok canon_of_useGangDstOpt canon_of_useGang canon_of_useNone) rfl⟩
  | barw f | launch f | migr f | jarr f =>
    exact ⟨_, rfl, instrOf_encE (canon_three ok canon_of_useGangDstOpt canon_of_useGang canon_of_useGang) rfl⟩
  | bart f | pgq f | jstat f =>
    exact ⟨_, rfl, instrOf_encE (canon_three ok canon_of_useGangDst canon_of_useGang canon_of_useNone) rfl⟩
  | pairedNop f | pairedIadd f | pairedIsub f | pairedImul f | pairedImin f | pairedImax f | pairedAnd f | pairedOr f | pairedXor f
  | pairedAndn f | pairedShl f | pairedShr f | pairedSar f | pairedMov f | pairedCmp f | pairedTst f | pairedFadd f | pairedFsub f
  | pairedFmul f | pairedFmin f | pairedFmax f | pairedFcmp f => exact Bool.noConfusion long
  | _ => exact Bool.noConfusion form

end Sys2Proof
end

section
/-! PROOFS. Whole words: decoding and encoding are inverse (R64, R78). O2 and O3. -/
namespace Sys2Proof
open Sys2Proof.Machine Sys2Proof.Laws

/-! ### Whole words (R64, R78) -/

/-- R70: a legal instruction has a known form, and each of its operands passes its own check. -/
theorem passes_of_wf {i : Instr} (h : i.wf = true) : formOk i = true ∧ passes (shapeOf i) := by
  obtain ⟨form, ops⟩ := Bool.and_eq_true_iff.mp h
  exact ⟨form, (Bool.and_eq_true_iff.mp ops).2⟩

/-- R77: every short instruction has an SOP. -/
theorem sopOf_of_isShort {i : Instr} (h : isShort i = true) : ∃ sop f, sopOf i = some (sop, f) := by
  unfold isShort Machine.slotOf at h
  split at h
  next f => exact ⟨_, f, rfl⟩
  next =>
    split at h
    all_goals cases h
    all_goals exact ⟨_, _, rfl⟩

/-- R64, R67: a full word decodes where its guard and its instruction do. -/
theorem decode_packFull {seam : Seam} {g : Guard} {i : Instr} {F : Fields} (instr : instrOf F = some i) (form : formOk i = true) :
    decode (packFull ⟨BitVec.ofNat 2 (seamCode seam), BitVec.ofNat 2 g.ksel.val, BitVec.ofNat 4 g.cond.val, F⟩) =
      .ok (.full seam g i) := by
  obtain ⟨zero, fields⟩ := (eq_packFull_iff _ _).mp
    (rfl : packFull ⟨BitVec.ofNat 2 (seamCode seam), BitVec.ofNat 2 g.ksel.val, BitVec.ofNat 4 g.cond.val, F⟩ = _)
  rw [decode, if_neg (Bool.eq_false_iff.mp zero), fields, decodeFull_eq_ok_iff]
  exact ⟨seam, g, i, rfl, (seamField_iff _ seam).mpr rfl, (guardOf_eq_some_iff _ _ g).mpr ⟨rfl, rfl⟩, instr, form⟩

/-- R64, R75, R76: a paired word decodes where both of its slots do and make a legal pair. -/
theorem decode_pairWord {seam : Seam} {r0 r1 : RawSlot} {g0 g1 : Guard} {i0 i1 : Instr} (h0 : slotInstr r0 = some (g0, i0))
    (h1 : slotInstr r1 = some (g1, i1)) (pair : pairOk i0 i1 = true) :
    decode (1#1 ++ (BitVec.ofNat 2 (seamCode seam) ++ (packSlot r0 ++ (packSlot r1 ++ 0#1)))) = .ok (.pair seam g0 i0 g1 i1) := by
  obtain ⟨paired, seamBits, first, second, low⟩ := (eq_pairWord_iff _ _ _ _).mp
    (rfl : 1#1 ++ (BitVec.ofNat 2 (seamCode seam) ++ (packSlot r0 ++ (packSlot r1 ++ 0#1))) = _)
  rw [decode, if_pos paired, decodePair_eq_ok_iff]
  refine ⟨seam, g0, i0, g1, i1, rfl, (seamField_iff _ seam).mpr seamBits, ?_, ?_, low, pair⟩
  · rw [(eq_packSlot_iff _ r0).mp first, h0]
  · rw [(eq_packSlot_iff _ r1).mp second, h1]

/-- Settles O2: the encoder packs the fields, the unpacker cuts them out again, and each table of codes is one to one. -/
theorem encodedWordsDecodeToThemselves : Obligations.EncodedWordsDecodeToThemselves := by
  unfold Obligations.EncodedWordsDecodeToThemselves
  intro d wf
  cases d with
  | full seam g i =>
    obtain ⟨legal, long⟩ := Bool.and_eq_true_iff.mp wf
    obtain ⟨form, ok⟩ := passes_of_wf legal
    obtain ⟨F, fields, instr⟩ := exists_fieldsOf form ok (Bool.not_eq_true' _ ▸ long)
    exact ⟨_, by rw [encode, fields, Option.map_some], decode_packFull instr form⟩
  | pair seam g0 i0 g1 i1 =>
    simp only [DWord.wf, Bool.and_eq_true] at wf
    obtain ⟨⟨⟨⟨⟨⟨legal0, legal1⟩, short0⟩, short1⟩, cond0⟩, cond1⟩, pair⟩ := wf
    obtain ⟨sop0, f0, h0⟩ := sopOf_of_isShort short0
    obtain ⟨sop1, f1, h1⟩ := sopOf_of_isShort short1
    exact ⟨_, by rw [encode, encodeSlot, encodeSlot, h0, h1]; rfl,
      decode_pairWord (slotInstr_rawSlot h0 (passes_of_wf legal0).1 cond0) (slotInstr_rawSlot h1 (passes_of_wf legal1).1 cond1) pair⟩

/-- R75: a slot that decodes holds the bits of what it decodes to. -/
theorem encodeSlot_of_slotInstr {x : BitVec 30} {g : Guard} {i : Instr} (h : slotInstr (unpackSlot x) = some (g, i)) :
    encodeSlot g i = some x := by
  obtain ⟨sop, f, code, fields⟩ := rawSlot_of_slotInstr h
  rw [encodeSlot, code, Option.map_some, fields, ← (eq_packSlot_iff x _).mpr rfl]

/-- Settles O3: every field that the decoder reads is determined by what it gives, and the fields make up the word. -/
theorem decodedWordsEncodeToThemselves : Obligations.DecodedWordsEncodeToThemselves := by
  unfold Obligations.DecodedWordsEncodeToThemselves
  intro w d h
  unfold decode at h
  split at h
  case isTrue paired =>
    obtain ⟨seam, g0, i0, g1, i1, rfl, hseam, h0, h1, low, -⟩ := (decodePair_eq_ok_iff w d).mp h
    rw [encode, encodeSlot_of_slotInstr h0, encodeSlot_of_slotInstr h1]
    exact congrArg some ((eq_pairWord_iff w _ _ _).mpr ⟨paired, (seamField_iff _ seam).mp hseam, rfl, rfl, low⟩).symm
  case isFalse full =>
    obtain ⟨seam, g, i, rfl, hseam, hguard, hinstr, -⟩ := (decodeFull_eq_ok_iff _ d).mp h
    have word : w = packFull (unpackFull w) := (eq_packFull_iff w _).mpr ⟨Bool.eq_false_iff.mpr full, rfl⟩
    obtain ⟨hk, hc⟩ := (guardOf_eq_some_iff _ _ g).mp hguard
    rw [encode, fieldsOf_of_instrOf hinstr, Option.map_some, ← (seamField_iff _ seam).mp hseam, ← hk, ← hc]
    exact congrArg some word.symm

end Sys2Proof
end

section
/-! PROOFS. Reserved fields, and the words that the manual writes out. O4 and O1. -/
namespace Sys2Proof
open Sys2Proof.Machine Sys2Proof.Laws

/-! ### Reserved fields, and the words of the manual (R64 to R78) -/

/-- R64: SEAM 11 is reserved, whatever the rest of the word holds. -/
theorem decode_of_reservedSeam {w : W64} (h : w.extractLsb' 61 2 = 3#2) : decode w = .error .illegalSeam := by
  have none : seamOf (w.extractLsb' 61 2).toNat = none := by rw [h]; rfl
  have full : seamOf (unpackFull w).seam.toNat = Option.none := none
  unfold decode
  split
  · rw [decodePair, none]
  · rw [decodeFull, full]

/-- R64: every other seam has a meaning. -/
theorem seamOf_of_ne_three {x : BitVec 2} (h : x ≠ 3#2) : ∃ z, seamOf x.toNat = some z := by
  have isSome : ∀ x : BitVec 2, x ≠ 3#2 → (seamOf x.toNat).isSome := by decide
  exact Option.isSome_iff_exists.mp (isSome x h)

/-- R78: a full word without a guard or without an instruction is an illegal one. -/
theorem decodeFull_eq_illegal {r : RawFull} (seam : r.seam ≠ 3#2) (h : guardOf r.ksel r.cond = none ∨ instrOf r.f = none) :
    decodeFull r = .error .illegalInstruction := by
  obtain ⟨z, known⟩ := seamOf_of_ne_three seam
  rw [decodeFull, known]
  obtain guard | instr := h
  · rw [guard]
  · rw [instr]
    cases guardOf r.ksel r.cond <;> rfl

/-- R68: RND 6 and 7 are reserved in the RRR format. -/
theorem rrrOf_eq_none {F : Fields} (h : 6#3 ≤ F.md.extractLsb' 4 3) : rrrOf F = none := by
  have none : rndField (F.md.extractLsb' 4 3).toNat = none := by
    generalize F.md.extractLsb' 4 3 = x at h ⊢
    revert x; decide
  rw [rrrOf, none]
  cases tyOf (F.md.extractLsb' 7 5).toNat <;> rfl

/-- R68, R74: so no word of an RRR opcode with such a mode is an instruction. -/
theorem instrOf_eq_none {F : Fields}
    (rrr : F.opc.toNat ≤ 0x0E ∨ (0x11 ≤ F.opc.toNat ∧ F.opc.toNat ≤ 0x13) ∨ (0x30 ≤ F.opc.toNat ∧ F.opc.toNat ≤ 0x57))
    (rnd : 6#3 ≤ F.md.extractLsb' 4 3) : instrOf F = none := by
  have notRI : ¬(F.opc.toNat = 0x0F ∨ F.opc.toNat = 0x10 ∨ (0x14 ≤ F.opc.toNat ∧ F.opc.toNat ≤ 0x1D)) := by omega
  have notJ : ¬(0x28 ≤ F.opc.toNat ∧ F.opc.toNat ≤ 0x2F) := by omega
  have low : F.opc.toNat < 0x58 := by omega
  simp only [instrOf, rrrOf_eq_none rnd, notRI, notJ, low, ↓reduceIte, Option.bind_none, ite_self]

/-- Settles O4: a reserved field has no meaning in its own table, and `decode` asks the seam first. -/
theorem reservedFieldsAreRefused : Obligations.ReservedFieldsAreRefused := by
  unfold Obligations.ReservedFieldsAreRefused
  refine fun w => ⟨decode_of_reservedSeam, fun full seam cond => ?_, fun full seam rrr rnd => ?_, fun paired seam bit => ?_⟩
  · have guard : guardOf (unpackFull w).ksel (unpackFull w).cond = none := dif_neg (cond ▸ by decide : ¬(w.extractLsb' 55 4).toNat < 15)
    rw [decode, if_neg (Bool.eq_false_iff.mp full), decodeFull_eq_illegal seam (.inl guard)]
  · have rnd' : 6#3 ≤ (unpackFull w).f.md.extractLsb' 4 3 := by
      rwa [unpackFull, BitVec.extractLsb'_extractLsb'_of_le (by decide)]
    rw [decode, if_neg (Bool.eq_false_iff.mp full), decodeFull_eq_illegal seam (.inr (instrOf_eq_none rrr rnd'))]
  · obtain ⟨z, known⟩ := seamOf_of_ne_three seam
    rw [decode, if_pos paired, decodePair, known]
    simp only [bit, Bool.true_eq_false, false_and, ↓reduceIte]
    split <;> rfl

/-- Settles O1: the decoder evaluated on each word. -/
theorem wordsOfTheManualDecode : Obligations.WordsOfTheManualDecode := by
  unfold Obligations.WordsOfTheManualDecode
  exact ⟨rfl, rfl, rfl, rfl, rfl, rfl, rfl, rfl, rfl, rfl, rfl, rfl, rfl, rfl, rfl, rfl, rfl, rfl, rfl, rfl, rfl, rfl, rfl⟩

end Sys2Proof
end

section
/-! PROOFS. The short instructions of paired words (R77), as lane operations on 32-bit vectors. O13. -/
namespace Sys2Proof.Machine
open Sys2Proof.Laws Sys2Proof.Claim

/-! ### A word of lanes completes (R66, R176) -/

/-- The gang of a word that faults: the lanes are parked there, and the record is held back with the run. -/
def Gang.faulted (g : Gang) (pc : W64) (lanes : LaneMask) (req : FaultReq) : Gang :=
  ({ g with regs := (lanesOf lanes).foldl (fun r i => r.modLane i (fun l => { l with status := .parked, pc := pc })) g.regs }).hold
    pc (.fault req)

theorem takeFault_of_gang? {s : State} {g : Gang} (here : s.gang? s.cx.gang = some g) (l : LaneMask) (c d : Nat) (a : W64) :
    takeFault s l c d a = { s.onIssuer (fun h => h.faulted s.cx.pc l (faultFor s g c d s.cx.pc a l)) with
      cx := { s.cx with parked := s.cx.parked ||| l } } := by
  simp only [takeFault, here]
  rfl

/-- The word being issued keeps its place, and its gang stays resident. -/
theorem gang?_takeFault {s : State} {g : Gang} (here : s.gang? s.cx.gang = some g) (l : LaneMask) (c d : Nat) (a : W64) :
    (takeFault s l c d a).gang? s.cx.gang = some (g.faulted s.cx.pc l (faultFor s g c d s.cx.pc a l)) := by
  rw [takeFault_of_gang? here]
  exact (gang?_modGang_self s s.cx.gang (fun h => h.faulted s.cx.pc l (faultFor s g c d s.cx.pc a l)) (fun h => hold_uid _ _ _)).trans
    (congrArg (Option.map _) here)

theorem gang?_takeFaults {s : State} {g : Gang} (here : s.gang? s.cx.gang = some g) (fs : List LaneFault) :
    ∃ g1, (takeFaults s fs).gang? s.cx.gang = some g1 ∧ (takeFaults s fs).cx.gang = s.cx.gang := by
  unfold takeFaults
  cases lowestFault fs with
  | none => exact ⟨g, here, rfl⟩
  | some f => exact ⟨_, gang?_takeFault here .., congrArg (fun t => t.cx.gang) (takeFault_of_gang? here ..)⟩

/-- A lane operation for a resident gang: the faulting lanes park, then the others compute. -/
theorem runLanes_eq_laneState {sh : OpShape} {f : LaneIn → LaneOut} {s : State} {g : Gang} (here : s.gang? s.cx.gang = some g) :
    ∃ g1, (takeFaults s (sh.faults g (lanesOf s.act))).gang? s.cx.gang = some g1 ∧
      runLanes sh f s = laneState sh f (takeFaults s (sh.faults g (lanesOf s.act))) g1 := by
  obtain ⟨g1, still, place⟩ := gang?_takeFaults here (sh.faults g (lanesOf s.act))
  refine ⟨g1, still, ?_⟩
  simp only [runLanes, laneState, here, place, still, List.isEmpty_iff]

theorem answers_of_runLanes {i : Instr} {sh : OpShape} {f : LaneIn → LaneOut} (h : ∀ s, exec i s = .next (runLanes sh f s)) :
    Answers i sh f := by
  intro s g here
  obtain ⟨g1, still, eq⟩ := runLanes_eq_laneState (sh := sh) (f := f) here
  exact ⟨g1, still, by rw [h, eq]⟩

/-! ### Integer results as bit vectors (R87, R95 to R98) -/

theorem lowOf_eq_val (t : Ty) (x : Nat) : lowOf t x = (val t x).toNat := (BitVec.toNat_ofNat x _).symm

theorem aluAdd_r (t : Ty) (a b : Nat) (z : Bool) : (aluAdd t a b false z).r = (val t a + val t b).toNat := by
  simp [aluAdd, lowOf_eq_val, BitVec.toNat_add]

/-- R87, R95: a difference wraps as that of bit vectors does. -/
theorem wrapInt_sub (t : Ty) (a b : Nat) : wrapInt ((lowOf t a : Int) - (lowOf t b : Int)) (tyWidth t) = (val t a - val t b).toNat := by
  rw [wrapInt_eq_toNat_ofInt, lowOf_eq_val, lowOf_eq_val, sub_eq_add_neg, BitVec.ofInt_add, BitVec.ofInt_neg, BitVec.sub_eq_add_neg]
  simp

theorem aluSub_r (t : Ty) (a b : Nat) (z : Bool) : (aluSub t a b true z).r = (val t a - val t b).toNat := by
  simp [aluSub, wrapInt_sub]

theorem fitted_false (t : Ty) (x : Int) : fitted t false x = (BitVec.ofInt (tyWidth t) x).toNat := wrapInt_eq_toNat_ofInt x _

/-- R98: the product's low bits do not depend on the signedness. -/
theorem ofInt_extOf (t : Ty) (x : Nat) : BitVec.ofInt (tyWidth t) (extOf t x) = val t x := by
  rw [extOf_eq_num, num]
  split <;> simp

theorem aluMul_r (t : Ty) (a b : Nat) : (aluMul t false a b).r = (val t a * val t b).toNat := by
  simp only [aluMul, iresOf, fitted_false, BitVec.ofInt_mul, ofInt_extOf]

theorem aluMin_r (t : Ty) (a b : Nat) :
    (aluMin t a b).r = (if num t (val t b) < num t (val t a) then val t b else val t a).toNat := by
  simp only [aluMin, iresOf, lowOf_eq_val, extOf_eq_num]
  split <;> rfl

theorem aluMax_r (t : Ty) (a b : Nat) :
    (aluMax t a b).r = (if num t (val t a) < num t (val t b) then val t b else val t a).toNat := by
  simp only [aluMax, iresOf, lowOf_eq_val, extOf_eq_num]
  split <;> rfl

/-- R93: S is the top bit. -/
theorem bitsOf_top {w : Nat} (x : BitVec w) : (bitsOf x.toNat (w - 1) (w - 1) == 1) = x.msb := by
  have one : w - 1 + 1 - (w - 1) = 1 := by omega
  rw [bitsOf, one, BitVec.msb_eq_getLsbD_last, BitVec.getLsbD, Nat.testBit_eq_decide_div_mod_eq, Nat.shiftRight_eq_div_pow, pow_one]
  rfl

theorem iresOf_toNat {w : Nat} (x : BitVec w) (c v : Bool) : iresOf w x.toNat c v = ⟨x.toNat, ⟨x.msb, x == 0, c, v⟩⟩ := by
  have zero : (x.toNat == 0) = (x == 0) := by
    rw [Bool.eq_iff_iff, beq_iff_eq, beq_iff_eq, ← BitVec.toNat_inj]; rfl
  rw [iresOf, bitsOf_top, zero]

theorem aluSub_k (t : Ty) (a b : Nat) : (aluSub t a b true true).k = (subFlags t a b true true).2 := by
  have top := congrArg IRes.k (iresOf_toNat (val t a - val t b) false false)
  simp only [iresOf, Flags.mk.injEq] at top
  obtain ⟨sign, zero, -⟩ := top
  have pow : ((2 ^ (tyWidth t - 1) : Nat) : Int) = 2 ^ (tyWidth t - 1) := by norm_cast
  simp only [aluSub, subFlags, ↓reduceIte, sub_zero, wrapInt_sub, sign, zero, Flags.mk.injEq]
  simp only [lowOf_eq_val, signExt_eq_toInt, pow]
  refine ⟨by simp, by simp, by simp, ?_⟩
  simp [val]

theorem aluTst_k (t : Ty) (a b : Nat) : (aluTst t a b).k =
    ⟨(val t a &&& val t b).msb, val t a &&& val t b == 0, false, false⟩ := by
  have and : lowOf t a &&& lowOf t b = (val t a &&& val t b).toNat := by rw [lowOf_eq_val, lowOf_eq_val, BitVec.toNat_and]
  rw [aluTst, aluLogic]
  simp only [and, iresOf_toNat]

/-! ### The short instructions (R75, R77) -/

/-- R77: a slot's immediate, sign-extended to 32 bits. -/
theorem slotImm_eq (x : BitVec 8) : slotImm x = (x.signExtend 32).toNat := wrapInt_eq_toNat_ofInt x.toInt 32

theorem slotShape_eq_pairShape (f : Slot) (d : Opd) (float : Bool) (lat : Nat) : slotShape f d float lat = pairShape f d float lat := by
  unfold slotShape pairShape
  cases f.s with
  | imm x => simp only [slotImm_eq]; rfl
  | _ => rfl

theorem answers_slotLanes {i : Instr} {f : Slot} {d : Opd} {float : Bool} {lat : Nat} {out : LaneIn → LaneOut}
    (h : ∀ s, exec i s = .next (runLanes (slotShape f d float lat) out s)) : Answers i (pairShape f d float lat) out :=
  answers_of_runLanes fun s => by rw [h, slotShape_eq_pairShape]

/-- An integer slot whose function on numbers is `op` on their low 32 bits. -/
theorem answers_slotInt {i : Instr} {f : Slot} {lat : Nat} {fn : Nat → Nat → Nat} {op : BitVec 32 → BitVec 32 → BitVec 32}
    (same : ∀ a b, fn a b = (op (BitVec.ofNat 32 a) (BitVec.ofNat 32 b)).toNat) (h : ∀ s, exec i s = slotInt f lat fn s) :
    Answers i (pairShape f (sdstOpd f.d) false lat) (Claim.pairOp op) := by
  have outs : (fun i : LaneIn => valOut (fn i.a i.b)) = Claim.pairOp op := funext fun i => by rw [same]; rfl
  exact outs ▸ answers_slotLanes h

theorem slotMode_eq (f : Slot) (i : LaneIn) :
    slotMode f i = if f.qual = 1 then .rne else if f.qual = 2 then .rtz else fsrRm i.fsr := by
  obtain ⟨d, s, qual⟩ := f
  fin_cases qual <;> rfl

theorem slotVal_eq (i : LaneIn) (x : Nat) : slotVal i x = fvalue (fmtOf .f32) (fsrDaz i.fsr) (val .f32 x).toNat := by
  rw [val, BitVec.toNat_ofNat]; rfl

theorem answers_slotFloat {i : Instr} {f : Slot} {op : Rnd → FVal → FVal → FVal × FFlags} (h : ∀ s, exec i s = slotFloat f op s) :
    Answers i (pairShape f (sdstOpd f.d) true 4) (pairFloat f op) := by
  refine answers_slotLanes fun s => ?_
  rw [h, slotFloat]
  simp only [slotMode_eq, slotVal_eq]
  rfl

/-- R77: a compare slot gives flags alone. -/
theorem answers_slotFlags {i : Instr} {f : Slot} {float : Bool} {lat : Nat} {op out : LaneIn → LaneOut}
    (h : ∀ s, exec i s = slotFlags f float lat op s) (same : ∀ i, op i = out i) : Answers i (pairShape f (pairCmp f) float lat) out :=
  funext same ▸ answers_slotLanes h

/-- R77: a shift's amount, S mod 32. -/
theorem toNat_ofNat_mod (b : Nat) : (BitVec.ofNat 32 b).toNat % 32 = b % 32 := by
  rw [BitVec.toNat_ofNat]; omega

theorem toNat_shiftLeft_mod (a b : Nat) :
    a * 2 ^ (b % 32) % 2 ^ 32 = (BitVec.ofNat 32 a <<< ((BitVec.ofNat 32 b).toNat % 32)).toNat := by
  rw [BitVec.toNat_shiftLeft, toNat_ofNat_mod, BitVec.toNat_ofNat, Nat.shiftLeft_eq, Nat.mod_mul_mod]

theorem toNat_ushiftRight_mod (a b : Nat) :
    a % 2 ^ 32 / 2 ^ (b % 32) = (BitVec.ofNat 32 a >>> ((BitVec.ofNat 32 b).toNat % 32)).toNat := by
  rw [BitVec.toNat_ushiftRight, toNat_ofNat_mod, BitVec.toNat_ofNat, Nat.shiftRight_eq_div_pow]

theorem wrapInt_sshiftRight_mod (a b : Nat) : wrapInt (signExt a 32 / ((2 ^ (b % 32) : Nat) : Int)) 32 =
    ((BitVec.ofNat 32 a).sshiftRight ((BitVec.ofNat 32 b).toNat % 32)).toNat := by
  rw [wrapInt_eq_toNat_ofInt, signExt_eq_toInt, BitVec.sshiftRight, toNat_ofNat_mod, Int.shiftRight_eq_div_pow]

/-- R77 ANDN: the complement on 32 bits. -/
theorem toNat_andn (a b : Nat) :
    Nat.land (a % 2 ^ 32) (2 ^ 32 - 1 - b % 2 ^ 32) = (BitVec.ofNat 32 a &&& ~~~BitVec.ofNat 32 b).toNat := by
  rw [BitVec.toNat_and, BitVec.toNat_not, BitVec.toNat_ofNat, BitVec.toNat_ofNat]; rfl

theorem aluMin_slot (p : Prop) [Decidable p] (a b : Nat) : (aluMin (if p then .i32 else .n32) a b).r =
    (if (if p then (BitVec.ofNat 32 b).slt (BitVec.ofNat 32 a) else (BitVec.ofNat 32 b).ult (BitVec.ofNat 32 a)) then BitVec.ofNat 32 b
      else BitVec.ofNat 32 a).toNat := by
  by_cases h : p
  · simp only [h, ↓reduceIte, aluMin_r, BitVec.slt, decide_eq_true_eq]; rfl
  · simp only [h, ↓reduceIte, aluMin_r, BitVec.ult, decide_eq_true_eq, ← Nat.cast_lt (α := Int)]; rfl

theorem aluMax_slot (p : Prop) [Decidable p] (a b : Nat) : (aluMax (if p then .i32 else .n32) a b).r =
    (if (if p then (BitVec.ofNat 32 a).slt (BitVec.ofNat 32 b) else (BitVec.ofNat 32 a).ult (BitVec.ofNat 32 b)) then BitVec.ofNat 32 b
      else BitVec.ofNat 32 a).toNat := by
  by_cases h : p
  · simp only [h, ↓reduceIte, aluMax_r, BitVec.slt, decide_eq_true_eq]; rfl
  · simp only [h, ↓reduceIte, aluMax_r, BitVec.ult, decide_eq_true_eq, ← Nat.cast_lt (α := Int)]; rfl

/-- R77 MOV: D is written and not read. -/
theorem answers_pairedMov (f : Slot) :
    Answers (.pairedMov f) { pairShape f (sdstOpd f.d) false 1 with a := .none } (Claim.pairOp (fun _ y => y)) := by
  have outs : (fun i : LaneIn => valOut (i.b % 2 ^ 32)) = Claim.pairOp (fun _ y => y) :=
    funext fun i => congrArg valOut (BitVec.toNat_ofNat i.b 32).symm
  refine answers_of_runLanes fun s => ?_
  change execPairedMov f s = _
  rw [execPairedMov, slotShape_eq_pairShape, outs]

/-- Settles O13: each short instruction is a lane operation, on numbers that agree with 32-bit vectors. -/
theorem shortInstructionsAnswer : Obligations.ShortInstructionsAnswer := by
  unfold Obligations.ShortInstructionsAnswer
  intro f
  refine ⟨?nop, ?iadd, ?isub, ?imul, ?imin, ?imax, ?and, ?or, ?xor, ?andn, ?shl, ?shr, ?sar, answers_pairedMov f, ?cmp, ?tst, ?fadd, ?fsub, ?fmul,
    ?fmin, ?fmax, ?fcmp⟩
  case nop => exact fun _ => rfl
  case iadd => exact answers_slotInt (aluAdd_r .i32 · · true) (fun _ => rfl)
  case isub => exact answers_slotInt (aluSub_r .i32 · · true) (fun _ => rfl)
  case imul => exact answers_slotInt (aluMul_r .i32) (fun _ => rfl)
  case imin => exact answers_slotInt (aluMin_slot (f.qual = 0)) (fun _ => rfl)
  case imax => exact answers_slotInt (aluMax_slot (f.qual = 0)) (fun _ => rfl)
  case and => exact answers_slotInt (fun a b => congrArg BitVec.toNat (BitVec.ofNat_and (x := a) (y := b))) (fun _ => rfl)
  case or => exact answers_slotInt (fun a b => congrArg BitVec.toNat (BitVec.ofNat_or (x := a) (y := b))) (fun _ => rfl)
  case xor => exact answers_slotInt (fun a b => congrArg BitVec.toNat (BitVec.ofNat_xor (x := a) (y := b))) (fun _ => rfl)
  case andn => exact answers_slotInt toNat_andn (fun _ => rfl)
  case shl => exact answers_slotInt toNat_shiftLeft_mod (fun _ => rfl)
  case shr => exact answers_slotInt toNat_ushiftRight_mod (fun _ => rfl)
  case sar => exact answers_slotInt wrapInt_sshiftRight_mod (fun _ => rfl)
  case cmp => exact answers_slotFlags (fun _ => rfl) (fun i => congrArg code (aluSub_k .i32 i.a i.b))
  case tst => exact answers_slotFlags (fun _ => rfl) (fun i => congrArg code (aluTst_k .i32 i.a i.b))
  case fadd => exact answers_slotFloat (fun _ => rfl)
  case fsub => exact answers_slotFloat (fun _ => rfl)
  case fmul => exact answers_slotFloat (fun _ => rfl)
  case fmin => exact answers_slotLanes (fun _ => rfl)
  case fmax => exact answers_slotLanes (fun _ => rfl)
  case fcmp => exact answers_slotFlags (fun _ => rfl) (fun i => by simp only [slotVal_eq])

end Sys2Proof.Machine
end

section
/-! PROOFS. The frame of the words of lanes (R80, R176). O14. -/
namespace Sys2Proof.Machine
open Sys2Proof.Laws Sys2Proof.Claim

/-! ### The frame of the words of lanes (R80, R176) -/

/-- The registers of a gang are as before: the scalars, `%sfsr`, the overlay, and what each lane holds. -/
def keepsRegs (r r' : GangRegs) : Prop :=
  r'.s = r.s ∧ r'.sfsr = r.sfsr ∧ r'.overlay = r.overlay ∧ ∀ j, sameRegs (r.lane j) (r'.lane j)

theorem keepsRegs_refl (r : GangRegs) : keepsRegs r r := ⟨rfl, rfl, rfl, fun _ => sameRegs_refl _⟩

theorem keepsRegs_of_eq {r r' : GangRegs} (h : r' = r) : keepsRegs r r' := h ▸ keepsRegs_refl r

theorem keepsRegs_trans {a b c : GangRegs} (h : keepsRegs a b) (h' : keepsRegs b c) : keepsRegs a c := by
  obtain ⟨s, sfsr, overlay, lanes⟩ := h
  obtain ⟨s', sfsr', overlay', lanes'⟩ := h'
  exact ⟨s'.trans s, sfsr'.trans sfsr, overlay'.trans overlay, fun j => sameRegs_trans (lanes j) (lanes' j)⟩

theorem keepsRegs_modLane {f : Lane → Lane} (h : ∀ l, sameRegs l (f l)) (r : GangRegs) (i : Nat) : keepsRegs r (r.modLane i f) := by
  refine ⟨rfl, rfl, rfl, fun j => ?_⟩
  rw [lane_modLane]
  split
  · exact h _
  · exact sameRegs_refl _

theorem keepsRegs_foldl {A B : Type} (p : A → GangRegs) {f : A → B → A} (h : ∀ a x, keepsRegs (p a) (p (f a x))) (xs : List B) (a : A) :
    keepsRegs (p a) (p (xs.foldl f a)) := by
  induction xs generalizing a with
  | nil => exact keepsRegs_refl _
  | cons x xs ih => exact keepsRegs_trans (h a x) (ih _)

theorem sameRegs_foldl {B : Type} {f : Lane → B → Lane} (h : ∀ l x, sameRegs l (f l x)) (xs : List B) (l : Lane) :
    sameRegs l (xs.foldl f l) := by
  induction xs generalizing l with
  | nil => exact sameRegs_refl l
  | cons x xs ih => exact sameRegs_trans (h l x) (ih _)

/-- R173: the places of its ports are no registers of a lane. -/
theorem keepsRegs_advancePorts (g : Gang) (i : Nat) (ps : List Nat) : keepsRegs g.regs (g.advancePorts i ps).regs := by
  refine keepsRegs_modLane (fun l => sameRegs_foldl (fun l n => ?_) ps l) g.regs i
  cases l.port? n with
  | none => exact sameRegs_refl l
  | some p => exact ⟨rfl, rfl, rfl, rfl, rfl, rfl, rfl, rfl⟩

/-- R176: parking the lanes that fault changes no register. -/
theorem keepsRegs_faulted (g : Gang) (pc : W64) (l : LaneMask) (req : FaultReq) : keepsRegs g.regs (g.faulted pc l req).regs := by
  rw [Gang.faulted, hold_regs]
  refine keepsRegs_foldl id (f := fun r i => r.modLane i (fun l => { l with status := .parked, pc := pc })) (fun r i => ?_) _ _
  exact keepsRegs_modLane (f := fun l => { l with status := .parked, pc := pc }) (fun _ => ⟨rfl, rfl, rfl, rfl, rfl, rfl, rfl, rfl⟩) r i

/-- The word leaves the state as it is but for its own gang, whose registers it keeps, and the lanes that park. -/
structure LeavesRegs (s t : State) : Prop where
  rest : t = { s with gangs := t.gangs, cx := { s.cx with parked := t.cx.parked } }
  others : ∀ v, v ≠ s.cx.gang → t.gang? v = s.gang? v
  own : ∀ g, s.gang? s.cx.gang = some g → ∃ g', t.gang? s.cx.gang = some g' ∧ keepsRegs g.regs g'.regs

theorem LeavesRegs.refl (s : State) : LeavesRegs s s := ⟨rfl, fun _ _ => rfl, fun g here => ⟨g, here, keepsRegs_refl _⟩⟩

theorem LeavesRegs.place {s t : State} (h : LeavesRegs s t) : t.cx.gang = s.cx.gang := by rw [h.rest]

theorem LeavesRegs.trans {s t u : State} (h : LeavesRegs s t) (h' : LeavesRegs t u) : LeavesRegs s u := by
  refine ⟨?_, fun v hv => ?_, fun g here => ?_⟩
  · rw [h'.rest, h.rest]
  · rw [h'.others v (h.place ▸ hv), h.others v hv]
  · obtain ⟨g1, here1, keeps⟩ := h.own g here
    obtain ⟨g2, here2, keeps'⟩ := h'.own g1 (h.place ▸ here1)
    exact ⟨g2, h.place ▸ here2, keepsRegs_trans keeps keeps'⟩

theorem leavesRegs_onIssuer (s : State) {f : Gang → Gang} (uid : ∀ g, (f g).uid = g.uid) (keeps : ∀ g, keepsRegs g.regs (f g).regs) :
    LeavesRegs s (s.onIssuer f) := by
  refine ⟨rfl, fun v hv => gang?_modGang_ne s _ v f uid hv, fun g here => ⟨f g, ?_, keeps g⟩⟩
  rw [State.onIssuer, gang?_modGang_self s _ f uid, here, Option.map_some]

theorem leavesRegs_takeFault (s : State) (l : LaneMask) (c d : Nat) (a : W64) : LeavesRegs s (takeFault s l c d a) := by
  cases here : s.gang? s.cx.gang with
  | none =>
    rw [takeFault, here]
    exact .refl s
  | some g =>
    rw [takeFault_of_gang? here]
    obtain ⟨rest, others, own⟩ := leavesRegs_onIssuer s (f := fun h => h.faulted s.cx.pc l (faultFor s g c d s.cx.pc a l))
      (fun h => hold_uid _ _ _) (fun h => keepsRegs_faulted h _ _ _)
    exact ⟨rfl, others, own⟩

theorem leavesRegs_takeFaults (s : State) (fs : List LaneFault) : LeavesRegs s (takeFaults s fs) := by
  unfold takeFaults
  cases lowestFault fs with
  | none => exact .refl s
  | some f => exact leavesRegs_takeFault s ..

theorem leavesRegs_laneState (sh : OpShape) (f : LaneIn → LaneOut) (s : State) (g : Gang) : LeavesRegs s (laneState sh f s g) := by
  unfold laneState
  extract_lets c lanes who es
  split
  · exact .refl s
  · refine leavesRegs_onIssuer s (fun h => ?_) (fun h => ?_)
    · rw [foldl_keeps Gang.uid _ (fun _ _ => advancePorts_uid ..), (deliver_keeps ..).1]
    · exact keepsRegs_trans (keepsRegs_of_eq (deliver_keeps ..).2) (keepsRegs_foldl Gang.regs (fun _ _ => keepsRegs_advancePorts ..) _ _)

theorem leavesRegs_runLanes (sh : OpShape) (f : LaneIn → LaneOut) (s : State) : LeavesRegs s (runLanes sh f s) := by
  cases here : s.gang? s.cx.gang with
  | none =>
    rw [runLanes, here]
    exact .refl s
  | some g =>
    obtain ⟨g1, -, eq⟩ := runLanes_eq_laneState (sh := sh) (f := f) here
    rw [eq]
    exact (leavesRegs_takeFaults s _).trans (leavesRegs_laneState ..)

theorem leavesRegs_fssrGang (f : RRR) (s : State) : LeavesRegs s (fssrGang f s) := by
  unfold fssrGang
  obtain eq | ⟨g, -, -, eq⟩ := onceForGang_cases s _
  · rw [eq]
    exact .refl s
  · rw [eq]
    exact leavesRegs_onIssuer s (fun _ => (deliver_keeps ..).1) (fun _ => keepsRegs_of_eq (deliver_keeps ..).2)

theorem leavesRegs_fssrLanes (f : RRR) (s : State) : LeavesRegs s (fssrLanes f s) := by
  unfold fssrLanes
  dsimp only
  split
  · exact leavesRegs_runLanes ..
  · exact (leavesRegs_runLanes ..).trans (leavesRegs_onIssuer _ (fun _ => emit_uid ..) (fun _ => keepsRegs_of_eq (emit_regs ..)))

/-- R66, R77, R144, R145: every word of lanes is a lane operation, but for a short NOP and the two that move the status
registers. -/
theorem exec_of_laneWord {i : Instr} (h : laneWord i = true) (s : State) :
    (∃ sh f, exec i s = .next (runLanes sh f s)) ∨ (∃ f, i = .pairedNop f) ∨ (∃ f, i = .fgsr f) ∨ ∃ f, i = .fssr f := by
  cases i with
  | pairedNop f => exact .inr (.inl ⟨f, rfl⟩)
  | fgsr f => exact .inr (.inr (.inl ⟨f, rfl⟩))
  | fssr f => exact .inr (.inr (.inr ⟨f, rfl⟩))
  | iadd f | iaddc f | iadds f | isub f | isubb f | isubs f | ineg f | iabs f | imin f | imax f | imul f | imulh f
  | imad f | imadw f | idiv f | irem f | and f | or f | xor f | andn f | orn f | shl f | shr f | sar f | rol f | fshl f
  | fshr f | bfx f | bfxImm f | bfi f | brev f | popc f | clz f | ctz f | permb f | sext f | zext f | mov f | movi f
  | movh f | sel f | cmp f | cmpImm f | tst f | setk f | getk f | iaddImm f | andImm f | orImm f | xorImm f | shlImm f
  | shrImm f | sarImm f | imulImm f | fadd f | fsub f | fmul f | ffma f | ffma2 f | fmin f | fmax f | fminm f | fmaxm f
  | fabs f | fneg f | fcpys f | fcmp f | fclass f | fdiv f | fsqrt f | frcp f | frsq f | fex2 f | flg2 f | fsin f | fcos f
  | frint f | fscale f | fcvt f t | ftoi f t | itof f t | fdot4 f | qds8 f | pairedIadd f | pairedIsub f | pairedImul f
  | pairedImin f | pairedImax f | pairedAnd f | pairedOr f | pairedXor f | pairedAndn f | pairedShl f | pairedShr f
  | pairedSar f | pairedMov f | pairedCmp f | pairedTst f | pairedFadd f | pairedFsub f | pairedFmul f | pairedFmin f
  | pairedFmax f | pairedFcmp f => exact .inl ⟨_, _, rfl⟩
  | _ => exact Bool.noConfusion h

theorem leavesRegs_exec {i : Instr} {s t : State} (word : laneWord i = true) (h : exec i s = .next t) : LeavesRegs s t := by
  obtain ⟨sh, f, eq⟩ | ⟨f, rfl⟩ | ⟨f, rfl⟩ | ⟨f, rfl⟩ := exec_of_laneWord word s
  · cases eq.symm.trans h
    exact leavesRegs_runLanes ..
  · cases (rfl : exec (.pairedNop f) s = _).symm.trans h
    exact .refl s
  · cases (rfl : exec (.fgsr f) s = execFgsr f s).symm.trans h
    split
    · exact .refl s
    · exact leavesRegs_runLanes ..
  · cases (rfl : exec (.fssr f) s = execFssr f s).symm.trans h
    split
    · exact leavesRegs_fssrGang ..
    · exact leavesRegs_fssrLanes ..

/-- R80: no byte of any view depends on the gangs. -/
theorem LeavesRegs.viewByte {s t : State} (h : LeavesRegs s t) (view pa : Nat) : viewByte t view pa = viewByte s view pa := by
  rw [h.rest]
  exact viewByte_congr rfl (fun _ _ => rfl) rfl rfl view

/-- Settles O14: faults, deliveries and ports move on beside the registers, so each step of a lane operation keeps them. -/
theorem laneWordFrame : Obligations.LaneWordFrame := by
  unfold Obligations.LaneWordFrame
  intro i s t word h
  have frame := leavesRegs_exec word h
  refine ⟨⟨frame.rest, frame.others, fun view pa => frame.viewByte view pa⟩, fun g g' here here' => ?_⟩
  obtain ⟨g1, here1, keeps⟩ := frame.own g here
  cases here1.symm.trans here'
  exact keeps

end Sys2Proof.Machine
end

section
/-! PROOFS. A step that issues a word, full or paired (R64, R76, R80). O23. -/
namespace Sys2Proof.Machine
open Sys2Proof.Laws Sys2Proof.Claim

/-! ### A step that issues a word (R64, R80) -/

/-- Log 11: with nothing due first, a step issues the next word of the run on the partition in focus. -/
theorem step_of_issue {s : State} {core part : Nat} {g : Gang} (noWrite : s.regQ = []) (running : s.therm.shutdown = false)
    (noTurn : s.sched = []) (focus : s.focus = (core, part)) (here : issuingGang s core part = some g)
    (usable : partUsable s core part = true) : step s = issueWord exec core part s := by
  have same : { s with sched := s.sched.drop 1 } = s := by
    rw [noTurn]
    exact congrArg (fun l => { s with sched := l }) noTurn.symm
  have turn : (s.sched.head?).getD (.issue s.focus.1 s.focus.2) = .issue core part := by rw [noTurn, focus]; rfl
  unfold step takeTurn
  split
  next write => exact absurd (noWrite.symm.trans write) (List.cons_ne_nil _ _).symm
  next => simp only [turn, same, running, Bool.false_and, Bool.false_eq_true, runTurn, here, usable, ↓reduceIte]

/-- R80: the state in which a word of the gang `g` issues: its results due are visible, and no lane acts yet. -/
def wordState (s : State) (core part : Nat) (g : Gang) (r : RunIssue) : State :=
  { (useCycle (partTurn s core part) core part).modGang g.uid (fun _ => g) with
    cx := ⟨g.uid, wordAfter r.start r.idx, r.idx, r.clutch &&& ~~~r.gone, 0, false, 0, false⟩ }

/-- R80: a word that decodes and waits for no port issues; then the run goes on, or ends after its last word. -/
theorem issueWord_of_next {s : State} {core part : Nat} {g0 : Gang} {r : RunIssue} {d : DWord} (here : issuingGang s core part = some g0)
    (run : g0.issue = some r) (word : decode (r.words.getD r.idx 0) = .ok d) {g : Gang}
    (visible : g = (g0.settle r.idx).meet (r.clutch &&& ~~~r.gone) (wordAfter r.start r.idx))
    (ports : (usesPort d && portWaits g) = false) {s3 : State}
    (next : issueDecoded exec (wordState s core part g r) g (r.clutch &&& ~~~r.gone) d = .next s3) :
    issueWord exec core part s = .next { (if s3.cx.stall then s3 else afterWord s3 g d.seam) with cx := Cx.idle } := by
  subst visible
  unfold issueWord
  simp only [here, run, word]
  rw [if_neg (Bool.eq_false_iff.mp ports)]
  split
  next s3' eq => cases next.symm.trans eq; rfl
  next other => exact absurd next (other s3)

theorem stepRunsOneWord : Claim.stepRunsOneWord := by
  intro s core part g0 r seam gd i noWrite running noTurn focus here usable run word pc lanes g ports s2 s3 next
  rw [step_of_issue noWrite running noTurn focus here usable]
  exact issueWord_of_next here run word rfl ports next

/-- R75, R76: both slots of a pair, the first slot's first. -/
theorem issueDecoded_pair {s : State} {g : Gang} {lanes : LaneMask} {seam : Seam} {g0 g1 : Guard} {i0 i1 : Instr}
    {s2 s3 : State} (first : let s1 := takeFaults { s with cx := { s.cx with act := guardLanes g lanes g1 } } (slotFaults g (guardLanes g lanes g1) i1)
      exec i0 { s1 with cx := { s1.cx with act := guardLanes g lanes g0 } } = .next s2)
    (second : exec i1 { s2 with cx := { s2.cx with act := guardLanes g lanes g1 } } = .next s3) :
    issueDecoded exec s g lanes (.pair seam g0 i0 g1 i1) = .next s3 := by
  simp only [issueDecoded, first, second]

theorem stepRunsBothSlots : Claim.stepRunsBothSlots := by
  constructor
  · intro s core part g0 r seam ga gb ia ib noWrite running noTurn focus here usable run word pc lanes g ports s2 actb s3 s4 s5 first second
    rw [step_of_issue noWrite running noTurn focus here usable]
    exact issueWord_of_next here run word rfl ports (issueDecoded_pair first second)
  · intro s g lanes seam g0 g1 i0 i1 s2 s3 act1 s1 first second
    exact issueDecoded_pair first second

/-- Settles O23: a step issues a word, and issuing runs what the word decodes to. -/
theorem stepRunsTheDecodedWord : Obligations.StepRunsTheDecodedWord := ⟨stepRunsOneWord, stepRunsBothSlots⟩

end Sys2Proof.Machine
end

section
/-! PROOFS. A word of the gang whose guard holds in no lane (R66). O35. -/
namespace Sys2Proof.Machine
open Sys2Proof.Laws Sys2Proof.Claim

/-! ### A guard that holds in no lane (R66) -/

theorem onceForGang_of_not_acts {s : State} (idle : s.acts = false) (f : Gang → State → State) : onceForGang s f = s := by
  obtain same | ⟨g, -, acts, -⟩ := onceForGang_cases s f
  · exact same
  · exact absurd (idle.symm.trans acts) Bool.false_ne_true

/-- Settles O35: each of these words acts once for its gang, or not at all. -/
theorem guardFalseGangWordsDoNothing : Obligations.GuardFalseGangWordsDoNothing := by
  unfold Obligations.GuardFalseGangWordsDoNothing
  intro s f n sp cls pair idle i word
  have once : ∃ act, exec i s = .next (onceForGang s act) := by
    revert i
    simp only [List.forall_mem_cons, List.not_mem_nil, false_imp_iff, implies_true, and_true]
    constructorm* _ ∧ _
    all_goals exact ⟨_, rfl⟩
  obtain ⟨act, eq⟩ := once
  rw [eq, onceForGang_of_not_acts idle]

end Sys2Proof.Machine
end

section
/-! PROOFS. Release and quarantine (R202): what a release keeps, and where stores and fault records go. -/
namespace Sys2Proof.Machine
open Sys2Proof.Laws Sys2Proof.Claim

/-! ### Release (R202) -/

/-- Memory is as before, no fault record that was asked for is lost, and the gang `u` keeps its runs. -/
structure KeepsRuns (u : Nat) (s t : State) : Prop where
  mem : t.mem = s.mem
  faults : ∀ r ∈ s.faultQ, r ∈ t.faultQ
  runs : ∀ g, s.gang? u = some g → ∃ g', t.gang? u = some g' ∧ g'.runs = g.runs

theorem KeepsRuns.of_eq {u : Nat} {s t : State} (mem : t.mem = s.mem) (faults : t.faultQ = s.faultQ) (gangs : t.gangs = s.gangs) :
    KeepsRuns u s t :=
  ⟨mem, fun _ h => faults ▸ h, fun g here => ⟨g, by rw [State.gang?, gangs]; exact here, rfl⟩⟩

theorem KeepsRuns.refl (u : Nat) (s : State) : KeepsRuns u s s := .of_eq rfl rfl rfl

theorem KeepsRuns.trans {u : Nat} {a b c : State} (h : KeepsRuns u a b) (h' : KeepsRuns u b c) : KeepsRuns u a c := by
  refine ⟨h'.mem.trans h.mem, fun r hr => h'.faults r (h.faults r hr), fun g here => ?_⟩
  obtain ⟨g1, here1, runs1⟩ := h.runs g here
  obtain ⟨g2, here2, runs2⟩ := h'.runs g1 here1
  exact ⟨g2, here2, runs2.trans runs1⟩

theorem keepsRuns_modGang (u v : Nat) (s : State) {f : Gang → Gang} (uid : ∀ g, (f g).uid = g.uid) (runs : ∀ g, (f g).runs = g.runs) :
    KeepsRuns u s (s.modGang v f) := by
  refine ⟨rfl, fun _ h => h, fun g here => ?_⟩
  by_cases same : u = v
  · subst same
    exact ⟨f g, by rw [gang?_modGang_self s u f uid, here, Option.map_some], runs g⟩
  · exact ⟨g, by rw [gang?_modGang_ne s v u f uid same, here], rfl⟩

theorem keepsRuns_raiseFault (u : Nat) (s : State) (r : FaultReq) : KeepsRuns u s (raiseFault s r) :=
  ⟨rfl, fun _ h => List.mem_append_left _ h, fun g here => ⟨g, here, rfl⟩⟩

theorem keepsRuns_donateFault (u v : Nat) (s : State) : KeepsRuns u s (donateFault s v) := by
  unfold donateFault
  split
  · exact .refl u s
  · split
    · exact .refl u s
    · refine KeepsRuns.trans ?_ (keepsRuns_raiseFault ..)
      exact keepsRuns_modGang u v s (fun _ => rfl) (fun _ => rfl)

theorem keepsRuns_donatePlace (u v : Nat) (s : State) : KeepsRuns u s (donatePlace s v) := by
  have placed := keepsRuns_modGang u v s
    (f := fun g => { g with donation := g.donation.map (fun d => { d with placed := true }) }) (fun _ => rfl) (fun _ => rfl)
  unfold donatePlace
  dsimp only
  repeat' split
  · exact placed
  · exact placed
  · exact placed.trans (keepsRuns_donateFault ..)
  · exact placed
  · exact placed.trans ((keepsRuns_donateFault ..).trans (keepsRuns_donateFault ..))
  · exact placed

/-- R202: an item of a release stays, or it is done with and the gang keeps its runs. -/
theorem releaseOne_cases (u : Nat) (a : State × List HeldItem) (h : HeldItem) :
    releaseOne u a h = (a.1, a.2 ++ [h]) ∨ ∃ t, releaseOne u a h = (t, a.2) ∧ KeepsRuns u a.1 t := by
  unfold releaseOne
  dsimp only
  split
  case h_1 => exact .inl rfl
  case h_2 g here =>
    split
    case isTrue => exact .inl rfl
    case isFalse =>
      cases h.eff with
      | kick =>
        dsimp only
        split
        · exact .inl rfl
        · exact .inr ⟨_, rfl, .of_eq rfl rfl rfl⟩
      | fence oid =>
        dsimp only
        split
        · exact .inr ⟨_, rfl, keepsRuns_modGang u u a.1 (fun _ => rfl) (fun _ => rfl)⟩
        · exact .inl rfl
      | donate => exact .inr ⟨_, rfl, keepsRuns_donatePlace ..⟩
      | fault => exact .inr ⟨_, rfl, keepsRuns_raiseFault ..⟩
      | store | loc | atom | atoml | commons | pub | phase => exact .inl rfl
      | _ => exact .inr ⟨_, rfl, .of_eq rfl rfl rfl⟩

theorem releaseOne_store {u : Nat} {a : State × List HeldItem} {h : HeldItem} {cells : List StCell} {lane : Option Nat} {m : LaneMask}
    (store : h.eff = .store cells lane m) : releaseOne u a h = (a.1, a.2 ++ [h]) := by
  unfold releaseOne
  rw [store]
  dsimp only
  split
  · rfl
  · split <;> rfl

theorem releaseOne_fault {u : Nat} {a : State × List HeldItem} {h : HeldItem} {req : FaultReq} {g : Gang}
    (here : a.1.gang? u = some g) (free : ∀ e ∈ a.2, waitsBoundary e.eff = false) (fault : h.eff = .fault req) :
    releaseOne u a h = (raiseFault a.1 req, a.2) := by
  have none : a.2.any (fun e => waitsBoundary e.eff) = false := List.any_eq_false.mpr (fun e he => by simp [free e he])
  have own : waitsBoundary (.fault req) = false ∧ isArrival (.fault req) = false := ⟨rfl, rfl⟩
  simp only [releaseOne, here, none, fault, own, Bool.false_and, Bool.or_false, Bool.false_eq_true, ↓reduceIte]

theorem keepsRuns_release (u : Nat) (hs : List HeldItem) (a : State × List HeldItem) : KeepsRuns u a.1 (hs.foldl (releaseOne u) a).1 := by
  induction hs generalizing a with
  | nil => exact .refl u a.1
  | cons h hs ih =>
    refine KeepsRuns.trans ?_ (ih _)
    obtain eq | ⟨t, eq, keeps⟩ := releaseOne_cases u a h
    · rw [eq]
      exact .refl u a.1
    · rw [eq]
      exact keeps

/-- R202: an item that has stayed stays on. -/
theorem mem_release_of_mem (u : Nat) {e : HeldItem} (hs : List HeldItem) {a : State × List HeldItem} (kept : e ∈ a.2) :
    e ∈ (hs.foldl (releaseOne u) a).2 := by
  induction hs generalizing a with
  | nil => exact kept
  | cons h hs ih =>
    refine ih ?_
    obtain eq | ⟨t, eq, -⟩ := releaseOne_cases u a h
    · rw [eq]
      exact List.mem_append_left _ kept
    · rw [eq]
      exact kept

/-- R202: a store stays, ready for the store buffer. -/
theorem store_mem_release (u : Nat) {e : HeldItem} {cells : List StCell} {lane : Option Nat} {m : LaneMask} (store : e.eff = .store cells lane m)
    {hs : List HeldItem} (mem : e ∈ hs) (a : State × List HeldItem) : e ∈ (hs.foldl (releaseOne u) a).2 := by
  induction hs generalizing a with
  | nil => cases mem
  | cons h hs ih =>
    obtain rfl | rest := List.mem_cons.mp mem
    · refine mem_release_of_mem u hs ?_
      rw [releaseOne_store store]
      exact List.mem_append_right _ (List.mem_singleton_self e)
    · exact ih rest _

/-- R202, R297, R321: with no arrival or launch held back, a fault record goes to its area. -/
theorem fault_mem_release {u : Nat} {e : HeldItem} {req : FaultReq} (fault : e.eff = .fault req) {hs : List HeldItem} (mem : e ∈ hs)
    {a : State × List HeldItem} {g : Gang} (here : a.1.gang? u = some g) (free : ∀ x ∈ a.2 ++ hs, waitsBoundary x.eff = false) :
    req ∈ (hs.foldl (releaseOne u) a).1.faultQ := by
  induction hs generalizing a g with
  | nil => cases mem
  | cons h hs ih =>
    obtain rfl | rest := List.mem_cons.mp mem
    · refine (keepsRuns_release u hs _).faults _ ?_
      rw [releaseOne_fault here (fun x hx => free x (List.mem_append_left _ hx)) fault]
      exact List.mem_append_right _ (List.mem_singleton_self req)
    · rw [List.foldl_cons]
      obtain eq | ⟨t, eq, keeps⟩ := releaseOne_cases u a h
      · rw [eq]
        exact ih rest here (by simpa using free)
      · rw [eq]
        obtain ⟨g', here', -⟩ := keeps.runs g here
        exact ih rest here' (fun x hx => free x (by simp at hx ⊢; tauto))

/-- R202: what a release keeps of memory and the runs, and where the stores and the fault records of its items stand. -/
theorem releaseGang_spec {s : State} {u : Nat} {g : Gang} (here : s.gang? u = some g) :
    (releaseGang s u).mem = s.mem ∧
    gangIn (releaseGang s u) u (fun g' => g'.runs = g.runs ∧ ∀ h ∈ g.relq, ∀ cells lane m, h.eff = .store cells lane m → h ∈ g'.relq) ∧
    ((∀ h ∈ g.relq, waitsBoundary h.eff = false) → ∀ h ∈ g.relq, ∀ req, h.eff = .fault req → req ∈ (releaseGang s u).faultQ) := by
  have keeps := keepsRuns_release u g.relq (s, [])
  obtain ⟨g1, here1, runs⟩ := keeps.runs g here
  have eq : releaseGang s u = (g.relq.foldl (releaseOne u) (s, [])).1.modGang u (fun x => { x with relq := (g.relq.foldl (releaseOne u) (s, [])).2 }) := by
    rw [releaseGang, here]
  rw [eq]
  refine ⟨keeps.mem, gangIn_modGang here1 (fun _ => rfl) ⟨runs, fun h hh cells lane m store => ?_⟩, fun free h hh req fault => ?_⟩
  · exact store_mem_release u store hh _
  · exact fault_mem_release fault hh here free

/-! ### Quarantine (R202) -/

@[simp] theorem shedRun_uid (g : Gang) (r : RunRec) : (g.shedRun r).uid = g.uid := by
  unfold Gang.shedRun; dsimp only; split <;> rfl

@[simp] theorem shedRun_runs (g : Gang) (r : RunRec) : (g.shedRun r).runs = g.runs.drop 1 := by
  unfold Gang.shedRun; dsimp only; split <;> rfl

@[simp] theorem shedRun_relq (g : Gang) (r : RunRec) : (g.shedRun r).relq = g.relq ++ r.held := by
  unfold Gang.shedRun; dsimp only; split <;> rfl

theorem quarantineExit_early {s : State} {u : Nat} {g : Gang} {r : RunRec} (here : s.gang? u = some g) (first : g.runs.head? = some r)
    (early : s.cycle ≤ r.endCycle + 40) : exec (.quarantineExit u) s = .next s := by
  change Host.Outcome.next (leaveQuarantine s u) = _
  simp only [leaveQuarantine, here, first, quarantine, early, ↓reduceIte]

/-- R202: the state in which the oldest run has just left quarantine. -/
theorem quarantineExit_late {s : State} {u : Nat} {g : Gang} {r : RunRec} (here : s.gang? u = some g) (first : g.runs.head? = some r)
    (late : r.endCycle + 40 < s.cycle) : After (.quarantineExit u) s (fun t => t.mem = s.mem ∧
      gangIn t u (fun g' => g'.runs = g.runs.drop 1 ∧ ∀ h ∈ r.held, ∀ cells lane m, h.eff = .store cells lane m → h ∈ g'.relq) ∧
      ((∀ h ∈ g.relq ++ r.held, waitsBoundary h.eff = false) → ∀ h ∈ r.held, ∀ req, h.eff = .fault req → req ∈ t.faultQ)) := by
  let s1 := (s.modGang u (fun g => g.shedRun r)).modBlock g.block (fun b => b.exitLeaves (r.lastExit g (r.endCycle + quarantine + 1)))
  have here1 : s1.gang? u = some (g.shedRun r) := by
    rw [modBlock_gang?, gang?_modGang_self s u _ (fun x => shedRun_uid x r), here, Option.map_some]
  have eq : exec (.quarantineExit u) s = .next (releaseGang s1 u) := by
    change Host.Outcome.next (leaveQuarantine s u) = _
    simp only [leaveQuarantine, here, first, quarantine, Nat.not_le.mpr late, ↓reduceIte]
    rfl
  obtain ⟨mem, ⟨g', here', runs, stores⟩, faults⟩ := releaseGang_spec here1
  rw [shedRun_relq] at stores faults
  refine ⟨_, eq, mem, ⟨g', here', runs.trans (shedRun_runs g r), fun h hh => stores h (List.mem_append_right _ hh)⟩, fun free h hh => ?_⟩
  exact faults free h (List.mem_append_right _ hh)

end Sys2Proof.Machine
end

section
/-! PROOFS. Results that return by themselves (R82, R165, R167, R172, R365). -/
namespace Sys2Proof.Machine
open Sys2Proof.Laws Sys2Proof.Claim

/-! ### Results that return by themselves (R82, R172) -/

/-- The state after an outstanding result of the gang has come with these effects. -/
theorem after_arrive {s : State} {u i oid : Nat} {g : Gang} {es : List Eff} {f : Gang → List Eff} (here : s.gang? u = some g)
    (effs : f g = es) (eq : exec (.variableResultReturn u i) s = .next (s.modGang u (fun x => x.arrive oid (f x)))) :
    After (.variableResultReturn u i) s (fun t => t = { s with gangs := t.gangs } ∧ gangIn t u (fun g' => g' = { g with out := arrived g oid es })) :=
  ⟨_, eq, rfl, gangIn_modGang here (fun _ => rfl) (effs ▸ rfl)⟩

/-- R167: with nothing held back, a gang's own view of the scratchpad is the SRAM's. -/
theorem ldlEffs_of_nothing_held {s : State} {g : Gang} {b : Block} (block : s.blockOf g = some b) (relq : g.relq = []) (runs : g.runs = [])
    (idle : g.issue = none) (o : Outst) (r : LdlReq) :
    ldlEffs s g o r = loadEffs r.dst (r.lane.getD 0) o.ports o.ord r.size (scratchBytes b (b.posOf g.core) r.off (sizeBytes r.size)) := by
  have none : g.localWrites r.ord lastDue = [] := by simp only [Gang.localWrites, relq, runs, idle]; rfl
  simp only [ldlEffs, block, none]
  rfl

/-- R336: what the requests of a walk and of the leaf that it finds do. -/
theorem ownRead_askWalks_eq (s : State) (core : Nat) (tlb : Bool) (asid : Nat) (vas : List Nat) (cells : List Cell) :
    ∃ m q f, ownRead (askWalks s core tlb asid vas) core (some asid) cells = { s with motions := m, chanQ := q, free := f } := by
  obtain ⟨m, q, f, walk⟩ := askWalks_eq s core tlb asid vas
  rw [walk]
  exact ownRead_eq _ _ _ _

/-- R365: a page query asks for the bytes of its walk, then the result has come. -/
theorem after_pageQuery {s : State} {u i : Nat} {g : Gang} {o : Outst} {va : Nat} {dst : Opd} {b : Block} (here : s.gang? u = some g)
    (out : g.out[i]? = some o) (new : o.arrived = false) (kind : o.kind = .pgq va dst) (block : s.blockOf g = some b)
    (awake : queryAsleep s g.core b.asid va = false) : After (.variableResultReturn u i) s (fun t => unasked s t = { s with gangs := t.gangs } ∧
      gangIn t u (fun g' => g' = { g with out := arrived g o.id (gangEffs o.ord dst (pageQuery s g.core b.asid va)) })) := by
  have asid : gangAsid (s.blockOf g) = b.asid := by rw [block]; rfl
  obtain ⟨m, q, f, asks⟩ := ownRead_askWalks_eq s g.core true b.asid [va]
    (((queryLeaf s g.core b.asid va).map (fun l => physCells l.leafPa 16)).getD [])
  have eq : exec (.variableResultReturn u i) s = .next ({ s with motions := m, chanQ := q, free := f }.modGang u
      (fun x => x.arrive o.id (gangEffs o.ord dst (pageQuery s x.core b.asid va)))) := by
    change execVariableResultReturn u i s = _
    simp only [execVariableResultReturn, here, out, new, kind, asid, awake, Bool.false_eq_true, ↓reduceIte, asks]
  exact ⟨_, eq, rfl, gangIn_modGang here (fun _ => rfl) rfl⟩

theorem resultsReturn {s : State} {u i : Nat} {g : Gang} {o : Outst} (here : s.gang? u = some g) (out : g.out[i]? = some o)
    (new : o.arrived = false) :
    let comes := fun (es : List Eff) => After (.variableResultReturn u i) s (fun t =>
      t = { s with gangs := t.gangs } ∧ gangIn t u (fun g' => g' = { g with out := arrived g o.id es }))
    (o.kind = .value → comes []) ∧
    (o.kind = .afterQuar → g.runLive o.run = false → comes []) ∧
    (∀ r bs, o.kind = .load r → r.got = some bs → o.blocks = true → comes (if r.poison then [] else loadedEffs o r bs)) ∧
    (∀ r b, o.kind = .ldl r → s.blockOf g = some b → g.relq = [] → g.runs = [] → g.issue = none →
      comes (loadEffs r.dst (r.lane.getD 0) o.ports o.ord r.size (scratchBytes b (b.posOf g.core) r.off (sizeBytes r.size)))) := by
  refine ⟨fun kind => after_arrive here (f := fun _ => []) rfl ?value, fun kind past => after_arrive here (f := fun _ => []) rfl ?flags,
    fun r bs kind got blocks => after_arrive here (f := fun _ => if r.poison then [] else loadedEffs o r bs) rfl ?load,
    fun r b kind block relq runs idle => after_arrive here (f := fun x => ldlEffs s x o r) (ldlEffs_of_nothing_held block relq runs idle o r) ?ldl⟩
  all_goals change execVariableResultReturn u i s = _
  all_goals simp only [execVariableResultReturn, here, out, new, kind, Bool.false_eq_true, ↓reduceIte]
  case flags => simp only [past, Bool.false_eq_true, ↓reduceIte]
  case load => simp only [got, blocks, Bool.not_true, Bool.false_eq_true, ↓reduceIte]
  case ldl =>
    have none : g.heldItems ++ g.issue.elim [] (fun r => r.held) = [] := by simp only [Gang.heldItems, relq, runs, idle]; rfl
    simp only [none, List.any_nil, Bool.false_eq_true, ↓reduceIte]

end Sys2Proof.Machine
end

section
/-! PROOFS. A park seam (R82, R120, R173, R195), and the statement on quarantine, seams and returns. O37. -/
namespace Sys2Proof.Machine
open Sys2Proof.Laws Sys2Proof.Claim

/-! ### A park seam (R82, R120) -/

/-- Setting the gang `u` to what it is leaves it what the number names. -/
theorem gang?_modGang_const {s : State} {u : Nat} {g : Gang} (here : s.gang? u = some g) : (s.modGang u (fun _ => g)).gang? u = some g := by
  have uid : g.uid = u := by simpa using List.find?_some here
  unfold State.gang? at here
  unfold State.gang? State.modGang
  dsimp only
  revert here
  induction s.gangs with
  | nil => exact fun here => nomatch here
  | cons x l ih =>
    intro here
    by_cases h : x.uid = u
    · simp [h, uid]
    · rw [List.find?_cons_of_neg (by simpa using h)] at here
      rw [List.map_cons, if_neg h, List.find?_cons_of_neg (by simpa using h), ih here]

theorem status_apply (r : GangRegs) (e : Eff) (i : Nat) : ((r.apply e).lane i).status = (r.lane i).status := by
  cases e with
  | s | c | sfsrOr | sfsrSet | loc => rfl
  | v | fsrOr | fsrSet | mr | port =>
    rw [GangRegs.apply, lane_modLane]
    split <;> rfl
  | k l n f =>
    rw [GangRegs.apply, lane_modLane]
    split
    · fin_cases n <;> rfl
    · rfl

theorem status_foldl_apply (es : List Eff) (r : GangRegs) (i : Nat) : ((es.foldl GangRegs.apply r).lane i).status = (r.lane i).status :=
  foldl_keeps (fun r => (r.lane i).status) GangRegs.apply (fun r e => status_apply r e i) es r

/-- R120: which of a result's effects its gang takes depends on the statuses of its lanes alone. -/
theorem liveEffs_congr {g g' : Gang} (status : ∀ i, (g'.regs.lane i).status = (g.regs.lane i).status) (es : List Eff) :
    g'.liveEffs es = g.liveEffs es := by
  simp only [Gang.liveEffs, status]

/-- R195: so it is with the commons writes, the core's arbiter and the gang's number being the same. -/
theorem commonsDone_congr {s s' : State} {g g' : Gang} (cores : s'.cores = s.cores) (core : g'.core = g.core) (uid : g'.uid = g.uid)
    (o : Outst) (e : Eff) : commonsDone s' g' o e = commonsDone s g o e := by
  cases e with
  | c => simp only [commonsDone, State.core, cores, core, uid]
  | _ => rfl

theorem holdLate_frame (g : Gang) (run : Nat) (h : HeldItem) :
    ∃ runs relq, g.holdLate run h = { g with runs := runs, relq := relq } := by
  unfold Gang.holdLate
  split
  · exact ⟨_, g.relq, rfl⟩
  · exact ⟨g.runs, _, rfl⟩

/-- R173: what goes through a write port changes neither the registers nor the outstanding results. -/
theorem holdPorts_frame (g : Gang) (o : Outst) : ∃ runs relq ord, g.holdPorts o = { g with runs := runs, relq := relq, ord := ord } := by
  unfold Gang.holdPorts
  generalize o.effs.filter Eff.isLoc = es
  induction es generalizing g with
  | nil => exact ⟨_, _, _, rfl⟩
  | cons e es ih =>
    rw [List.foldl_cons]
    cases e with
    | loc lane bs =>
      obtain ⟨runs, relq, late⟩ := holdLate_frame g o.run ⟨g.ord, o.run, o.pc, .loc bs 0, 0⟩
      obtain ⟨runs', relq', ord', rest⟩ := ih { g with runs := runs, relq := relq, ord := g.ord + 1 }
      exact ⟨runs', relq', ord', by simp only [late, rest]⟩
    | _ => exact ih g

/-- R82, R120, R195: the effects of one result that become visible at a seam. -/
def seamEffs (s : State) (g : Gang) (o : Outst) : List Eff := (g.liveEffs o.effs).filter (fun e => !(commonsDone s g o e))

/-- R82: with no fixed-latency write between, the effects are written at the seam. -/
theorem foldl_seamEff {s : State} {u : Nat} {g : Gang} (here : s.gang? u = some g) (es : List Eff) :
    ∃ gangs, es.foldl (fun s e => seamEff [] s u e) s = { s with gangs := gangs } ∧
      (es.foldl (fun s e => seamEff [] s u e) s).gang? u = some { g with regs := es.foldl GangRegs.apply g.regs } := by
  induction es generalizing s g with
  | nil => exact ⟨_, rfl, here⟩
  | cons e es ih =>
    obtain ⟨_, one, rfl⟩ : gangIn (seamEff [] s u e) u (fun x => x = { g with regs := g.regs.apply e }) :=
      gangIn_modGang here (fun _ => rfl) rfl
    exact ih one

/-- What the effects of results at a seam keep of a gang, its state's memory and its core beside. -/
structure AtSeam (u : Nat) (s t : State) (g g' : Gang) : Prop where
  here : t.gang? u = some g'
  mem : t.mem = s.mem
  cores : t.cores = s.cores
  core : g'.core = g.core
  uid : g'.uid = g.uid
  out : g'.out = g.out
  status : ∀ i, (g'.regs.lane i).status = (g.regs.lane i).status

theorem AtSeam.seamEffs {u : Nat} {s t : State} {g g' : Gang} (h : AtSeam u s t g g') (o : Outst) : seamEffs t g' o = seamEffs s g o := by
  simp only [Machine.seamEffs, liveEffs_congr h.status, commonsDone_congr h.cores h.core h.uid]

theorem AtSeam.trans {u : Nat} {s t v : State} {g g' g'' : Gang} (h : AtSeam u s t g g') (h' : AtSeam u t v g' g'') : AtSeam u s v g g'' :=
  ⟨h'.here, h'.mem.trans h.mem, h'.cores.trans h.cores, h'.core.trans h.core, h'.uid.trans h.uid, h'.out.trans h.out,
    fun i => (h'.status i).trans (h.status i)⟩

theorem applyOut_spec {s : State} {u : Nat} {g : Gang} {o : Outst} (here : s.gang? u = some g) (plain : o.clob = []) :
    ∃ g', AtSeam u s (applyOut u s o) g g' ∧ g'.regs = (seamEffs s g o).foldl GangRegs.apply g.regs := by
  obtain ⟨gangs, frame, after⟩ := foldl_seamEff here (seamEffs s g o)
  obtain ⟨runs, relq, ord, held⟩ := holdPorts_frame { g with regs := (seamEffs s g o).foldl GangRegs.apply g.regs }
    { o with effs := seamEffs s g o }
  have eq : applyOut u s o = ((seamEffs s g o).foldl (fun s e => seamEff [] s u e) s).modGang u
      (fun x => x.holdPorts { o with effs := seamEffs s g o }) := by
    simp only [applyOut, here, plain]
    rfl
  have uid : ∀ x : Gang, (x.holdPorts { o with effs := seamEffs s g o }).uid = x.uid := fun x => by
    obtain ⟨_, _, _, h⟩ := holdPorts_frame x { o with effs := seamEffs s g o }
    rw [h]
  refine ⟨{ g with regs := (seamEffs s g o).foldl GangRegs.apply g.regs, runs := runs, relq := relq, ord := ord },
    ⟨?_, ?_, ?_, rfl, rfl, rfl, status_foldl_apply (seamEffs s g o) g.regs⟩, rfl⟩
  · rw [eq, gang?_modGang_self _ _ _ uid, after, Option.map_some, held]
  · rw [eq, frame]; rfl
  · rw [eq, frame]; rfl

theorem foldl_applyOut_spec {s : State} {u : Nat} {g : Gang} {os : List Outst} (here : s.gang? u = some g) (plain : ∀ o ∈ os, o.clob = []) :
    ∃ g', AtSeam u s (os.foldl (applyOut u) s) g g' ∧ g'.regs = (os.flatMap (seamEffs s g)).foldl GangRegs.apply g.regs := by
  induction os generalizing s g with
  | nil => exact ⟨g, ⟨here, rfl, rfl, rfl, rfl, rfl, fun _ => rfl⟩, rfl⟩
  | cons o os ih =>
    obtain ⟨g1, first, regs⟩ := applyOut_spec here (plain o List.mem_cons_self)
    obtain ⟨g2, rest, regs'⟩ := ih first.here (fun x hx => plain x (List.mem_cons_of_mem _ hx))
    have same : seamEffs (applyOut u s o) g1 = seamEffs s g := funext first.seamEffs
    exact ⟨g2, first.trans rest, by rw [regs', regs, same, List.flatMap_cons, List.foldl_append]⟩

theorem parkSeamCompletes {s : State} {u : Nat} {g : Gang} (here : s.gang? u = some g) (ready : g.seamReady = true) (none : g.deferred = [])
    (plain : ∀ o ∈ g.out, o.clob = []) : After (.parkSeamComplete u) s (fun t =>
      t.mem = s.mem ∧ gangIn t u (fun g' => g'.seam = false ∧ g'.out = g.out.filter (fun o => !g.outDue o) ∧
        g'.regs = (dueEffs s g).foldl GangRegs.apply g.regs)) := by
  have waits : g.waits.isEmpty = true := by
    simp only [Gang.seamReady, Bool.and_eq_true] at ready
    obtain ⟨⟨⟨-, waits⟩, -⟩, -⟩ := ready
    exact waits
  have tested : testWaits s g = g := if_pos waits
  obtain ⟨g1, seam, regs⟩ := foldl_applyOut_spec (os := g.out.filter g.outDue) (gang?_modGang_const here)
    (fun o ho => plain o (List.mem_of_mem_filter ho))
  refine ⟨_, rfl, ?_⟩
  simp only [here, tested, ready, none, Bool.not_true, Bool.false_eq_true, ↓reduceIte, List.foldl_nil]
  refine ⟨seam.mem, gangIn_modGang seam.here (fun _ => rfl) ⟨rfl, ?_, regs⟩⟩
  simp only [seam.out]

/-- Settles O37, by its parts: the quarantine and the release, the park seam, and each kind of result. -/
theorem quarantineAndReturns : Obligations.QuarantineAndReturns := by
  unfold Obligations.QuarantineAndReturns
  intro s u g here
  refine ⟨fun r first => ⟨quarantineExit_early here first, quarantineExit_late here first⟩, parkSeamCompletes here, fun i o out new => ?_⟩
  obtain ⟨value, flags, load, ldl⟩ := resultsReturn here out new
  exact ⟨value, flags, load, ldl, fun va dst b kind block awake => after_pageQuery here out new kind block awake⟩

end Sys2Proof.Machine
end

section
/-! PROOFS. Floating-point arithmetic (R126, R128, R129, R132, R136): one rounding of an exact result. O9. -/
namespace Sys2Proof.Machine
open Sys2Proof.Laws Sys2Proof.Claim

/-! ### Operands, results and shapes of floating-point words (R74, R91, R126) -/

/-- R91: an operand's value is that of its low bits. -/
theorem fpVal_eq (f : RRR) (i : LaneIn) (x : Nat) : fpVal f i x = exact f i x := by
  rw [exact, val, BitVec.toNat_ofNat]; rfl

/-- A word of lanes, its answers said in other terms. -/
theorem answers_of_outs {i : Instr} {sh : OpShape} {made out : LaneIn → LaneOut} (same : ∀ l, made l = out l)
    (h : ∀ s, exec i s = .next (runLanes sh made s)) : Answers i sh out :=
  funext same ▸ answers_of_runLanes h

/-- R53, R126: a word that rounds once what `made` computes from the model's operands. -/
theorem answers_rounded {i : Instr} {f : RRR} {sh : OpShape} {made op : LaneIn → FVal × FFlags} (same : ∀ l, made l = op l)
    (h : ∀ s, exec i s = .next (runLanes sh (fun l => fpRound f l (made l)) s)) : Answers i sh (fun l => rounded f l (op l)) :=
  answers_of_outs (fun l => by rw [same]; rfl) h

/-- R129: a half of a 32-bit operand. -/
theorem bitsOf_half (x : Nat) {h : Nat} (one : h ≤ 1) : bitsOf x (16 * h + 15) (16 * h) = ((BitVec.ofNat 32 x).extractLsb' (16 * h) 16).toNat := by
  have width : 16 * h + 15 + 1 - 16 * h = 16 := by omega
  rw [bitsOf, width, BitVec.extractLsb'_toNat, BitVec.toNat_ofNat, Nat.shiftRight_eq_div_pow, Nat.shiftRight_eq_div_pow]
  interval_cases h <;> omega

theorem ffma2Half_eq (f : RRR) (i : LaneIn) {h : Nat} (one : h ≤ 1) :
    let half := fun (x : Nat) => exact f i ((BitVec.ofNat 32 x).extractLsb' (16 * h) 16).toNat
    ffma2Half f i h = rounded f i (ffmaV (f.rnd.getD (fsrRm i.fsr)) (half i.a) (half i.b) (half i.d)) := by
  simp only [ffma2Half, fpVal_eq, bitsOf_half _ one]
  rfl

/-- Settles O9: each word is one rounding of the exact operation on its operands' values. -/
theorem floatArithmeticRoundsOnce : Obligations.FloatArithmeticRoundsOnce := by
  unfold Obligations.FloatArithmeticRoundsOnce
  intro f _
  refine ⟨?fadd, ?fsub, ?fmul, ?ffma, fun _ => ?ffma2, ?fscale, ?fdiv, ?frcp, ?fsqrt⟩
  case fadd => exact answers_rounded (fun i => by rw [fpVal_eq, fpVal_eq]; rfl) (fun _ => rfl)
  case fsub => exact answers_rounded (fun i => by rw [fpVal_eq, fpVal_eq]; rfl) (fun _ => rfl)
  case fmul => exact answers_rounded (fun i => by rw [fpVal_eq, fpVal_eq]) (fun _ => rfl)
  case ffma => exact answers_rounded (fun i => by rw [fpVal_eq, fpVal_eq, fpVal_eq]; rfl) (fun _ => rfl)
  case ffma2 => exact answers_of_outs (fun i => by rw [ffma2Out, ffma2Half_eq f i (Nat.zero_le 1), ffma2Half_eq f i le_rfl]) (fun _ => rfl)
  case fscale => exact answers_rounded (fun i => by rw [fpVal_eq, signExt_eq_toInt]) (fun _ => rfl)
  case fdiv => exact answers_rounded (fun i => by rw [fpVal_eq, fpVal_eq]) (fun _ => rfl)
  case frcp => exact answers_rounded (fun i => by rw [fpVal_eq]) (fun _ => rfl)
  case fsqrt => exact answers_rounded (fun i => by rw [fpVal_eq]) (fun _ => rfl)

end Sys2Proof.Machine
end

section
/-! PROOFS. Order, sign, class and integral rounding of floating-point values (R130, R131, R133 to R135). O10. -/
namespace Sys2Proof.Machine
open Sys2Proof.Laws Sys2Proof.Claim

/-! ### The low bits of an encoding (R44, R91) -/

/-- A field below bit `w` is a field of the low `w` bits. -/
theorem bitsOf_mod (b : Nat) {w hi lo : Nat} (inside : hi + 1 ≤ w) : bitsOf (b % 2 ^ w) hi lo = bitsOf b hi lo := by
  refine Nat.eq_of_testBit_eq fun i => ?_
  simp only [bitsOf, Nat.testBit_mod_two_pow, Nat.testBit_shiftRight]
  by_cases field : i < hi + 1 - lo
  · have below : lo + i < w := by omega
    simp [below]
  · simp [field]

/-- R44: an encoding is its format's low bits. -/
theorem fdecode_mod (f : FFmt) (b : Nat) : fdecode f (b % 2 ^ (1 + (f.ebits + f.mbits))) = fdecode f b := by
  have man : b % 2 ^ (1 + (f.ebits + f.mbits)) % 2 ^ f.mbits = b % 2 ^ f.mbits := Nat.mod_mod_of_dvd b (Nat.pow_dvd_pow 2 (by omega))
  rw [fdecode, bitsOf_mod b (by omega), bitsOf_mod b (by omega), man]
  rfl

section sign
variable {t : Ty} (four : tyFour t = true)
include four

/-- R43: the place of the sign. -/
theorem signPlace : tyWidth t - 1 = (fmtOf t).ebits + (fmtOf t).mbits := by
  rw [fmtOf_width (float_of_tyFour four), Nat.add_sub_cancel_left]

theorem fdecode_val (b : Nat) : fdecode (fmtOf t) (val t b).toNat = fdecode (fmtOf t) b := by
  rw [val, BitVec.toNat_ofNat, fmtOf_width (float_of_tyFour four), fdecode_mod]

/-- R131: the sign of an encoding is the top bit of its pattern. -/
theorem fsign_eq_msb (b : Nat) : fsign (fmtOf t) b = (val t b).msb := by
  have width := fmtOf_width (float_of_tyFour four)
  rw [← bitsOf_top, fsign, ← signPlace four, val, BitVec.toNat_ofNat, bitsOf_mod b (by omega)]

/-- R131: a sign set on an encoding: the bits below it stay. -/
theorem fsetSign_eq (b : Nat) (neg : Bool) : fsetSign (fmtOf t) b neg =
    if isNan (fdecode (fmtOf t) (val t b).toNat) then canonNan (fmtOf t)
    else (val t b).toNat % 2 ^ (tyWidth t - 1) + if neg then 2 ^ (tyWidth t - 1) else 0 := by
  have low : (val t b).toNat % 2 ^ (tyWidth t - 1) = b % 2 ^ (tyWidth t - 1) := by
    rw [val, BitVec.toNat_ofNat, Nat.mod_mod_of_dvd b (Nat.pow_dvd_pow 2 (Nat.sub_le _ _))]
  rw [fsetSign, fdecode_val four, low, signPlace four, fsignBit]

end sign

/-- A pattern is its bits below the top one, and that one. -/
theorem toNat_eq_low_add_msb {w : Nat} (x : BitVec w) (pos : 0 < w) :
    x.toNat = x.toNat % 2 ^ (w - 1) + if x.msb then 2 ^ (w - 1) else 0 := by
  have bound := x.isLt
  have twice : 2 ^ w = 2 * 2 ^ (w - 1) := by rw [← pow_succ', Nat.sub_add_cancel pos]
  rw [BitVec.msb_eq_decide]
  by_cases top : 2 ^ (w - 1) ≤ x.toNat
  · rw [if_pos (decide_eq_true top), Nat.mod_eq_sub_mod top, Nat.mod_eq_of_lt (by omega)]
    omega
  · rw [if_neg (by simpa using top), Nat.mod_eq_of_lt (not_le.mp top), add_zero]

/-- R131: the top bit inverted. -/
theorem toNat_xor_intMin {w : Nat} (x : BitVec w) (pos : 0 < w) :
    (x ^^^ BitVec.intMin w).toNat = x.toNat % 2 ^ (w - 1) + if !x.msb then 2 ^ (w - 1) else 0 := by
  have low : (x ^^^ BitVec.intMin w).toNat % 2 ^ (w - 1) = x.toNat % 2 ^ (w - 1) := by
    rw [BitVec.toNat_xor, BitVec.toNat_intMin_of_pos pos, Nat.xor_mod_two_pow, Nat.mod_self, Nat.xor_zero]
  rw [toNat_eq_low_add_msb _ pos, low, BitVec.msb_xor, BitVec.msb_intMin, decide_eq_true pos, Bool.xor_true]

/-- Settles O10: each word is the operation on encodings or on values, which read an operand's low bits alone. -/
theorem floatOrderSignAndClass : Obligations.FloatOrderSignAndClass := by
  unfold Obligations.FloatOrderSignAndClass
  intro f four
  have pos : 0 < tyWidth f.ty := by rw [fmtOf_width (float_of_tyFour four)]; omega
  refine ⟨?fmin, ?fmax, ?fminm, ?fmaxm, ?fabs, ?fneg, ?fcpys, ?fcmp, ?fclass, ?frint⟩
  case fmin | fmax | fminm | fmaxm => exact answers_of_runLanes fun _ => rfl
  case fabs => exact answers_of_outs (fun i => by rw [fsetSign_eq four]; rfl) fun _ => rfl
  case fneg => exact answers_of_outs (fun i => by rw [fsetSign_eq four, fsign_eq_msb four, ← toNat_xor_intMin _ pos]; rfl) fun _ => rfl
  case fcpys => exact answers_of_outs (fun i => by rw [fsetSign_eq four, fsign_eq_msb four]; rfl) fun _ => rfl
  case fcmp => exact answers_of_outs (fun i => by rw [fpVal_eq, fpVal_eq]) fun _ => rfl
  case fclass => exact answers_of_outs (fun i => by rw [val, BitVec.toNat_ofNat]; rfl) fun _ => rfl
  case frint => exact answers_of_outs (fun i => by rw [fpVal_eq]; rfl) fun _ => rfl

end Sys2Proof.Machine
end

section
/-! PROOFS. Rounding by the value alone (R46 to R49): two spellings of one number are rounded alike; the numbers of a format. -/
namespace Sys2Proof.Machine
open Sys2Proof.Laws Sys2Proof.Claim

/-! ### Spellings of one number (R46 to R49) -/

section spellings
variable {m m' : Nat} {e e' : Int} (same : mag m e = mag m' e')
include same

theorem roundAt_congr (mode : Rnd) (neg : Bool) (qe : Int) : roundAt mode neg m e qe = roundAt mode neg m' e' qe := by
  obtain ⟨q, low, high, exactly, rounded⟩ := roundAt_spec mode neg m e qe
  obtain ⟨q', low', high', exactly', rounded'⟩ := roundAt_spec mode neg m' e' qe
  rw [← same] at low' high' exactly' rounded'
  have le := (mag_lt_mag_iff qe).mp (low.trans_lt high')
  have ge := (mag_lt_mag_iff qe).mp (low'.trans_lt high)
  obtain rfl : q = q' := by omega
  exact Prod.ext (rounded.trans rounded'.symm) (Bool.eq_iff_iff.mpr (exactly.trans exactly'.symm))

theorem bitLen_congr (hm : m ≠ 0) (hm' : m' ≠ 0) : (bitLen m : Int) + e = bitLen m' + e' := by
  obtain ⟨low, high⟩ := mag_binade hm e
  obtain ⟨low', high'⟩ := mag_binade hm' e'
  rw [← same] at low' high'
  have le := (zpow_lt_zpow_iff_right₀ (one_lt_two (α := Rat))).mp (low.trans_lt high')
  have ge := (zpow_lt_zpow_iff_right₀ (one_lt_two (α := Rat))).mp (low'.trans_lt high)
  omega

theorem roundFin_congr (hm : m ≠ 0) (f : FFmt) (mode : Rnd) (ftz neg : Bool) :
    roundFin f mode ftz neg m e = roundFin f mode ftz neg m' e' := by
  have hm' : m' ≠ 0 := fun zero => hm (mag_eq_zero_iff.mp (same.trans (mag_eq_zero_iff.mpr zero)))
  have binade : (bitLen m : Int) - 1 + e = bitLen m' - 1 + e' := by have := bitLen_congr same hm hm'; omega
  simp only [roundFin, hm, hm', if_false, binade, roundAt_congr same]

end spellings

theorem mag_one (k : Int) : mag 1 k = 2 ^ k := by rw [mag, Nat.cast_one, one_mul]

theorem ne_zero_of_mag_pos {m : Nat} {e : Int} {y : Rat} (h : mag m e = y) (pos : 0 < y) : m ≠ 0 := by
  rintro rfl
  rw [mag_zero] at h
  exact pos.ne h

/-- A power of two is spelt as one. -/
theorem exists_two_pow_of_mag {m : Nat} {e k : Int} (h : mag m e = 2 ^ k) : ∃ n : Nat, m = 2 ^ n ∧ n + e = k := by
  have hm := ne_zero_of_mag_pos h (zpow_pos two_pos k)
  have sig : (m : Rat) = 2 ^ (k - e) := by
    rw [zpow_sub₀ two_ne_zero, ← h, mag, mul_div_cancel_right₀ _ (zpow_ne_zero e two_ne_zero)]
  have least : (2 : Rat) ^ (0 : Int) ≤ 2 ^ (k - e) := by
    rw [zpow_zero, ← sig]; exact_mod_cast Nat.one_le_iff_ne_zero.mpr hm
  have nonneg := (zpow_le_zpow_iff_right₀ (one_lt_two (α := Rat))).mp least
  refine ⟨(k - e).toNat, ?_, by omega⟩
  rw [← Int.toNat_of_nonneg nonneg, zpow_natCast] at sig
  exact_mod_cast sig

theorem bitLen_two_pow (n : Nat) : bitLen (2 ^ n) = n + 1 := by rw [bitLen, if_neg (Nat.two_pow_pos n).ne', Nat.log2_two_pow]

/-- A positive number has no sign. -/
theorem pos_of_rat_pos {neg : Bool} {m : Nat} {e : Int} {y : Rat} (h : rat (.fin neg m e) = y) (pos : 0 < y) : neg = false ∧ mag m e = y := by
  have := mag_nonneg m e
  cases neg with
  | false => exact ⟨rfl, by simpa [rat_fin, sgn] using h⟩
  | true => rw [rat_fin, sgn, if_pos rfl] at h; linarith

/-! ### Numbers of a format (R43, R44, R49) -/

section number
variable {f : FFmt} (hf : hasFields f) {b : Nat} {neg : Bool} {m : Nat} {e : Int}
include hf

/-- R43, R44: significand and exponent of a number lie in the format's range. -/
theorem range_of_fdecode (number : fdecode f b = .fin neg m e) :
    m < 2 ^ (f.mbits + 1) ∧ quantum f ≤ e ∧ e ≤ quantum f + (2 ^ f.ebits : Nat) := by
  rw [← fdecode_mod] at number
  obtain ⟨s, n, fits, code⟩ := exists_code_of_finite hf (Nat.mod_lt b (Nat.two_pow_pos _)) (by rw [number, finite_fin])
  have small := fits.trans_lt (maxCode_lt f)
  rw [code, (fdecode_code hf s small).1 fits] at number
  obtain ⟨-, rfl, rfl⟩ := FVal.fin.inj number
  obtain ⟨least, -, width⟩ := (spelt_code f n).1
  have top : n / 2 ^ f.mbits < 2 ^ f.ebits := by rwa [Nat.div_lt_iff_lt_mul (Nat.two_pow_pos _), ← pow_add]
  refine ⟨width, least, ?_⟩
  rw [codeExp]
  generalize n / 2 ^ f.mbits = field at *
  omega

/-- R49: a value that DAZ makes zero keeps the range. -/
theorem sig_lt_of_fvalue {daz : Bool} (number : fvalue f daz b = .fin neg m e) : m < 2 ^ (f.mbits + 1) := by
  obtain same | ⟨_, _, _, -, zero⟩ := fvalue_cases f daz b
  · exact (range_of_fdecode hf (same.symm.trans number)).1
  · obtain ⟨-, rfl, -⟩ := FVal.fin.inj (zero.symm.trans number)
    exact Nat.two_pow_pos _

/-- R43: the powers of two among the numbers of a format. -/
theorem exponent_of_number {k : Int} (number : finite (fdecode f b) = true) (value : rat (fdecode f b) = 2 ^ k) :
    quantum f ≤ k ∧ k ≤ quantum f + (2 ^ f.ebits : Nat) + f.mbits := by
  obtain ⟨s, q, p, code⟩ := (finite_iff _).mp number
  obtain ⟨width, least, greatest⟩ := range_of_fdecode hf code
  rw [code] at value
  obtain ⟨n, rfl, sum⟩ := exists_two_pow_of_mag (pos_of_rat_pos value (by positivity)).2
  have := (Nat.pow_lt_pow_iff_right (by decide)).mp width
  omega

end number

/-- R44, R46: a power of two that the format has is rounded without a flag. -/
theorem roundFin_of_number {t : Ty} (float : tyInt t = false ∧ t ≠ .ds8) {b : Nat} {k : Int} (number : finite (fdecode (fmtOf t) b) = true)
    (value : rat (fdecode (fmtOf t) b) = 2 ^ k) (mode : Rnd) {m : Nat} {e : Int} (same : mag m e = 2 ^ k) :
    (roundFin (fmtOf t) mode false false m e).2 = flNone := by
  rw [← fdecode_mod] at number value
  have keeps := roundingKeepsFormatNumbers t mode _ float (by rw [fmtOf_width float]; exact Nat.mod_lt b (Nat.two_pow_pos _)) number
  obtain ⟨s, q, p, code⟩ := (finite_iff _).mp number
  rw [code] at value keeps
  obtain ⟨rfl, val⟩ := pos_of_rat_pos value (by positivity)
  rw [roundFin_congr (same.trans val.symm) (ne_zero_of_mag_pos same (zpow_pos two_pos k))]
  exact congrArg Prod.snd keeps

end Sys2Proof.Machine
end

section
/-! PROOFS. The special functions at their exact cases (R138). -/
namespace Sys2Proof.Machine
open Sys2Proof.Laws Sys2Proof.Claim

/-! ### The integer square root -/

theorem isqrtGo_spec (n : Nat) : ∀ k r : Nat, r * r ≤ n → n < (r + 2 ^ k) * (r + 2 ^ k) →
    isqrtGo n k r * isqrtGo n k r ≤ n ∧ n < (isqrtGo n k r + 1) * (isqrtGo n k r + 1)
  | 0, _, low, high => ⟨low, high⟩
  | k + 1, r, low, high => by
    rw [isqrtGo]
    by_cases fits : (r + 2 ^ k) * (r + 2 ^ k) ≤ n
    · rw [if_pos fits]
      refine isqrtGo_spec n k _ fits ?_
      rwa [Nat.add_assoc, ← Nat.two_mul, ← pow_succ']
    · rw [if_neg fits]
      exact isqrtGo_spec n k r low (not_le.mp fits)

theorem isqrt_eq_sqrt (n : Nat) : isqrt n = Nat.sqrt n := by
  have bound : n < (0 + 2 ^ (bitLen n / 2 + 1)) * (0 + 2 ^ (bitLen n / 2 + 1)) := by
    have length : n < 2 ^ bitLen n := by
      unfold bitLen
      split
      · next zero => simp [zero]
      · exact Nat.lt_log2_self
    rw [Nat.zero_add, ← pow_add]
    exact length.trans_le (Nat.pow_le_pow_right (by decide) (by omega))
  exact Nat.eq_sqrt.mpr (isqrtGo_spec n _ 0 (Nat.zero_le n) bound)

/-! ### The values at powers (R138) -/

theorem exists_fin_ofIntV (k : Int) : ∃ neg m, ofIntV k = .fin neg m 0 := by
  unfold ofIntV ofSigned
  split
  · exact ⟨false, 0, rfl⟩
  · exact ⟨_, _, rfl⟩

/-- R138: the logarithm of a power of two. -/
theorem log2V_of_two_pow {m : Nat} {e k : Int} (h : mag m e = 2 ^ k) : log2V m e = ofIntV k := by
  obtain ⟨n, rfl, rfl⟩ := exists_two_pow_of_mag h
  have top : e + ((n + 1 : Nat) : Int) - 1 = n + e := by omega
  simp only [log2V, bitLen_two_pow, Nat.add_sub_cancel, if_true, top]
  rfl

theorem isqrt_two_pow_div {p c j : Nat} (even : p = c + c) (le : j ≤ c) : isqrt (2 ^ p / 2 ^ (j + j)) = 2 ^ (c - j) := by
  have halves : p - (j + j) = c - j + (c - j) := by omega
  rw [isqrt_eq_sqrt, Nat.pow_div (by omega) two_pos, halves, pow_add, Nat.sqrt_eq]

theorem two_pow_sub_sq_mul {p c j : Nat} (even : p = c + c) (le : j ≤ c) : 2 ^ (c - j) * 2 ^ (c - j) * 2 ^ (j + j) = 2 ^ p := by
  rw [← pow_add, ← pow_add]
  congr 1
  omega

/-- An even power of two as significand and exponent, each even. -/
theorem exists_even_spelling {n : Nat} {e k : Int} (sum : n + e = 2 * k) : ∃ (j : Nat) (g : Int),
    (if e % 2 = 0 then 2 ^ n else 2 * 2 ^ n) = 2 ^ (j + j) ∧ (if e % 2 = 0 then e else e - 1) / 2 = g ∧ j + g = k ∧ j ≤ n := by
  by_cases even : e % 2 = 0
  · obtain ⟨j, rfl⟩ : ∃ j, n = j + j := ⟨n / 2, by omega⟩
    exact ⟨j, e / 2, by rw [if_pos even], by rw [if_pos even], by omega, by omega⟩
  · obtain ⟨j, same⟩ : ∃ j, n + 1 = j + j := ⟨(n + 1) / 2, by omega⟩
    exact ⟨j, (e - 1) / 2, by rw [if_neg even, ← pow_succ', same], by rw [if_neg even], by omega, by omega⟩

/-- R138: the reciprocal root of a power of four. -/
theorem rsqrtV_of_four_pow {m : Nat} {e k : Int} (h : mag m e = 4 ^ k) (small : m < 2 ^ 64) :
    ∃ (n : Nat) (q : Int), rsqrtV m e = .fin false (2 ^ n) q ∧ n + q = -k := by
  have four : (4 : Rat) ^ k = 2 ^ (2 * k) := by rw [zpow_mul]; norm_num
  obtain ⟨n, rfl, sum⟩ := exists_two_pow_of_mag (h.trans four)
  have width := (Nat.pow_lt_pow_iff_right (by decide)).mp small
  obtain ⟨j, g, sig, exp, total, le⟩ := exists_even_spelling sum
  have le : j ≤ 400 := by omega
  have even : 800 = 400 + 400 := rfl
  refine ⟨400 - j + 1, -g - 401, ?_, by omega⟩
  simp only [rsqrtV, sig, exp, Nat.one_shiftLeft, isqrt_two_pow_div even le, two_pow_sub_sq_mul even le, if_true, add_zero]
  rw [pow_succ']

/-- An integer in fixed point, with `p` bits after the point. -/
theorem signedM_shiftLeft_of_int {neg : Bool} {m p : Nat} {e k : Int} (h : rat (.fin neg m e) = k) (least : -(p : Int) ≤ e) :
    signedM neg (m <<< (e + p).toNat) = k * (2 ^ p : Nat) := by
  have spelt : (signedM neg (m <<< (e + p).toNat) : Rat) * 2 ^ (-(p : Int)) = k := by
    rw [signedM_mul, ← h, rat_fin, rat_fin, ← mag_shiftLeft m least, sub_neg_eq_add]
  rw [zpow_neg, zpow_natCast, ← div_eq_mul_inv, div_eq_iff (by positivity)] at spelt
  exact_mod_cast spelt

/-- R138: two to the power of an integer. -/
theorem exp2V_of_int {neg : Bool} {m : Nat} {e k : Int} (h : rat (.fin neg m e) = k) (hm : m ≠ 0) (small : m < 2 ^ 64)
    (bound : |k| < 2 ^ 13) : exp2V neg m e = .fin false 1 k := by
  have size : mag m e = ((|k| : Int) : Rat) := by rw [← abs_rat_fin neg, h, Int.cast_abs]
  have one : (2 : Rat) ^ (0 : Int) ≤ mag m e := by
    have pos : 0 < mag m e := by rw [← mag_zero e, mag_lt_mag_iff]; exact Nat.pos_of_ne_zero hm
    rw [size] at pos ⊢
    rw [zpow_zero]
    exact_mod_cast pos
  have least : -320 ≤ e := by
    have below : mag m e < 2 ^ (e + (64 : Nat)) := mag_two_pow 64 e ▸ (mag_lt_mag_iff e).mpr small
    have := (zpow_lt_zpow_iff_right₀ (one_lt_two (α := Rat))).mp (one.trans_lt below)
    omega
  have inside : ¬ (bitLen m : Int) + e > 13 := by
    have below : mag m e < 2 ^ (13 : Int) := by rw [size]; exact_mod_cast bound
    have := (zpow_lt_zpow_iff_right₀ (one_lt_two (α := Rat))).mp ((mag_binade hm e).1.trans_lt below)
    omega
  have fixed : signedM neg (m <<< (e + 320).toNat) = k * (2 ^ 320 : Nat) := signedM_shiftLeft_of_int (p := 320) h least
  have pos : (0 : Int) < (2 ^ 320 : Nat) := by positivity
  have whole : signedM neg (m <<< (e + 320).toNat) / (2 ^ 320 : Nat) = k := by rw [fixed, Int.mul_ediv_cancel _ pos.ne']
  have none : signedM neg (m <<< (e + 320).toNat) % (2 ^ 320 : Nat) = 0 := by rw [fixed, Int.mul_emod_left]
  simp only [exp2V, if_neg inside, ge_iff_le, if_pos least, whole, none, Int.toNat_zero, true_and]

end Sys2Proof.Machine
end

section
/-! PROOFS. The special functions and the conversions (R137 to R143). O11. -/
namespace Sys2Proof.Machine
open Sys2Proof.Laws Sys2Proof.Claim

/-! ### The table of a special function (R138) -/

/-- R138: a finite operand that is not zero, and no negative one of a root or a logarithm, stands in no row of the table but those of
powers. -/
theorem specialTable_eq_none {fm : SForm} {neg : Bool} {m : Nat} (hm : m ≠ 0) (real : fm = .fex2 ∨ neg = false) (e : Int) :
    specialTable fm (.fin neg m e) = none := by
  cases fm <;> simp_all [specialTable]

theorem specialExact_frsq {f : FFmt} {n : Nat} {q : Int} (number : (roundFin f .rne false false (2 ^ n) q).2 = flNone) :
    specialExact .frsq f (.fin false (2 ^ n) q) = true := by
  simp [specialExact, bitLen_two_pow, number]

theorem specialExact_fex2 {f : FFmt} {k : Int} (number : (roundFin f .rne false false 1 k).2 = flNone) :
    specialExact .fex2 f (.fin false 1 k) = true := by
  simp [specialExact, number]

/-! ### What a special function delivers (R137, R138) -/

/-- R43: the significands and exponents of the four formats. -/
theorem range_of_tyFour {t : Ty} (four : tyFour t = true) : 2 ^ ((fmtOf t).mbits + 1) ≤ 2 ^ 64 ∧ -4096 ≤ quantum (fmtOf t) ∧
    quantum (fmtOf t) + (2 ^ (fmtOf t).ebits : Nat) + (fmtOf t).mbits ≤ 4096 := by
  cases t <;> simp only [tyFour, Bool.false_eq_true] at four <;> exact ⟨by decide, by decide, by decide⟩

/-- R46, R49: one is a number of each of the four formats, and no tiny one. -/
theorem roundVal_one_flags {t : Ty} (four : tyFour t = true) (mode : Rnd) (ftz : Bool) :
    (roundVal (fmtOf t) mode ftz (.fin false 1 0)).2 = flNone := by
  cases t <;> simp only [tyFour, Bool.false_eq_true] at four <;> cases mode <;> cases ftz <;> rfl

section special
variable {t : Ty} {daz : Bool} {a : Nat} (rnd : Nat) (mode : Rnd) (ftz : Bool)

/-- R138: a case of the table is its value, with the table's flags alone. -/
theorem fspecial_of_table {fm : SForm} {v : FVal} {fl : FFlags} (row : specialTable fm (fvalue (fmtOf t) daz a) = some (v, fl)) :
    fspecial fm t rnd mode daz ftz a = ((roundVal (fmtOf t) mode ftz v).1, fl) := by
  simp only [fspecial, row]

/-- R138: a value that the table delivers exactly is rounded as any result. -/
theorem fspecial_of_exact {fm : SForm} {neg n : Bool} {m q : Nat} {e p : Int} (operand : fvalue (fmtOf t) daz a = .fin neg m e)
    (noRow : specialTable fm (.fin neg m e) = none) (value : specialValue fm neg m e = .fin n q p)
    (exactly : specialExact fm (fmtOf t) (.fin n q p) = true) :
    fspecial fm t rnd mode daz ftz a = roundVal (fmtOf t) mode ftz (.fin n q p) := by
  simp only [fspecial, operand, noRow, value, exactly, if_true]
  cases specialBound fm t <;> rfl

variable {k : Int} (number : finite (fvalue (fmtOf t) daz a) = true)
include number

/-- R138: the logarithm of a power of two. -/
theorem flg2_of_two_pow (power : rat (fvalue (fmtOf t) daz a) = 2 ^ k) :
    fspecial .flg2 t rnd mode daz ftz a = roundVal (fmtOf t) mode ftz (ofIntV k) := by
  obtain ⟨neg, m, e, operand⟩ := (finite_iff _).mp number
  rw [operand] at power
  obtain ⟨rfl, value⟩ := pos_of_rat_pos power (by positivity)
  have noRow := specialTable_eq_none (fm := .flg2) (ne_zero_of_mag_pos value (by positivity)) (.inr rfl) e
  obtain ⟨n, q, int⟩ := exists_fin_ofIntV k
  rw [int]
  exact fspecial_of_exact rnd mode ftz operand noRow ((log2V_of_two_pow value).trans int) rfl

variable (four : tyFour t = true)
include four

/-- R138: the reciprocal root of a power of four, where its root is a number of the format. -/
theorem frsq_of_four_pow (power : rat (fvalue (fmtOf t) daz a) = 4 ^ k) {b : Nat} (has : finite (fdecode (fmtOf t) b) = true)
    (root : rat (fdecode (fmtOf t) b) = 2 ^ (-k)) :
    fspecial .frsq t rnd mode daz ftz a = roundVal (fmtOf t) mode ftz (.fin false 1 (-k)) := by
  obtain ⟨neg, m, e, operand⟩ := (finite_iff _).mp number
  rw [operand] at power
  obtain ⟨rfl, value⟩ := pos_of_rat_pos power (by positivity)
  have noRow := specialTable_eq_none (fm := .frsq) (ne_zero_of_mag_pos value (by positivity)) (.inr rfl) e
  have small := (sig_lt_of_fvalue (fmtOf_hasFields t) operand).trans_le (range_of_tyFour four).1
  obtain ⟨n, q, result, sum⟩ := rsqrtV_of_four_pow value small
  have spelt : mag (2 ^ n) q = 2 ^ (-k) := by rw [mag_two_pow, ← sum, add_comm]
  have exactly := specialExact_frsq (roundFin_of_number (float_of_tyFour four) has root .rne spelt)
  rw [fspecial_of_exact rnd mode ftz operand noRow result exactly]
  exact roundFin_congr (spelt.trans (mag_one _).symm) (Nat.two_pow_pos n).ne' ..

/-- R138: two to the power of an integer, where that is a number of the format. -/
theorem fex2_of_int (integer : rat (fvalue (fmtOf t) daz a) = k) {b : Nat} (has : finite (fdecode (fmtOf t) b) = true)
    (power : rat (fdecode (fmtOf t) b) = 2 ^ k) :
    fspecial .fex2 t rnd mode daz ftz a = roundVal (fmtOf t) mode ftz (.fin false 1 k) := by
  obtain ⟨neg, m, e, operand⟩ := (finite_iff _).mp number
  rw [operand] at integer
  by_cases hm : m = 0
  · rw [hm, rat_fin, mag_zero, mul_zero] at integer
    obtain rfl : k = 0 := by exact_mod_cast integer.symm
    rw [fspecial_of_table rnd mode ftz (v := .fin false 1 0) (by rw [operand, hm]; rfl)]
    exact Prod.ext rfl (roundVal_one_flags four mode ftz).symm
  · have hf := fmtOf_hasFields t
    obtain ⟨sig, least, greatest⟩ := range_of_tyFour four
    obtain ⟨low, high⟩ := exponent_of_number hf has power
    have result := exp2V_of_int integer hm ((sig_lt_of_fvalue hf operand).trans_le sig) (abs_lt.mpr ⟨by omega, by omega⟩)
    have exactly := specialExact_fex2 (roundFin_of_number (float_of_tyFour four) has power .rne (mag_one k))
    exact fspecial_of_exact rnd mode ftz operand (specialTable_eq_none hm (.inl rfl) e) result exactly

end special

/-! ### The three parts of the statement (R137 to R143) -/

theorem specialFunctionsAreExact : Claim.specialFunctionsAreExact := by
  intro t rnd mode daz ftz a four _ f x out one
  have tableNan : ∀ {fm fl}, specialTable fm x = some (.nan false, fl) → out fm = (canonNan f, fl) := fspecial_of_table rnd mode ftz
  have tableInf : ∀ {fm neg fl}, specialTable fm x = some (.inf neg, fl) → out fm = (finfEnc f neg, fl) := fun row =>
    (fspecial_of_table rnd mode ftz row).trans (by rw [roundVal, fmtHasInf, fmtOf_ieee four]; rfl)
  have tableZero : ∀ {fm neg fl}, specialTable fm x = some (.fin neg 0 0, fl) → out fm = (fsignBit f neg, fl) :=
    fspecial_of_table rnd mode ftz
  have tableOne : ∀ {fm}, specialTable fm x = some (.fin false 1 0, flNone) → out fm = one := fun row =>
    (fspecial_of_table rnd mode ftz row).trans (Prod.ext rfl (roundVal_one_flags four mode ftz).symm)
  refine ⟨fun sig nan fm => ?nan, fun neg infinite => ?inf, fun neg e zero => ?zero, fun m e negative hm => ?negative,
    fun k number power => flg2_of_two_pow rnd mode ftz number power,
    fun k number power ⟨b, has, root⟩ => frsq_of_four_pow rnd mode ftz number four power has root,
    fun k number integer ⟨b, has, power⟩ => fex2_of_int rnd mode ftz number four integer has power⟩
  case nan => exact tableNan (by rw [nan]; cases fm <;> cases sig <;> rfl)
  case inf =>
    rw [infinite] at tableNan tableInf tableZero
    cases neg with
    | true => exact ⟨tableNan rfl, tableZero (neg := false) rfl, tableNan rfl, tableNan rfl, tableNan rfl⟩
    | false => exact ⟨tableZero (neg := false) rfl, tableInf rfl, tableInf rfl, tableNan rfl, tableNan rfl⟩
  case zero =>
    rw [zero] at tableInf tableZero tableOne
    exact ⟨tableInf rfl, tableOne rfl, tableInf rfl, tableZero rfl, tableOne rfl⟩
  case negative =>
    have rows : specialTable .frsq x = some (.nan false, flIV) ∧ specialTable .flg2 x = some (.nan false, flIV) := by
      simp [negative, specialTable, hm]
    exact ⟨tableNan rows.1, tableNan rows.2⟩

theorem specialFunctionsAnswer : Claim.specialFunctionsAnswer := fun _ _ =>
  ⟨answers_of_runLanes fun _ => rfl, answers_of_runLanes fun _ => rfl, answers_of_runLanes fun _ => rfl, answers_of_runLanes fun _ => rfl,
    answers_of_runLanes fun _ => rfl⟩

theorem floatConversions : Claim.floatConversions := by
  refine ⟨fun f src => ⟨fun _ => ?fcvt, fun _ => ?ftoi, fun _ => ?itof⟩, fun f => ⟨fun _ => ?fdot4, fun _ => ?qds8⟩⟩
  case fcvt =>
    exact answers_of_outs (fun i => by simp only [val, BitVec.toNat_ofNat]; rfl) (fun _ => rfl)
  case ftoi => exact answers_of_outs (fun i => by rw [ftoiOut, wrapInt_eq_toNat_ofInt, val, BitVec.toNat_ofNat]; rfl) (fun _ => rfl)
  case itof => exact answers_of_outs (fun i => by rw [itofOut, extOf_eq_num]; rfl) (fun _ => rfl)
  case fdot4 => exact answers_of_runLanes fun _ => rfl
  case qds8 => exact answers_of_runLanes fun _ => rfl

/-- Settles O11, by its three parts: the words, their exact cases, and the conversions. -/
theorem specialFunctionsAndConversions : Obligations.SpecialFunctionsAndConversions :=
  ⟨specialFunctionsAnswer, specialFunctionsAreExact, floatConversions⟩

end Sys2Proof.Machine
end

section
/-! PROOFS. The words of the status registers (R127, R144, R145): what they do, and the state for which the statement on them
fails. O16. -/
namespace Sys2Proof.Machine
open Sys2Proof.Laws Sys2Proof.Claim

/-! ### What FSSR stores (R51, R145) -/

/-- R51: the code of the rounding mode in a status register. -/
def fsrMode (x : W32) : BitVec 3 := x.extractLsb' 5 3

/-- R51, R145: a code that is not stored. -/
abbrev noMode (m : BitVec 3) : Prop := m = 0 ∨ m = 6 ∨ m = 7

theorem noMode_iff : ∀ m : BitVec 3, noMode m ↔ m.toNat = 0 ∨ m.toNat ≥ 6 := by decide

theorem fsrMode_and (x y : W32) : fsrMode (x &&& y) = fsrMode x &&& fsrMode y := BitVec.extractLsb'_and

theorem fsrMode_or (x y : W32) : fsrMode (x ||| y) = fsrMode x ||| fsrMode y := BitVec.extractLsb'_or

section stored
variable {old mask new merged : W32} (merges : merged = (old &&& ~~~mask) ||| (new &&& mask))
include merges

/-- R145: of what the mask merges, FSSR stores the bits that are not reserved, but for a code that is not stored. -/
theorem fsrWrite_cases : (noMode (fsrMode merged) ∧ fsrWrite old mask new = (merged &&& 0x61F#32) ||| 0x20#32) ∨
    (¬ noMode (fsrMode merged) ∧ fsrWrite old mask new = merged &&& 0x6FF#32) := by
  have mode : bitsOf (merged &&& 0x6FF#32).toNat 7 5 = (fsrMode merged).toNat := by
    have kept : fsrMode (merged &&& 0x6FF#32) = fsrMode merged := by rw [fsrMode_and]; exact BitVec.and_allOnes
    rw [← kept, fsrMode, BitVec.extractLsb'_toNat]
    rfl
  have write : fsrWrite old mask new = if noMode (fsrMode merged) then (merged &&& 0x6FF#32 &&& ~~~0xE0#32) ||| 0x20#32
      else merged &&& 0x6FF#32 := by
    simp only [noMode_iff, ← mode]
    rw [fsrWrite, ← merges]
  by_cases none : noMode (fsrMode merged)
  · exact .inl ⟨none, by rw [write, if_pos none, BitVec.and_assoc]; rfl⟩
  · exact .inr ⟨none, by rw [write, if_neg none]⟩

/-- R145: the reserved bits, the bits beside the mode, and the mode of what is stored. -/
theorem fsrWrite_fields : fsrWrite old mask new &&& ~~~0x6FF#32 = 0 ∧ fsrWrite old mask new &&& 0x61F#32 = merged &&& 0x61F#32 ∧
    fsrMode (fsrWrite old mask new) = if noMode (fsrMode merged) then 1 else fsrMode merged := by
  have literals : fsrMode 0x61F#32 = 0#3 ∧ fsrMode 0x20#32 = 1#3 ∧ fsrMode 0x6FF#32 = BitVec.allOnes 3 := by decide
  obtain ⟨mode, write⟩ | ⟨mode, write⟩ := fsrWrite_cases merges <;> rw [write]
  · rw [if_pos mode]
    simp [BitVec.and_or_distrib_right, BitVec.and_assoc, fsrMode_or, fsrMode_and, literals]
  · rw [if_neg mode, fsrMode_and, literals.2.2]
    exact ⟨by simp [BitVec.and_assoc], by simp [BitVec.and_assoc], BitVec.and_allOnes⟩

end stored

/-! ### FGSR and FSSR of a resident gang (R127, R144, R145) -/

/-- R66: the lanes that act at a word act there still when it has computed. -/
theorem laneState_act (sh : OpShape) (out : LaneIn → LaneOut) (s : State) (g : Gang) : (laneState sh out s g).act = s.act := by
  unfold laneState
  extract_lets
  split <;> rfl

/-- R144: FGSR.n32 gives each lane its own register. -/
theorem answers_fgsr_lanes {f : RRR} (narrow : f.ty = .n32) :
    Answers (.fgsr f) (intShape f false (some 1)) (fun i => ⟨some i.fsr.toNat, none, 0⟩) := by
  intro s g here
  obtain ⟨g1, still, eq⟩ := runLanes_eq_laneState (sh := intShape f false (some 1)) (f := fun i => valOut i.fsr.toNat) here
  refine ⟨g1, still, ?_⟩
  change execFgsr f s = _
  simp only [execFgsr, here, narrow, reduceCtorEq, if_false]
  exact congrArg Host.Outcome.next eq

/-- A change of the issuing gang, of which no other gang bears the number. -/
theorem onIssuer_congr {s : State} {g : Gang} (alone : ∀ h ∈ s.gangs, h.uid = s.cx.gang → h = g) {p q : Gang → Gang} (same : p g = q g) :
    s.onIssuer p = s.onIssuer q := by
  have maps : (s.gangs.map fun h => if h.uid = s.cx.gang then p h else h) = s.gangs.map fun h => if h.uid = s.cx.gang then q h else h :=
    List.map_congr_left fun h mem => by
      by_cases own : h.uid = s.cx.gang
      · rw [if_pos own, if_pos own, alone h mem own, same]
      · rw [if_neg own, if_neg own]
  rw [State.onIssuer, State.modGang, maps]
  rfl

section resident
variable {f : RRR} {s : State} {g : Gang} (here : s.gang? s.cx.gang = some g)
include here

/-- A lane operation of a resident gang none of whose lanes faults. -/
theorem runLanes_of_no_fault {sh : OpShape} {out : LaneIn → LaneOut} (legal : sh.faults g (lanesOf s.act) = []) :
    runLanes sh out s = laneState sh out s g := by
  obtain ⟨g1, still, eq⟩ := runLanes_eq_laneState (sh := sh) (f := out) here
  rw [legal, takeFaults_nil] at still eq
  rwa [← Option.some.inj (here.symm.trans still)] at eq

/-- R145: FSSR.n32 replaces the register of each lane that acts, and gives the old one. -/
theorem exec_fssr_lanes (narrow : f.ty = .n32) (legal : (intShape f false (some 1)).faults g (lanesOf s.act) = []) :
    exec (.fssr f) s = .next ((laneState (intShape f false (some 1)) (fun i => ⟨some i.fsr.toNat, none, 0⟩) s g).onIssuer (fun g' =>
      g'.emit (s.cx.pos + 1) ((lanesOf s.act).map (fun j =>
        .fsrSet j (fsrWrite (g.regs.lane j).fsr (fssrMask f (Ctx.src ⟨s, g, s.blockOf g⟩ j f.b false))
          (BitVec.ofNat 32 (Ctx.src ⟨s, g, s.blockOf g⟩ j f.a false))))))) := by
  have lanes := runLanes_of_no_fault (out := fun i => valOut i.fsr.toNat) here legal
  have shape : rrrShape f false (some 1) = intShape f false (some 1) := rfl
  change execFssr f s = _
  simp only [execFssr, narrow, reduceCtorEq, if_false, fssrLanes, here, shape, lanes, laneState_act]
  simp only [OpShape.input, intShape, narrow]
  rfl

/-- R144: FGSR.n64 gives the gang's register. -/
theorem exec_fgsr_gang (wide : f.ty = .n64) (legal : (intShape f false (some 1)).faults g (lanesOf s.act) = []) :
    exec (.fgsr f) s = .next (laneState (intShape f false (some 1)) (fun _ => ⟨some g.regs.sfsr.toNat, none, 0⟩) s g) := by
  rw [← runLanes_of_no_fault here legal]
  change execFgsr f s = _
  simp only [execFgsr, here, wide, if_true]
  rfl

/-- R145: FSSR.n64 replaces the gang's register once, and gives the old one. -/
theorem exec_fssr_gang (alone : ∀ h ∈ s.gangs, h.uid = s.cx.gang → h = g) (wide : f.ty = .n64) (acts : s.acts = true) :
    exec (.fssr f) s = .next (s.onIssuer (fun g' => g'.deliver s.cx.pc s.cx.pos (some 1)
      (.sfsrSet (fsrWrite g.regs.sfsr (fssrMask f (gangSrc s g f.b)) (BitVec.ofNat 32 (gangSrc s g f.a))) ::
        Ctx.dst ⟨s, g, s.blockOf g⟩ 0 f.d .n64 g.regs.sfsr.toNat))) := by
  change execFssr f s = _
  simp only [execFssr, wide, if_true, fssrGang, onceForGang, here, acts]
  exact congrArg _ (onIssuer_congr alone rfl)

end resident

/-! ### Two gangs of one number -/

/-- Two gangs that bear one number, for which a word is issued and acts; they hold `0x20` and 0 in `%sfsr`. -/
def twinGangs : State :=
  let g := placedGang 1 0
  { State.reset with
    gangs := [g, { g with regs := { g.regs with sfsr := 0 } }]
    cx := ⟨1, 0, 0, 1, 1, false, 0, false⟩ }

/-- FSSR.n64 into `s0`, without a mask. -/
def twinWord : RRR := ⟨.s 0, .none, .none, .n64, none, false, false, 0⟩

/-- What is due in the second gang of a state. -/
def secondPends (r : Res) : List Pend :=
  match r with
  | .next t => t.gangs[1]?.elim [] (fun g => g.issue.elim [] (·.pends))
  | _ => []

/-- Refutes O16: its clause on FSSR.n64 takes any state, also one in which two gangs bear the number of the issuing one. The word is
then delivered in both, to each with its own old `%sfsr`, where the clause has that of the first: in `twinGangs` the second gang's
`s0` gets 0, and not `0x20`. The other clauses hold, and this one for a gang that alone bears its number: `answers_fgsr_lanes`,
`exec_fgsr_gang`, `exec_fssr_lanes`, `exec_fssr_gang`, `fsrWrite_fields`. -/
theorem not_statusRegisterWords : ¬ Obligations.StatusRegisterWords := by
  unfold Obligations.StatusRegisterWords
  rintro ⟨-, words, -⟩
  obtain ⟨-, -, gang⟩ := words twinWord twinGangs (placedGang 1 0) (by decide) (by decide)
  have due := congrArg secondPends (gang rfl (by decide))
  revert due
  decide

end Sys2Proof.Machine
end

section
/-! PROOFS. Cross-lane words at issue (R147 to R150): who joins a gathering, and what the word leaves unchanged. O17. -/
namespace Sys2Proof.Machine
open Sys2Proof.Laws Sys2Proof.Claim

/-! ### Gatherings that keep their participants (R148) -/

/-- Some gathering at the address `pc` has a participant with the property. -/
def gathers (pc : W64) (P : Participant → Prop) (hs : List Gathering) : Prop := ∃ h ∈ hs, h.pc = pc ∧ ∃ p ∈ h.parts, P p

/-- What joined a gathering of the first list is in one at the same address of the second. -/
def keepsParts (hs hs' : List Gathering) : Prop := ∀ h ∈ hs, ∃ h' ∈ hs', h'.pc = h.pc ∧ h.parts ⊆ h'.parts

theorem keepsParts_refl (hs : List Gathering) : keepsParts hs hs := fun h mem => ⟨h, mem, rfl, List.Subset.refl _⟩

theorem keepsParts_trans {a b c : List Gathering} (first : keepsParts a b) (second : keepsParts b c) : keepsParts a c := by
  intro h mem
  obtain ⟨h1, mem1, pc1, parts1⟩ := first h mem
  obtain ⟨h2, mem2, pc2, parts2⟩ := second h1 mem1
  exact ⟨h2, mem2, pc2.trans pc1, List.Subset.trans parts1 parts2⟩

theorem keepsParts_map {f : Gathering → Gathering} (pc : ∀ h, (f h).pc = h.pc) (parts : ∀ h, h.parts ⊆ (f h).parts) (hs : List Gathering) :
    keepsParts hs (hs.map f) :=
  fun h mem => ⟨f h, List.mem_map_of_mem mem, pc h, parts h⟩

theorem keepsParts_foldl {B : Type} {f : Gang → B → Gang} (keeps : ∀ g x, keepsParts g.gath (f g x).gath) (xs : List B) (g : Gang) :
    keepsParts g.gath (xs.foldl f g).gath := by
  induction xs generalizing g with
  | nil => exact keepsParts_refl _
  | cons x xs ih => exact keepsParts_trans (keeps g x) (ih _)

theorem gathers_of_keepsParts {pc : W64} {P : Participant → Prop} {hs hs' : List Gathering} (old : gathers pc P hs)
    (keeps : keepsParts hs hs') : gathers pc P hs' := by
  obtain ⟨h, mem, here, p, joined, holds⟩ := old
  obtain ⟨h', mem', same, parts⟩ := keeps h mem
  exact ⟨h', mem', same.trans here, p, parts joined, holds⟩

/-! ### One more participant -/

/-- A participant joins the gathering of a number. -/
def addPart (id : Nat) (p : Participant) (h : Gathering) : Gathering := if h.id = id then { h with parts := h.parts ++ [p] } else h

theorem keepsParts_addPart (id : Nat) (p : Participant) (hs : List Gathering) : keepsParts hs (hs.map (addPart id p)) := by
  refine keepsParts_map (fun h => ?_) (fun h => ?_) hs <;> unfold addPart <;> split
  · rfl
  · rfl
  · exact List.subset_append_left ..
  · exact List.Subset.refl _

theorem gathers_addPart {h : Gathering} {hs : List Gathering} (mem : h ∈ hs) {P : Participant → Prop} {p : Participant} (holds : P p) :
    gathers h.pc P (hs.map (addPart h.id p)) := by
  have joins : addPart h.id p h = { h with parts := h.parts ++ [p] } := if_pos rfl
  exact ⟨_, List.mem_map_of_mem mem, by rw [joins], p, by simp [joins], holds⟩

/-! ### One lane joins (R148) -/

/-- What a participant of a lane brings from the word's issue: the lane's guard and its operand. -/
def standsFor (c : Ctx) (i : Instr) (f : RRR) (lane : Nat) (p : Participant) : Prop :=
  p.lane = lane ∧ p.guard = maskHas c.s.act lane ∧ p.opnd = BitVec.ofNat 64 (c.src lane f.a (tyWidth (laneOpTy i f) == 64))

/-- R148: a lane joins a gathering at the word's address, and every earlier participant stays. The gang keeps its number and its
registers. -/
theorem joinLane_spec (g : Gang) (c : Ctx) (i : Instr) (f : RRR) (fresh lane : Nat) :
    (g.joinLane c i f fresh lane).uid = g.uid ∧ (g.joinLane c i f fresh lane).regs = g.regs ∧
    keepsParts g.gath (g.joinLane c i f fresh lane).gath ∧
    gathers c.s.cx.pc (standsFor c i f lane) (g.joinLane c i f fresh lane).gath := by
  unfold Gang.joinLane
  extract_lets guard oid g1 ctl p
  have p_stands : standsFor c i f lane p := ⟨rfl, rfl, rfl⟩
  obtain ⟨uid, regs, gath⟩ : g1.uid = g.uid ∧ g1.regs = g.regs ∧ g1.gath = g.gath := by
    cases hg : guard <;> simp only [g1, hg] <;> exact ⟨rfl, rfl, rfl⟩
  rw [← uid, ← regs, ← gath]
  split
  next h found =>
    have at_word : h.pc = c.s.cx.pc := by
      have meets := List.find?_some found
      simp only [Bool.and_eq_true, beq_iff_eq] at meets
      obtain ⟨⟨⟨at_word, -⟩, -⟩, -⟩ := meets
      exact at_word
    exact ⟨rfl, rfl, keepsParts_addPart h.id p _, at_word ▸ gathers_addPart (List.mem_of_find?_eq_some found) p_stands⟩
  next =>
    split
    next opened =>
      obtain ⟨h, mem, own⟩ := List.any_eq_true.mp opened
      obtain ⟨rfl, at_word⟩ : h.id = fresh ∧ h.pc = c.s.cx.pc := by simpa using own
      exact ⟨rfl, rfl, keepsParts_addPart h.id p _, at_word ▸ gathers_addPart mem p_stands⟩
    next =>
      refine ⟨rfl, rfl, fun h mem => ⟨h, List.mem_append_left _ mem, rfl, List.Subset.refl _⟩, ?_⟩
      exact ⟨_, List.mem_append_right _ (List.mem_singleton_self _), rfl, p, List.mem_singleton_self _, p_stands⟩

theorem joinLane_uid (g : Gang) (c : Ctx) (i : Instr) (f : RRR) (fresh lane : Nat) : (g.joinLane c i f fresh lane).uid = g.uid :=
  have ⟨uid, _⟩ := joinLane_spec g c i f fresh lane
  uid

theorem joinLane_regs (g : Gang) (c : Ctx) (i : Instr) (f : RRR) (fresh lane : Nat) : (g.joinLane c i f fresh lane).regs = g.regs :=
  have ⟨_, regs, _⟩ := joinLane_spec g c i f fresh lane
  regs

theorem keepsParts_joinLane (g : Gang) (c : Ctx) (i : Instr) (f : RRR) (fresh lane : Nat) :
    keepsParts g.gath (g.joinLane c i f fresh lane).gath :=
  have ⟨_, _, keeps, _⟩ := joinLane_spec g c i f fresh lane
  keeps

/-- R148: each of the lanes that join is a participant in the end. -/
theorem gathers_foldl_joinLane {c : Ctx} {i : Instr} {f : RRR} {fresh j : Nat} {lanes : List Nat} (joins : j ∈ lanes) (g : Gang) :
    gathers c.s.cx.pc (standsFor c i f j) (lanes.foldl (fun g j => g.joinLane c i f fresh j) g).gath := by
  induction lanes generalizing g with
  | nil => exact absurd joins List.not_mem_nil
  | cons x lanes ih =>
    rcases List.mem_cons.mp joins with rfl | later
    · obtain ⟨-, -, -, joined⟩ := joinLane_spec g c i f fresh j
      exact gathers_of_keepsParts joined (keepsParts_foldl (fun g x => keepsParts_joinLane g c i f fresh x) lanes _)
    · exact ih later _

/-! ### Gatherings that close (R148) -/

theorem keepsRegs_closeOne (g : Gang) (h : Gathering) : keepsRegs g.regs (g.closeOne h).regs := by
  obtain ⟨gath, out, lanes, frame, woken⟩ := closeOne_frame g h
  refine ⟨?_, ?_, ?_, fun j => sameRegs_of_goesOn (woken j)⟩ <;> rw [frame]

theorem keepsParts_closeOne (g : Gang) (h : Gathering) : keepsParts g.gath (g.closeOne h).gath := by
  refine keepsParts_map (fun x => ?_) (fun x => ?_) g.gath <;> split
  · rfl
  · rfl
  · exact List.Subset.refl _
  · exact List.Subset.refl _

theorem closeGatherings_uid (g : Gang) : g.closeGatherings.uid = g.uid :=
  foldl_keeps Gang.uid Gang.closeOne (fun _ _ => rfl) _ g

theorem keepsRegs_closeGatherings (g : Gang) : keepsRegs g.regs g.closeGatherings.regs :=
  keepsRegs_foldl Gang.regs keepsRegs_closeOne _ g

theorem keepsParts_closeGatherings (g : Gang) : keepsParts g.gath g.closeGatherings.gath :=
  keepsParts_foldl keepsParts_closeOne _ g

/-! ### The word (R148 to R150) -/

/-- R152: the port faults of a cross-lane word. -/
def joinFaults (f : RRR) (s : State) (g : Gang) : List LaneFault :=
  (lanesOf s.act).filterMap (fun j =>
    ((portFault (g.regs.lane j) f.a false).orElse (fun _ => portFault (g.regs.lane j) f.b false)).map (fun d => ⟨j, 0x03, d, 0⟩))

/-- R148: what a cross-lane word that the gang `g0` issues in the state `s` does to its gang: the lanes join, their ports move
on, gatherings close. -/
def joinedGang (i : Instr) (f : RRR) (s : State) (g0 g : Gang) : Gang :=
  ((lanesOf s.act).foldl (fun (g : Gang) j => g.advancePorts j (lanePorts f))
    ((lanesOf (s.cx.clutch &&& ~~~s.cx.parked)).foldl (fun (g : Gang) j => g.joinLane ⟨s, g0, s.blockOf g0⟩ i f g0.nextId j)
      { g with nextId := g.nextId + 1 })).closeGatherings

theorem joinedGang_uid (i : Instr) (f : RRR) (s : State) (g0 g : Gang) : (joinedGang i f s g0 g).uid = g.uid := by
  rw [joinedGang, closeGatherings_uid, foldl_keeps Gang.uid _ (fun _ _ => advancePorts_uid ..), foldl_keeps Gang.uid _ (fun _ _ => joinLane_uid ..)]

theorem keepsRegs_joinedGang (i : Instr) (f : RRR) (s : State) (g0 g : Gang) : keepsRegs g.regs (joinedGang i f s g0 g).regs := by
  refine keepsRegs_trans (keepsRegs_of_eq ?_)
    (keepsRegs_trans (keepsRegs_foldl Gang.regs (fun _ _ => keepsRegs_advancePorts ..) _ _) (keepsRegs_closeGatherings _))
  exact foldl_keeps Gang.regs _ (fun _ _ => joinLane_regs ..) _ _

theorem gathers_joinedGang (i : Instr) (f : RRR) {s : State} (g0 g : Gang) {j : Nat} (joins : j ∈ lanesOf (s.cx.clutch &&& ~~~s.cx.parked)) :
    gathers s.cx.pc (standsFor ⟨s, g0, s.blockOf g0⟩ i f j) (joinedGang i f s g0 g).gath := by
  refine gathers_of_keepsParts (gathers_of_keepsParts ?_ (keepsParts_foldl (fun g j => ?_) _ _)) (keepsParts_closeGatherings _)
  · exact gathers_foldl_joinLane (c := ⟨s, g0, s.blockOf g0⟩) joins _
  · exact keepsParts_refl g.gath

theorem gang?_joinedGang {s : State} {g : Gang} (here : s.gang? s.cx.gang = some g) (i : Instr) (f : RRR) :
    (s.onIssuer (joinedGang i f s g)).gang? s.cx.gang = some (joinedGang i f s g g) := by
  rw [State.onIssuer, gang?_modGang_self _ _ _ (joinedGang_uid i f s g), here, Option.map_some]

/-- R148 to R150: a cross-lane word of a resident gang parks the lanes that fault, joins the others, and lets those wait whose
gathering stays open. -/
theorem joinWord_of_gang? {i : Instr} {f : RRR} {s : State} {g : Gang} (here : s.gang? s.cx.gang = some g) :
    ∃ g1, (takeFaults s (joinFaults f s g)).gang? s.cx.gang = some g1 ∧ joinWord i f s =
      let s1 := takeFaults s (joinFaults f s g)
      waitLanes (s1.onIssuer (joinedGang i f s1 g1)) ((joinedGang i f s1 g1 g1).openLanes s1.act) := by
  obtain ⟨g1, still, place⟩ := gang?_takeFaults here (joinFaults f s g)
  refine ⟨g1, still, ?_⟩
  extract_lets s1
  have still' : s1.gang? s1.cx.gang = some g1 := place ▸ still
  have joined := gang?_joinedGang still' i f
  unfold joinWord
  split
  next gone => cases here.symm.trans gone
  next g' here' =>
    cases here.symm.trans here'
    extract_lets bad s2
    split
    next gone => cases still'.symm.trans gone
    next g1' here1 =>
      cases still'.symm.trans here1
      extract_lets c fresh s3
      split
      next gone => cases joined.symm.trans gone
      next g2 here2 =>
        cases joined.symm.trans here2
        rfl

/-- R150: the gang of a word after which some lanes wait. -/
def Gang.waiting (g : Gang) (pc : W64) (lanes : LaneMask) : Gang :=
  { g with regs := (lanesOf lanes).foldl (fun r j => r.modLane j (fun l => { l with status := .waiting, pc := nextPc pc })) g.regs }

theorem waitLanes_eq (s : State) (lanes : LaneMask) :
    waitLanes s lanes = { s.onIssuer (·.waiting s.cx.pc lanes) with cx := { s.cx with parked := s.cx.parked ||| lanes } } := rfl

theorem keepsRegs_waiting (g : Gang) (pc : W64) (lanes : LaneMask) : keepsRegs g.regs (g.waiting pc lanes).regs :=
  keepsRegs_foldl id (fun r j => keepsRegs_modLane (f := fun l => { l with status := .waiting, pc := nextPc pc })
    (fun _ => ⟨rfl, rfl, rfl, rfl, rfl, rfl, rfl, rfl⟩) r j) _ g.regs

theorem leavesRegs_waitLanes (s : State) (lanes : LaneMask) : LeavesRegs s (waitLanes s lanes) := by
  obtain ⟨-, others, own⟩ := leavesRegs_onIssuer s (f := (·.waiting s.cx.pc lanes)) (fun _ => rfl) (fun _ => keepsRegs_waiting ..)
  rw [waitLanes_eq]
  exact ⟨rfl, others, own⟩

theorem gang?_waitLanes {s : State} {g : Gang} (here : s.gang? s.cx.gang = some g) (lanes : LaneMask) :
    (waitLanes s lanes).gang? s.cx.gang = some (g.waiting s.cx.pc lanes) := by
  rw [waitLanes_eq]
  exact (gang?_modGang_self s s.cx.gang (·.waiting s.cx.pc lanes) (fun _ => rfl)).trans (congrArg (Option.map _) here)

theorem leavesRegs_joinWord (i : Instr) (f : RRR) (s : State) : LeavesRegs s (joinWord i f s) := by
  cases here : s.gang? s.cx.gang with
  | none =>
    rw [joinWord, here]
    exact .refl s
  | some g =>
    obtain ⟨g1, -, eq⟩ := joinWord_of_gang? (i := i) (f := f) here
    rw [eq]
    have joined := fun s1 => leavesRegs_onIssuer s1 (joinedGang_uid i f s1 g1) (keepsRegs_joinedGang i f s1 g1)
    exact (leavesRegs_takeFaults s _).trans ((joined _).trans (leavesRegs_waitLanes ..))

/-- R147: every cross-lane word is one that joins. -/
theorem exec_of_laneRRR {i : Instr} {f : RRR} (word : laneRRR i = some f) (s : State) : exec i s = .next (joinWord i f s) := by
  cases i with
  | shflIdx g | shflUp g | shflDown g | shflXor g | ballot g | voteEvery g | voteSome g | voteAgree g | voteCount g | bcast g
  | elect g | matchL g | qmx g | scan g op excl | reduce g op =>
    cases word
    rfl
  | _ => nomatch word

theorem joinFaults_eq_nil {f : RRR} {s : State} {g : Gang} (legal : ∀ j, maskHas s.act j = true →
    portFault (g.regs.lane j) f.a false = none ∧ portFault (g.regs.lane j) f.b false = none) : joinFaults f s g = [] := by
  refine List.filterMap_eq_nil_iff.mpr (fun j mem => ?_)
  obtain ⟨a, b⟩ := legal j ((mem_lanesOf ..).mp mem).2
  rw [a, b]
  rfl

/-- R148: a cross-lane word none of whose lanes faults joins every lane of its clutch. -/
theorem joins_of_laneRRR {i : Instr} {f : RRR} (word : laneRRR i = some f) : Joins i f := by
  intro s g here unparked legal
  obtain ⟨g1, still, eq⟩ := joinWord_of_gang? (i := i) (f := f) here
  rw [joinFaults_eq_nil legal, takeFaults_nil] at still eq
  cases here.symm.trans still
  refine ⟨_, _, (exec_of_laneRRR word s).trans (congrArg _ eq), gang?_waitLanes (gang?_joinedGang here i f) _, fun j lane clutch => ?_⟩
  have all : s.cx.clutch &&& ~~~s.cx.parked = s.cx.clutch := by
    rw [unparked]
    exact BitVec.and_allOnes
  have joins : j ∈ lanesOf (s.cx.clutch &&& ~~~s.cx.parked) := by simp [all, lane, clutch]
  obtain ⟨h, mem, at_word, p, part, own, guard, opnd⟩ := gathers_joinedGang i f g g joins
  refine ⟨h, mem, at_word, p, part, own, guard, opnd.trans ?_⟩
  cases i with
  | shflIdx | shflUp | shflDown | shflXor | ballot | voteEvery | voteSome | voteAgree | voteCount | bcast | elect | matchL | qmx
  | scan | reduce => rfl
  | _ => nomatch word

/-- Settles O17: joining, moving ports on, closing and waiting all act beside the registers of the word's own gang; each lane's
participant stays through what follows its joining. -/
theorem crossLaneWordsJoin : Obligations.CrossLaneWordsJoin := by
  unfold Obligations.CrossLaneWordsJoin
  refine ⟨fun i s t word h => ?frame, fun f => ?joins⟩
  case frame =>
    obtain ⟨f, word⟩ := Option.isSome_iff_exists.mp word
    cases (exec_of_laneRRR word s).symm.trans h
    have frame := leavesRegs_joinWord i f s
    refine ⟨⟨frame.rest, frame.others, frame.viewByte⟩, fun g g' here here' => ?_⟩
    obtain ⟨g1, here1, keeps⟩ := frame.own g here
    cases here1.symm.trans here'
    exact keeps
  case joins =>
    have joins : ∀ {i}, laneRRR i = some f → Joins i f := joins_of_laneRRR
    exact ⟨joins rfl, joins rfl, joins rfl, joins rfl, joins rfl, joins rfl, joins rfl, joins rfl, joins rfl, joins rfl, joins rfl,
      joins rfl, joins rfl, fun _ _ => joins rfl, fun _ => joins rfl⟩

end Sys2Proof.Machine
end

section
/-! PROOFS. A closed gathering delivers (R152, R154 to R156): the lowest reader, what a reader's result writes, and how the
results arrive. O18. -/
namespace Sys2Proof.Machine
open Sys2Proof.Laws Sys2Proof.Claim

/-! ### The lowest reader (R156) -/

theorem le_foldl_min_iff (ps : List Participant) (m x : Nat) :
    x ≤ ps.foldl (fun m p => min m p.lane) m ↔ x ≤ m ∧ ∀ p ∈ ps, x ≤ p.lane := by
  induction ps generalizing m with
  | nil => simp
  | cons p ps ih => rw [List.foldl_cons, ih, le_min_iff, List.forall_mem_cons, and_assoc]

/-- The readers of a gathering: its guard-true participants. -/
def Gathering.readers (h : Gathering) : List Participant := h.parts.filter (fun p => p.guard)

/-- The lane of the lowest reader. -/
def Gathering.firstLane (h : Gathering) : Nat := h.readers.foldl (fun m p => min m p.lane) 32

/-- R156: the lowest reader is the one below whose lane no reader stands. -/
theorem lane_eq_firstLane_iff {h : Gathering} {p : Participant} (reads : p ∈ h.readers) (low : p.lane < 32) :
    p.lane = h.firstLane ↔ ∀ q ∈ h.parts, q.guard = true → q.lane < 32 → p.lane ≤ q.lane := by
  obtain ⟨-, below⟩ := (le_foldl_min_iff h.readers 32 h.firstLane).mp le_rfl
  have least : p.lane = h.firstLane ↔ ∀ q ∈ h.readers, p.lane ≤ q.lane := by
    rw [Nat.le_antisymm_iff, and_iff_left (below p reads), Gathering.firstLane, le_foldl_min_iff, and_iff_right (by omega)]
  rw [least]
  constructor
  · exact fun all q mem guard _ => all q (List.mem_filter.mpr ⟨mem, guard⟩)
  · intro all q mem
    obtain ⟨mem, guard⟩ := List.mem_filter.mp mem
    rcases Nat.lt_or_ge q.lane 32 with in_gang | beyond
    · exact all q mem guard in_gang
    · exact Nat.le_trans (Nat.le_of_lt low) beyond

/-! ### What a reader's result writes (R154 to R156) -/

/-- R154 to R156: a result's register, condition code and flags; D and the flags of a scalar D through one reader alone. -/
theorem mem_laneEffs_iff {f : RRR} (noCode : ∀ n, f.d ≠ .k n) {first : Bool} {mine : Prop} (own : mine ↔ opdUniform f.d = false ∨ first = true)
    (i : Instr) (ord lane : Nat) (x : LaneRes) (e : Eff) :
    e ∈ laneEffs i f ord lane first x ↔ (mine ∧ writesReg (laneResTy i f) lane f.d ord x.r e) ∨ (f.cce = true ∧ e = .k lane f.ccd x.k) ∨
      (mine ∧ x.fl ≠ 0 ∧ e = if opdUniform f.d then .sfsrOr x.fl else .fsrOr lane x.fl) := by
  unfold laneEffs
  rw [List.mem_append, List.mem_append, or_assoc]
  refine or_congr ?result (or_congr ?code ?flags)
  case result =>
    cases d : f.d with
    | v n =>
      simp only [writesReg, ofNat_extendTo, own, d, opdUniform, true_or, true_and]
      split <;> simp
    | s n | c n => cases first <;> simp [own, d, opdUniform, gangEffs, writesReg, ofNat_extendTo]
    | k n => exact absurd d (noCode n)
    | zero | ones | sp | rport | wport | m | bad | none => simp [gangEffs, writesReg]
  case code => cases f.cce <;> simp
  case flags =>
    cases uniform : opdUniform f.d <;> cases first <;> simp [own, uniform, mem_flagEffs_iff]

/-! ### Results that arrive (R152) -/

/-- What the result of a reader writes, the result being the `ord`th of its gang's operations. -/
def readerEffs (h : Gathering) (f : RRR) (ord : Nat) (p : Participant) : List Eff :=
  laneEffs h.op f ord p.lane (p.lane == h.firstLane) (laneResult h.op f ⟨p.lane, p.mask, h.parts, h.absent, h.scalar⟩ p)

/-- An outstanding result, to which that of the operation `oid` has come. -/
def Outst.withResult (oid : Nat) (es : List Eff) (o : Outst) : Outst :=
  if o.id = oid then { o with effs := o.effs ++ es, arrived := true } else o

theorem withResult_id (oid : Nat) (es : List Eff) (o : Outst) : (o.withResult oid es).id = o.id := by
  unfold Outst.withResult
  split <;> rfl

theorem withResult_ord (oid : Nat) (es : List Eff) (o : Outst) : (o.withResult oid es).ord = o.ord := by
  unfold Outst.withResult
  split <;> rfl

theorem arrive_out (g : Gang) (oid : Nat) (es : List Eff) : (g.arrive oid es).out = g.out.map (Outst.withResult oid es) := rfl

/-- A result that comes leaves every operation at its place in the program order. -/
theorem outOrd_arrive (g : Gang) (oid : Nat) (es : List Eff) (u : Nat) : (g.arrive oid es).outOrd u = g.outOrd u := by
  have ids : (fun o : Outst => o.id == u) ∘ Outst.withResult oid es = fun o => o.id == u :=
    funext fun o => congrArg (· == u) (withResult_id oid es o)
  have ords : Outst.ord ∘ Outst.withResult oid es = Outst.ord := funext (withResult_ord oid es)
  rw [Gang.outOrd, arrive_out, List.find?_map, ids, Option.map_map, ords]
  rfl

/-- R152: the result of one reader arrives. -/
def Gang.deliverReader (g : Gang) (h : Gathering) (f : RRR) (p : Participant) : Gang :=
  g.arrive p.oid (readerEffs h f (g.outOrd p.oid) p)

theorem deliverGathering_eq (g : Gang) (h : Gathering) (f : RRR) :
    g.deliverGathering h f = h.readers.foldl (·.deliverReader h f ·) { g with gath := g.gath.filter (fun x => x.id != h.id) } := rfl

section delivery
variable {h : Gathering} {f : RRR} {ps : List Participant} {k : Nat} {o : Outst} {g : Gang}

theorem out_deliverReader (p : Participant) (out : g.out[k]? = some o) :
    (g.deliverReader h f p).out[k]? = some (o.withResult p.oid (readerEffs h f (g.outOrd p.oid) p)) := by
  rw [Gang.deliverReader, arrive_out, List.getElem?_map, out, Option.map_some]

/-- An outstanding result that is none of the readers' stays. -/
theorem out_foldl_deliverReader_of_ne (out : g.out[k]? = some o) (other : ∀ p ∈ ps, o.id ≠ p.oid) :
    (ps.foldl (·.deliverReader h f ·) g).out[k]? = some o := by
  induction ps generalizing g with
  | nil => exact out
  | cons p ps ih =>
    obtain ⟨ne, other⟩ := List.forall_mem_cons.mp other
    exact ih ((out_deliverReader p out).trans (congrArg some (if_neg ne))) other

/-- R152: each reader's result arrives once. -/
theorem out_foldl_deliverReader (once : (ps.map (·.oid)).Nodup) {p : Participant} (reads : p ∈ ps) (out : g.out[k]? = some o)
    (own : o.id = p.oid) : (ps.foldl (·.deliverReader h f ·) g).out[k]? =
      some { o with effs := o.effs ++ readerEffs h f (g.outOrd p.oid) p, arrived := true } := by
  induction ps generalizing g with
  | nil => exact absurd reads List.not_mem_nil
  | cons q ps ih =>
    obtain ⟨fresh, once⟩ := List.nodup_cons.mp once
    have step := out_deliverReader (h := h) (f := f) q out
    rw [List.foldl_cons]
    rcases List.mem_cons.mp reads with rfl | later
    · rw [Outst.withResult, if_pos own] at step
      exact out_foldl_deliverReader_of_ne step (fun q mem same => fresh (List.mem_map.mpr ⟨q, mem, same.symm.trans own⟩))
    · have ne : o.id ≠ q.oid := fun same => fresh (List.mem_map.mpr ⟨p, later, own.symm.trans same⟩)
      rw [Outst.withResult, if_neg ne] at step
      rw [ih once later step, Gang.deliverReader, outOrd_arrive]

end delivery

/-- R152: a delivery changes the gatherings and outstanding results of its gang alone. -/
theorem deliverGathering_frame (g : Gang) (h : Gathering) (f : RRR) : (g.deliverGathering h f).uid = g.uid ∧
    (g.deliverGathering h f).regs = g.regs ∧ (g.deliverGathering h f).gath = g.gath.filter (fun x => x.id != h.id) := by
  rw [deliverGathering_eq]
  exact ⟨foldl_keeps Gang.uid (·.deliverReader h f ·) (fun _ _ => rfl) _ _,
    foldl_keeps Gang.regs (·.deliverReader h f ·) (fun _ _ => rfl) _ _, foldl_keeps Gang.gath (·.deliverReader h f ·) (fun _ _ => rfl) _ _⟩

/-- R152: a closed gathering that rests on no run in quarantine delivers. -/
theorem exec_gatheringDelivery {s : State} {g : Gang} {gix : Nat} {h : Gathering} {f : RRR} (here : s.gang? g.uid = some g)
    (nth : g.gath[gix]? = some h) (closed : h.closed = true) (word : laneRRR h.op = some f) (sure : h.unsure g = false) :
    ∃ t, exec (.gatheringDelivery g.uid gix) s = .next t ∧ t.gang? g.uid = some (g.deliverGathering h f) ∧ t.mem = s.mem := by
  refine ⟨_, (rfl : _ = execGatheringDelivery g.uid gix s), ?_, rfl⟩
  rw [gang?_modGang_self, here, Option.map_some]
  · simp [nth, closed, word, sure]
  · intro x
    split
    next => rfl
    next h' _ =>
      split
      next => rfl
      next =>
        split
        next => rfl
        next f' _ =>
          obtain ⟨uid, -, -⟩ := deliverGathering_frame x h' f'
          exact uid

/-- Settles O18: each reader's operation is named once, so that its one result comes to it; the lowest reader's goes to a
scalar D. -/
theorem gatheringDelivers : Obligations.GatheringDelivers := by
  unfold Obligations.GatheringDelivers
  intro s g gix h f here nth closed word sure once noCode
  obtain ⟨t, run, there, mem⟩ := exec_gatheringDelivery here nth closed word sure
  obtain ⟨-, regs, gath⟩ := deliverGathering_frame g h f
  refine ⟨t, _, run, there, fun x hx => ?gone, fun p part guard low k o out own => ?arrives, regs, mem⟩
  case gone =>
    rw [gath] at hx
    simpa using (List.mem_filter.mp hx).2
  case arrives =>
    have reads : p ∈ h.readers := List.mem_filter.mpr ⟨part, guard⟩
    have scalar : h.scalar = opdUniform f.d := by simp [Gathering.scalar, word]
    have arrives := out_foldl_deliverReader (h := h) (f := f) once reads (g := { g with gath := g.gath.filter (fun x => x.id != h.id) }) out own
    refine ⟨_, arrives, fun e => ?_⟩
    rw [readerEffs, scalar]
    refine mem_laneEffs_iff noCode (or_congr_right ?_) ..
    rw [beq_iff_eq, lane_eq_firstLane_iff reads low]

end Sys2Proof.Machine
end

section
/-! PROOFS. Taking a fault at a word (R176). O21. -/
namespace Sys2Proof.Machine
open Sys2Proof.Laws Sys2Proof.Claim

/-- A change of the gang that issues the word, read back. -/
theorem gang?_onIssuer {s : State} {g : Gang} (here : s.gang? s.cx.gang = some g) {f : Gang → Gang} (keeps : ∀ x, (f x).uid = x.uid) :
    (s.onIssuer f).gang? s.cx.gang = some (f g) := by
  rw [State.onIssuer, gang?_modGang_self s _ f keeps, here, Option.map_some]

theorem faultFor_gang (s : State) (g : Gang) (cause detail : Nat) (pc addr : W64) (lanes : LaneMask) :
    (faultFor s g cause detail pc addr lanes).gang = g.idx ∧ (faultFor s g cause detail pc addr lanes).core = g.core := by
  unfold faultFor
  cases s.blockOf g <;> exact ⟨rfl, rfl⟩

/-- R176: the lanes that fault park at the word, every other lane is as before. -/
theorem lane_faulted (g : Gang) (pc : W64) (lanes : LaneMask) (req : FaultReq) (j : Nat) :
    (g.faulted pc lanes req).regs.lane j =
      if (j < 32 ∧ maskHas lanes j = true) ∧ j < g.regs.lanes.length then { g.regs.lane j with status := .parked, pc := pc }
      else g.regs.lane j := by
  rw [Gang.faulted, hold_regs]
  simp only [lane_foldl_modLane (fun _ l => { l with status := .parked, pc := pc }) (lanesOf_nodup lanes), mem_lanesOf]

/-- R34, R176: the record is held with the run in issue. -/
theorem issue_faulted {g : Gang} {r : RunIssue} (issuing : g.issue = some r) (pc : W64) (lanes : LaneMask) (req : FaultReq) :
    (g.faulted pc lanes req).issue =
      some { r with held := r.held ++ [⟨g.ord, g.run, pc, .fault req, r.clutch &&& ~~~r.gone⟩] } := by
  rw [Gang.faulted, hold_frame]
  simp only [issuing, Option.map_some]

theorem onlyGang_of_leavesRegs {s t : State} (h : LeavesRegs s t) : onlyGang s.cx.gang s t :=
  ⟨h.rest, h.others, fun view pa => h.viewByte view pa⟩

/-- Settles O21: the gang after the fault is the gang with the lanes parked and the record held. -/
theorem takingAFaultParksTheLanes : Obligations.TakingAFaultParksTheLanes := by
  unfold Obligations.TakingAFaultParksTheLanes
  intro s g r lanes cause detail addr here issuing
  obtain ⟨cause', detail', pc', addr', lanes'⟩ := faultFor_fields s g cause detail s.cx.pc addr lanes
  obtain ⟨gang', core'⟩ := faultFor_gang s g cause detail s.cx.pc addr lanes
  refine ⟨_, _, _, _, gang?_takeFault here lanes cause detail addr, issue_faulted issuing .., rfl, rfl, cause', detail', pc', addr',
    lanes', gang', core', fun j hj h32 mem => ?parks, fun j out => ?stays, fun j => ?keeps, ?mask,
    onlyGang_of_leavesRegs (leavesRegs_takeFault s lanes cause detail addr)⟩
  case parks =>
    rw [lane_faulted, if_pos ⟨⟨h32, mem⟩, hj⟩]
    exact ⟨rfl, rfl⟩
  case stays => rw [lane_faulted, if_neg (by simp [out])]
  case keeps =>
    obtain ⟨-, -, -, lanes⟩ := keepsRegs_faulted g s.cx.pc lanes (faultFor s g cause detail s.cx.pc addr lanes)
    exact lanes j
  case mask => rw [takeFault_of_gang? here]

end Sys2Proof.Machine
end

section
/-! PROOFS. Stream ports (R173, R174). O29. -/
namespace Sys2Proof.Machine
open Sys2Proof.Laws Sys2Proof.Claim

theorem issuing_of_gang? {s : State} {g : Gang} (here : s.gang? s.cx.gang = some g) (f : Gang → State) : issuing s f = f g := by
  rw [issuing, here]

/-- Ports that move on leave all but the lanes of a gang as it is. -/
theorem foldl_advancePorts_issue (ps : List Nat) (lanes : List Nat) (g : Gang) :
    (lanes.foldl (fun g i => g.advancePorts i ps) g).issue = g.issue :=
  foldl_keeps Gang.issue (fun (g : Gang) i => g.advancePorts i ps) (fun _ _ => rfl) lanes g

/-- R174: what SPOS leaves due for a lane whose port is bound. -/
def sposEffs (c : Ctx) (f : EF) (port : Fin 8) (i : Nat) : List Eff :=
  match (c.g.regs.lane i).port? port.val with
  | none => []
  | some p => c.dst i f.d .n32 p.pos.toNat ++
      (if f.a = .none then [] else [.port i port.val { p with pos := BitVec.ofNat 32 (c.src i f.a false) }])

theorem exec_spos_of_bound {s : State} {g : Gang} (f : EF) (port : Fin 8) (here : s.gang? s.cx.gang = some g)
    (bound : ∀ i, maskHas s.act i = true → ((g.regs.lane i).port? port.val).isSome = true ∧ portFault (g.regs.lane i) f.a false = none) :
    exec (.spos f port) s = .next (s.onIssuer (fun x =>
      (lanesOf s.act).foldl (fun x i => x.advancePorts i ([f.a].filterMap opdPort))
        (x.emit (s.cx.pos + 1) ((lanesOf s.act).flatMap (sposEffs ⟨s, g, s.blockOf g⟩ f port))))) := by
  have none : (lanesOf s.act).filter (fun i =>
      ((g.regs.lane i).port? port.val).isNone || (portFault (g.regs.lane i) f.a false).isSome) = [] := by
    refine List.filter_eq_nil_iff.mpr fun i mem => ?_
    obtain ⟨some, sound⟩ := bound i ((mem_lanesOf ..).mp mem).2
    simp [Option.isSome_iff_ne_none.mp some, sound]
  change execSpos f port s = _
  rw [execSpos, issuing_of_gang? here]
  simp only [none, List.map_nil, takeFaults_nil]
  rfl

theorem sposEffs_of_bound {c : Ctx} {f : EF} {port : Fin 8} {i : Nat} {n : Fin 256} {p : Port} (dst : f.d = .v n) (src : f.a ≠ .none)
    (bound : (c.g.regs.lane i).port? port.val = some p) :
    sposEffs c f port i = [.v i n p.pos, .port i port.val { p with pos := BitVec.ofNat 32 (c.src i f.a false) }] := by
  have whole : BitVec.ofNat 32 (extendTo .n32 32 p.pos.toNat) = p.pos := by
    rw [ofNat_extendTo, extended, if_neg (by decide), val, BitVec.ofNat_toNat, BitVec.setWidth_setWidth_of_le _ (by decide)]
    exact BitVec.setWidth_eq _
  simp only [sposEffs, bound, dst, src, Ctx.dst, whole, tyWidth, if_false]
  rfl

/-- Settles O29: SBIND is its effects, and with every port bound SPOS faults in no lane. -/
theorem streamPortWords : Obligations.StreamPortWords := by
  unfold Obligations.StreamPortWords
  refine ⟨fun s g f here => ?_, fun s g r f port n j p here issuing dst src acts bound own => ?_⟩
  · change execSbind f s = _
    rw [execSbind, issuing_of_gang? here]
    rfl
  · have lane : j ∈ lanesOf s.act := (mem_lanesOf ..).mpr ⟨BitVec.lt_of_getLsbD acts, acts⟩
    let es := (lanesOf s.act).flatMap (sposEffs ⟨s, g, s.blockOf g⟩ f port)
    let r' : RunIssue := { r with pends := r.pends ++ es.map (fun e => ⟨s.cx.pos + 1, e⟩) }
    have own' := sposEffs_of_bound (c := ⟨s, g, s.blockOf g⟩) dst src own
    have due (e : Eff) (mem : e ∈ sposEffs ⟨s, g, s.blockOf g⟩ f port j) : (⟨s.cx.pos + 1, e⟩ : Pend) ∈ r'.pends :=
      List.mem_append_right _ (List.mem_map_of_mem (List.mem_flatMap.mpr ⟨j, lane, mem⟩))
    refine ⟨_, _, r', exec_spos_of_bound f port here bound, gang?_onIssuer here fun x => ?uid, ?issue, due _ (by simp [own']),
      due _ (by simp [own'])⟩
    case uid => rw [foldl_keeps Gang.uid _ (fun _ _ => advancePorts_uid ..), emit_uid]
    case issue =>
      rw [foldl_advancePorts_issue, emit_frame]
      simp only [issuing, Option.map_some, r', es]

end Sys2Proof.Machine
end

section
/-! PROOFS. Addresses and the checks of an access (R160 to R162, R165, R175). O25. -/
namespace Sys2Proof.Machine
open Sys2Proof.Laws Sys2Proof.Claim

/-! ### Effective addresses (R160) -/

theorem anchorVal_eq (c : Ctx) (lane : Nat) (base : Opd) (wide : Bool) (off : BitVec 12) :
    anchorVal c lane base wide off = (BitVec.ofNat 64 (c.src lane base wide) + off.signExtend 64).toNat := by
  rw [anchorVal, wrapInt_eq_toNat_ofInt, BitVec.ofInt_add, BitVec.signExtend, BitVec.ofInt_natCast]

theorem indexVal_v (c : Ctx) (lane : Nat) (n : Fin 256) : indexVal c lane (.v n) = ((c.g.regs.lane lane).getV n).toInt := by
  rw [indexVal, signExt_eq_toInt, BitVec.ofNat_toNat, BitVec.setWidth_eq]

/-- R160: an index that no vector register holds is a 64-bit value. -/
theorem indexVal_of_ne {o : Opd} (none : o ≠ .none) (v : ∀ n, o ≠ .v n) (c : Ctx) (lane : Nat) :
    indexVal c lane o = (BitVec.ofNat 64 (c.src lane o true)).toInt := by
  have wide : indexVal c lane o = signExt (c.src lane o true) 64 := by
    cases o with
    | none => exact absurd rfl none
    | v n => exact absurd rfl (v n)
    | _ => rfl
  rw [wide, signExt_eq_toInt]

/-- R160: the sum is taken modulo 2^64, whatever number stands for the index. -/
theorem effAddr_eq {c : Ctx} {lane : Nat} {f : MF} {idx : W64} (h : BitVec.ofInt 64 (indexVal c lane f.index) = idx) (wide : Bool) :
    effAddr c lane f wide = (BitVec.ofNat 64 (c.src lane f.base wide) +
      idx * (if f.sc then BitVec.ofNat 64 (sizeBytes f.size) else 1) + f.off.signExtend 64).toNat := by
  have scaled : BitVec.ofInt 64 (if f.sc then indexVal c lane f.index * (sizeBytes f.size : Int) else indexVal c lane f.index) =
      idx * (if f.sc then BitVec.ofNat 64 (sizeBytes f.size) else 1) := by
    split
    · rw [BitVec.ofInt_mul, h, BitVec.ofInt_natCast]
    · rw [h]; exact (mul_one idx).symm
  rw [effAddr, wrapInt_eq_toNat_ofInt, BitVec.ofInt_add, scaled, anchorVal_eq, BitVec.ofInt_natCast, BitVec.ofNat_toNat, BitVec.setWidth_eq]
  congr 1
  ring

theorem mem_performers (s : State) (ops : List Opd) (who : Option Nat) : who ∈ performers s ops ↔
    if ops.any opdPerLane then ∃ i, i < 32 ∧ maskHas s.act i = true ∧ who = some i else s.acts = true ∧ who = none := by
  unfold performers
  change who ∈ (if ops.any opdPerLane then _ else _) ↔ _
  split
  · simp only [List.mem_map, mem_lanesOf, and_assoc, eq_comm]
  · split <;> simp [*]

/-! ### The checks, in their order (R161, R175) -/

theorem access_of_aligned {ea n : Nat} (range : ea < 2 ^ 57) (aligned : ea % n = 0) (s : State) (g : Gang) (asid : Nat) (acc : Access) :
    access s g asid ea n acc = xlate s g.core asid ea acc false := by
  rw [access, if_neg (Nat.not_le.mpr range), if_neg (not_not.mpr aligned)]

/-- R175: the leaf that a core's TLB or a walk gives is checked. -/
theorem xlate_of_leaf {s : State} {core asid va : Nat} {l : Leaf} (range : va < 2 ^ 57) (found : tlbFind s core asid va = some l ∨
      (tlbFind s core asid va = none ∧ walkAsleep s asid va = false ∧ walk s asid va = .ok l)) (acc : Access) (elem : Bool) :
    xlate s core asid va acc elem = checkLeaf s asid va acc elem l := by
  obtain hit | ⟨miss, awake, walked⟩ := found
  · simp only [xlate, if_neg (Nat.not_le.mpr range), hit]
  · simp only [xlate, xlateWalk, if_neg (Nat.not_le.mpr range), miss, awake, walked, Bool.false_eq_true, if_false]

theorem xlate_of_walk_error {s : State} {core asid va e : Nat} (range : va < 2 ^ 57) (miss : tlbFind s core asid va = none)
    (awake : walkAsleep s asid va = false) (walked : walk s asid va = .error e) (acc : Access) (elem : Bool) :
    xlate s core asid va acc elem = walkFault acc e := by
  simp only [xlate, xlateWalk, if_neg (Nat.not_le.mpr range), miss, awake, walked, Bool.false_eq_true, if_false]

theorem checkLeaf_scope {s : State} {asid va : Nat} {acc : Access} {elem : Bool} {l : Leaf} (data : acc ≠ .fetch)
    (reserved : 5 ≤ entScope l.entry) : checkLeaf s asid va acc elem l = .fault 0x15 (entScope l.entry) :=
  if_pos ⟨data, reserved⟩

theorem checkLeaf_permission {s : State} {asid va : Nat} {acc : Access} {elem : Bool} {l : Leaf}
    (scope : acc = .fetch ∨ entScope l.entry < 5) (forbidden : acc.allowed (entR l.entry) (entW l.entry) (entX l.entry) = false) :
    checkLeaf s asid va acc elem l = .fault 0x11 acc.detail := by
  have passes : ¬ (acc ≠ .fetch ∧ entScope l.entry ≥ 5) := by rintro ⟨data, high⟩; exact scope.elim data (by omega)
  simp only [checkLeaf, if_neg passes, forbidden, Bool.not_false, if_true]

theorem checkLeaf_local {s : State} {asid va : Nat} {acc : Access} {l : Leaf} (scope : acc = .fetch ∨ entScope l.entry < 5)
    (permitted : acc.allowed (entR l.entry) (entW l.entry) (entX l.entry) = true) (home : globalAcc (entAddr l.entry) = accelId s) :
    checkLeaf s asid va acc false l = .ok ⟨cellOf s asid va l, entFmt l.entry, entBlk l.entry, entScope l.entry, l.base, l.size⟩ := by
  have passes : ¬ (acc ≠ .fetch ∧ entScope l.entry ≥ 5) := by rintro ⟨data, high⟩; exact scope.elim data (by omega)
  simp only [checkLeaf, if_neg passes, permitted, home, Bool.not_true, Bool.false_and, Bool.false_eq_true, if_false, ne_eq, not_true_eq_false]

/-! ### A plain access (R160, R161) -/

theorem mem_goodOnes {A : Type} (l : List (Attempt A)) (who : Option Nat) (x : A) :
    (who, x) ∈ goodOnes l ↔ ∃ a ∈ l, a.who = who ∧ a.res = .ok x := by
  refine List.mem_filterMap.trans (exists_congr fun a => and_congr_right fun _ => ?_)
  cases h : a.res <;> simp

theorem dataPort_eq_none {g : Gang} {o : Opd} {wide : Bool} {who : Option Nat} :
    dataPort g o wide who = none ↔ ∀ l, who = some l → portFault (g.regs.lane l) o wide = none := by
  cases who <;> simp [dataPort]

theorem mem_goodOnes_plainTries (s : State) (g : Gang) (f : MF) (ops : List Opd) (acc : Access) (who : Option Nat) (x : List Cell) :
    (who, x) ∈ goodOnes (plainTries s g f ops acc) ↔
      who ∈ performers s ops ∧ dataPort g f.d (sizeWide f.size) who = none ∧
      ∃ y, access s g (gangAsid (s.blockOf g)) (effAddr ⟨s, g, s.blockOf g⟩ (performLane s who) f true) (sizeBytes f.size) acc = .ok y ∧
        x = y.cells (sizeBytes f.size) := by
  rw [mem_goodOnes, plainTries]
  simp only [List.mem_map, exists_exists_and_eq_and]
  constructor
  · rintro ⟨p, mem, own, res⟩
    cases port : dataPort g f.d (sizeWide f.size) p with
    | some r => simp [port] at res
    | none =>
      simp only [port] at own res
      subst own
      cases came : access s g (gangAsid (s.blockOf g)) (effAddr ⟨s, g, s.blockOf g⟩ (performLane s p) f true) (sizeBytes f.size) acc with
      | ok y =>
        simp only [came, Except.ok.injEq] at res
        exact ⟨mem, port, y, rfl, res.symm⟩
      | _ => simp [came] at res
  · rintro ⟨mem, port, y, came, rfl⟩
    exact ⟨who, mem, by simp only [port], by simp only [port, came]⟩

/-! ### Elements (R165) -/

/-- R165: the bytes of an element, each in a page of the same format, as the places that their translations give. -/
theorem foldlM_cells {byte : Nat → XRes} {fmt blk n : Nat} {step : List Cell → Nat → Except (XRes × Nat) (List Cell)}
    (one : ∀ acc i z, byte i = .ok z → z.fmt = fmt → z.blk = blk → step acc i = .ok (acc ++ [z.cell]))
    (all : ∀ i, i < n → ∃ z, byte i = .ok z ∧ z.fmt = fmt ∧ z.blk = blk) :
    ∃ cs, (List.range n).foldlM step [] = .ok cs ∧ cs.length = n ∧
      ∀ i k z, cs[i]? = some k → byte i = .ok z → k = z.cell := by
  induction n with
  | zero => exact ⟨[], rfl, rfl, by simp⟩
  | succ n ih =>
    obtain ⟨cs, run, len, places⟩ := ih fun i hi => all i (Nat.lt_succ_of_lt hi)
    obtain ⟨z, last, same, same'⟩ := all n (Nat.lt_succ_self n)
    refine ⟨cs ++ [z.cell], ?_, by simp [len], fun i k y at' byte' => ?_⟩
    · rw [List.range_succ, List.foldlM_append, run]
      exact (congrArg (· >>= pure) (one cs n z last same same')).trans rfl
    · obtain lt | rfl | gt := Nat.lt_trichotomy i n
      · exact places i k y (by rwa [List.getElem?_append_left (len.symm ▸ lt)] at at') byte'
      · rw [← len, List.getElem?_concat_length] at at'
        cases at'
        cases last.symm.trans byte'
        rfl
      · rw [List.getElem?_eq_none (by simp [len]; omega)] at at'
        exact absurd at' (by simp)

section element
variable {s : State} {c : Ctx} {lane : Nat} {f : MEF} {acc : Access} {y : Xl}

theorem plainElem_of_out_of_range (out : 2 ^ 57 ≤ anchorVal c lane f.base true f.off) :
    plainElem s c lane f acc = .error (.fault 0x12 0, anchorVal c lane f.base true f.off) :=
  if_pos out

theorem plainElem_of_ok (range : anchorVal c lane f.base true f.off < 2 ^ 57)
    (page : xlate s c.g.core (gangAsid c.b) (anchorVal c lane f.base true f.off) acc true = .ok y) :
    let bit : Int := 8 * (anchorVal c lane f.base true f.off : Int) + indexVal c lane f.index * (elemBits y.fmt : Int)
    plainElem s c lane f acc =
      (elemCells s c.g.core (gangAsid c.b) acc y.fmt y.blk bit).map (fun cs => ⟨none, cs, (bit % 8).toNat, y.fmt⟩) := by
  simp only [plainElem, if_neg (Nat.not_le.mpr range), page]

end element

section cells
variable {s : State} {core asid : Nat} {acc : Access} {fmt blk : Nat} {bit : Int}

theorem elemCells_of_out_of_range (out : 2 ^ 57 ≤ (BitVec.ofInt 64 (bit / 8)).toNat) :
    elemCells s core asid acc fmt blk bit = .error (.fault 0x12 0, (BitVec.ofInt 64 (bit / 8)).toNat) := by
  rw [← wrapInt_eq_toNat_ofInt] at out ⊢
  exact if_pos out

theorem elemCells_of_misaligned (range : (BitVec.ofInt 64 (bit / 8)).toNat < 2 ^ 57) (wide : 16 ≤ elemBits fmt)
    (off : (BitVec.ofInt 64 (bit / 8)).toNat % (elemBits fmt / 8) ≠ 0) :
    elemCells s core asid acc fmt blk bit = .error (.fault 0x13 (elemBits fmt / 8), (BitVec.ofInt 64 (bit / 8)).toNat) := by
  rw [← wrapInt_eq_toNat_ofInt] at range off ⊢
  exact (if_neg (Nat.not_le.mpr range)).trans (if_pos ⟨wide, off⟩)

theorem elemCells_of_ok (range : (BitVec.ofInt 64 (bit / 8)).toNat < 2 ^ 57)
    (aligned : 16 ≤ elemBits fmt → (BitVec.ofInt 64 (bit / 8)).toNat % (elemBits fmt / 8) = 0)
    (pages : ∀ i, i < ((bit % 8).toNat + elemBits fmt + 7) / 8 → ∃ z,
      xlate s core asid (((BitVec.ofInt 64 (bit / 8)).toNat + i) % 2 ^ 64) acc true = .ok z ∧ z.fmt = fmt ∧ z.blk = blk) :
    ∃ cs, elemCells s core asid acc fmt blk bit = .ok cs ∧ cs.length = ((bit % 8).toNat + elemBits fmt + 7) / 8 ∧
      ∀ i k z, cs[i]? = some k → xlate s core asid (((BitVec.ofInt 64 (bit / 8)).toNat + i) % 2 ^ 64) acc true = .ok z → k = z.cell := by
  obtain ⟨cs, run, len, places⟩ := foldlM_cells (step := fun acc' i =>
      let a := ((BitVec.ofInt 64 (bit / 8)).toNat + i) % 2 ^ 64
      match xlate s core asid a acc true with
      | .ok x => if x.fmt = fmt ∧ x.blk = blk then .ok (acc' ++ [x.cell]) else .error (.fault 0x14 (x.fmt + 16 * x.blk), a)
      | r => .error (r, a))
    (fun acc' i z page same same' => by simp only [page, same, same', and_self, if_true]) pages
  refine ⟨cs, ?_, len, places⟩
  rw [← wrapInt_eq_toNat_ofInt] at range aligned run
  exact (if_neg (Nat.not_le.mpr range)).trans ((if_neg fun ⟨wide, off⟩ => off (aligned wide)).trans run)

end cells

theorem plainElementsAreFound (s : State) (c : Ctx) (lane : Nat) (f : MEF) (acc : Access) (y : Xl) (anchor : W64) (idx : Int)
    (anchors : anchorVal c lane f.base true f.off = anchor.toNat) (indexes : indexVal c lane f.index = idx) :
    let w := elemBits y.fmt
    let bit : Int := 8 * anchor.toNat + idx * w
    let first : W64 := BitVec.ofInt 64 (bit / 8)
    let n := ((bit % 8).toNat + w + 7) / 8
    let byte := fun (i : Nat) => xlate s c.g.core (gangAsid c.b) ((first.toNat + i) % 2 ^ 64) acc true
    (2 ^ 57 ≤ anchor.toNat → plainElem s c lane f acc = .error (.fault 0x12 0, anchor.toNat)) ∧
    (anchor.toNat < 2 ^ 57 → xlate s c.g.core (gangAsid c.b) anchor.toNat acc true = .ok y →
      (2 ^ 57 ≤ first.toNat → plainElem s c lane f acc = .error (.fault 0x12 0, first.toNat)) ∧
      (first.toNat < 2 ^ 57 → 16 ≤ w → first.toNat % (w / 8) ≠ 0 →
        plainElem s c lane f acc = .error (.fault 0x13 (w / 8), first.toNat)) ∧
      (first.toNat < 2 ^ 57 → (16 ≤ w → first.toNat % (w / 8) = 0) →
        (∀ i, i < n → ∃ z, byte i = .ok z ∧ z.fmt = y.fmt ∧ z.blk = y.blk) →
        ∃ x, plainElem s c lane f acc = .ok x ∧ x.scale = none ∧ x.bit = (bit % 8).toNat ∧ x.fmt = y.fmt ∧ x.cells.length = n ∧
          ∀ i k z, x.cells[i]? = some k → byte i = .ok z → k = z.cell)) := by
  intro w bit first n byte
  refine ⟨fun out => anchors ▸ plainElem_of_out_of_range (anchors.symm ▸ out), fun range page => ?_⟩
  have found := plainElem_of_ok (f := f) (acc := acc) (anchors.symm ▸ range) (anchors.symm ▸ page)
  simp only [anchors, indexes] at found
  rw [found]
  refine ⟨fun out => ?_, fun inside wide off => ?_, fun inside aligned pages => ?_⟩
  · rw [elemCells_of_out_of_range out]; rfl
  · rw [elemCells_of_misaligned inside wide off]; rfl
  · obtain ⟨cs, run, len, places⟩ := elemCells_of_ok inside aligned pages
    exact ⟨_, by rw [run]; rfl, rfl, rfl, rfl, len, places⟩

/-- Settles O25, by its five parts. -/
theorem addressesAreFormedAndChecked : Obligations.AddressesAreFormedAndChecked := by
  unfold Obligations.AddressesAreFormedAndChecked
  refine ⟨fun c lane f wide => ?address, mem_performers, fun s g asid ea n acc => ⟨fun out => if_pos out, fun range off => ?align,
    fun range aligned => ⟨fun e miss awake walked => ?walk, fun l found => ?leaf⟩⟩, fun s g f ops acc who x => ?plain,
    fun s c lane f acc y => ?element⟩
  case address =>
    dsimp only
    refine effAddr_eq ?_ wide
    cases f.index with
    | none => rfl
    | v n => rw [indexVal_v]; rfl
    | _ => rw [indexVal_of_ne (by simp) (by simp), BitVec.ofInt_toInt]
  case align => rw [access, if_neg (Nat.not_le.mpr range), if_pos off]
  case walk =>
    rw [access_of_aligned range aligned, xlate_of_walk_error range miss awake walked]
    exact ⟨_, rfl⟩
  case leaf =>
    rw [access_of_aligned range aligned, xlate_of_leaf range found]
    cases acc <;> exact ⟨checkLeaf_scope, checkLeaf_permission,
      fun scope permitted home => ⟨_, checkLeaf_local scope permitted home, rfl, rfl, rfl, rfl⟩⟩
  case plain =>
    exact (mem_goodOnes_plainTries s g f ops acc who x).trans (and_congr_right fun _ => and_congr_left fun _ => dataPort_eq_none)
  case element =>
    refine plainElementsAreFound s c lane f acc y _ _ (anchorVal_eq ..) ?_
    cases f.index with
    | none => rfl
    | v n => exact indexVal_v ..
    | _ => exact indexVal_of_ne (by simp) (by simp) ..

end Sys2Proof.Machine
end

section
/-! PROOFS. The memory words at issue (R160 to R174): what each leaves unchanged. O30. -/
namespace Sys2Proof.Machine
open Sys2Proof.Laws Sys2Proof.Claim

/-! ### The gang that issues a memory word -/

/-- R80, R202: what a gang that issues a memory word keeps: its registers; what is outstanding, but for the elements of write ports;
what its run holds. -/
structure Gang.Follows (g g' : Gang) : Prop where
  uid : g'.uid = g.uid
  regs : keepsRegs g.regs g'.regs
  out : ∀ o ∈ g.out, ∃ ps, { o with ports := ps } ∈ g'.out
  held : ∀ r, g.issue = some r → ∃ r', g'.issue = some r' ∧ ∀ h ∈ r.held, h ∈ r'.held

theorem Gang.Follows.of_eq {g g' : Gang} (uid : g'.uid = g.uid) (regs : g'.regs = g.regs) (out : g'.out = g.out)
    (issue : g'.issue = g.issue) : g.Follows g' :=
  ⟨uid, keepsRegs_of_eq regs, fun o mem => ⟨o.ports, out ▸ mem⟩, fun r run => ⟨r, issue.trans run, fun _ mem => mem⟩⟩

theorem Gang.Follows.refl (g : Gang) : g.Follows g := .of_eq rfl rfl rfl rfl

theorem Gang.Follows.trans {a b c : Gang} (h : a.Follows b) (h' : b.Follows c) : a.Follows c := by
  refine ⟨h'.uid.trans h.uid, keepsRegs_trans h.regs h'.regs, fun o mem => ?_, fun r run => ?_⟩
  · obtain ⟨ps, mem1⟩ := h.out o mem
    exact h'.out { o with ports := ps } mem1 |>.imp fun _ mem => mem
  · obtain ⟨r1, run1, held1⟩ := h.held r run
    obtain ⟨r2, run2, held2⟩ := h'.held r1 run1
    exact ⟨r2, run2, fun x mem => held2 x (held1 x mem)⟩

theorem Gang.Follows.foldl {B : Type} {f : Gang → B → Gang} (h : ∀ (g : Gang) x, g.Follows (f g x)) (xs : List B) (g : Gang) :
    g.Follows (xs.foldl f g) := by
  induction xs generalizing g with
  | nil => exact .refl g
  | cons x xs ih => exact (h g x).trans (ih _)

theorem follows_hold (g : Gang) (pc : W64) (e : Held) : g.Follows (g.hold pc e) := by
  refine ⟨hold_uid .., keepsRegs_of_eq (hold_regs ..), fun o mem => ⟨o.ports, (hold_out g pc e).symm ▸ mem⟩, fun r run => ?_⟩
  exact ⟨_, by rw [hold_frame]; simp only [run, Option.map_some]; rfl, fun h mem => List.mem_append_left _ mem⟩

theorem follows_await (g : Gang) (pc : W64) (k : OKind) (ds : List Dst) (es : List Eff) (a b : Bool) :
    g.Follows (g.await pc k ds es a b) :=
  ⟨rfl, keepsRegs_refl _, fun o mem => ⟨o.ports, List.mem_append_left _ mem⟩, fun r run => ⟨r, run, fun _ mem => mem⟩⟩

theorem follows_withPorts (g : Gang) (ports : List (Nat × Nat × Nat)) : g.Follows (g.withPorts ports) := by
  refine ⟨rfl, keepsRegs_refl _, fun o mem => ?_, fun r run => ⟨r, run, fun _ mem => mem⟩⟩
  have mapped : (if o.id + 1 = g.nextId then { o with ports := ports } else o) ∈ (g.withPorts ports).out := List.mem_map_of_mem mem
  split at mapped
  · exact ⟨ports, mapped⟩
  · exact ⟨o.ports, mapped⟩

theorem follows_advancePorts (g : Gang) (lane : Nat) (ps : List Nat) : g.Follows (g.advancePorts lane ps) :=
  ⟨rfl, keepsRegs_advancePorts .., fun o mem => ⟨o.ports, mem⟩, fun r run => ⟨r, run, fun _ mem => mem⟩⟩

/-- R173: the ports of the lane that performs an access move on; of an access for the gang, none. -/
theorem follows_advance (g : Gang) (who : Option Nat) (ps : List Nat) :
    g.Follows (match who with | some l => g.advancePorts l ps | none => g) := by
  cases who with
  | none => exact .refl g
  | some l => exact follows_advancePorts g l ps

theorem follows_emit (g : Gang) (due : Nat) (es : List Eff) : g.Follows (g.emit due es) := by
  refine ⟨emit_uid .., keepsRegs_of_eq (emit_regs ..), fun o mem => ⟨o.ports, (emit_out g due es).symm ▸ mem⟩, fun r run => ?_⟩
  exact ⟨{ r with pends := r.pends ++ es.map fun e => ⟨due, e⟩ }, by rw [emit_frame]; simp only [run, Option.map_some], fun _ mem => mem⟩

theorem follows_faulted (g : Gang) (pc : W64) (lanes : LaneMask) (req : FaultReq) : g.Follows (g.faulted pc lanes req) := by
  obtain ⟨-, -, out, held⟩ := follows_hold
    { g with regs := (lanesOf lanes).foldl (fun r i => r.modLane i (fun l => { l with status := .parked, pc := pc })) g.regs }
    pc (.fault req)
  exact ⟨hold_uid .., keepsRegs_faulted .., out, held⟩

/-! ### The package while a memory word issues -/

theorem uid_of_gang? {s : State} {u : Nat} {g : Gang} (here : s.gang? u = some g) : g.uid = u := by
  simpa using List.find?_some here

/-- R176, R202, R334: what a memory word leaves as it was while it issues: memory and the bytes of every view, the blocks but for the
uncorrectable data that they meet, the word's own place, and every other gang. Its own gang goes on. -/
structure MemFrame (s t : State) : Prop where
  mem : t.mem = s.mem
  lineKey : t.lineKey = s.lineKey
  keyBits : t.keyBits = s.keyBits
  fabid : t.fabid = s.fabid
  blocks : t.blocks.map (fun b => { b with consumption := [] }) = s.blocks.map (fun b => { b with consumption := [] })
  gang : t.cx.gang = s.cx.gang
  pc : t.cx.pc = s.cx.pc
  others : ∀ v, v ≠ s.cx.gang → t.gang? v = s.gang? v
  own : ∀ g, s.gang? s.cx.gang = some g → ∃ g', t.gang? s.cx.gang = some g' ∧ g.Follows g'

/-- Two states that differ in nothing that the frame names. -/
theorem MemFrame.of_eq {s t : State} (mem : t.mem = s.mem) (lineKey : t.lineKey = s.lineKey) (keyBits : t.keyBits = s.keyBits)
    (fabid : t.fabid = s.fabid) (blocks : t.blocks = s.blocks) (gangs : t.gangs = s.gangs) (gang : t.cx.gang = s.cx.gang)
    (pc : t.cx.pc = s.cx.pc) : MemFrame s t := by
  have same : ∀ v, t.gang? v = s.gang? v := fun v => by rw [State.gang?, gangs]; rfl
  exact ⟨mem, lineKey, keyBits, fabid, by rw [blocks], gang, pc, fun v _ => same v, fun g here => ⟨g, (same _).trans here, .refl g⟩⟩

theorem MemFrame.refl (s : State) : MemFrame s s := .of_eq rfl rfl rfl rfl rfl rfl rfl rfl

theorem MemFrame.trans {s t u : State} (h : MemFrame s t) (h' : MemFrame t u) : MemFrame s u := by
  refine ⟨h'.mem.trans h.mem, h'.lineKey.trans h.lineKey, h'.keyBits.trans h.keyBits, h'.fabid.trans h.fabid,
    h'.blocks.trans h.blocks, h'.gang.trans h.gang, h'.pc.trans h.pc, fun v ne => ?_, fun g here => ?_⟩
  · rw [h'.others v (h.gang ▸ ne), h.others v ne]
  · obtain ⟨g1, here1, first⟩ := h.own g here
    obtain ⟨g2, here2, second⟩ := h'.own g1 (h.gang ▸ here1)
    exact ⟨g2, h.gang ▸ here2, first.trans second⟩

theorem MemFrame.foldl {B : Type} {f : State → B → State} (h : ∀ s x, MemFrame s (f s x)) (xs : List B) (s : State) :
    MemFrame s (xs.foldl f s) := by
  induction xs generalizing s with
  | nil => exact .refl s
  | cons x xs ih => exact (h s x).trans (ih _)

/-- R80: no byte of any view depends on what such a word changes. -/
theorem MemFrame.viewByte {s t : State} (h : MemFrame s t) (view pa : Nat) : viewByte t view pa = viewByte s view pa :=
  viewByte_congr (by rw [lineKeyOf, lineKeyOf, h.lineKey]) (fun _ _ => by rw [h.mem]) h.keyBits h.fabid view

theorem memFrame_modGang {s : State} {u : Nat} (own : u = s.cx.gang) {f : Gang → Gang} (follows : ∀ g : Gang, g.Follows (f g)) :
    MemFrame s (s.modGang u f) := by
  subst own
  refine ⟨rfl, rfl, rfl, rfl, rfl, rfl, rfl, fun v ne => gang?_modGang_ne s _ v f (fun g => (follows g).uid) ne, fun g here => ⟨f g, ?_, follows g⟩⟩
  exact gang?_onIssuer here fun g => (follows g).uid

theorem memFrame_onIssuer (s : State) {f : Gang → Gang} (follows : ∀ g : Gang, g.Follows (f g)) : MemFrame s (s.onIssuer f) :=
  memFrame_modGang rfl follows

theorem memFrame_takeFaults (s : State) (fs : List LaneFault) : MemFrame s (takeFaults s fs) := by
  unfold takeFaults
  cases lowestFault fs with
  | none => exact .refl s
  | some x =>
    dsimp only
    cases here : s.gang? s.cx.gang with
    | none =>
      rw [takeFault, here]
      exact .refl s
    | some g =>
      rw [takeFault_of_gang? here]
      exact (memFrame_onIssuer s (fun h => follows_faulted h s.cx.pc (faultLanes fs) _)).trans
        (.of_eq rfl rfl rfl rfl rfl rfl rfl rfl)

/-! ### Requests and faults found after issue (R177, R334, R336) -/

theorem memFrame_askWalks (s : State) (who : Nat) (tlb : Bool) (asid : Nat) (vas : List Nat) : MemFrame s (askWalks s who tlb asid vas) := by
  obtain ⟨m, q, f, eq⟩ := askWalks_eq s who tlb asid vas
  rw [eq]
  exact .of_eq rfl rfl rfl rfl rfl rfl rfl rfl

theorem memFrame_consume (s : State) (u : Nat) (c : Consumption) : MemFrame s (consume s u c) := by
  refine ⟨rfl, rfl, rfl, rfl, ?_, rfl, rfl, fun _ _ => rfl, fun g here => ⟨g, here, .refl g⟩⟩
  rw [consume, State.modBlock, List.map_map]
  refine List.map_congr_left fun b _ => ?_
  rw [Function.comp_apply]
  split <;> rfl

theorem memFrame_parkAtSeam {s : State} {u : Nat} (own : u = s.cx.gang) (run : Nat) (r : FaultReq) (lanes : LaneMask) (raised : Bool) :
    MemFrame s (parkAtSeam s u run r lanes raised) :=
  memFrame_modGang own fun _ => .of_eq rfl rfl rfl rfl

theorem memFrame_raiseFor {s : State} {u : Nat} (own : u = s.cx.gang) (run : Nat) (r : FaultReq) : MemFrame s (raiseFor s u run r) := by
  unfold raiseFor
  split
  · exact .refl s
  · dsimp only
    split
    · exact memFrame_modGang own fun g => follows_hold g _ _
    · split
      · exact memFrame_modGang own fun _ => .of_eq rfl rfl rfl rfl
      · exact .of_eq rfl rfl rfl rfl rfl rfl rfl rfl

theorem memFrame_lateFaults {A : Type} (s : State) (l : List (Attempt A)) : MemFrame s (lateFaults s l) := by
  refine MemFrame.foldl (fun s a => ?_) l s
  split
  · split
    · exact .refl s
    · next g here =>
      have own := uid_of_gang? here
      split
      · exact (memFrame_consume s g.block _).trans (memFrame_parkAtSeam (s := consume s g.block _) own ..)
      · exact (memFrame_parkAtSeam own ..).trans (memFrame_raiseFor (s := parkAtSeam s g.uid ..) own ..)
  · exact .refl s

/-- R161, R175, R176: an access stalls, or goes ahead with its walks asked for and its faults taken. -/
theorem memFrame_accessed {A : Type} (s : State) (asid : Nat) (l : List (Attempt A)) :
    MemFrame s (forgetFailed (lateFaults (takeFaults (askWalks s ((issuerCore s).getD 0) true asid (walkedBy l)) (issueFaults s l)) l) asid) :=
  (memFrame_askWalks ..).trans <| (memFrame_takeFaults ..).trans <| (memFrame_lateFaults ..).trans <|
    .of_eq rfl rfl rfl rfl rfl rfl rfl rfl

theorem memFrame_sendRemote (s : State) (kind : RemKind) (target asid : Nat) : MemFrame s (sendRemote s kind target asid).1 :=
  .of_eq rfl rfl rfl rfl rfl rfl rfl rfl

theorem memFrame_stalled (s : State) : MemFrame s s.stalled := .of_eq rfl rfl rfl rfl rfl rfl rfl rfl

theorem memFrame_runAccess {A : Type} (s : State) (asid : Nat) (l : List (Attempt A)) {f : State → List (Option Nat × A) → State}
    (acts : ∀ s xs, MemFrame s (f s xs)) : MemFrame s (runAccess s asid l f) := by
  unfold runAccess
  split
  · exact (memFrame_accessed s asid l).trans (acts _ _)
  · refine (MemFrame.foldl (fun s p => ?_) _ s).trans (memFrame_stalled _)
    split
    · exact .refl s
    · exact memFrame_sendRemote ..

theorem memFrame_issuing {s : State} {f : Gang → State} (acts : ∀ g, MemFrame s (f g)) : MemFrame s (issuing s f) := by
  unfold issuing
  split
  · exact .refl s
  · exact acts _

/-! ### Loads and stores become outstanding or held -/

theorem memFrame_startLoads (s : State) (d : Opd) (fmt : LoadFmt) (z : MSize) (svc : Fin 4) (blocks : Bool)
    (l : List (Option Nat × List Cell)) : MemFrame s (startLoads s d fmt z svc blocks l) := by
  refine MemFrame.foldl (fun s p => ?_) l s
  exact memFrame_onIssuer s fun _ => (follows_await ..).trans ((follows_withPorts ..).trans (follows_advance _ p.1 _))

theorem memFrame_startElems (s : State) (f : MEF) (l : List (Option Nat × ElemPlace)) : MemFrame s (startElems s f l) :=
  MemFrame.foldl (fun s _ => memFrame_startLoads s ..) l s

theorem memFrame_holdStores (s : State) (d : Opd) (svc : Fin 4) (l : List (Option Nat × List StCell)) : MemFrame s (holdStores s d svc l) := by
  refine MemFrame.foldl (fun s p => ?_) l s
  exact memFrame_onIssuer s fun _ => (follows_hold ..).trans (follows_advance _ p.1 _)

theorem memFrame_steFlags (s : State) (l : List (Option Nat × FFlags)) : MemFrame s (steFlags s l) := by
  unfold steFlags
  dsimp only
  split
  · exact .refl s
  · exact memFrame_onIssuer s fun _ => follows_await ..

theorem memFrame_storeElems (s0 : State) (c : Ctx) (f : MEF) (s : State) (l : List (Option Nat × ElemPlace)) :
    MemFrame s (storeElems s0 c f s l) :=
  (memFrame_holdStores ..).trans (memFrame_steFlags ..)

theorem memFrame_keepRecord (s0 s : State) (g : Gang) (va : Nat) : MemFrame s (keepRecord s0 s g va) := by
  have asked : MemFrame s (recAsk s g.core (gangAsid (s0.blockOf g)) va
      (fun a => xlate s0 g.core (gangAsid (s0.blockOf g)) a .read false)) := by
    obtain ⟨m, q, f, eq⟩ := recAsk_eq s g.core (gangAsid (s0.blockOf g)) va (fun a => xlate s0 g.core (gangAsid (s0.blockOf g)) a .read false)
    rw [eq]
    exact .of_eq rfl rfl rfl rfl rfl rfl rfl rfl
  unfold keepRecord
  dsimp only
  split
  · exact asked.trans (.of_eq rfl rfl rfl rfl rfl rfl rfl rfl)
  · exact asked

theorem memFrame_touch (s : State) (c : Cell) : MemFrame s (touch s c) := by
  have counted (p : Place) (leaf : Nat) : MemFrame s (countHot s p c leaf) := by
    unfold countHot
    dsimp only
    split <;> exact .of_eq rfl rfl rfl rfl rfl rfl rfl rfl
  unfold touch
  split
  · split
    · exact .refl s
    · exact (counted ..).trans (.of_eq rfl rfl rfl rfl rfl rfl rfl rfl)
  · exact .refl s

theorem memFrame_readLines (s : State) (cs : List Cell) : MemFrame s (readLines s cs) :=
  have met : MemFrame s (meetDest s cs) := .of_eq rfl rfl rfl rfl rfl rfl rfl rfl
  met.trans (MemFrame.foldl memFrame_touch (lineHeads cs) (meetDest s cs))

theorem memFrame_askScale (g : Gang) (asid : Nat) (s : State) (sc : Cell) : MemFrame s (askScale g asid s sc) := by
  unfold askScale
  split
  · exact .refl s
  · exact memFrame_sendRemote ..

theorem memFrame_startAtom (s : State) (f : AF) (scratch : Bool) (lanes : List AtomLane) : MemFrame s (startAtom s f scratch lanes) :=
  memFrame_onIssuer s fun _ => (follows_await ..).trans <| (follows_withPorts ..).trans <|
    (Gang.Follows.foldl (fun g l => follows_advance g l.lane _) lanes _).trans (follows_hold ..)

/-! ### The words -/

theorem memFrame_plain (f : MF) {i : Instr} (word : i = .ld f ∨ i = .pref f ∨ i = .st f ∨ i = .ldl f ∨ i = .stl f) {s t : State}
    (h : exec i s = .next t) : MemFrame s t := by
  obtain rfl | rfl | rfl | rfl | rfl := word <;> cases h <;> refine memFrame_issuing fun _ => ?_
  · exact memFrame_runAccess _ _ _ fun _ _ => memFrame_startLoads ..
  · exact (memFrame_askWalks ..).trans (memFrame_startLoads ..)
  · exact memFrame_runAccess _ _ _ fun _ _ => memFrame_holdStores ..
  · exact (memFrame_takeFaults ..).trans (MemFrame.foldl (fun s p => memFrame_onIssuer s fun _ =>
      (follows_await ..).trans ((follows_withPorts ..).trans (follows_advance _ p _))) _ _)
  · exact (memFrame_takeFaults ..).trans (MemFrame.foldl (fun s p => memFrame_onIssuer s fun _ =>
      (follows_hold ..).trans (follows_advance _ p _)) _ _)

theorem memFrame_elem (f : MEF) {i : Instr} (word : i = .lde f ∨ i = .ldeSc f ∨ i = .ste f ∨ i = .steSc f) {s t : State}
    (h : exec i s = .next t) : MemFrame s t := by
  obtain rfl | rfl | rfl | rfl := word <;> cases h <;> refine memFrame_issuing fun g => ?_
  · exact memFrame_runAccess _ _ _ fun _ _ => memFrame_startElems ..
  · exact memFrame_runAccess _ _ _ fun _ _ => (memFrame_keepRecord ..).trans (memFrame_startElems ..)
  · exact memFrame_runAccess _ _ _ fun _ _ => memFrame_storeElems ..
  · dsimp only
    split
    · exact (MemFrame.foldl (memFrame_askScale g _) _ s).trans (memFrame_stalled _)
    · split
      · exact memFrame_stalled s
      · refine memFrame_runAccess _ _ _ fun s' xs => ?_
        have freed : MemFrame s' { s' with free := s'.free + 1 } := .of_eq rfl rfl rfl rfl rfl rfl rfl rfl
        exact freed.trans <| (memFrame_readLines ..).trans <| (memFrame_keepRecord ..).trans <| (memFrame_storeElems ..).trans <|
          memFrame_onIssuer _ fun _ => .of_eq rfl rfl rfl rfl

theorem memFrame_atom (f : AF) {i : Instr} (word : i = .atom f ∨ i = .atoml f) {s t : State} (h : exec i s = .next t) : MemFrame s t := by
  obtain rfl | rfl := word <;> cases h <;> refine memFrame_issuing fun _ => ?_
  · refine memFrame_runAccess _ _ _ fun s' xs => ?_
    split
    · exact .refl s'
    · exact memFrame_startAtom ..
  · dsimp only
    split
    · exact memFrame_takeFaults ..
    · exact (memFrame_takeFaults ..).trans (memFrame_startAtom ..)

theorem memFrame_sbind (f : SbindF) {s t : State} (h : exec (.sbind f) s = .next t) : MemFrame s t := by
  cases h
  exact memFrame_issuing fun _ => memFrame_onIssuer s fun _ => follows_emit ..

theorem memFrame_spos (f : EF) (port : Fin 8) {s t : State} (h : exec (.spos f port) s = .next t) : MemFrame s t := by
  cases h
  exact memFrame_issuing fun _ => (memFrame_takeFaults ..).trans (memFrame_onIssuer _ fun g =>
    (follows_emit ..).trans (Gang.Follows.foldl (fun g i => follows_advancePorts g i _) _ _))

/-- Settles O30: each memory word is made of operations that keep the frame. -/
theorem memoryWordFrame : Obligations.MemoryWordFrame := by
  unfold Obligations.MemoryWordFrame
  intro i s t word h
  have frame : MemFrame s t := by
    obtain ⟨f, plain⟩ | ⟨f, elem⟩ | ⟨f, atom⟩ | ⟨f, rfl⟩ | ⟨f, port, rfl⟩ := word
    · exact memFrame_plain f plain h
    · exact memFrame_elem f elem h
    · exact memFrame_atom f atom h
    · exact memFrame_sbind f h
    · exact memFrame_spos f port h
  refine ⟨frame.mem, frame.viewByte, frame.blocks, frame.others, fun g g' here here' => ?_⟩
  obtain ⟨g1, here1, follows⟩ := frame.own g here
  cases here1.symm.trans here'
  obtain ⟨scalars, sfsr, -, lanes⟩ := follows.regs
  exact ⟨scalars, sfsr, lanes⟩

end Sys2Proof.Machine
end

section
/-! PROOFS. Loads, stores and atomics at issue: what each lane's access leaves with the gang stays there until the word is done
(R160 to R172, R202). O26. -/
namespace Sys2Proof.Machine
open Sys2Proof.Laws Sys2Proof.Claim

/-- A gang's property that its word does not take away again. -/
def Lasts (Q : Gang → Prop) : Prop := ∀ g g' : Gang, g.Follows g' → Q g → Q g'

/-- What lasts is there after any change that keeps the frame. -/
theorem MemFrame.leaves {Q : Gang → Prop} (lasts : Lasts Q) {s0 s t : State} (frame : MemFrame s0 s) (goesOn : MemFrame s t)
    (left : ∃ g, s.gang? s0.cx.gang = some g ∧ Q g) : ∃ g, t.gang? s0.cx.gang = some g ∧ Q g := by
  obtain ⟨g, here, q⟩ := left
  obtain ⟨g', here', follows⟩ := goesOn.own g (frame.gang ▸ here)
  exact ⟨g', frame.gang ▸ here', lasts _ _ follows q⟩

/-- R164: of a word that acts for one access after the other, what one of them leaves with the gang is there at the end. -/
theorem foldl_leaves {B : Type} {f : State → B → State} (keeps : ∀ s x, MemFrame s (f s x)) {Q : Gang → Prop} (lasts : Lasts Q)
    {s0 : State} {x : B} {xs : List B} (mem : x ∈ xs)
    (makes : ∀ s, MemFrame s0 s → ∃ g, (f s x).gang? s0.cx.gang = some g ∧ Q g) {s : State} (frame : MemFrame s0 s) :
    ∃ g, (xs.foldl f s).gang? s0.cx.gang = some g ∧ Q g := by
  obtain ⟨before, after, rfl⟩ := List.append_of_mem mem
  have reached := frame.trans (MemFrame.foldl keeps before s)
  rw [List.foldl_append, List.foldl_cons]
  exact (reached.trans (keeps ..)).leaves lasts (MemFrame.foldl keeps after _) (makes _ reached)

/-- What the issuing gang is left with after a change of its own. -/
theorem onIssuer_leaves {s0 : State} {g0 : Gang} (here0 : s0.gang? s0.cx.gang = some g0) {f : Gang → Gang}
    (follows : ∀ g : Gang, g.Follows (f g)) {Q : Gang → Prop} (makes : ∀ g, g0.Follows g → Q (f g)) {s : State} (frame : MemFrame s0 s) :
    ∃ g, (s.onIssuer f).gang? s0.cx.gang = some g ∧ Q g := by
  obtain ⟨g, here, before⟩ := frame.own g0 here0
  have changed := gang?_onIssuer (frame.gang ▸ here) fun g => (follows g).uid
  exact ⟨f g, frame.gang ▸ changed, makes g before⟩

/-- R161, R175: an access that goes ahead acts behind its walks and faults. -/
theorem runAccess_of_goesAhead {A : Type} {tries : List (Attempt A)} {who : Option Nat} {x : A} (ahead : goesAhead tries who x) (s : State)
    (asid : Nat) (f : State → List (Option Nat × A) → State) :
    ∃ s1, MemFrame s s1 ∧ runAccess s asid tries f = f s1 (goodOnes tries) := by
  obtain ⟨none, -⟩ := ahead
  exact ⟨_, memFrame_accessed s asid tries, by rw [runAccess, none]; rfl⟩

/-! ### Loads (R163, R172, R238) -/

theorem lasts_loadOut (s : State) (who : Option Nat) (cells : List Cell) (fmt : LoadFmt) (d : Opd) (waits : Bool) :
    Lasts fun g => loadOut s g who cells fmt d waits := by
  rintro g g' follows ⟨o, mem, rest⟩
  obtain ⟨ps, mem'⟩ := follows.out o mem
  exact ⟨_, mem', rest⟩

/-- R82: a word's newest result stands among the outstanding ones. -/
theorem mem_out_await (g : Gang) (pc : W64) (k : OKind) (ds : List Dst) (es : List Eff) (a b : Bool) :
    ⟨g.nextId, g.run, pc, g.ord, k, ds, es, a, b, [], 0, [], false⟩ ∈ (g.await pc k ds es a b).out :=
  List.mem_append_right _ (List.mem_singleton.mpr rfl)

theorem map_pa_serve (who : Nat) (sv : Nat × Nat) (cells : List Cell) : (cells.map (Cell.serve who sv)).map (·.pa) = cells.map (·.pa) := by
  rw [List.map_map]; rfl

theorem map_view_serve (who : Nat) (sv : Nat × Nat) (cells : List Cell) :
    (cells.map (Cell.serve who sv)).map (·.view) = cells.map (·.view) := by
  rw [List.map_map]; rfl

theorem startLoads_leaves {s0 : State} {g0 : Gang} (here0 : s0.gang? s0.cx.gang = some g0) (d : Opd) (fmt : LoadFmt) (z : MSize)
    (svc : Fin 4) (waits : Bool) {l : List (Option Nat × List Cell)} {who : Option Nat} {cells : List Cell} (mem : (who, cells) ∈ l)
    {s : State} (frame : MemFrame s0 s) :
    ∃ g, (startLoads s d fmt z svc waits l).gang? s0.cx.gang = some g ∧ loadOut s0 g who cells fmt d waits := by
  refine foldl_leaves (fun s p => memFrame_startLoads s d fmt z svc waits [p]) (lasts_loadOut s0 who cells fmt d waits) mem
    (fun s frame => ?_) frame
  refine onIssuer_leaves here0 (fun g => (follows_await ..).trans ((follows_withPorts ..).trans (follows_advance _ who _))) (fun g _ => ?_) frame
  refine lasts_loadOut _ _ _ _ _ _ _ _ ((follows_withPorts ..).trans (follows_advance _ who _)) ?_
  exact ⟨_, mem_out_await .., frame.pc, rfl, rfl, _, rfl, rfl, map_pa_serve .., map_view_serve .., rfl, rfl, rfl⟩

theorem startElems_leaves {s0 : State} {g0 : Gang} (here0 : s0.gang? s0.cx.gang = some g0) (f : MEF) {l : List (Option Nat × ElemPlace)}
    {who : Option Nat} {x : ElemPlace} (mem : (who, x) ∈ l) {s : State} (frame : MemFrame s0 s) :
    ∃ g, (startElems s f l).gang? s0.cx.gang = some g ∧ loadOut s0 g who x.reads (x.loadFmt f.rt) f.d true := by
  unfold startElems
  refine foldl_leaves (fun s p => memFrame_startLoads s ..) (lasts_loadOut s0 who x.reads (x.loadFmt f.rt) f.d true) mem
    (fun s frame => ?_) frame
  exact startLoads_leaves here0 f.d (x.loadFmt f.rt) .b32 f.svc true (List.mem_singleton.mpr rfl) frame

/-- Settles O26: the word acts for each access behind walks and faults, and each leaves its read. -/
theorem loadsBecomeOutstanding : Obligations.LoadsBecomeOutstanding := by
  unfold Obligations.LoadsBecomeOutstanding
  intro s g who here
  refine ⟨fun f x ahead => ?ld, fun f x good => ?pref, fun f x ahead => ?lde, fun f x ahead => ?ldeSc⟩
  case ld =>
    obtain ⟨s1, frame, acts⟩ := runAccess_of_goesAhead ahead s (gangAsid (s.blockOf g))
      fun s l => startLoads s f.d (.raw f.size) f.size f.svc true l
    obtain ⟨g', here', left⟩ := startLoads_leaves here f.d (.raw f.size) f.size f.svc true ahead.2 frame
    exact ⟨_, g', rfl, by rw [issuing_of_gang? here, acts]; exact here', left⟩
  case pref =>
    obtain ⟨g', here', left⟩ := startLoads_leaves here .none (.raw f.size) f.size f.svc false good (memFrame_askWalks s ..)
    exact ⟨_, g', rfl, by rw [issuing_of_gang? here]; exact here', left⟩
  case lde =>
    obtain ⟨s1, frame, acts⟩ := runAccess_of_goesAhead ahead s (gangAsid (s.blockOf g)) fun s l => startElems s f l
    obtain ⟨g', here', left⟩ := startElems_leaves here f ahead.2 frame
    exact ⟨_, g', rfl, by rw [issuing_of_gang? here, acts]; exact here', left⟩
  case ldeSc =>
    obtain ⟨s1, frame, acts⟩ := runAccess_of_goesAhead ahead s (gangAsid (s.blockOf g))
      fun s' l => startElems (keepRecord s s' g (gangSrc s g f.base)) f l
    obtain ⟨g', here', left⟩ := startElems_leaves here f ahead.2 (frame.trans (memFrame_keepRecord s s1 g (gangSrc s g f.base)))
    exact ⟨_, g', rfl, by rw [issuing_of_gang? here, acts]; exact here', left⟩

end Sys2Proof.Machine
end

section
/-! PROOFS. Atomics (R168 to R170): the request that a word holds, and what each operation stores. O28. -/
namespace Sys2Proof.Machine
open Sys2Proof.Laws Sys2Proof.Claim

/-! ### The request (R168, R169) -/

/-- R202: what a gang holds for its run is there after it. -/
theorem exists_held_hold {g0 g : Gang} (running : g0.issue.isSome = true) (follows : g0.Follows g) {pc : W64} {e : Held}
    {Q : HeldItem → Prop} (holds : ∀ h : HeldItem, h.pc = pc → h.eff = e → Q h) :
    ∃ r h, (g.hold pc e).issue = some r ∧ h ∈ r.held ∧ Q h := by
  obtain ⟨r0, run0⟩ := Option.isSome_iff_exists.mp running
  obtain ⟨r, run, -⟩ := follows.held r0 run0
  exact ⟨{ r with held := r.held ++ [⟨g.ord, g.run, pc, e, r.clutch &&& ~~~r.gone⟩] }, _,
    by rw [hold_frame]; simp only [run, Option.map_some], List.mem_append_right _ (List.mem_singleton.mpr rfl), holds _ rfl rfl⟩

/-- R169: the request of an atomic word, with the data of each of its lanes. -/
def AtomRequest (s : State) (f : AF) (wrap : AtomReq → Held) (lanes : List AtomLane) (h : HeldItem) : Prop :=
  ∃ a, h.pc = s.cx.pc ∧ h.eff = wrap a ∧ a.aop = f.aop ∧ a.size = f.size ∧ a.dst = f.d ∧
    ∀ x ∈ lanes, ∃ y ∈ a.lanes, y.lane = x.lane ∧ y.data = x.data ∧ y.cmp = x.cmp ∧ y.off = x.off ∧ y.cells.map (·.pa) = x.cells.map (·.pa)

theorem startAtom_leaves {s0 : State} {g0 : Gang} (here0 : s0.gang? s0.cx.gang = some g0) (running : g0.issue.isSome = true) (f : AF)
    (scratch : Bool) (lanes : List AtomLane) {s : State} (frame : MemFrame s0 s) :
    ∃ g, (startAtom s f scratch lanes).gang? s0.cx.gang = some g ∧
      ∃ r h, g.issue = some r ∧ h ∈ r.held ∧ AtomRequest s0 f (if scratch then .atoml else .atom) lanes h := by
  refine onIssuer_leaves here0 (fun _ => (follows_await ..).trans <| (follows_withPorts ..).trans <|
    (Gang.Follows.foldl (fun g l => follows_advance g l.lane _) lanes _).trans (follows_hold ..)) (fun g before => ?_) frame
  refine exists_held_hold running (before.trans <| (follows_await ..).trans <| (follows_withPorts ..).trans <|
    Gang.Follows.foldl (fun g l => follows_advance g l.lane _) lanes _) fun h pc eff => ?_
  refine ⟨_, pc.trans frame.pc, eff.trans (by cases scratch <;> rfl), rfl, rfl, rfl, fun x mem => ?_⟩
  exact ⟨_, List.mem_map_of_mem mem, rfl, rfl, rfl, rfl, map_pa_serve ..⟩

/-- R168: what ATOM does for the accesses that go ahead. -/
def atomActs (s : State) (g : Gang) (f : AF) (s' : State) (l : List (Option Nat × AtomLane)) : State :=
  if l.isEmpty && !(atomTries s g f).any (fun a => match a.res with | .error (.late ..) => true | _ => false) then s'
  else startAtom s' f false (l.map (·.2))

/-- R168, R170: the request of one access of ATOML. -/
def atomlLane (s : State) (g : Gang) (f : AF) (who : Option Nat) : AtomLane :=
  let c : Ctx := ⟨s, g, s.blockOf g⟩
  let lane := performLane s who
  { lane := who, cells := [], off := scratchMod c.b (c.src lane f.base false / sizeBytes f.size * sizeBytes f.size),
    data := groupVal c lane f.data f.size, cmp := groupVal c lane (compareOpd f.data f.size) f.size, core := true, done := false }

theorem exec_atom {s : State} {g : Gang} (here : s.gang? s.cx.gang = some g) (f : AF) :
    exec (.atom f) s = .next (runAccess s (gangAsid (s.blockOf g)) (atomTries s g f) (atomActs s g f)) := by
  change (.next (issuing s _) : Res) = _
  rw [issuing_of_gang? here]
  rfl

theorem exec_atoml {s : State} {g : Gang} (here : s.gang? s.cx.gang = some g) {f : AF} {who : Option Nat}
    (free : portFaults s g f.d (f.size == .b64) = []) (performs : who ∈ performers s [f.base, f.data, f.d]) :
    exec (.atoml f) s = .next (startAtom s f true ((performers s [f.base, f.data, f.d]).map (atomlLane s g f))) := by
  have faultless : takeFaults s (portFaults s g f.d (sizeWide f.size)) = s := by
    rw [show portFaults s g f.d (sizeWide f.size) = [] from free]; rfl
  have some : ((performers s [f.base, f.data, f.d]).map (atomlLane s g f)).isEmpty = false :=
    List.isEmpty_eq_false_iff_exists_mem.mpr ⟨_, List.mem_map_of_mem performs⟩
  change (.next (issuing s _) : Res) = _
  rw [issuing_of_gang? here]
  dsimp only
  rw [faultless]
  change (.next (if ((performers s [f.base, f.data, f.d]).map (atomlLane s g f)).isEmpty then s else _) : Res) = _
  rw [some]
  rfl

theorem atomicsAreHeld : Claim.atomicsAreHeld := by
  intro s g f here running
  refine ⟨fun who x ahead => ?atom, fun who free performs => ?atoml⟩
  case atom =>
    obtain ⟨s1, frame, acts⟩ := runAccess_of_goesAhead ahead s (gangAsid (s.blockOf g)) (atomActs s g f)
    have some : (goodOnes (atomTries s g f)).isEmpty = false := List.isEmpty_eq_false_iff_exists_mem.mpr ⟨_, ahead.2⟩
    obtain ⟨g', here', r, h, run, mem, a, pc, eff, aop, size, dst, lanes⟩ :=
      startAtom_leaves here running f false ((goodOnes (atomTries s g f)).map (·.2)) frame
    obtain ⟨y, memY, lane, data, cmp, -, cells⟩ := lanes x (List.mem_map.mpr ⟨_, ahead.2, rfl⟩)
    refine ⟨_, g', r, h, a, exec_atom here f, ?_, run, mem, pc, eff, aop, size, dst, y, memY, lane, data, cmp, cells⟩
    rw [acts, atomActs, some]
    exact here'
  case atoml =>
    obtain ⟨g', here', r, h, run, mem, a, pc, eff, aop, size, dst, lanes⟩ :=
      startAtom_leaves here running f true ((performers s [f.base, f.data, f.d]).map (atomlLane s g f)) (.refl s)
    obtain ⟨y, memY, lane, data, -, off, -⟩ := lanes _ (List.mem_map_of_mem performs)
    exact ⟨_, g', r, h, a, exec_atoml here free performs, here', run, mem, pc, eff, aop, size, dst, y, memY, lane, data, off⟩

/-! ### What is stored (R168) -/

section
variable {w : Nat}

/-- R168: an operation's result, taken on the bits of the size. -/
theorem setWidth_stored (le : w ≤ 128) (n : Nat) : (BitVec.ofNat 128 (n % 2 ^ w)).setWidth w = BitVec.ofNat w n := by
  rw [BitVec.setWidth_ofNat_of_le le]
  exact BitVec.eq_of_toNat_eq (by simp)

theorem signExt_toNat (x : BitVec w) : signExt x.toNat w = x.toInt := by
  rw [signExt_eq_toInt, BitVec.ofNat_toNat, BitVec.setWidth_eq]

end

theorem atomicOperationsCompute : Claim.atomicOperationsCompute := by
  intro z o d c size
  have le : 8 * sizeBytes z ≤ 128 := by rcases size with rfl | rfl | rfl <;> decide
  intro w x y f new
  have old : o.toNat % 2 ^ w = x.toNat := (BitVec.toNat_setWidth ..).symm
  have data : d.toNat % 2 ^ w = y.toNat := (BitVec.toNat_setWidth ..).symm
  have expected : c.toNat % 2 ^ w = (c.setWidth w).toNat := (BitVec.toNat_setWidth ..).symm
  have same (v : BitVec w) : BitVec.ofNat w v.toNat = v := by rw [BitVec.ofNat_toNat, BitVec.setWidth_eq]
  have keeps (v : BitVec w) : (BitVec.ofNat 128 (v.toNat % 2 ^ w)).setWidth w = v := by rw [setWidth_stored le, same]
  have picks (P : Prop) [Decidable P] (u v : BitVec w) :
      (BitVec.ofNat 128 ((if P then u.toNat else v.toNat) % 2 ^ w)).setWidth w = if P then u else v := by
    rw [← apply_ite BitVec.toNat]; exact keeps _
  simp only [new, atomNew, show 8 * sizeBytes z = w from rfl, atomBits, old, data, expected, signExt_toNat]
  refine ⟨keeps y, keeps y, keeps x, ?cas, fun _ => ⟨?add, ?smin, ?smax, ?umin, ?umax, ?and, ?or, ?xor, ?incw, ?_, ?_, ?_⟩⟩
  case cas => exact (picks _ y x).trans (if_congr BitVec.toNat_inj rfl rfl)
  case add => rw [setWidth_stored le, BitVec.ofNat_add, same, same]
  case smin => exact (picks _ y x).trans (if_congr BitVec.slt_iff_toInt_lt.symm rfl rfl)
  case smax => exact (picks _ y x).trans (if_congr BitVec.slt_iff_toInt_lt.symm rfl rfl)
  case umin =>
    rw [show min x.toNat y.toNat = if y.toNat < x.toNat then y.toNat else x.toNat by split <;> omega]
    exact (picks _ y x).trans (if_congr BitVec.ult_iff_toNat_lt.symm rfl rfl)
  case umax =>
    rw [show max x.toNat y.toNat = if x.toNat < y.toNat then y.toNat else x.toNat by split <;> omega]
    exact (picks _ y x).trans (if_congr BitVec.ult_iff_toNat_lt.symm rfl rfl)
  case and => exact keeps (x &&& y)
  case or => exact keeps (x ||| y)
  case xor => exact keeps (x ^^^ y)
  case incw =>
    rw [setWidth_stored le, apply_ite (BitVec.ofNat w), BitVec.ofNat_add, same]
    exact if_congr BitVec.ule_iff_toNat_le.symm rfl rfl
  all_goals exact BitVec.setWidth_ofNat_of_le le _

/-- Settles O28: the words hold their requests, and each operation is the arithmetic of its size. -/
theorem atomics : Obligations.Atomics := ⟨atomicsAreHeld, atomicOperationsCompute⟩

end Sys2Proof.Machine
end

section
/-! PROOFS. Stores (R163 to R166, R202), which are held as stated, and scratchpad words (R167, R173), for which the statement fails.
O27. -/
namespace Sys2Proof.Machine
open Sys2Proof.Laws Sys2Proof.Claim

/-! ### Stores -/

theorem lasts_storeHeld (s : State) (who : Option Nat) (xs : List StCell) : Lasts fun g => storeHeld s g who xs := by
  rintro g g' follows ⟨r, h, run, mem, rest⟩
  obtain ⟨r', run', held⟩ := follows.held r run
  exact ⟨r', h, run', held h mem, rest⟩

theorem holdStores_leaves {s0 : State} {g0 : Gang} (here0 : s0.gang? s0.cx.gang = some g0) (running : g0.issue.isSome = true) (d : Opd)
    (svc : Fin 4) {l : List (Option Nat × List StCell)} {who : Option Nat} {xs : List StCell} (mem : (who, xs) ∈ l) {s : State}
    (frame : MemFrame s0 s) : ∃ g, (holdStores s d svc l).gang? s0.cx.gang = some g ∧ storeHeld s0 g who xs := by
  refine foldl_leaves (fun s p => memFrame_holdStores s d svc [p]) (lasts_storeHeld s0 who xs) mem (fun s frame => ?_) frame
  refine onIssuer_leaves here0 (fun g => (follows_hold ..).trans (follows_advance _ who _)) (fun g before => ?_) frame
  refine lasts_storeHeld _ _ _ _ _ (follows_advance _ who _) ?_
  refine exists_held_hold running before fun h pc eff => ⟨pc.trans frame.pc, _, _, eff, ?_⟩
  rw [List.map_map]
  rfl

theorem storeElems_leaves {s0 : State} {g0 : Gang} (here0 : s0.gang? s0.cx.gang = some g0) (running : g0.issue.isSome = true) (c : Ctx)
    (f : MEF) {l : List (Option Nat × ElemPlace)} {who : Option Nat} {x : ElemPlace} (mem : (who, x) ∈ l) {s : State}
    (frame : MemFrame s0 s) :
    ∃ g, (storeElems s0 c f s l).gang? s0.cx.gang = some g ∧ storeHeld s0 g who (elemData s0 c (performLane s0 who) who f x).1 := by
  have held : (who, (elemData s0 c (performLane s0 who) who f x).1) ∈
      (l.map fun p => (p.1, elemData s0 c (performLane s0 p.1) p.1 f p.2)).map fun p => (p.1, p.2.1) :=
    List.mem_map_of_mem (List.mem_map_of_mem mem)
  exact (frame.trans (memFrame_holdStores ..)).leaves (lasts_storeHeld _ _ _) (memFrame_steFlags ..)
    (holdStores_leaves here0 running f.d f.svc held frame)

/-- R166: what STE.sc does for the accesses that go ahead. -/
def scaledStores (s : State) (g : Gang) (f : MEF) (s' : State) (l : List (Option Nat × ElemPlace)) : State :=
  let c : Ctx := ⟨s, g, s.blockOf g⟩
  let reads := (c.b.map (fun b => scaleReads s g b f.svc (elemTries s g f .write true))).getD []
  State.onIssuer (storeElems s c f (keepRecord s (readLines { s' with free := s'.free + 1 } reads) g (gangSrc s g f.base)) l)
    (fun g => { g with scales := [] })

theorem scaledStores_leaves {s : State} {g : Gang} (here : s.gang? s.cx.gang = some g) (running : g.issue.isSome = true) (f : MEF)
    {l : List (Option Nat × ElemPlace)} {who : Option Nat} {x : ElemPlace} (mem : (who, x) ∈ l) {s' : State} (frame : MemFrame s s') :
    ∃ g', (scaledStores s g f s' l).gang? s.cx.gang = some g' ∧
      storeHeld s g' who (elemData s ⟨s, g, s.blockOf g⟩ (performLane s who) who f x).1 := by
  have freed : MemFrame s' { s' with free := s'.free + 1 } := .of_eq rfl rfl rfl rfl rfl rfl rfl rfl
  have reached (cs : List Cell) : MemFrame s (keepRecord s (readLines { s' with free := s'.free + 1 } cs) g (gangSrc s g f.base)) :=
    frame.trans (freed.trans ((memFrame_readLines ..).trans (memFrame_keepRecord ..)))
  exact ((reached _).trans (memFrame_storeElems ..)).leaves (lasts_storeHeld _ _ _) (memFrame_onIssuer _ fun _ => .of_eq rfl rfl rfl rfl)
    (storeElems_leaves here running _ f mem (reached _))

/-- R166: STE.sc goes on once no scale byte is still to come, and none lies on a stack that sleeps. -/
theorem exec_steSc_of_readable {s : State} {g : Gang} (here : s.gang? s.cx.gang = some g) {f : MEF}
    (readable : ∀ b, s.blockOf g = some b → scaleMisses s g b (elemTries s g f .write true) = [] ∧
      ∀ y ∈ scaleReads s g b f.svc (elemTries s g f .write true), readAsleep s y.pa = false) :
    exec (.steSc f) s = .next (runAccess s (gangAsid (s.blockOf g))
      ((elemTries s g f .write true).map (fun a => ((s.blockOf g).map (fun b => scaleTry s g b a)).getD a)) (scaledStores s g f)) := by
  have noMiss : ((s.blockOf g).map (fun b => scaleMisses s g b (elemTries s g f .write true))).getD [] = [] := by
    cases block : s.blockOf g with
    | none => rfl
    | some b => exact (readable b block).1
  have awake : (((s.blockOf g).map (fun b => scaleReads s g b f.svc (elemTries s g f .write true))).getD []).any
      (fun x => readAsleep s x.pa) = false := by
    cases block : s.blockOf g with
    | none => rfl
    | some b => exact List.any_eq_false.mpr fun y mem => Bool.not_eq_true _ ▸ (readable b block).2 y mem
  change (.next (issuing s _) : Res) = _
  rw [issuing_of_gang? here]
  dsimp only
  rw [noMiss, awake]
  simp only [List.isEmpty_nil, Bool.not_true, Bool.false_and, Bool.and_false, Bool.false_eq_true, if_false]
  rfl

theorem storesAreHeld : Claim.storesAreHeld := by
  intro s g who here running c lane
  refine ⟨fun f x ahead => ?st, fun f x ahead => ?ste, fun f x ahead readable => ?steSc⟩
  case st =>
    obtain ⟨s1, frame, acts⟩ := runAccess_of_goesAhead ahead s (gangAsid c.b) fun s' l =>
      holdStores s' f.d f.svc (l.map fun p => (p.1, stCells p.2 (dataBytes c (performLane s p.1) f.d f.size)))
    have held := List.mem_map_of_mem (f := fun p => (p.1, stCells p.2 (dataBytes c (performLane s p.1) f.d f.size))) ahead.2
    obtain ⟨g', here', left⟩ := holdStores_leaves here running f.d f.svc held frame
    exact ⟨_, g', rfl, by rw [issuing_of_gang? here]; exact acts ▸ here', left⟩
  case ste =>
    obtain ⟨s1, frame, acts⟩ := runAccess_of_goesAhead ahead s (gangAsid c.b) fun s' l => storeElems s c f s' l
    obtain ⟨g', here', left⟩ := storeElems_leaves here running c f ahead.2 frame
    exact ⟨_, g', rfl, by rw [issuing_of_gang? here]; exact acts ▸ here', left⟩
  case steSc =>
    obtain ⟨s1, frame, acts⟩ := runAccess_of_goesAhead ahead s (gangAsid c.b) (scaledStores s g f)
    obtain ⟨g', here', left⟩ := scaledStores_leaves here running f ahead.2 frame
    exact ⟨_, g', exec_steSc_of_readable here readable, acts ▸ here', left⟩

/-! ### Scratchpad words -/

/-- A gang whose lanes 0 and 1 have read port 0 on the scratchpad's first byte, and which holds a byte for that place under the very
number of its next access. -/
def aheadGang : Gang :=
  let g := placedGang 1 0
  let lane := (Lane.fresh 0).setPort 0 ⟨0, 0, 0, false, 0⟩
  { g with
    regs := { g.regs with lanes := [lane, lane] }
    issue := g.issue.map fun r => { r with held := [⟨g.ord, g.run, 0, .loc [(0, 8)] 0, 3⟩] } }

/-- That gang with a block of 256 scratchpad bytes; the word in issue acts for its two lanes. -/
def aheadState : State :=
  { State.reset with
    gangs := [aheadGang]
    blocks := [{ newBlock (launchOf 0 [] 0 0 0 0 0 none none) 0 0 with localLen := 256, cores := [0] }]
    cx := ⟨1, 0, 0, 3, 3, false, 0, false⟩ }

/-- LDL of a byte at the place that port 0 reads. -/
def portLoad : MF := ⟨.v 0, .rport 0, .none, 0, .n8, false, 0⟩

/-- The offsets of the scratchpad loads that lane 1 has outstanding after `portLoad`. -/
def portLoadOffsets : List Nat :=
  match exec (.ldl portLoad) aheadState with
  | .next t => t.gangs.flatMap fun g => g.out.filterMap fun o =>
      match o.kind with
      | .ldl r => if r.lane = some 1 then some r.off else none
      | _ => none
  | _ => []

/-- A load that lane 1 has outstanding gives its offset there. -/
theorem mem_portLoadOffsets {t : State} {g : Gang} {o : Outst} {r : LdlReq} (loads : exec (.ldl portLoad) aheadState = .next t)
    (here : t.gang? aheadState.cx.gang = some g) (mem : o ∈ g.out) (kind : o.kind = .ldl r) (lane : r.lane = some 1) :
    r.off ∈ portLoadOffsets := by
  rw [portLoadOffsets, loads]
  refine List.mem_flatMap.mpr ⟨g, List.mem_of_find?_eq_some here, List.mem_filterMap.mpr ⟨o, mem, ?_⟩⟩
  rw [kind]
  exact if_pos lane

theorem portLoadOffsets_eq : portLoadOffsets = [8] := by decide

/-- Refutes O27: its clause on LDL takes any gang, also one that holds a scratchpad byte under the number of its next access. Each
lane's read is counted before the next lane's offset is formed, so in `aheadState` lane 0 reads the port as 0, and lane 1 as the 8
that is held: its load stands at offset 8, where the clause has 0. The clause on stores holds: `storesAreHeld`. -/
theorem not_storesAndScratchpadWords : ¬ Obligations.StoresAndScratchpadWords := by
  unfold Obligations.StoresAndScratchpadWords
  rintro ⟨-, scratchpad⟩
  obtain ⟨⟨t, g', loads, here, o, mem, -, r, kind, lane, off, -⟩, -⟩ :=
    scratchpad aheadState aheadGang portLoad (some 1) (by decide) (by decide) (by decide) (by decide)
  have found := mem_portLoadOffsets loads here mem kind lane
  rw [portLoadOffsets_eq, off] at found
  revert found
  decide

end Sys2Proof.Machine
end

section
/-! PROOFS. Replies to fault records (R178, R316), and what the kill of a block leaves (R335). O48. -/
namespace Sys2Proof.Machine
open Sys2Proof.Laws Sys2Proof.Claim

/-! ### What the kill of a block changes (R335) -/

/-- R63, R356, R366: a write at home changes memory, its keys and what is written down of it, patrols, motions and the window's
queue. -/
theorem writeHome_keeps {C : Type} (p : State → C)
    (apart : ∀ s m k pt sc mo rq d, p { s with mem := m, lineKey := k, patrols := pt, scrubs := sc, motions := mo, regQ := rq, dirty := d } = p s)
    (s : State) (atomic : Bool) (xs : List StCell) : p (writeHome s atomic xs) = p s := by
  have put (s : State) (view pa : Nat) (val mask : Byte) : p (putByte s view pa val mask) = p s := by
    obtain ⟨m, k, pt, sc, frame⟩ := putByte_frame s view pa val mask
    rw [frame]
    exact apart s m k pt sc s.motions s.regQ s.dirty
  have store (s : State) (x : StCell) : p (storeByte s atomic x) = p s := by
    rcases storeByte_cases s atomic x with h | h | ⟨d, -, h⟩ | ⟨f, -, h⟩ <;> rw [h]
    · exact put ..
    · exact (put ..).trans (put ..)
    · let s1 := putByte s x.cell.view (homePa s x.cell.pa) x.val x.mask
      exact (apart s1 s1.mem s1.lineKey s1.patrols s1.scrubs (s1.motions.map f) s1.regQ s1.dirty).trans (put ..)
  have stores := foldl_keeps p _ store (xs.filter (fun x => !(inWindow (homePa s x.cell.pa)))) (keepStored s (keyLines s xs))
  have kept : p (keepStored s (keyLines s xs)) = p s := apart s s.mem s.lineKey s.patrols s.scrubs s.motions s.regQ _
  unfold writeHome
  dsimp only
  split
  · exact stores.trans kept
  · exact (apart _ _ _ _ _ _ _ _).trans (stores.trans kept)

/-- What stands of gangs, blocks and fault slots. -/
def residents (s : State) : List FaultSlot × List Gang × List Block := (s.slots, s.gangs, s.blocks)

theorem residents_writeHome (s : State) (atomic : Bool) (xs : List StCell) : residents (writeHome s atomic xs) = residents s :=
  writeHome_keeps residents (fun _ _ _ _ _ _ _ _ => rfl) s atomic xs

theorem residents_ownWrite (s : State) (who : Nat) (asid : Option Nat) (xs : List StCell) :
    residents (ownWrite s who asid xs) = residents s := by
  obtain ⟨q, asked⟩ := ownAsk_eq s who asid (xs.map (·.cell))
  rw [ownWrite, asked]
  exact residents_writeHome ..

/-- R335: gangs and blocks only leave, or their blocks end; the fault slots stand. -/
structure Dwindles (s t : State) : Prop where
  slots : t.slots = s.slots
  gangs : ∀ g ∈ t.gangs, g ∈ s.gangs
  blocks : ∀ b ∈ t.blocks, b ∈ s.blocks ∨ b.phase = .ended

theorem Dwindles.of_eq {s t : State} (same : residents t = residents s) : Dwindles s t := by
  simp only [residents, Prod.mk.injEq] at same
  obtain ⟨slots, gangs, blocks⟩ := same
  exact ⟨slots, fun g mem => gangs ▸ mem, fun b mem => .inl (blocks ▸ mem)⟩

theorem Dwindles.trans {s t u : State} (h : Dwindles s t) (h' : Dwindles t u) : Dwindles s u :=
  ⟨h'.slots.trans h.slots, fun g mem => h.gangs g (h'.gangs g mem), fun b mem => (h'.blocks b mem).elim (h.blocks b) .inr⟩

theorem Dwindles.foldl {B : Type} {f : State → B → State} (h : ∀ s x, Dwindles s (f s x)) (xs : List B) (s : State) :
    Dwindles s (xs.foldl f s) := by
  induction xs generalizing s with
  | nil => exact .of_eq rfl
  | cons x xs ih => exact (h s x).trans (ih _)

theorem dwindles_joinKill (s : State) (b : Block) (addr pc : W64) : Dwindles s (joinKill s b addr pc) := by
  have marks (s : State) (launch : Nat) (short : Bool) : Dwindles s (markStragglers s launch short) := by
    unfold markStragglers
    split
    · exact ⟨rfl, fun g mem => mem, fun b mem => .inl (List.mem_of_mem_filter mem)⟩
    · exact .of_eq rfl
  have checks (s : State) (launch : Nat) : Dwindles s (checkQuorum s launch) := by
    unfold checkQuorum
    split
    · exact .of_eq rfl
    · split
      · exact marks ..
      · exact .of_eq rfl
  unfold joinKill
  split
  · exact .of_eq rfl
  · next j _ =>
    have set (f : Join → Join) : Dwindles s (s.modJoin b.launch f) := .of_eq rfl
    split
    · exact (set _).trans (checks ..)
    · exact .of_eq rfl
    · exact .of_eq rfl

theorem residents_foldl_modCore (cs : List Nat) (f : CoreSt → CoreSt) (s : State) :
    residents (cs.foldl (fun s c => s.modCore c f) s) = residents s := by
  refine foldl_keeps residents _ (fun s c => ?_) cs s
  rfl

theorem residents_withdrawBarriers (s : State) (b : Block) : residents (withdrawBarriers s b) = residents s := by
  unfold withdrawBarriers
  refine foldl_keeps residents _ (fun s o => ?_) _ _
  rfl

theorem residents_writeBits (j : Join) (s : State) (va : Nat) (bs masks : List Byte) : residents (j.writeBits s va bs masks) = residents s :=
  residents_ownWrite ..

theorem residents_withdrawLaunches (s : State) (b : Block) : residents (withdrawLaunches s b) = residents s := by
  have kept (image masks : Join → List Byte) (js : List Join) (s : State) :
      residents (js.foldl (fun s j => unpin (j.writeBits s j.va (image j) (masks j)) j.pins) s) = residents s := by
    refine foldl_keeps residents _ (fun s j => ?_) js s
    exact residents_writeBits j s j.va (image j) (masks j)
  exact kept (fun j => leBytes 128 (j.image.toNat - joinBits j.image 389 388 * 2 ^ 388)) (fun _ => leBytes 128 joinRoBits) _ s

theorem residents_stripped (s : State) (b : Block) : residents (freeSave (withdrawBarriers (cancelEngines s b) b) b) = residents s :=
  (residents_withdrawBarriers ..).trans (residents_foldl_modCore b.cores _ _)

/-- R335: the gangs of a block that ends before its time leave; all else stands. -/
theorem residents_stripBlock (s : State) (b : Block) :
    residents (stripBlock s b) = (s.slots, s.gangs.filter (fun g => g.block != b.uid), s.blocks) := by
  have before : residents (if b.replayable then withdrawLaunches (freeSave (withdrawBarriers (cancelEngines s b) b) b) b
      else freeSave (withdrawBarriers (cancelEngines s b) b) b) = residents s := by
    split
    · exact (residents_withdrawLaunches ..).trans (residents_stripped ..)
    · exact residents_stripped ..
  exact congrArg (fun x => (x.1, x.2.1.filter (fun g => g.block != b.uid), x.2.2)) before

theorem residents_freeCores (s : State) (cs : List Nat) : residents (freeCores s cs) = residents s := by
  refine foldl_keeps residents _ (fun s c => ?_) cs s
  split <;> rfl

/-- What has ended of a block: its phase, and its gangs are gone. -/
def Ended (t : State) (u : Nat) : Prop := (∀ b ∈ t.blocks, b.uid = u → b.phase = .ended) ∧ ∀ g ∈ t.gangs, g.block ≠ u

theorem Ended.dwindles {s t : State} {u : Nat} (h : Ended s u) (goes : Dwindles s t) : Ended t u :=
  ⟨fun b mem uid => (goes.blocks b mem).elim (fun old => h.1 b old uid) id, fun g mem => h.2 g (goes.gangs g mem)⟩

theorem dwindles_dropEnded (s : State) (u : Nat) : Dwindles s (dropEnded s u) := by
  unfold dropEnded
  split
  · exact .of_eq rfl
  · exact ⟨rfl, fun g mem => mem, fun b mem => .inl (List.mem_of_mem_filter mem)⟩

/-- R335: the block is struck from its cores: its gangs leave and it has ended. -/
def struck (s : State) (b : Block) (u : Nat) (addr pc : W64) : State :=
  (stripBlock (joinKill s b addr pc) b).modBlock u (fun b =>
    { b with phase := .ended, sb := [], sbTiles := [], scads := [], savedGangs := [], replies := [] })

theorem dwindles_struck (s : State) (b : Block) (u : Nat) (addr pc : W64) : Dwindles s (struck s b u addr pc) := by
  refine (dwindles_joinKill s b addr pc).trans ?_
  have stripped := residents_stripBlock (joinKill s b addr pc) b
  simp only [residents, Prod.mk.injEq] at stripped
  obtain ⟨slots, gangs, blocks⟩ := stripped
  refine ⟨slots, fun g mem => ?_, fun x mem => ?_⟩
  · exact List.mem_of_mem_filter (gangs ▸ mem)
  · obtain ⟨y, old, rfl⟩ := List.mem_map.mp mem
    split
    · exact .inr rfl
    · exact .inl (blocks ▸ old)

theorem ended_struck (s : State) {b : Block} {u : Nat} (uid : b.uid = u) (addr pc : W64) : Ended (struck s b u addr pc) u := by
  have stripped := residents_stripBlock (joinKill s b addr pc) b
  simp only [residents, Prod.mk.injEq] at stripped
  obtain ⟨-, gangs, -⟩ := stripped
  refine ⟨fun x mem same => ?_, fun g mem => ?_⟩
  · obtain ⟨y, -, rfl⟩ := List.mem_map.mp mem
    split at same <;> rename_i eq
    · rw [if_pos eq]
    · exact absurd same eq
  · have left : g ∈ (joinKill s b addr pc).gangs.filter (fun g => g.block != b.uid) := gangs ▸ mem
    simpa [uid] using (List.mem_filter.mp left).2

/-- R335: what follows when a block has been struck touches no other resident. -/
theorem dwindles_afterStruck (s : State) (b : Block) (u : Nat) : Dwindles s
    (markSaved (freeCores (dropOwned (dropEnded (s.modLaunch b.launch (fun l => { l with killed := l.killed + 1 })) u) u b.cores) b.cores)
      b.launch) := by
  have counted : Dwindles s (s.modLaunch b.launch (fun l => { l with killed := l.killed + 1 })) := .of_eq rfl
  refine (counted.trans (dwindles_dropEnded _ u)).trans (.of_eq ?_)
  exact (residents_freeCores ..).trans (residents_foldl_modCore b.cores _ _)

theorem killOne_of_block? {s : State} {u : Nat} {b : Block} (here : s.block? u = some b) (lives : b.over = false) (addr pc : W64) :
    killOne s u addr pc = markSaved (freeCores (dropOwned (dropEnded ((struck s b u addr pc).modLaunch b.launch
      (fun l => { l with killed := l.killed + 1 })) u) u b.cores) b.cores) b.launch := by
  simp only [killOne, here, lives, Bool.false_eq_true, if_false]
  rfl

theorem dwindles_killOne (s : State) (u : Nat) (addr pc : W64) : Dwindles s (killOne s u addr pc) := by
  cases here : s.block? u with
  | none => rw [killOne, here]; exact .of_eq rfl
  | some b =>
    cases lives : b.over with
    | true => simp only [killOne, here, lives, if_true]; exact .of_eq rfl
    | false =>
      rw [killOne_of_block? here lives]
      exact (dwindles_struck ..).trans (dwindles_afterStruck _ b u)

/-- R335: a block that lives and is killed has ended, whatever its grid. -/
theorem killPlain_ends {s : State} {u : Nat} {b : Block} (here : s.block? u = some b) (lives : b.over = false) :
    (killPlain s u).slots = s.slots ∧ Ended (killPlain s u) u := by
  have uid : b.uid = u := by simpa using List.find?_some here
  have first : Ended (killOne s u 3 0) u := by
    rw [killOne_of_block? here lives]
    exact (ended_struck s uid 3 0).dwindles (dwindles_afterStruck _ b u)
  simp only [killPlain, killBlock, here]
  have others := fun xs => Dwindles.foldl (fun s x => dwindles_killOne s x 3 0) xs (killOne s u 3 0)
  exact ⟨((dwindles_killOne ..).trans (others _)).slots, first.dwindles (others _)⟩

/-! ### Replies (R178, R316) -/

/-- The four replies to a slot, by the number of their action. -/
def replyWord (action asid slot : Nat) (seq : BitVec 32) : Instr :=
  match action with
  | 0 => .freplyRetry asid slot seq
  | 1 => .freplyResumeAfter asid slot seq
  | 2 => .freplyKill asid slot seq
  | _ => .freplyFree asid slot seq

/-- The package with a slot freed. -/
def freed (s : State) (asid slot : Nat) : State := { s with slots := s.slots.filter (fun y => !(y.asid == asid && y.slot == slot)) }

theorem exec_reply_miss {s : State} {asid slot : Nat} {seq : BitVec 32}
    (miss : s.slots.find? (fun x => x.asid == asid && x.slot == slot && x.seq == seq.toNat) = none) {i : Instr}
    (reply : i ∈ [Instr.freplyRetry asid slot seq, .freplyResumeAfter asid slot seq, .freplyKill asid slot seq, .freplyFree asid slot seq]) :
    exec i s = .next s := by
  have none (action : Nat) : replySlot s action asid slot seq.toNat = s := by rw [replySlot, miss]
  simp only [List.mem_cons, List.not_mem_nil, or_false] at reply
  rcases reply with rfl | rfl | rfl | rfl
  · exact congrArg Host.Outcome.next (none 0)
  · exact congrArg Host.Outcome.next (none 1)
  · exact congrArg Host.Outcome.next (none 2)
  · exact congrArg Host.Outcome.next (none 3)

section hit
variable {s : State} {asid slot : Nat} {seq : BitVec 32} {x : FaultSlot}
  (hit : s.slots.find? (fun x => x.asid == asid && x.slot == slot && x.seq == seq.toNat) = some x)
include hit

theorem replySlot_of_hit (action : Nat) : replySlot s action asid slot seq.toNat =
    if action = 3 then freed s asid slot else actOnReply (freed s asid slot) x.req action := by
  rw [replySlot, hit]; rfl

theorem exec_freplyFree : exec (.freplyFree asid slot seq) s = .next (freed s asid slot) :=
  congrArg Host.Outcome.next (replySlot_of_hit hit 3)

theorem exec_freplyKill : exec (.freplyKill asid slot seq) s = .next (actOnReply (freed s asid slot) x.req 2) :=
  congrArg Host.Outcome.next (replySlot_of_hit hit 2)

theorem exec_freplyRetry : exec (.freplyRetry asid slot seq) s = .next (actOnReply (freed s asid slot) x.req 0) :=
  congrArg Host.Outcome.next (replySlot_of_hit hit 0)

theorem exec_freplyResumeAfter : exec (.freplyResumeAfter asid slot seq) s = .next (actOnReply (freed s asid slot) x.req 1) :=
  congrArg Host.Outcome.next (replySlot_of_hit hit 1)

/-- R332: a reply to the record of a flushed block frees its slot and does nothing more. -/
theorem exec_reply_inert (inert : x.req.inert = true) {i : Instr}
    (reply : i ∈ [Instr.freplyRetry asid slot seq, .freplyResumeAfter asid slot seq, .freplyKill asid slot seq, .freplyFree asid slot seq]) :
    exec i s = .next (freed s asid slot) := by
  have nothing (action : Nat) : actOnReply (freed s asid slot) x.req action = freed s asid slot := by
    rw [actOnReply, inert, Bool.true_or, if_pos rfl]
  simp only [List.mem_cons, List.not_mem_nil, or_false] at reply
  rcases reply with rfl | rfl | rfl | rfl
  · rw [exec_freplyRetry hit, nothing]
  · rw [exec_freplyResumeAfter hit, nothing]
  · rw [exec_freplyKill hit, nothing]
  · exact exec_freplyFree hit

end hit

/-- R178, R332: a reply acts on a record that is not mute and whose context lives. -/
theorem actOnReply_of_live {s : State} {r : FaultReq} {u : Nat} (heard : r.inert = false) (alive : tabGet false s.dead r.asid = false)
    (block : r.buid = some u) : actOnReply s r 2 = killPlain s u ∧
      (∀ action id, action ≠ 2 → r.op = some id → actOnReply s r action = replyEngine s id action) ∧
      (∀ action b gu, action ≠ 2 → r.op = none → s.block? u = some b → b.phase ≠ .saved → r.guid = some gu →
        actOnReply s r action = s.modGang gu (fun g => g.reply r action)) := by
  refine ⟨by simp [actOnReply, heard, alive, block], fun action id ne op => by simp [actOnReply, heard, alive, block, ne, op],
    fun action b gu ne op here phase guid => ?_⟩
  simp [actOnReply, heard, alive, block, ne, op, here, phase, guid]

theorem uid_reply (g : Gang) (r : FaultReq) (action : Nat) : (g.reply r action).uid = g.uid := by
  unfold Gang.reply
  dsimp only
  split <;> rfl

/-- R178: where no deferred fault is noted, the parked lanes of the record go on, and every other lane stays. -/
theorem lane_reply {g : Gang} (none : g.deferred = []) (r : FaultReq) (action j : Nat) (low : j < 32) :
    (g.reply r action).regs.lane j =
      if maskHas r.lanes j = true then replyLane r action g.run (g.inOpenGathering j) (g.regs.lane j) else g.regs.lane j := by
  have regs : (g.reply r action).regs =
      (lanesOf r.lanes).foldl (fun t i => t.modLane i (replyLane r action g.run (g.inOpenGathering i))) g.regs := by
    simp [Gang.reply, none]
  rw [regs, lane_foldl_modLane (fun i => replyLane r action g.run (g.inOpenGathering i)) (lanesOf_nodup _)]
  simp only [mem_lanesOf]
  by_cases placed : j < g.regs.lanes.length
  · simp only [low, placed, true_and, and_true]
  · have exited : g.regs.lane j = Lane.empty := lane_of_length_le _ (Nat.not_lt.mp placed)
    rw [if_neg (fun h => placed h.2), exited, show replyLane r action g.run (g.inOpenGathering j) Lane.empty = Lane.empty from rfl, ite_self]

/-- R178: what a reply does with a copy request that waits for one. -/
def replyCopy (action : Nat) (c : CopyOp) : CopyOp :=
  if action = 0 then { c with phase := .fetched, cause := 0 } else { c with phase := .failed }

theorem copy?_replyEngine {s : State} {id : Nat} {c : CopyOp} (here : s.copy? id = some c) (waits : c.phase = .waitReply) (action : Nat) :
    (replyEngine s id action).copy? id = some (replyCopy action c) := by
  have uid : c.id = id := by simpa using List.find?_some here
  have keeps : (fun c : CopyOp => c.id == id) ∘ (fun c => if c.id = id ∧ c.phase = .waitReply then replyCopy action c else c) =
      fun c => c.id == id := by
    funext c
    rw [Function.comp_apply]
    split
    · unfold replyCopy; split <;> rfl
    · rfl
  change ((s.copies.map fun c => if c.id = id ∧ c.phase = .waitReply then replyCopy action c else c).find? fun c => c.id == id) = _
  rw [List.find?_map, keeps, show s.copies.find? (fun c => c.id == id) = some c from here, Option.map_some, if_pos ⟨uid, waits⟩]

/-- Settles O48: each reply's action, on the package with the slot freed. -/
theorem repliesAct : Obligations.RepliesAct := by
  unfold Obligations.RepliesAct
  intro s asid slot seq all free hit
  refine ⟨fun miss i reply => exec_reply_miss miss reply, fun x found => ⟨exec_freplyFree found,
    fun i reply inert => exec_reply_inert found inert reply, fun u b heard alive block here phase lives => ?_⟩⟩
  obtain ⟨kills, engine, lanes⟩ := actOnReply_of_live (s := freed s asid slot) heard alive block
  refine ⟨fun gu g op guid gang none k => ?gang, fun id c op copy waits => ?engine, ?kill⟩
  case gang =>
    refine ⟨(freed s asid slot).modGang gu (fun g => g.reply x.req (if k then 0 else 1)), ?_, rfl,
      g.reply x.req (if k then 0 else 1), ?_, fun j low => ?_⟩
    · cases k
      · exact (exec_freplyResumeAfter found).trans (congrArg _ (lanes 1 b gu (by decide) op here phase guid))
      · exact (exec_freplyRetry found).trans (congrArg _ (lanes 0 b gu (by decide) op here phase guid))
    · exact (gang?_modGang_self (freed s asid slot) gu _ (fun g => uid_reply g x.req _)).trans (congrArg _ gang)
    · rw [lane_reply none _ _ _ low]
      cases k <;> by_cases named : maskHas x.req.lanes j = true <;> simp [named, replyLane]
  case engine =>
    have reached := copy?_replyEngine (s := freed s asid slot) copy waits
    exact ⟨⟨_, (exec_freplyRetry found).trans (congrArg _ (engine 0 id (by decide) op)), rfl, reached 0⟩,
      ⟨_, (exec_freplyResumeAfter found).trans (congrArg _ (engine 1 id (by decide) op)), rfl, reached 1⟩⟩
  case kill =>
    obtain ⟨slots, ended⟩ := killPlain_ends (s := freed s asid slot) here lives
    exact ⟨_, (exec_freplyKill found).trans (congrArg _ kills), slots, ended⟩

end Sys2Proof.Machine
end

section
/-! PROOFS. Loads in flight, lines of the L1 and released atomics (R169, R170, R238 to R240, R253). O43. -/
namespace Sys2Proof.Machine
open Sys2Proof.Laws Sys2Proof.Claim

/-! ### Loads (R238, R240) -/

/-- What stands outside the L1s: memory, the blocks and the gangs. -/
def outsideL1 (s : State) : List (Nat × Byte) × List Block × List Gang := (s.mem, s.blocks, s.gangs)

theorem outsideL1_touch (s : State) (c : Cell) : outsideL1 (touch s c) = outsideL1 s := by
  have counted (p : Place) (leaf : Nat) : outsideL1 (countHot s p c leaf) = outsideL1 s := by
    unfold countHot
    dsimp only
    split <;> rfl
  unfold touch
  split
  · split
    · rfl
    · exact counted ..
  · rfl

theorem outsideL1_touchLines (s : State) (cs : List Cell) : outsideL1 (touchLines s cs) = outsideL1 s :=
  foldl_keeps outsideL1 touch outsideL1_touch (lineHeads cs) s

theorem outsideL1_readLines (s : State) (cs : List Cell) : outsideL1 (readLines s cs) = outsideL1 s :=
  outsideL1_touchLines (meetDest s cs) cs

theorem outsideL1_dropForeign (s : State) (core blk : Nat) (cs : List Cell) : outsideL1 (dropForeign s core blk cs) = outsideL1 s := by
  unfold dropForeign
  split <;> rfl

theorem outsideL1_l1Keep (s : State) (core blk : Nat) (bs : List (Cell × Byte)) : outsideL1 (l1Keep s core blk bs) = outsideL1 s := by
  unfold l1Keep
  split
  · rfl
  · dsimp only
    split <;> rfl

theorem outsideL1_l1Fill (s : State) (core blk : Nat) (x : Cell) : outsideL1 (l1Fill s core blk x) = outsideL1 s := by
  unfold l1Fill
  split
  · rfl
  · refine foldl_keeps outsideL1 _ (fun t k => ?_) _ s
    dsimp only
    split
    · rfl
    · exact outsideL1_l1Keep ..

theorem outsideL1_keepRemote (s : State) (b : Block) (core : Nat) (part : List (Nat × Byte)) (c : Cell) :
    outsideL1 (keepRemote s b core part c) = outsideL1 s := by
  unfold keepRemote
  dsimp only
  split
  · exact outsideL1_l1Keep ..
  · rfl

/-- R240: a gang some of whose loads keep no line. -/
def Gang.outdated (core : Nat) (cs : List Cell) (g : Gang) : Gang :=
  if g.core = core then { g with out := g.out.map (fun o =>
    if (match o.kind with
      | .load r => r.part.any (fun p => cs.any (fun c => c.pa == p.1))
      | _ => false) then o.noKeep else o) }
  else g

theorem outdate_eq (s : State) (core : Nat) (cs : List Cell) : outdate s core cs = { s with gangs := s.gangs.map (Gang.outdated core cs) } := rfl

theorem outdated_uid (core : Nat) (cs : List Cell) (g : Gang) : (g.outdated core cs).uid = g.uid := by
  unfold Gang.outdated
  split <;> rfl

theorem noKeep_load {o : Outst} {r : LoadReq} (load : o.kind = .load r) : o.noKeep.id = o.id ∧ ∃ r', o.noKeep.kind = .load r' := by
  simp only [Outst.noKeep, load]
  exact ⟨trivial, _, rfl⟩

theorem gang?_mapGangs {s t : State} {f : Gang → Gang} (gangs : t.gangs = s.gangs.map f) (keeps : ∀ g, (f g).uid = g.uid) (u : Nat) :
    t.gang? u = (s.gang? u).map f := by
  have same : (fun g : Gang => g.uid == u) ∘ f = fun g => g.uid == u := by
    funext g
    rw [Function.comp_apply, keeps]
  rw [State.gang?, gangs, List.find?_map, same]
  rfl

/-- R240: a load that is outstanding stays so. -/
theorem outdated_load {g : Gang} {o : Outst} {r : LoadReq} (mem : o ∈ g.out) (load : o.kind = .load r) (core : Nat) (cs : List Cell) :
    ∃ o' ∈ (g.outdated core cs).out, o'.id = o.id ∧ ∃ r', o'.kind = .load r' := by
  have either (c : Prop) [Decidable c] : (if c then o.noKeep else o).id = o.id ∧ ∃ r', (if c then o.noKeep else o).kind = .load r' := by
    split
    · exact noKeep_load load
    · exact ⟨rfl, r, load⟩
  unfold Gang.outdated
  split
  · exact ⟨_, List.mem_map_of_mem mem, either _⟩
  · exact ⟨o, mem, rfl, r, load⟩

theorem outsideL1_fillLines (s : State) (b : Block) (core : Nat) (r : LoadReq) (keep : Bool) :
    ∃ cs, outsideL1 (fillLines s b core r keep) = (s.mem, s.blocks, s.gangs.map (Gang.outdated core cs)) := by
  let need := r.cells.filter (fun c => needsHome s b core c)
  let home := need.filter (fun c => !(isRemote c.pa))
  let cs := need.filter (fun c => isRemote c.pa)
  have before : outsideL1 (dropForeign (readLines s home) core b.uid need) = outsideL1 s :=
    (outsideL1_dropForeign ..).trans (outsideL1_readLines ..)
  have thinned : outsideL1 (outdate (dropForeign (readLines s home) core b.uid need) core cs) =
      (s.mem, s.blocks, s.gangs.map (Gang.outdated core cs)) :=
    congrArg (fun x => (x.1, x.2.1, x.2.2.map (Gang.outdated core cs))) before
  refine ⟨cs, ?_⟩
  unfold fillLines
  dsimp only
  split
  · refine Eq.trans ?_ thinned
    refine (foldl_keeps outsideL1 _ (fun s c => ?_) _ _).trans (foldl_keeps outsideL1 _ (fun s c => ?_) _ _)
    · exact outsideL1_keepRemote ..
    · exact outsideL1_l1Fill ..
  · exact thinned

/-- The package once a load in flight has taken its bytes (R238). -/
theorem exec_loadHomeRead {s : State} {u i : Nat} {keep : Bool} {g : Gang} {b : Block} {o : Outst} {r : LoadReq} (here : s.gang? u = some g)
    (block : s.blockOf g = some b) (out : g.out[i]? = some o) (load : o.kind = .load r) (unread : r.got = none)
    (first : olderLoad g o r = false) (clear : atomAhead s g b o r = false) (near : remoteCells s b g.core r = [])
    (awake : ∀ c ∈ r.cells, needsHome s b g.core c = true → readAsleep s c.pa = false) :
    let xs := r.cells.map (threadByte s g b r.part r.lane o.ord)
    let t := (fillLines s b g.core r (keep && !r.noKeep)).modGang u (fun g => g.gotLoad o.id (xs.map (·.1)) (xs.any (·.2)))
    exec (.loadHomeRead u i keep) s = .next (if xs.any (·.2) && o.blocks then
      consumeAt t g o.run o.pc (poisonAddr r.cells (xs.map (·.2))) r.lanes else t) := by
  have wakes : r.cells.any (fun c => needsHome s b g.core c && readAsleep s c.pa) = false := by
    refine List.any_eq_false.mpr fun c mem => ?_
    cases needs : needsHome s b g.core c with
    | false => simp
    | true => simp [awake c mem needs]
  intro xs t
  change (.next _ : Res) = _
  simp only [here, out, block, load, unread, first, clear, near, wakes, Option.isSome_none, Bool.or_self, Bool.false_eq_true, if_false]
  rfl

theorem gotLoad_load {g : Gang} {o : Outst} {r : LoadReq} (mem : o ∈ g.out) (load : o.kind = .load r) (bs : List Byte) (poison : Bool) :
    ∃ o' ∈ (g.gotLoad o.id bs poison).out, ∃ r', o'.id = o.id ∧ o'.kind = .load r' ∧ r'.got = some bs ∧ r'.poison = poison := by
  refine ⟨_, List.mem_map_of_mem mem, { r with got := some bs, poison := poison }, ?_⟩
  simp only [if_true, load, and_self]

/-- R177, R334: lanes that consume uncorrectable data: noted in the block, and to park at the next park seam. -/
theorem consumeAt_spec {s : State} {g g1 : Gang} {b : Block} (here : s.gang? g.uid = some g1) (block : s.block? g.block = some b)
    (run : Nat) (pc : W64) (addr : Nat) (lanes : LaneMask) :
    (consumeAt s g run pc addr lanes).mem = s.mem ∧
    blockIn (consumeAt s g run pc addr lanes) g.block (fun b' => b'.consumption ≠ []) ∧
    gangIn (consumeAt s g run pc addr lanes) g.uid (fun g' => g'.out = g1.out ∧ ∃ d ∈ g'.deferred, d.lanes = lanes ∧ d.req.cause = 0x19) := by
  obtain ⟨cause, -⟩ := faultFor_fields s g 0x19 0 pc (BitVec.ofNat 64 addr) 0
  refine ⟨rfl, ?_, ?_⟩
  · have noted := block?_modBlock_self s g.block
      (fun b => { b with consumption := b.consumption ++ [⟨lanes, g.idx, pc, BitVec.ofNat 64 addr, g.uid, run⟩] }) fun _ => rfl
    rw [block] at noted
    exact ⟨_, noted, by simp⟩
  · refine gangIn_modGang (s := consume s g.block _) here (fun _ => rfl) ⟨rfl, _, List.mem_append_right _ (List.mem_singleton.mpr rfl), rfl, ?_⟩
    exact cause

theorem loadsTakeTheirBytes (s : State) (u i : Nat) (keep : Bool) (g : Gang) (b : Block) (o : Outst) (r : LoadReq)
    (here : s.gang? u = some g) (block : s.blockOf g = some b) (out : g.out[i]? = some o) (load : o.kind = .load r) (unread : r.got = none)
    (first : olderLoad g o r = false) (clear : atomAhead s g b o r = false) (near : remoteCells s b g.core r = [])
    (awake : ∀ c ∈ r.cells, needsHome s b g.core c = true → readAsleep s c.pa = false) :
    let xs := r.cells.map (threadByte s g b r.part r.lane o.ord)
    After (.loadHomeRead u i keep) s (fun t => t.mem = s.mem ∧
      gangIn t u (fun g' => ∃ o' ∈ g'.out, ∃ r', o'.id = o.id ∧ o'.kind = .load r' ∧ r'.got = some (xs.map (·.1)) ∧
        r'.poison = xs.any (·.2)) ∧
      (xs.any (·.2) = false → t.blocks = s.blocks) ∧
      (xs.any (·.2) = true → o.blocks = true → blockIn t b.uid (fun b' => b'.consumption ≠ []) ∧
        gangIn t u (fun g' => ∃ d ∈ g'.deferred, d.lanes = r.lanes ∧ d.req.cause = 0x19))) := by
  intro xs
  refine ⟨_, exec_loadHomeRead here block out load unread first clear near awake, ?_⟩
  obtain rfl : g.uid = u := uid_of_gang? here
  obtain ⟨cs, filled⟩ := outsideL1_fillLines s b g.core r (keep && !r.noKeep)
  simp only [outsideL1, Prod.mk.injEq] at filled
  obtain ⟨mem, blocks, gangs⟩ := filled
  have gang1 : (fillLines s b g.core r (keep && !r.noKeep)).gang? g.uid = some (g.outdated g.core cs) := by
    rw [gang?_mapGangs gangs (outdated_uid g.core cs), here, Option.map_some]
  have gang2 := gang?_modGang_self (fillLines s b g.core r (keep && !r.noKeep)) g.uid
    (fun g => g.gotLoad o.id (xs.map (·.1)) (xs.any (·.2))) (fun _ => rfl)
  rw [gang1, Option.map_some] at gang2
  obtain ⟨o1, mem1, id1, r1, load1⟩ := outdated_load (List.mem_of_getElem? out) load g.core cs
  have got := gotLoad_load mem1 load1 (xs.map (·.1)) (xs.any (·.2))
  rw [id1] at got
  have uidB : b.uid = g.block := by simpa using List.find?_some (show s.blocks.find? _ = some b from block)
  split
  · next bad =>
    obtain ⟨poisoned, -⟩ := Bool.and_eq_true_iff.mp bad
    have block1 : ((fillLines s b g.core r (keep && !r.noKeep)).modGang g.uid fun g => g.gotLoad o.id (xs.map (·.1)) (xs.any (·.2))).block?
        g.block = some b := by
      rw [State.block?, modGang_blocks, blocks]; exact block
    obtain ⟨mem', consumed, g', here', out', deferred⟩ :=
      consumeAt_spec gang2 block1 o.run o.pc (poisonAddr r.cells (xs.map (·.2))) r.lanes
    rw [← out'] at got
    exact ⟨mem'.trans mem, ⟨g', here', got⟩, fun clean => absurd (clean.symm.trans poisoned) (by decide),
      fun _ _ => ⟨uidB ▸ consumed, ⟨g', here', deferred⟩⟩⟩
  · next fine =>
    exact ⟨mem, ⟨_, gang2, got⟩, fun _ => blocks, fun bad waits => absurd (by rw [bad, waits]; rfl) fine⟩

/-! ### Lines (R239) -/

theorem lineIsEvicted (s : State) (core line : Nat) : After (.l1Evict core line) s (fun t => t = { s with cores := t.cores } ∧
    (t.core core).l1 = (s.core core).l1.filter (fun e => lineOf e.pa != line) ∧ ∀ c, c ≠ core → t.core c = s.core c) := by
  refine ⟨_, rfl, rfl, ?_, fun c ne => core_modCore_ne s core c _ ne⟩
  exact congrArg CoreSt.l1 (core_modCore_self ..)

/-! ### Atomics (R169, R170, R253) -/

/-- R202: an item that its gang has released alone stands behind none. -/
theorem behind_of_alone {g : Gang} {h : HeldItem} (alone : g.relq = [h]) : g.behind h = false := by
  simp [Gang.behind, alone]

theorem nextAtom_of_alone {g : Gang} {h : HeldItem} (alone : g.relq = [h]) {a : AtomReq} (atomic : h.eff = .atom a ∨ h.eff = .atoml a) :
    nextAtom g = some h := by
  have first := behind_of_alone alone
  rw [nextAtom, alone]
  rcases atomic with eff | eff <;> simp [eff, first]

/-- R202: with nothing left to release a release changes nothing else. -/
theorem releaseGang_of_empty {s : State} {u : Nat} {g : Gang} (here : s.gang? u = some g) (none : g.relq = []) :
    releaseGang s u = s.modGang u (fun g => { g with relq := [] }) := by
  simp only [releaseGang, here, none, List.foldl_nil]

theorem blockIn_modBlock {s : State} {u : Nat} {b : Block} {f : Block → Block} {P : Block → Prop} (here : s.block? u = some b)
    (keeps : ∀ b, (f b).uid = b.uid) (holds : P (f b)) : blockIn (s.modBlock u f) u P :=
  ⟨f b, by rw [block?_modBlock_self s u f keeps, here]; rfl, holds⟩

/-- R241: a commit that does not wait for its completion counts at once. -/
theorem blockIn_commitBlock {s : State} {u : Nat} {b : Block} (here : s.block? u = some b) (pc : W64) (who : CommitFor)
    (now : who.countsLast = false) (contribToo : Bool) :
    blockIn (commitBlock s u pc who contribToo) u (fun b' => b'.commits = b.commits + 1 ∧ b'.lastPc = pc) := by
  obtain ⟨b1, here1, commits⟩ : blockIn (takeCommit s u pc who contribToo) u (fun b' => b'.commits = b.commits) :=
    blockIn_modBlock (s := { s with gaths := _ }) here (fun _ => rfl) rfl
  rw [commitBlock, now]
  exact blockIn_modBlock (s := { takeCommit s u pc who contribToo with launches := _ }) here1 (fun _ => rfl) ⟨congrArg (· + 1) commits, rfl⟩

/-- R253: a gang of whose loads the fills of some lines are not kept. -/
def Gang.missing (core : Nat) (lines : List Nat) (g : Gang) : Gang :=
  if g.core = core then { g with out := g.out.map (fun o =>
    if (match o.kind with
      | .load r => r.cells.any (fun c => lines.contains (lineOf c.pa))
      | _ => false) then o.noKeep else o) }
  else g

theorem missing_uid (core : Nat) (lines : List Nat) (g : Gang) : (g.missing core lines).uid = g.uid := by
  unfold Gang.missing
  split <;> rfl

theorem missing_relq (core : Nat) (lines : List Nat) (g : Gang) : (g.missing core lines).relq = g.relq := by
  unfold Gang.missing
  split <;> rfl

theorem relq_setItem_of_alone {g : Gang} {h : HeldItem} (alone : g.relq = [h]) (e : Held) : (g.setItem h e).relq = [{ h with eff := e }] := by
  simp [Gang.setItem, alone]

/-- R253: an atomic word leaves its core. -/
theorem atomsLeave {s : State} {u lane : Nat} {g : Gang} {b : Block} {h : HeldItem} {a : AtomReq} (here : s.gang? u = some g)
    (block : s.blockOf g = some b) (alone : g.relq = [h]) (eff : h.eff = .atom a) (stays : a.left = false)
    (clear : gathersBefore s g h = false) : After (.atomPerform u lane) s (fun t => t.mem = s.mem ∧
      blockIn t b.uid (fun b' => b'.commits = b.commits + 1 ∧ b'.lastPc = h.pc) ∧
      gangIn t u (fun g' => ∃ ahead, g'.relq =
        [{ h with eff := .atom { a with left := true, commit := b.nextUnit, ahead := ahead } }])) := by
  have first : (nextGlobal g).map (·.ord) = some h.ord := by
    have found : g.relq.find? isGlobal = some h := by rw [alone]; simp [isGlobal, eff, stays]
    rw [nextGlobal, found, Option.filter_some, behind_of_alone alone]
    rfl
  have leaves : exec (.atomPerform u lane) s = .next (atomLeave s g b h a) := by
    change (.next _ : Res) = _
    simp only [here, nextAtom_of_alone alone (.inl eff), block, eff, stays, first, clear]
    simp
  refine ⟨_, leaves, rfl, ?_, ?_⟩
  · have uid : s.block? b.uid = some b := by
      have found : s.block? g.block = some b := block
      rwa [← show b.uid = g.block by simpa using List.find?_some found] at found
    exact blockIn_commitBlock uid h.pc (.atom g.uid a.oid) rfl false
  · obtain rfl : g.uid = u := uid_of_gang? here
    let lines := ((a.lanes.filter (fun x => !x.core)).flatMap (fun x => x.cells.map (fun c => lineOf c.pa))).eraseDups
    have dropped := gang?_mapGangs (s := s) (t := { s with gangs := s.gangs.map (Gang.missing g.core lines) }) rfl
      (missing_uid g.core lines) g.uid
    rw [here, Option.map_some] at dropped
    refine gangIn_modGang (g := g.missing g.core lines) ?here (fun _ => rfl) ⟨?ahead, ?relq⟩
    case here => exact dropped
    case relq => exact relq_setItem_of_alone ((missing_relq ..).trans alone) _

theorem addAtom_of_alone {g : Gang} {h : HeldItem} (alone : g.relq = [h]) {a : AtomReq} {x : AtomLane} (one : a.lanes = [x])
    (held : AtomReq → Held) (es : List Eff) :
    (g.addAtom h (a.finish x) held es).relq = [] ∧ (g.addAtom h (a.finish x) held es).out = arrived g a.oid es := by
  have done : (a.finish x).lanes.all (·.done) = true := by simp [AtomReq.finish, one]
  have added : g.addAtom h (a.finish x) held es =
      (Gang.dropItem { g with out := g.out.map fun (o : Outst) => if o.id = a.oid then { o with effs := o.effs ++ es } else o } h).arrive
        a.oid [] := by
    rw [Gang.addAtom, done]; rfl
  rw [added]
  refine ⟨?_, ?_⟩
  · simp [Gang.arrive, Gang.dropItem, alone]
  · simp only [Gang.arrive, Gang.dropItem, List.map_map, arrived, List.append_nil]
    refine List.map_congr_left fun o _ => ?_
    rw [Function.comp_apply]
    split <;> simp_all


/-- R253: the item of an atomic word whose one lane is to be performed. -/
theorem atomGroup_of_one {a : AtomReq} {x : AtomLane} {lane : Nat} (one : a.lanes = [x]) (named : atomLane a lane = some x) :
    atomGroup a x = [x] := by
  have undone : x.done = false := by
    have open_ := List.find?_some (show a.lanes.find? _ = some x from named)
    simpa using (Bool.and_eq_true_iff.mp open_).1
  simp [atomGroup, one, undone]

/-- R85, R178, R336: a state with other bytes kept for fetches, other records asked for and other requests at its channels: what no
write at home looks at. -/
def beside (s : State) (l : List CodeVer) (f : List FaultReq) (q : List ChanReq) : State := { s with codeLog := l, faultQ := f, chanQ := q }

section
variable (s : State) (l : List CodeVer) (f : List FaultReq) (q : List ChanReq) (atomic : Bool)

theorem putByte_beside (view pa : Nat) (val mask : Byte) :
    putByte (beside s l f q) view pa val mask = beside (putByte s view pa val mask) l f q := by
  by_cases same : lineKeyOf s (lineOf pa) = view
  · simp only [putByte, reviewLine, if_pos same, if_pos (show lineKeyOf (beside s l f q) (lineOf pa) = view from same)]
    rfl
  · simp only [putByte, reviewLine, if_neg same, if_neg (show ¬ lineKeyOf (beside s l f q) (lineOf pa) = view from same)]
    rfl

theorem storeByte_beside (x : StCell) : storeByte (beside s l f q) atomic x = beside (storeByte s atomic x) l f q := by
  have home : homePa (beside s l f q) x.cell.pa = homePa s x.cell.pa := rfl
  have link (pa : Nat) : linkDown (beside s l f q) pa = linkDown s pa := rfl
  have forwarded : forwardPa (beside s l f q) x.cell.pa = forwardPa s x.cell.pa := rfl
  simp only [storeByte, home, link, forwarded, putByte_beside]
  split
  · rfl
  · cases forwardPa s x.cell.pa with
    | none => rfl
    | some d =>
      dsimp only
      split
      · rfl
      · split <;> rfl

theorem foldl_storeByte_beside (xs : List StCell) : xs.foldl (fun s x => storeByte s atomic x) (beside s l f q) =
    beside (xs.foldl (fun s x => storeByte s atomic x) s) l f q := by
  induction xs generalizing s with
  | nil => rfl
  | cons x xs ih => rw [List.foldl_cons, List.foldl_cons, storeByte_beside, ih]

theorem writeHome_mem (xs : List StCell) : (writeHome s atomic xs).mem =
    ((xs.filter (fun x => !(inWindow (homePa s x.cell.pa)))).foldl (fun s x => storeByte s atomic x) (keepStored s (keyLines s xs))).mem := by
  unfold writeHome
  dsimp only
  split <;> rfl

theorem writeHome_beside_mem (xs : List StCell) : (writeHome (beside s l f q) atomic xs).mem = (writeHome s atomic xs).mem := by
  have written := congrArg State.mem
    (foldl_storeByte_beside (keepStored s (keyLines s xs)) l f q atomic (xs.filter (fun x => !(inWindow (homePa s x.cell.pa)))))
  rw [writeHome_mem, writeHome_mem]
  exact written

end

/-- R253: the new value of one location written at home and over the core's own line, its accesses counted. -/
def atomWritten (s : State) (g : Gang) (b : Block) (a : AtomReq) (x : AtomLane) (new : List Byte) : State :=
  let s0 := if aopWrites a.aop then keepOldCode s b.asid none x.cells else s
  let s1 := if aopWrites a.aop then writeHome s0 true (stCells x.cells new) else s0
  let s2 := if x.core && aopWrites a.aop then (x.cells.zip new).foldl (fun s p => l1Lay s g.core p.1 p.2 0xFF) s1 else s1
  touchLines s2 (atomCounts s b g.core a.aop x)

theorem atomWritten_spec (s : State) (g : Gang) (b : Block) (a : AtomReq) (x : AtomLane) (new : List Byte) :
    (atomWritten s g b a x new).gangs = s.gangs ∧
    (atomWritten s g b a x new).mem = (if a.aop = .ld then s else writeHome s true (stCells x.cells new)).mem := by
  obtain ⟨l, kept⟩ := keepOldCode_eq s b.asid none x.cells
  have laid (ps : List (Cell × Byte)) (s : State) :
      outsideL1 (ps.foldl (fun s p => l1Lay s g.core p.1 p.2 0xFF) s) = outsideL1 s := by
    refine foldl_keeps outsideL1 _ (fun s p => ?_) ps s
    rfl
  have counted (s1 : State) (on : Bool) : outsideL1 (touchLines (if on then
      (x.cells.zip new).foldl (fun s p => l1Lay s g.core p.1 p.2 0xFF) s1 else s1) (atomCounts s b g.core a.aop x)) = outsideL1 s1 := by
    rw [outsideL1_touchLines]
    cases on
    · rfl
    · exact laid _ _
  have writes : aopWrites a.aop = !decide (a.aop = .ld) := by cases a.aop <;> rfl
  by_cases load : a.aop = .ld
  · have none : aopWrites a.aop = false := by rw [writes, load]; rfl
    have same := counted s false
    simp only [outsideL1, Prod.mk.injEq] at same
    simp only [atomWritten, none, Bool.and_false, Bool.false_eq_true, if_false, if_pos load]
    exact ⟨same.2.2, same.1⟩
  · have some : aopWrites a.aop = true := by rw [writes]; simp [load]
    have same := counted (writeHome { s with codeLog := l } true (stCells x.cells new)) x.core
    have residing := residents_writeHome { s with codeLog := l } true (stCells x.cells new)
    simp only [outsideL1, residents, Prod.mk.injEq] at same residing
    simp only [atomWritten, some, kept, Bool.and_true, if_true, if_neg load]
    exact ⟨same.2.2.trans residing.2.1, same.1.trans (writeHome_beside_mem s l s.faultQ s.chanQ true _)⟩

/-- R202, R253: the item that its gang has released alone is the one that its number names. -/
theorem find_of_alone {g : Gang} {h : HeldItem} (alone : g.relq = [h]) : g.relq.find? (fun e => e.ord == h.ord && e.run == h.run) = some h := by
  simp [alone]

/-- R202: with its last item gone a gang's release changes neither memory nor blocks nor results. -/
theorem releaseGang_of_last {s : State} {u : Nat} {g : Gang} (here : s.gang? u = some g) (last : g.relq = []) :
    (releaseGang s u).mem = s.mem ∧ (releaseGang s u).blocks = s.blocks ∧
      gangIn (releaseGang s u) u (fun g' => g'.relq = [] ∧ g'.out = g.out) := by
  rw [releaseGang_of_empty here last]
  exact ⟨rfl, rfl, gangIn_modGang here (fun _ => rfl) ⟨rfl, rfl⟩⟩

/-- R169, R170, R253: the lane's part done and its old value delivered, the word's item leaves its gang. -/
theorem releaseGang_addAtom {s : State} {u : Nat} {g : Gang} {h : HeldItem} (here : s.gang? u = some g) (alone : g.relq = [h])
    {a : AtomReq} {x : AtomLane} (one : a.lanes = [x]) (held : AtomReq → Held) (es : List Eff) :
    let t := releaseGang (s.modGang u (fun g => g.addAtom h (a.finish x) held es)) u
    t.mem = s.mem ∧ t.blocks = s.blocks ∧ gangIn t u (fun g' => g'.relq = [] ∧ g'.out = arrived g a.oid es) := by
  obtain ⟨relq, out⟩ := addAtom_of_alone alone one held es
  have uid (g : Gang) : (g.addAtom h (a.finish x) held es).uid = g.uid := by
    unfold Gang.addAtom
    dsimp only
    split <;> rfl
  have added := gang?_modGang_self s u (fun g => g.addAtom h (a.finish x) held es) uid
  rw [here, Option.map_some] at added
  obtain ⟨mem, blocks, g', here', relq', out'⟩ := releaseGang_of_last added relq
  exact ⟨mem, blocks, g', here', relq', out'.trans out⟩

section atomic
variable {s : State} {u lane : Nat} {g : Gang} {b : Block} {h : HeldItem} (here : s.gang? u = some g) (block : s.blockOf g = some b)
  (alone : g.relq = [h])
include here block alone

/-- R253: an atomic that has left its core reads its location, writes the new value there and delivers the old one. -/
theorem atomsPerform {a : AtomReq} {x : AtomLane} (eff : h.eff = .atom a) (left : a.left = true) (one : a.lanes = [x])
    (named : atomLane a lane = some x) (relaxed : a.acq = false)
    (near : ∀ c ∈ x.cells, isRemote c.pa = false ∧ stackAsleep s c.pa = false) (ready : atomReady b a x = true)
    (good : ∀ y ∈ atomRead s b g.core x, y.2 = false) :
    let old := (atomRead s b g.core x).map (·.1);
    let y := atomNew a.aop a.size (BitVec.ofNat 128 (leValue old)) x.data x.cmp;
    let o := (g.out.find? (fun o => o.id == a.oid)).getD Outst.absent;
    After (.atomPerform u lane) s (fun t =>
      t.mem = (if a.aop = .ld then s else writeHome s true (stCells x.cells (leBytes (sizeBytes a.size) y.1.toNat))).mem ∧
      gangIn t u (fun g' => g'.relq = [] ∧ g'.out = arrived g a.oid (atomEffs a o x old y.2))) := by
  intro old y o
  let t := atomWritten s g b a x (leBytes (sizeBytes a.size) y.1.toNat)
  have onHere : x.cells.any (fun c => isRemote c.pa) = false := List.any_eq_false.mpr fun c mem => by simp [(near c mem).1]
  have awake : x.cells.any (fun c => stackAsleep s c.pa) = false := List.any_eq_false.mpr fun c mem => by simp [(near c mem).2]
  have clean : (atomRead s b g.core x).any (·.2) = false := List.any_eq_false.mpr fun y mem => by simp [good y mem]
  have performed : atomOne u h s x = t.modGang u (fun g => g.addAtom h (a.finish x) .atom (atomEffs a o x old y.2)) := by
    simp only [atomOne, here, block, find_of_alone alone, eff, clean, relaxed, Bool.false_eq_true, if_false]
    rfl
  have performs : exec (.atomPerform u lane) s = .next (releaseGang (atomOne u h s x) u) := by
    change (.next _ : Res) = _
    simp only [here, nextAtom_of_alone alone (.inl eff), block, eff, left, named, onHere, ready, awake, atomGroup_of_one one named,
      Bool.not_true, Bool.or_self, Bool.false_eq_true, if_false, List.foldl_cons, List.foldl_nil]
  obtain ⟨gangs, mem⟩ := atomWritten_spec s g b a x (leBytes (sizeBytes a.size) y.1.toNat)
  have hereT : t.gang? u = some g := by rw [State.gang?, gangs]; exact here
  obtain ⟨mem', -, delivered⟩ := releaseGang_addAtom hereT alone one .atom (atomEffs a o x old y.2)
  exact ⟨_, performs, performed ▸ mem'.trans mem, performed ▸ delivered⟩

/-- R170: a scratchpad atomic does the same on the bytes of its core. -/
theorem atomlsPerform {a : AtomReq} {x : AtomLane} (eff : h.eff = .atoml a) (one : a.lanes = [x]) (named : atomLane a lane = some x)
    (clear : localBefore g h x.off (sizeBytes a.size) = false) :
    let pos := b.posOf g.core;
    let old := scratchBytes b pos x.off (sizeBytes a.size);
    let y := atomNew a.aop a.size (BitVec.ofNat 128 (leValue old)) x.data x.cmp;
    let o := (g.out.find? (fun o => o.id == a.oid)).getD Outst.absent;
    After (.atomPerform u lane) s (fun t => t.mem = s.mem ∧
      blockIn t b.uid (fun b' => b'.scratch = if a.aop = .ld then b.scratch
        else (scratchPut b pos (placed x.off (leBytes (sizeBytes a.size) y.1.toNat))).scratch) ∧
      gangIn t u (fun g' => g'.relq = [] ∧ g'.out = arrived g a.oid (atomEffs a o x old y.2))) := by
  intro pos old y o
  let new := leBytes (sizeBytes a.size) y.1.toNat
  let t := if aopWrites a.aop then s.modBlock b.uid (fun b => scratchPut b (b.posOf g.core) (placed x.off new)) else s
  have performed : atomlOne u h s x = t.modGang u (fun g => g.addAtom h (a.finish x) .atoml (atomEffs a o x old y.2)) := by
    simp only [atomlOne, here, block, find_of_alone alone, eff]
    rfl
  have performs : exec (.atomPerform u lane) s = .next (releaseGang (atomlOne u h s x) u) := by
    change (.next _ : Res) = _
    simp only [here, nextAtom_of_alone alone (.inr eff), block, eff, named, clear, atomGroup_of_one one named,
      Bool.false_eq_true, if_false, List.foldl_cons, List.foldl_nil]
  have writes : aopWrites a.aop = !decide (a.aop = .ld) := by cases a.aop <;> rfl
  have hereT : t.gang? u = some g ∧ t.mem = s.mem := by
    unfold t
    split <;> exact ⟨here, rfl⟩
  have scratch : blockIn t b.uid (fun b' => b'.scratch = if a.aop = .ld then b.scratch else (scratchPut b pos (placed x.off new)).scratch) := by
    have found : s.block? b.uid = some b := by
      have found : s.block? g.block = some b := block
      rwa [← show b.uid = g.block by simpa using List.find?_some found] at found
    by_cases load : a.aop = .ld
    · simp only [t, load, if_true]
      exact ⟨b, found, rfl⟩
    · simp only [t, writes, load, decide_false, Bool.not_false, if_true, if_false]
      exact blockIn_modBlock found (fun _ => rfl) rfl
  obtain ⟨mem', blocks, delivered⟩ := releaseGang_addAtom hereT.1 alone one .atoml (atomEffs a o x old y.2)
  obtain ⟨b', foundT, holds⟩ := scratch
  exact ⟨_, performs, performed ▸ mem'.trans hereT.2, ⟨b', by rw [performed, State.block?, blocks]; exact foundT, holds⟩, performed ▸ delivered⟩

end atomic

/-- Settles O43: each event by the lemma on it. -/
theorem loadsAndAtomics : Obligations.LoadsAndAtomics := by
  unfold Obligations.LoadsAndAtomics
  refine ⟨loadsTakeTheirBytes, lineIsEvicted, fun s u lane g b h here block alone => ⟨fun a eff stays clear => ?_, fun a x => ?_, fun a x => ?_⟩⟩
  · exact atomsLeave here block alone eff stays clear
  · exact atomsPerform here block alone
  · exact atomlsPerform here block alone

end Sys2Proof.Machine
end

section
/-! PROOFS. TLB walks and fault records (R175, R178, R342), and register donation (R197, R198). O39. -/
namespace Sys2Proof.Machine
open Sys2Proof.Laws Sys2Proof.Claim

/-! ### Walks (R175, R344) -/

/-- R344: the leaf of a walk holds the address. -/
theorem walkFrom_covers {s : State} {va table : Nat} {ls : List Level} {l : Leaf} (found : walkFrom s va table ls = some l) :
    l.base ≤ va ∧ va < l.base + l.size := by
  induction ls generalizing table with
  | nil => exact absurd found (by simp [walkFrom])
  | cons k ks ih =>
    unfold walkFrom at found
    dsimp only at found
    split at found
    · split at found
      · exact absurd found (by simp)
      · split at found
        · split at found
          · exact absurd found (by simp)
          · cases found
            have cut := Nat.div_add_mod va (2 ^ k.lo)
            have low := Nat.mod_lt va (Nat.two_pow_pos k.lo)
            rw [Nat.mul_comm] at cut
            exact ⟨by dsimp only; omega, by dsimp only; omega⟩
        · split at found
          · exact ih found
          · exact absurd found (by simp)
    · exact absurd found (by simp)

theorem walk_covers {s : State} {asid va : Nat} {l : Leaf} (found : walk s asid va = .ok l) : l.base ≤ va ∧ va < l.base + l.size := by
  unfold walk at found
  dsimp only at found
  split at found
  · cases found
  · split at found
    · cases found
    · split at found
      · cases found
      · next l' walked =>
        split at found
        · cases found
        · cases found
          exact walkFrom_covers walked

/-- R175: where the TLB has nothing for an address, it has no entry of the page of its leaf. -/
theorem no_tlb_entry {s : State} {core asid va : Nat} {l : Leaf} (miss : tlbFind s core asid va = none)
    (covers : l.base ≤ va ∧ va < l.base + l.size) :
    (s.core core).tlb.any (fun e => e.asid == asid && e.base == l.base && e.size == l.size) = false := by
  rw [tlbFind, Option.map_eq_none_iff, List.find?_eq_none] at miss
  refine List.any_eq_false.mpr fun e mem same => miss e mem ?_
  simp only [Bool.and_eq_true, beq_iff_eq] at same ⊢
  obtain ⟨⟨asid, base⟩, size⟩ := same
  exact ⟨asid, decide_eq_true (by omega)⟩

theorem walksFillTheTlb (s : State) (core asid va : Nat) (range : va < 2 ^ 57) (miss : tlbFind s core asid va = none)
    (awake : walkAsleep s asid va = false) :
    (∀ l, walk s asid va = .ok l → After (.tlbWalk core asid va) s (fun t => unasked s t = { s with cores := t.cores } ∧
      (∃ e ∈ (t.core core).tlb, e.asid = asid ∧ e.base = l.base ∧ e.size = l.size ∧ e.leafPa = l.leafPa ∧ e.entry = l.entry) ∧
      (∀ e ∈ (s.core core).tlb, e ∈ (t.core core).tlb) ∧ ∀ c, c ≠ core → t.core c = s.core c)) ∧
    (∀ e, walk s asid va = .error e → After (.tlbWalk core asid va) s (fun t => unasked s t = s)) := by
  obtain ⟨m, q, f, asked⟩ := askWalks_eq s core true asid [va]
  have goes : ¬ (va ≥ 2 ^ 57 ∨ (tlbFind s core asid va).isSome = true ∨ walkAsleep s asid va = true) := by
    simpa [miss, awake] using range
  refine ⟨fun l found => ?_, fun e none => ?_⟩
  · have fresh := no_tlb_entry miss (walk_covers found)
    have filled : exec (.tlbWalk core asid va) s = .next ((askWalks s core true asid [va]).modCore core (fun c =>
        if c.tlb.any (fun e => e.asid == asid && e.base == l.base && e.size == l.size) then c
        else { c with tlb := c.tlb ++ [⟨asid, l.base, l.size, l.leafPa, l.entry⟩] })) := by
      change (.next _ : Res) = _
      rw [if_neg goes, found]
    have cores : (askWalks s core true asid [va]).core core = s.core core := by rw [asked]; rfl
    refine ⟨_, filled, by rw [asked]; rfl, ?_, ?_, fun c ne => ?_⟩
    · rw [core_modCore_self, cores, fresh]
      exact ⟨_, List.mem_append_right _ (List.mem_singleton.mpr rfl), rfl, rfl, rfl, rfl, rfl⟩
    · rw [core_modCore_self, cores, fresh]
      exact fun e mem => List.mem_append_left _ mem
    · rw [core_modCore_ne _ _ _ _ ne, asked]
      rfl
  · have stays : exec (.tlbWalk core asid va) s = .next (askWalks s core true asid [va]) := by
      change (.next _ : Res) = _
      rw [if_neg goes, none]
    exact ⟨_, stays, by rw [asked]; rfl⟩

/-! ### Fault records (R178, R342) -/

/-- What a write at home leaves of fault records: the slots, the requests and the numbers. -/
def faultLog (s : State) : List FaultSlot × List FaultReq × List (Nat × Nat) := (s.slots, s.faultQ, s.faultSeq)

theorem faultLog_writePhys (s : State) (who : Nat) (asid : Option Nat) (pa : Nat) (bs : List Byte) :
    faultLog (writePhys s who asid pa bs) = faultLog s := by
  obtain ⟨q, asked⟩ := ownAsk_eq s who asid (physLines pa bs.length)
  rw [writePhys, asked]
  exact writeHome_keeps faultLog (fun _ _ _ _ _ _ _ _ => rfl) _ _ _

/-- R178: what a unit writes does not depend on the records that are asked for. -/
theorem writePhys_mem_of_faultQ (s : State) (f : List FaultReq) (who : Nat) (asid : Option Nat) (pa : Nat) (bs : List Byte) :
    (writePhys { s with faultQ := f } who asid pa bs).mem = (writePhys s who asid pa bs).mem := by
  obtain ⟨q, asked⟩ := ownAsk_eq s who asid (physLines pa bs.length)
  obtain ⟨q', asked'⟩ := ownAsk_eq { s with faultQ := f } who asid (physLines pa bs.length)
  rw [writePhys, writePhys, asked, asked']
  exact (writeHome_beside_mem s s.codeLog f q' false _).trans (writeHome_beside_mem s s.codeLog s.faultQ q false _).symm

theorem notifySupervisor_keeps (s : State) (asid : Nat) (host : Bool) :
    faultLog (notifySupervisor s asid host) = faultLog s ∧ (notifySupervisor s asid host).mem = s.mem := by
  have noticed (bit : Nat) : faultLog (setNotice s bit) = faultLog s ∧ (setNotice s bit).mem = s.mem := by
    unfold setNotice
    split <;> exact ⟨rfl, rfl⟩
  unfold notifySupervisor
  dsimp only
  split
  · exact noticed 0
  · split <;> exact ⟨rfl, rfl⟩

/-- R178: a record taken from the requests and written: its slot is occupied under its number. -/
def recordPut (s : State) (i asid slot n pa : Nat) (r : FaultReq) (bs : List Byte) : State :=
  let s3 := writePhys { s with faultQ := s.faultQ.eraseIdx i } ownUnit (some asid) pa bs
  { s3 with slots := s3.slots ++ [⟨asid, slot, n, r⟩], faultSeq := tabPut 0 s3.faultSeq asid ((n + 1) % 2 ^ 32) }

theorem notified_recordPut (s : State) (i asid slot n pa : Nat) (r : FaultReq) (bs : List Byte) (host : Bool) :
    let t := notifySupervisor (recordPut s i asid slot n pa r bs) asid host
    t.slots = s.slots ++ [⟨asid, slot, n, r⟩] ∧ tabGet 0 t.faultSeq asid = (n + 1) % 2 ^ 32 ∧ t.faultQ = s.faultQ.eraseIdx i ∧
      t.mem = (writePhys s ownUnit (some asid) pa bs).mem := by
  obtain ⟨log', mem⟩ := notifySupervisor_keeps (recordPut s i asid slot n pa r bs) asid host
  have log := faultLog_writePhys { s with faultQ := s.faultQ.eraseIdx i } ownUnit (some asid) pa bs
  simp only [faultLog, Prod.mk.injEq] at log log'
  obtain ⟨slots, faultQ, -⟩ := log
  obtain ⟨slots', faultQ', faultSeq'⟩ := log'
  refine ⟨slots'.trans ?_, ?_, faultQ'.trans faultQ, mem.trans (writePhys_mem_of_faultQ ..)⟩
  · rw [recordPut, slots]
  · rw [faultSeq', recordPut, tabGet_tabPut_self]

section record
variable {s : State} {asid i : Nat} {r : FaultReq} (next : nextFault s asid = some i) (asks : s.faultQ[i]? = some r)
  (valid : ctxValid s asid = true)
include next asks valid

theorem recordWaits_asleep {slot : Nat} (free : freeSlot s asid = some slot) (asleep : recordAsleep s asid slot r = true) :
    exec (.faultRecordWrite asid) s = .next s := by
  change (.next _ : Res) = _
  simp only [next, asks, valid, free, asleep, Bool.not_true, Bool.false_eq_true, if_false, if_true]

theorem recordWaits_full (full : freeSlot s asid = none) : After (.faultRecordWrite asid) s (fun t => t.slots = s.slots ∧ t.mem = s.mem ∧
    t.faultQ = s.faultQ.map (fun x => if x.asid = asid then { x with waited := true } else x)) := by
  have waits : exec (.faultRecordWrite asid) s =
      .next { s with faultQ := s.faultQ.map (fun x => if x.asid = asid then { x with waited := true } else x) } := by
    change (.next _ : Res) = _
    simp only [next, asks, valid, full, Bool.not_true, Bool.false_eq_true, if_false]
  exact ⟨_, waits, rfl, rfl, rfl⟩

theorem recordIsWritten {slot : Nat} (free : freeSlot s asid = some slot) (awake : recordAsleep s asid slot r = false)
    (plain : r.cause ≠ 0x30) : After (.faultRecordWrite asid) s (fun t =>
      let n := tabGet 0 s.faultSeq asid;
      t.slots = s.slots ++ [⟨asid, slot, n, r⟩] ∧ tabGet 0 t.faultSeq asid = (n + 1) % 2 ^ 32 ∧
      t.faultQ = s.faultQ.eraseIdx i ∧
      t.mem = (writePhys s ownUnit (some asid) (ctxFaults (ctxRec s asid) + 64 * slot) (faultRecord r slot n)).mem) := by
  have written : exec (.faultRecordWrite asid) s = .next (notifySupervisor (recordPut s i asid slot (tabGet 0 s.faultSeq asid)
      (ctxFaults (ctxRec s asid) + 64 * slot) r (faultRecord r slot (tabGet 0 s.faultSeq asid))) asid r.host) := by
    change (.next _ : Res) = _
    simp only [next, asks, valid, free, awake, writeDiag, plain, Bool.not_true, Bool.false_eq_true, if_false]
    rfl
  exact ⟨_, written, notified_recordPut ..⟩

end record

theorem walksAndFaultRecords : Claim.walksAndFaultRecords := by
  refine ⟨walksFillTheTlb, fun s core asid va stays => ?_, fun s asid i r next asks valid =>
    ⟨fun slot free asleep => recordWaits_asleep next asks valid free asleep,
      fun slot free awake plain => recordIsWritten next asks valid free awake plain, recordWaits_full next asks valid⟩⟩
  change (.next _ : Res) = _
  rw [if_pos stays]

/-! ### Donation (R197, R198) -/

theorem tabGet_filter_lt {B : Type} (d : B) (l : List (Nat × B)) (m n : Nat) :
    tabGet d (l.filter (fun p => decide (p.1 < m))) n = if n < m then tabGet d l n else d := by
  induction l with
  | nil => simp [tabGet]
  | cons p l ih =>
    by_cases low : p.1 < m <;> by_cases key : p.1 = n
    · simp [tabGet, key, key ▸ low]
    · simp [tabGet, low, key, ih]
    · simp [low, ih, key ▸ low]
    · simp [tabGet, low, key, ih]

theorem getV_takeRegs (g : Gang) (n j k : Nat) : ((g.takeRegs n).regs.lane j).getV k = if k < g.vregs then (g.regs.lane j).getV k else 0 := by
  by_cases placed : j < g.regs.lanes.length
  · have lane : (g.takeRegs n).regs.lane j = { g.regs.lane j with v := (g.regs.lane j).v.filter (fun p => decide (p.1 < g.vregs)) } := by
      simp [Gang.takeRegs, GangRegs.lane, List.getD_eq_getElem?_getD, placed]
    rw [lane]
    exact tabGet_filter_lt 0 _ _ _
  · have none : g.regs.lane j = Lane.empty := lane_of_length_le _ (Nat.not_lt.mp placed)
    have none' : (g.takeRegs n).regs.lane j = Lane.empty := lane_of_length_le _ (by simpa [Gang.takeRegs] using placed)
    rw [none, none', show Lane.empty.getV k = 0 from rfl, ite_self]

theorem donateFault_spec {s : State} {u : Nat} {g : Gang} {d : Donation} (here : s.gang? u = some g) (asked : g.donation = some d) :
    (∃ r, r.cause = 0x25 ∧ (donateFault s u).faultQ = s.faultQ ++ [r]) ∧
    gangIn (donateFault s u) u (fun x => x.vregs = g.vregs ∧ x.donation = none) ∧ ∀ v, v ≠ u → (donateFault s u).gang? v = s.gang? v := by
  simp only [donateFault, here, asked]
  refine ⟨⟨_, (faultFor_fields ..).1, rfl⟩, ?_, fun v ne => ?_⟩
  · exact gangIn_modGang here (fun _ => rfl) ⟨rfl, rfl⟩
  · exact gang?_modGang_ne s u v _ (fun _ => rfl) ne

section donation
variable {s : State} {giver taker : Gang} (hereG : s.gang? giver.uid = some giver) (hereT : s.gang? taker.uid = some taker)
  (apart : giver.uid ≠ taker.uid)
include hereG hereT apart

/-- R198: the registers move; those that the taker gains hold zero. -/
theorem registersMove (n : Nat) :
    let t := (s.modGang giver.uid (fun x => x.giveRegs n)).modGang taker.uid (fun x => x.takeRegs n)
    gangIn t giver.uid (fun x => x.vregs = giver.vregs - n ∧ x.donation = none) ∧
    gangIn t taker.uid (fun x => x.vregs = taker.vregs + n ∧ x.donation = none ∧
      ∀ j k, (x.regs.lane j).getV k = if k < taker.vregs then (taker.regs.lane j).getV k else 0) := by
  intro t
  have given : (s.modGang giver.uid (fun x => x.giveRegs n)).gang? taker.uid = some taker :=
    (gang?_modGang_ne s giver.uid taker.uid (fun x => x.giveRegs n) (fun _ => rfl) apart.symm).trans hereT
  have gave := gang?_modGang_self s giver.uid (fun x => x.giveRegs n) fun _ => rfl
  rw [hereG, Option.map_some] at gave
  refine ⟨⟨giver.giveRegs n, ?_, rfl, rfl⟩, gangIn_modGang given (fun _ => rfl) ⟨rfl, rfl, getV_takeRegs taker n⟩⟩
  exact (gang?_modGang_ne _ taker.uid giver.uid (fun x => x.takeRegs n) (fun _ => rfl) apart).trans gave

/-- R198: past the limits both gangs have the donation-mismatch fault. -/
theorem bothMismatch {a b : Donation} (askedG : giver.donation = some a) (askedT : taker.donation = some b) :
    let t := donateFault (donateFault s giver.uid) taker.uid
    gangIn t giver.uid (fun x => x.vregs = giver.vregs ∧ x.donation = none) ∧
    gangIn t taker.uid (fun x => x.vregs = taker.vregs ∧ x.donation = none) ∧
    ∃ a b, t.faultQ = s.faultQ ++ [a, b] ∧ a.cause = 0x25 ∧ b.cause = 0x25 := by
  obtain ⟨⟨r, cause, asks⟩, ⟨x, foundX, holdsX⟩, others⟩ := donateFault_spec hereG askedG
  obtain ⟨⟨r', cause', asks'⟩, held', others'⟩ := donateFault_spec ((others _ apart.symm).trans hereT) askedT
  exact ⟨⟨x, (others' _ apart).trans foundX, holdsX⟩, held', r, r', by rw [asks', asks, List.append_assoc]; rfl, cause, cause'⟩

end donation

theorem donations_of_meet {g p : Gang} (meet : donateMeet g p = true) : ∃ a b, g.donation = some a ∧ p.donation = some b := by
  unfold donateMeet at meet
  split at meet
  · next a b first second => exact ⟨a, b, first, second⟩
  · exact absurd meet (by decide)

/-- R198: two requests that meet take effect, or fail, once no register result is outstanding. -/
theorem exec_donation {s : State} {g p giver taker : Gang} {d : Donation} (here : s.gang? g.uid = some g) (asked : g.donation = some d)
    (partner : gangOfBlock s g.block d.partner = some p) (meet : donateMeet g p = true) (owes : g.owesResult = false)
    (owes' : p.owesResult = false) (roles : (d.give = true ∧ giver = g ∧ taker = p) ∨ (d.give = false ∧ giver = p ∧ taker = g)) :
    exec (.donationTakeEffect g.uid) s = .next (
      if giver.vregs < d.n + 8 ∨ taker.vregs + d.n > 256 then donateFault (donateFault s giver.uid) taker.uid
      else (s.modGang giver.uid (fun x => x.giveRegs d.n)).modGang taker.uid (fun x => x.takeRegs d.n)) := by
  change (.next _ : Res) = _
  rcases roles with ⟨give, rfl, rfl⟩ | ⟨give, rfl, rfl⟩ <;>
    simp only [here, asked, Option.bind_some, partner, meet, owes, owes', Option.map_some, Option.getD_some, give, Bool.not_true,
      Bool.or_self, Bool.false_eq_true, if_false, if_true]

theorem donationTakesEffect (s : State) (g : Gang) (d : Donation) (p giver taker : Gang) (here : s.gang? g.uid = some g)
    (hereP : s.gang? p.uid = some p) (apart : g.uid ≠ p.uid) (asked : g.donation = some d)
    (partner : gangOfBlock s g.block d.partner = some p) (meet : donateMeet g p = true) (owes : g.owesResult = false)
    (owes' : p.owesResult = false) (roles : (d.give = true ∧ giver = g ∧ taker = p) ∨ (d.give = false ∧ giver = p ∧ taker = g)) :
    (d.n + 8 ≤ giver.vregs → taker.vregs + d.n ≤ 256 → After (.donationTakeEffect g.uid) s (fun t =>
      t = { s with gangs := t.gangs } ∧
      gangIn t giver.uid (fun x => x.vregs = giver.vregs - d.n ∧ x.donation = none) ∧
      gangIn t taker.uid (fun x => x.vregs = taker.vregs + d.n ∧ x.donation = none ∧
        ∀ j n, (x.regs.lane j).getV n = if n < taker.vregs then (taker.regs.lane j).getV n else 0))) ∧
    (giver.vregs < d.n + 8 ∨ 256 < taker.vregs + d.n → After (.donationTakeEffect g.uid) s (fun t =>
      gangIn t giver.uid (fun x => x.vregs = giver.vregs ∧ x.donation = none) ∧
      gangIn t taker.uid (fun x => x.vregs = taker.vregs ∧ x.donation = none) ∧
      ∃ a b, t.faultQ = s.faultQ ++ [a, b] ∧ a.cause = 0x25 ∧ b.cause = 0x25)) := by
  have acts := exec_donation here asked partner meet owes owes' roles
  obtain ⟨a, b, first, second⟩ := donations_of_meet meet
  obtain ⟨hereG, hereT, differ, ⟨a', askedG⟩, b', askedT⟩ : s.gang? giver.uid = some giver ∧ s.gang? taker.uid = some taker ∧
      giver.uid ≠ taker.uid ∧ (∃ a, giver.donation = some a) ∧ ∃ b, taker.donation = some b := by
    rcases roles with ⟨-, rfl, rfl⟩ | ⟨-, rfl, rfl⟩
    · exact ⟨here, hereP, apart, ⟨a, first⟩, b, second⟩
    · exact ⟨hereP, here, apart.symm, ⟨b, second⟩, a, first⟩
  refine ⟨fun enough room => ?_, fun beyond => ?_⟩
  · rw [if_neg (by omega)] at acts
    exact ⟨_, acts, rfl, registersMove hereG hereT differ d.n⟩
  · rw [if_pos beyond] at acts
    exact ⟨_, acts, bothMismatch hereG hereT differ askedG askedT⟩

end Sys2Proof.Machine
end

section
/-! PROOFS. The commons arbiter (R195): what it takes in a cycle, and when every gang reads it. O39. -/
namespace Sys2Proof.Machine
open Sys2Proof.Laws Sys2Proof.Claim

/-! ### Retiring (R195) -/

/-- Of the writes to a key the last one stands. -/
theorem tabGet_foldl_tabPut {A B : Type} [DecidableEq B] (d : B) (key : A → Nat) (val : A → B) (ws : List A) (t : List (Nat × B)) (k : Nat) :
    tabGet d (ws.foldl (fun t w => tabPut d t (key w) (val w)) t) k =
      ((ws.filter (fun w => key w == k)).getLast?).elim (tabGet d t k) val := by
  induction ws using List.reverseRecOn with
  | nil => rfl
  | append_singleton ws w ih =>
    rw [List.foldl_append, List.foldl_cons, List.foldl_nil, List.filter_append]
    by_cases same : key w = k
    · simp [same]
    · simp [same, tabGet_tabPut_ne _ _ _ _ _ (Ne.symm same), ih]

/-- R195: the writes of some that name a block, in its commons file. -/
def commonsAfter (ws : List ArbWrite) (u : Nat) (commons : List (Nat × W64)) : List (Nat × W64) :=
  (ws.filter (fun w => w.block == u)).foldl (fun t w => tabPut 0 t (commonsKey w.blkpos w.reg) w.val) commons

theorem block?_modBlock_ne (s : State) (u v : Nat) (f : Block → Block) (keeps : ∀ b, (f b).uid = b.uid) (ne : v ≠ u) :
    (s.modBlock u f).block? v = s.block? v := by
  have same : (fun b : Block => b.uid == v) ∘ (fun b => if b.uid = u then f b else b) = fun b => b.uid == v := by
    funext b
    rw [Function.comp_apply]
    split <;> simp [keeps]
  change (s.blocks.map _).find? _ = s.blocks.find? _
  rw [List.find?_map, same]
  cases found : s.blocks.find? (fun b => b.uid == v) with
  | none => rfl
  | some b =>
    have uid : b.uid = v := by simpa using List.find?_some found
    rw [Option.map_some, if_neg (uid ▸ ne)]

/-- R195: a block with one arbitrated write in its commons file. -/
def Block.putCommons (w : ArbWrite) (b : Block) : Block := { b with commons := tabPut 0 b.commons (commonsKey w.blkpos w.reg) w.val }

theorem block?_foldl_retireWrite (ws : List ArbWrite) (s : State) (u : Nat) :
    (ws.foldl retireWrite s).block? u = (s.block? u).map (fun b => { b with commons := commonsAfter ws u b.commons }) := by
  induction ws generalizing s with
  | nil => cases h : s.block? u <;> simp [commonsAfter, h]
  | cons w ws ih =>
    have moved : (retireWrite s w).block? u = (s.modBlock w.block (Block.putCommons w)).block? u := rfl
    rw [List.foldl_cons, ih, moved]
    by_cases same : w.block = u
    · subst same
      rw [block?_modBlock_self s w.block (Block.putCommons w) fun _ => rfl, Option.map_map]
      simp [commonsAfter, Function.comp_def, Block.putCommons]
    · rw [block?_modBlock_ne s w.block u (Block.putCommons w) (fun _ => rfl) (Ne.symm same)]
      simp [commonsAfter, same]

theorem gang?_foldl_retireWrite (ws : List ArbWrite) (s : State) (u : Nat) :
    (ws.foldl retireWrite s).gang? u =
      (s.gang? u).map (fun g => (ws.filter (fun w => w.gang == u)).foldl (fun g w => g.retire w.ord) g) := by
  induction ws generalizing s with
  | nil => cases h : s.gang? u <;> simp [h]
  | cons w ws ih =>
    have moved : (retireWrite s w).gang? u = (s.modGang w.gang (fun g => g.retire w.ord)).gang? u := rfl
    rw [List.foldl_cons, ih, moved]
    by_cases same : w.gang = u
    · subst same
      rw [gang?_modGang_self s w.gang (fun g => g.retire w.ord) fun _ => rfl, Option.map_map]
      simp [Function.comp_def]
    · rw [gang?_modGang_ne s w.gang u (fun g => g.retire w.ord) (fun _ => rfl) (Ne.symm same)]
      simp [same]

theorem overlay_foldl_retire (ws : List ArbWrite) (g : Gang) :
    (ws.foldl (fun g w => g.retire w.ord) g).regs.overlay = g.regs.overlay.filter (fun o => !(ws.any (fun w => w.ord == o.ord))) := by
  induction ws generalizing g with
  | nil => simp
  | cons w ws ih =>
    rw [List.foldl_cons, ih]
    change (g.regs.overlay.filter (fun o => o.ord != w.ord)).filter _ = _
    rw [List.filter_filter]
    refine List.filter_congr fun o _ => ?_
    rw [List.any_cons, Bool.not_or, Bool.and_comm, bne, BEq.comm (a := o.ord)]

theorem commonsKey_inj {p q r r' : Nat} (low : r < 32) (low' : r' < 32) : commonsKey p r = commonsKey q r' ↔ p = q ∧ r = r' := by
  unfold commonsKey
  omega

theorem arbitratedWritesRetire (s : State) (core : Nat) :
    let due := (s.core core).arbDone.filter (fun a => decide (a.cycle + 2 ≤ s.cycle));
    (∀ w ∈ due, w.reg < 32) → After (.commonsOverlayRetire core) s (fun t =>
      (t.core core).arbDone = (s.core core).arbDone.filter (fun a => decide (s.cycle < a.cycle + 2)) ∧
      (∀ u b, s.block? u = some b → blockIn t u (fun b' => b' = { b with commons := b'.commons } ∧ ∀ pos reg, reg < 32 →
        tabGet 0 b'.commons (commonsKey pos reg) =
          ((due.filter (fun w => w.block == u && w.blkpos == pos && w.reg == reg)).getLast?).elim
            (tabGet 0 b.commons (commonsKey pos reg)) (·.val))) ∧
      ∀ u g, s.gang? u = some g → gangIn t u (fun g' =>
        g'.regs.overlay = g.regs.overlay.filter (fun o => !(due.any (fun w => w.gang == u && w.ord == o.ord))))) := by
  intro due low
  have cores : (due.foldl retireWrite s).cores = s.cores := by
    refine foldl_keeps State.cores _ (fun s w => ?_) due s
    rfl
  refine ⟨_, rfl, ?_, fun u b here => ?_, fun u g here => ?_⟩
  · rw [core_modCore_self, show (due.foldl retireWrite s).core core = s.core core by rw [State.core, cores]; rfl]
    refine List.filter_congr fun a _ => ?_
    rw [← decide_not]
    exact decide_eq_decide.mpr (by omega)
  · have found := block?_foldl_retireWrite due s u
    rw [here, Option.map_some] at found
    refine ⟨_, found, rfl, fun pos reg small => ?_⟩
    have named : (due.filter (fun w => w.block == u)).filter (fun w => commonsKey w.blkpos w.reg == commonsKey pos reg) =
        due.filter (fun w => w.block == u && w.blkpos == pos && w.reg == reg) := by
      rw [List.filter_filter]
      refine List.filter_congr fun w mem => ?_
      rw [Bool.eq_iff_iff]
      simp only [Bool.and_eq_true, beq_iff_eq, commonsKey_inj (low w mem) small]
      tauto
    rw [← named]
    exact tabGet_foldl_tabPut 0 (fun w : ArbWrite => commonsKey w.blkpos w.reg) (·.val) _ b.commons _
  · have found := gang?_foldl_retireWrite due s u
    rw [here, Option.map_some] at found
    exact ⟨_, found, (overlay_foldl_retire _ g).trans (by simp only [List.any_filter])⟩

/-! ### Arbitration (R195; log 25) -/

/-- Log 25: of some gangs the one in the lowest slot is picked. -/
theorem foldl_pick_of_least {g : Gang} (l : List Gang) (a : Option Gang) (least : ∀ h ∈ l, h = g ∨ g.slot < h.slot)
    (best : ∀ x, a = some x → x = g ∨ g.slot < x.slot) (there : g ∈ l ∨ a = some g) :
    l.foldl (fun a h => match a with | none => some h | some x => if decide (h.slot < x.slot) = true then some h else a) a = some g := by
  induction l generalizing a with
  | nil => simpa using there
  | cons h l ih =>
    rw [List.foldl_cons]
    refine ih _ (fun x mem => least x (List.mem_cons_of_mem _ mem)) (fun x next => ?_) ?_
    · cases a with
      | none => cases next; exact least h List.mem_cons_self
      | some y =>
        dsimp only at next
        split at next
        · cases next; exact least h List.mem_cons_self
        · cases next; exact best _ rfl
    · have first := least h List.mem_cons_self
      rcases there with mem | rfl
      · rcases List.mem_cons.mp mem with rfl | later
        · refine .inr ?_
          cases a with
          | none => rfl
          | some y =>
            dsimp only
            rcases best y rfl with eq | above
            · rw [eq, ite_self]
            · rw [if_pos (decide_eq_true above)]
        · exact .inl later
      · refine .inr ?_
        dsimp only
        rcases first with eq | above
        · rw [eq, ite_self]
        · rw [if_neg (by simpa using Nat.le_of_lt above)]

theorem pickGang_of_least {l : List Gang} {g : Gang} (mem : g ∈ l) (least : ∀ h ∈ l, h = g ∨ g.slot < h.slot) :
    pickGang (fun a b => decide (a.slot < b.slot)) l = some g :=
  foldl_pick_of_least l none least (fun _ none => absurd none (by simp)) (.inl mem)

/-- R195: a gang of a partition that has a commons write to present. -/
def Presenting (s : State) (core p : Nat) (g : Gang) : Prop :=
  g ∈ s.gangs ∧ g.core = core ∧ g.part = p ∧ (firstCommons g).isSome = true

/-- R195: what the arbiter takes from each partition of a core: nothing where no gang presents, else the first write of the gang in
the lowest slot. -/
structure Arbiter (s : State) (core : Nat) (pick : Nat → Option (Gang × CommonsWrite × Block)) : Prop where
  alone : (s.gangs.map (·.uid)).Nodup
  none : ∀ p, p < 16 → pick p = none → ∀ g, ¬ Presenting s core p g
  some : ∀ p x, p < 16 → pick p = some x → Presenting s core p x.1 ∧ firstCommons x.1 = some x.2.1 ∧ s.blockOf x.1 = some x.2.2 ∧
    ∀ h, Presenting s core p h → h.uid ≠ x.1.uid → x.1.slot < h.slot

/-- R195: a gang after the turns of some partitions. -/
def arbSent (core : Nat) (pick : Nat → Option (Gang × CommonsWrite × Block)) (ps : List Nat) (g : Gang) : Gang :=
  if g.core = core ∧ g.part ∈ ps then
    (pick g.part).elim g (fun x => if x.1.uid = g.uid then g.sentCommons x.2.1 else g)
  else g

/-- R195: the arbiter's note of a write. -/
def arbNote (s : State) (core : Nat) (x : Gang × CommonsWrite × Block) : ArbWrite :=
  ⟨s.cycle, x.1.uid, x.1.block, x.2.2.posOf core, x.2.1.reg, x.2.1.val, x.2.1.ord⟩

/-- R195: a package after the turns of some partitions. -/
structure Arbitrated (s : State) (core : Nat) (pick : Nat → Option (Gang × CommonsWrite × Block)) (ps : List Nat) (t : State) : Prop where
  rest : t = { s with cores := t.cores, gangs := t.gangs }
  done : (t.core core).arbDone = (s.core core).arbDone ++ ps.filterMap (fun p => (pick p).map (arbNote s core))
  gangs : t.gangs = s.gangs.map (arbSent core pick ps)

theorem arbSent_keeps (core : Nat) (pick : Nat → Option (Gang × CommonsWrite × Block)) (ps : List Nat) (g : Gang) :
    (arbSent core pick ps g).uid = g.uid ∧ (arbSent core pick ps g).core = g.core ∧ (arbSent core pick ps g).part = g.part := by
  unfold arbSent
  split
  · cases pick g.part with
    | none => exact ⟨rfl, rfl, rfl⟩
    | some x => dsimp only [Option.elim_some]; split <;> exact ⟨rfl, rfl, rfl⟩
  · exact ⟨rfl, rfl, rfl⟩

/-- A partition whose turn has not come has its gangs as they were. -/
theorem arbSent_of_not_mem {core : Nat} {pick : Nat → Option (Gang × CommonsWrite × Block)} {ps : List Nat} {g : Gang} (later : g.part ∉ ps) :
    arbSent core pick ps g = g := if_neg fun h => later h.2

theorem partGangs_arbitrated {s t : State} {core p : Nat} {pick : Nat → Option (Gang × CommonsWrite × Block)} {ps : List Nat}
    (gangs : t.gangs = s.gangs.map (arbSent core pick ps)) (later : p ∉ ps) : partGangs t core p = partGangs s core p := by
  have same : (fun g : Gang => g.core == core && g.part == p) ∘ arbSent core pick ps = fun g => g.core == core && g.part == p := by
    funext g
    obtain ⟨-, kept, kept'⟩ := arbSent_keeps core pick ps g
    rw [Function.comp_apply, kept, kept']
  rw [partGangs, partGangs, gangs, List.filter_map, same]
  refine (List.map_congr_left fun g mem => ?_).trans (List.map_id _)
  have here := (List.mem_filter.mp mem).2
  simp only [Bool.and_eq_true, beq_iff_eq] at here
  exact arbSent_of_not_mem (here.2 ▸ later)

theorem mem_presenting (s : State) (core p : Nat) (g : Gang) :
    g ∈ (partGangs s core p).filter (fun g => (firstCommons g).isSome) ↔ Presenting s core p g := by
  simp only [partGangs, List.mem_filter, Bool.and_eq_true, beq_iff_eq, Presenting, and_assoc]

/-- Two gangs of one number are one, where no number is borne twice. -/
theorem eq_of_uid_eq {l : List Gang} (alone : (l.map (·.uid)).Nodup) {g h : Gang} (memG : g ∈ l) (memH : h ∈ l) (same : g.uid = h.uid) :
    g = h := List.inj_on_of_nodup_map alone memG memH same

section turn
variable {s t : State} {core p : Nat} {pick : Nat → Option (Gang × CommonsWrite × Block)} {ps : List Nat} (takes : Arbiter s core pick)
  (before : Arbitrated s core pick ps t) (low : p < 16) (later : p ∉ ps)
include takes before low later

/-- R195: a partition with nothing to present leaves all as it is. -/
theorem arbitrated_none (none : pick p = none) : Arbitrated s core pick (ps ++ [p]) (arbitratePart t core p) := by
  have empty : (partGangs t core p).filter (fun g => (firstCommons g).isSome) = [] := by
    rw [partGangs_arbitrated before.gangs later]
    exact List.eq_nil_iff_forall_not_mem.mpr fun g mem => takes.none p low none g ((mem_presenting ..).mp mem)
  have stays : arbitratePart t core p = t := by rw [arbitratePart, empty]; rfl
  rw [stays]
  refine ⟨before.rest, ?_, ?_⟩
  · rw [before.done, List.filterMap_append]
    simp [none]
  · rw [before.gangs]
    refine List.map_congr_left fun g _ => ?_
    by_cases here : g.part = p
    · rw [arbSent_of_not_mem (here ▸ later), arbSent, here, none]
      simp
    · simp [arbSent, here]

/-- R195: a partition presents the first write of its lowest slot. -/
theorem arbitrated_some {x : Gang × CommonsWrite × Block} (some : pick p = some x) :
    Arbitrated s core pick (ps ++ [p]) (arbitratePart t core p) := by
  obtain ⟨presents, first, block, least⟩ := takes.some p x low some
  have ⟨mem, onCore, inPart, _⟩ := presents
  have picked : pickGang (fun a b => decide (a.slot < b.slot)) ((partGangs t core p).filter (fun g => (firstCommons g).isSome)) = Option.some x.1 := by
    rw [partGangs_arbitrated before.gangs later]
    refine pickGang_of_least ((mem_presenting ..).mpr presents) fun h mem' => ?_
    have presents' := (mem_presenting ..).mp mem'
    by_cases same : h.uid = x.1.uid
    · exact .inl (eq_of_uid_eq takes.alone presents'.1 mem same)
    · exact .inr (least h presents' same)
  have blockT : t.blockOf x.1 = Option.some x.2.2 := by rw [before.rest]; exact block
  have turn : arbitratePart t core p = (t.modGang x.1.uid (fun g => g.sentCommons x.2.1)).modCore core (fun c =>
      { c with arbDone := c.arbDone ++ [arbNote s core x] }) := by
    have cycle : t.cycle = s.cycle := by rw [before.rest]
    simp only [arbitratePart, picked, first, blockT, cycle, arbNote]
  rw [turn]
  refine ⟨?_, ?_, ?_⟩
  · rw [before.rest]; rfl
  · rw [core_modCore_self]
    change (t.core core).arbDone ++ _ = _
    rw [before.done, List.filterMap_append, List.append_assoc]
    simp [some]
  · change t.gangs.map _ = _
    rw [before.gangs, List.map_map]
    refine List.map_congr_left fun h memH => ?_
    obtain ⟨uid, -⟩ := arbSent_keeps core pick ps h
    rw [Function.comp_apply, uid]
    by_cases own : h.uid = x.1.uid
    · obtain rfl := eq_of_uid_eq takes.alone memH mem own
      rw [if_pos rfl, arbSent_of_not_mem (inPart ▸ later), arbSent, inPart, some]
      simp [onCore]
    · rw [if_neg own]
      by_cases here : h.part = p
      · rw [arbSent_of_not_mem (here ▸ later), arbSent, here, some]
        simp [Ne.symm own]
      · simp [arbSent, here]

end turn

/-- R195: the turns of distinct partitions. -/
theorem arbitrated_foldl {s : State} {core : Nat} {pick : Nat → Option (Gang × CommonsWrite × Block)} (takes : Arbiter s core pick)
    (ps : List Nat) (once : ps.Nodup) (low : ∀ p ∈ ps, p < 16) :
    Arbitrated s core pick ps (ps.foldl (fun t p => arbitratePart t core p) s) := by
  induction ps using List.reverseRecOn with
  | nil => exact ⟨rfl, by simp, ((List.map_congr_left fun g _ => arbSent_of_not_mem List.not_mem_nil).trans (List.map_id _)).symm⟩
  | append_singleton ps p ih =>
    have split := List.nodup_append.mp once
    have before := ih split.1 fun q mem => low q (List.mem_append_left _ mem)
    have small := low p (List.mem_append_right _ (List.mem_singleton.mpr rfl))
    have later : p ∉ ps := fun mem => split.2.2 p mem p (List.mem_singleton.mpr rfl) rfl
    rw [List.foldl_append, List.foldl_cons, List.foldl_nil]
    cases picked : pick p with
    | none => exact arbitrated_none takes before small later picked
    | some x => exact arbitrated_some takes before small later picked

/-- R195: the order of the partitions in a cycle. -/
def arbOrder (cycle : Nat) : List Nat := (List.range 16).map (fun i => (cycle + i) % 16)

theorem nodup_arbOrder (cycle : Nat) : (arbOrder cycle).Nodup := by
  refine List.Nodup.map_on (fun i memI j memJ same => ?_) List.nodup_range
  rw [List.mem_range] at memI memJ
  omega

theorem mem_arbOrder (cycle p : Nat) : p ∈ arbOrder cycle ↔ p < 16 := by
  simp only [arbOrder, List.mem_map, List.mem_range]
  exact ⟨by rintro ⟨i, -, rfl⟩; omega, fun low => ⟨(p + 16 - cycle % 16) % 16, by omega, by omega⟩⟩

/-- R195: the turns take no time, so their order is that of the cycle in which they begin. -/
theorem foldl_arbitratePart (core : Nat) (is : List Nat) (s : State) :
    is.foldl (fun s i => arbitratePart s core ((s.cycle + i) % 16)) s = is.foldl (fun t i => arbitratePart t core ((s.cycle + i) % 16)) s := by
  have still (t : State) (p : Nat) : (arbitratePart t core p).cycle = t.cycle := by
    unfold arbitratePart
    split
    · rfl
    · split <;> rfl
  induction is generalizing s with
  | nil => rfl
  | cons i is ih => rw [List.foldl_cons, List.foldl_cons, ih, still]

theorem exec_commonsArbitration {s : State} {core : Nat} (fresh : ∀ a ∈ (s.core core).arbDone, a.cycle ≠ s.cycle) :
    exec (.commonsArbitration core) s = .next ((arbOrder s.cycle).foldl (fun t p => arbitratePart t core p) s) := by
  have none : (s.core core).arbDone.any (fun w => w.cycle == s.cycle) = false :=
    List.any_eq_false.mpr fun a mem => by simpa using fresh a mem
  change (.next _ : Res) = _
  rw [none, if_neg Bool.false_ne_true, foldl_arbitratePart, arbOrder, List.foldl_map]

theorem gang?_of_mem {s : State} (alone : (s.gangs.map (·.uid)).Nodup) {g : Gang} (mem : g ∈ s.gangs) : s.gang? g.uid = some g := by
  cases found : s.gang? g.uid with
  | none => exact absurd (List.find?_eq_none.mp found g mem) (by simp)
  | some h => rw [eq_of_uid_eq alone (List.mem_of_find?_eq_some found) mem (uid_of_gang? found)]

theorem commonsAreArbitrated {s : State} {core : Nat} {pick : Nat → Option (Gang × CommonsWrite × Block)}
    (fresh : ∀ a ∈ (s.core core).arbDone, a.cycle ≠ s.cycle) (takes : Arbiter s core pick) :
    After (.commonsArbitration core) s (fun t => t = { s with cores := t.cores, gangs := t.gangs } ∧
      (t.core core).arbDone = (s.core core).arbDone ++ (List.range 16).filterMap (fun i =>
        (pick ((s.cycle + i) % 16)).map (fun x => ⟨s.cycle, x.1.uid, x.1.block, x.2.2.posOf core, x.2.1.reg, x.2.1.val, x.2.1.ord⟩)) ∧
      (∀ p x, p < 16 → pick p = some x → gangIn t x.1.uid (fun g' => g' = x.1.sentCommons x.2.1)) ∧
      ∀ g ∈ s.gangs, (∀ p x, p < 16 → pick p = some x → x.1.uid ≠ g.uid) → t.gang? g.uid = some g) := by
  obtain ⟨rest, done, gangs⟩ := arbitrated_foldl takes (arbOrder s.cycle) (nodup_arbOrder _) fun p mem => (mem_arbOrder _ p).mp mem
  have found (g : Gang) (mem : g ∈ s.gangs) := gang?_mapGangs gangs (fun g => (arbSent_keeps core pick (arbOrder s.cycle) g).1) g.uid
  refine ⟨_, exec_commonsArbitration fresh, rest, ?_, fun p x low picked => ?_, fun g mem unpicked => ?_⟩
  · rw [done, arbOrder, List.filterMap_map]
    rfl
  · obtain ⟨⟨mem, onCore, inPart, -⟩, -⟩ := takes.some p x low picked
    have here := found x.1 mem
    rw [gang?_of_mem takes.alone mem, Option.map_some] at here
    refine ⟨_, here, ?_⟩
    simp [arbSent, onCore, inPart, (mem_arbOrder s.cycle p).mpr low, picked]
  · have here := found g mem
    rw [gang?_of_mem takes.alone mem, Option.map_some] at here
    rw [here, arbSent]
    split
    · next turn =>
      cases picked : pick g.part with
      | none => rfl
      | some x => rw [Option.elim_some, if_neg (unpicked g.part x ((mem_arbOrder ..).mp turn.2) picked)]
    · rfl

theorem commonsAndDonation : Claim.commonsAndDonation := by
  intro s core
  refine ⟨fun pick fresh alone presents => ?_, arbitratedWritesRetire s core, donationTakesEffect s⟩
  refine commonsAreArbitrated fresh ⟨alone, fun p low none => ?_, fun p x low some => ?_⟩
  · have rule := presents p low
    rw [none] at rule
    exact rule
  · have rule := presents p low
    rw [some] at rule
    exact rule

/-- Settles O39: the arbiter's turns, its retirement and donation, then walks and fault records. -/
theorem commonsDonationAndWalks : Obligations.CommonsDonationAndWalks := ⟨commonsAndDonation, walksAndFaultRecords⟩

end Sys2Proof.Machine
end

section
/-! PROOFS. Every step answers a next state (R176, R177): each write of the register window, each instruction and each turn does. O60. -/
namespace Sys2Proof.Machine
open Sys2Proof.Laws Sys2Proof.Claim

/-- R176: the machine goes on: the outcome is a next state. -/
def stepsOn (r : Res) : Prop := ∃ t, r = .next t

theorem stepsOn_next (t : State) : stepsOn (.next t) := ⟨t, rfl⟩

theorem stepsOn_ite {c : Prop} [Decidable c] {r r' : Res} (h : stepsOn r) (h' : stepsOn r') : stepsOn (if c then r else r') := by
  split <;> assumption

/-! ### The register window (R386) -/

theorem stepsOn_manageWrite (s : State) (o : Nat) (val mask : W64) : stepsOn (manageWrite s o val mask) := by
  unfold manageWrite
  repeat' with_reducible apply stepsOn_ite
  all_goals exact stepsOn_next _

theorem stepsOn_keyctlWrite (s : State) (asid k : Nat) (val mask : W64) : stepsOn (keyctlWrite s asid k val mask) := by
  unfold keyctlWrite
  dsimp only
  refine stepsOn_ite ?op (stepsOn_ite (stepsOn_next _) (stepsOn_next _))
  split <;> exact stepsOn_next _

theorem stepsOn_queueWrite (s : State) (q k : Nat) (val mask : W64) : stepsOn (queueWrite s q k val mask) := by
  match k with
  | 0 | 1 | 2 | _ + 3 => exact stepsOn_next _

theorem stepsOn_wordWrite (s : State) (o : Nat) (val mask : W64) : stepsOn (wordWrite s o val mask) := by
  have plain := stepsOn_next
  have keyctl := stepsOn_keyctlWrite s ((o - 0x300000) / 128) (o % 128 / 8) val mask
  have queue := stepsOn_queueWrite s ((o - 0x400000) / 32) (o % 32 / 8) val mask
  have rest (n : Nat) : stepsOn (if 0x800000 ≤ o ∧ o < 0x1000000 then .next (domWrite s n ((o - 0x800000) % 0x400000) val mask) else .next s) :=
    stepsOn_ite (plain _) (plain _)
  exact stepsOn_ite (stepsOn_manageWrite s o val mask) <| stepsOn_ite (plain _) <| stepsOn_ite (plain _) <| stepsOn_ite (plain _) <|
    stepsOn_ite (plain _) <| stepsOn_ite (plain _) <| stepsOn_ite (plain _) <| stepsOn_ite (plain _) <| stepsOn_ite keyctl <|
    stepsOn_ite queue (rest _)

theorem stepsOn_windowWrite (off : Nat) (xs : List (Byte × Byte)) (s : State) : stepsOn (windowWrite off xs s) := by
  have inOrder (words : List Nat) (s : State) : stepsOn (words.foldl (fun (r : Res) o =>
      match r with
      | .next s => wordWrite s o (wordPart off xs o).1 (wordPart off xs o).2
      | r => r) (.next s)) := by
    induction words generalizing s with
    | nil => exact stepsOn_next s
    | cons o words ih =>
      obtain ⟨t, one⟩ := stepsOn_wordWrite s o (wordPart off xs o).1 (wordPart off xs o).2
      rw [List.foldl_cons]
      dsimp only
      rw [one]
      exact ih t
  exact inOrder _ s

/-! ### Instructions and turns (R65, R76, R80; log 11) -/

theorem stepsOn_exec (i : Instr) (s : State) : stepsOn (exec i s) := by
  cases i with
  | registerWrite off bytes => exact stepsOn_windowWrite off _ s
  | _ => exact ⟨_, rfl⟩

theorem stepsOn_issueDecoded (s : State) (g : Gang) (lanes : LaneMask) (d : DWord) : stepsOn (issueDecoded exec s g lanes d) := by
  cases d with
  | full seam gd i => exact stepsOn_exec i _
  | pair seam g0 i0 g1 i1 =>
    let s1 := takeFaults { s with cx := { s.cx with act := guardLanes g lanes g1 } } (slotFaults g (guardLanes g lanes g1) i1)
    obtain ⟨s2, first⟩ := stepsOn_exec i0 { s1 with cx := { s1.cx with act := guardLanes g lanes g0 } }
    obtain ⟨s3, second⟩ := stepsOn_exec i1 { s2 with cx := { s2.cx with act := guardLanes g lanes g1 } }
    exact ⟨s3, issueDecoded_pair first second⟩

theorem stepsOn_issueWord (core part : Nat) (s : State) : stepsOn (issueWord exec core part s) := by
  cases here : issuingGang s core part with
  | none => exact ⟨s, by simp only [issueWord, here]⟩
  | some g0 =>
    cases run : g0.issue with
    | none => exact ⟨s, by simp only [issueWord, here, run]⟩
    | some r =>
      cases word : decode (r.words.getD r.idx 0) with
      | error e =>
        simp only [issueWord, here, run, word]
        exact stepsOn_next _
      | ok d =>
        let g := (g0.settle r.idx).meet (r.clutch &&& ~~~r.gone) (wordAfter r.start r.idx)
        cases ports : usesPort d && portWaits g with
        | true =>
          simp only [issueWord, here, run, word]
          rw [if_pos ports]
          exact stepsOn_next _
        | false =>
          obtain ⟨s3, next⟩ := stepsOn_issueDecoded (wordState s core part g r) g (r.clutch &&& ~~~r.gone) d
          exact ⟨_, issueWord_of_next here run word rfl ports next⟩

theorem stepsOn_runTurn (t : Turn) (s : State) : stepsOn (runTurn exec t s) := by
  cases t with
  | tick cycles ns => exact stepsOn_next _
  | issue core part =>
    unfold runTurn
    dsimp only
    split
    · exact stepsOn_ite (stepsOn_issueWord core part s) (stepsOn_next s)
    · exact stepsOn_exec _ s
  | event i => exact stepsOn_exec i _
  | sram gang idx => exact stepsOn_next _
  | upset block pos off => exact stepsOn_next _

/-- Settles O60: a write of the window and a turn of the schedule each answer a next state. -/
theorem everyStepAnswers : Obligations.EveryStepAnswers := by
  unfold Obligations.EveryStepAnswers
  intro s
  change stepsOn (step s)
  unfold step takeTurn
  split
  · exact stepsOn_windowWrite ..
  · exact stepsOn_ite (stepsOn_next _) (stepsOn_runTurn ..)

end Sys2Proof.Machine
end

section
/-! PROOFS. Words of the core: donations, specials, copy requests, catchments, counters, records and boundaries (R196 to R250). O32. -/
namespace Sys2Proof.Machine
open Sys2Proof.Laws Sys2Proof.Claim

/-! ### A word that acts once for its gang (R66, R202) -/

theorem onceForGang_of_acts {s : State} {g : Gang} (here : s.gang? s.cx.gang = some g) (acts : s.acts = true) (f : Gang → State → State) :
    onceForGang s f = f g s := by
  simp only [onceForGang, here, acts, if_true]

/-- What a word of the core leaves of its gang's registers: it changes the counters of issued operations at most. -/
def countsAtMost (g g' : Gang) : Prop :=
  g'.regs.lanes = g.regs.lanes ∧ g'.regs.s = g.regs.s ∧ g'.regs.sfsr = g.regs.sfsr ∧ g'.regs.overlay = g.regs.overlay

theorem countsAtMost_of_eq {g g' : Gang} (same : g'.regs = g.regs) : countsAtMost g g' := by
  rw [countsAtMost, same]
  exact ⟨rfl, rfl, rfl, rfl⟩

theorem gangOnly_onIssuer (s : State) {f : Gang → Gang} (keeps : ∀ x, (f x).uid = x.uid) {g : Gang} (counts : countsAtMost g (f g)) :
    gangOnly s (s.onIssuer f) g (f g) :=
  ⟨rfl, fun v other => gang?_modGang_ne s s.cx.gang v f keeps other, counts⟩

theorem uid_waitAfter (g : Gang) (lanes : LaneMask) (ws : List Wait) : (g.waitAfter lanes ws).uid = g.uid := modIssue_uid ..

theorem regs_waitAfter (g : Gang) (lanes : LaneMask) (ws : List Wait) : (g.waitAfter lanes ws).regs = g.regs := modIssue_regs ..

/-- R27: what the gang waits for after its run joins what the run waits for already. -/
theorem issue_waitAfter {g : Gang} {r : RunIssue} (issue : g.issue = some r) (lanes : LaneMask) (ws : List Wait) :
    (g.waitAfter lanes ws).issue = some { r with waits := r.waits ++ ws, waiters := r.waiters ||| lanes } := by
  rw [Gang.waitAfter, modIssue_issue, issue, Option.map_some]

/-- R200: the special that RDSP names. -/
theorem coreSpecial_of_specialIs {s : State} {g : Gang} {b : Block} {sp : CoreSpecial} {x : Nat} (block : s.blockOf g = some b)
    (is : specialIs s g b sp x) : coreSpecial s g (s.blockOf g) sp = x := by
  cases sp <;> rw [block] <;> exact is.symm

section word
variable {s : State} {g : Gang} {r : RunIssue} (run : issues s g r)
include run

/-- R202: the word's effect joins those that its run holds. -/
theorem held_of_issue_hold {g' : Gang} {e : Held} (holds : g'.issue = (g.hold s.cx.pc e).issue) :
    ∃ r' h, g'.issue = some r' ∧ r'.held = r.held ++ [h] ∧ h.eff = e ∧ h.pc = s.cx.pc ∧ h.run = g.run := by
  obtain ⟨-, issue, -⟩ := run
  rw [hold_frame, issue] at holds
  exact ⟨_, _, holds, rfl, rfl, rfl, rfl⟩

/-- R202: a word whose change of its gang holds one effect. -/
theorem holdsEffect_of_onIssuer {i : Instr} {e : Held} {f : Gang → Gang} (eq : exec i s = .next (s.onIssuer f)) (keeps : ∀ x, (f x).uid = x.uid)
    (holds : (f g).issue = (g.hold s.cx.pc e).issue) (counts : countsAtMost g (f g)) : HoldsEffect i s g r e := by
  obtain ⟨r', h, issue, held, eff, pc, seq⟩ := held_of_issue_hold run holds
  obtain ⟨here, -, -⟩ := run
  exact ⟨_, f g, r', h, eq, gang?_onIssuer here keeps, issue, held, eff, pc, seq, gangOnly_onIssuer s keeps counts⟩

/-- R66: a word of the gang, run by the gang that issues it. -/
theorem exec_of_onceForGang {i : Instr} {f : Gang → State → State} (eq : exec i s = .next (onceForGang s f)) : exec i s = .next (f g s) := by
  obtain ⟨here, -, acts⟩ := run
  rw [eq, onceForGang_of_acts here acts]

/-- R196: a donation request. -/
theorem donateWord_holds {i : Instr} {give : Bool} {f : EF} {n8 : Nat} (eq : exec i s = donateWord give f n8 s) :
    HoldsEffect i s g r (.donate give (gangSrc s g f.a % 256) (8 * n8)) :=
  holdsEffect_of_onIssuer run (exec_of_onceForGang run eq) (fun x => hold_uid x ..) rfl (countsAtMost_of_eq (hold_regs g ..))

/-- R200: RDSP gives the special to its destination, a commons register's through the arbiter too (R195). -/
theorem rdsp_gives (f : EF) {sp : CoreSpecial} {b : Block} {x : Nat} (block : s.blockOf g = some b) (is : specialIs s g b sp x) :
    ∃ t g' r', exec (.rdsp f sp) s = .next t ∧ t.gang? s.cx.gang = some g' ∧ g'.issue = some r' ∧
      (∀ n : Fin 512, f.d = .s n → r'.pends = r.pends ++ [⟨s.cx.pos + 1, .s n (BitVec.ofNat 64 x)⟩] ∧ r'.held = r.held) ∧
      (∀ n : Fin 32, f.d = .c n → r'.pends = r.pends ++ [⟨s.cx.pos + 1, .c n (BitVec.ofNat 64 x) g.ord⟩] ∧
        ∃ h, r'.held = r.held ++ [h] ∧ h.eff = .commons n (BitVec.ofNat 64 x)) := by
  have eq : exec (.rdsp f sp) s = .next (s.onIssuer (fun g => g.deliver s.cx.pc s.cx.pos (some 1) (gangEffs g.ord f.d x))) := by
    rw [exec_of_onceForGang run rfl, coreSpecial_of_specialIs block is]
  obtain ⟨here, issue, -⟩ := run
  have after := gang?_onIssuer here (f := fun g => g.deliver s.cx.pc s.cx.pos (some 1) (gangEffs g.ord f.d x)) fun y => (deliver_keeps y _ _ _ _).1
  cases dst : f.d with
  | s n =>
    rw [dst] at eq after
    refine ⟨_, _, { r with pends := r.pends ++ [⟨s.cx.pos + 1, .s n (BitVec.ofNat 64 x)⟩] }, eq, after, ?_, fun m same => ?_, nofun⟩
    · simp [Gang.deliver, gangEffs, emit_frame, issue]
    · cases same
      exact ⟨rfl, rfl⟩
  | c n =>
    rw [dst] at eq after
    refine ⟨_, _, { r with
      pends := r.pends ++ [⟨s.cx.pos + 1, .c n (BitVec.ofNat 64 x) g.ord⟩]
      held := r.held ++ [⟨g.ord, g.run, s.cx.pc, .commons n (BitVec.ofNat 64 x), r.clutch &&& ~~~r.gone⟩] }, eq, after, ?_, nofun, fun m same => ?_⟩
    · simp [Gang.deliver, gangEffs, emit_frame, hold_frame, issue]
    · cases same
      exact ⟨rfl, _, rfl, rfl⟩
  | _ =>
    rw [dst] at eq after
    exact ⟨_, _, r, eq, after, issue, nofun, nofun⟩

/-- R222: KICK counts what it asks for, stalls at the counter's bound, and with a count of 0 does nothing. -/
theorem kick_counts (f : EF) (count : Nat) :
    let n := if f.b = .none then count else gangSrc s g f.b % 4096
    (n = 0 → exec (.kick f count) s = .next s) ∧
    (65535 < g.counter 0 + n → 0 < n → exec (.kick f count) s = .next s.stalled) ∧
    (0 < n → g.counter 0 + n ≤ 65535 →
      HoldsEffect (.kick f count) s g r (.kick (gangSrc s g f.a / 64 % 2 ^ 58) n) ∧
      ∃ t g', exec (.kick f count) s = .next t ∧ t.gang? s.cx.gang = some g' ∧ g'.regs.issuedCopy = g.regs.issuedCopy + n) := by
  intro n
  have amount : kickCount s g f count = n := by simp only [kickCount, bitsOf, Nat.shiftRight_zero, Nat.reduceAdd, Nat.reduceSub, Nat.reducePow, n]
  have eq := exec_of_onceForGang run (i := .kick f count) rfl
  simp only [amount, counterMax] at eq
  refine ⟨fun zero => ?_, fun full some => ?_, fun some room => ?_⟩
  · rw [eq, if_pos zero]
  · rw [eq, if_neg some.ne', if_pos full]
  · rw [if_neg some.ne', if_neg (Nat.not_lt.mpr room)] at eq
    have uid : ∀ x : Gang, (x.hold s.cx.pc (.kick (bitsOf (gangSrc s x f.a) 63 6) n)).uid = x.uid := fun x => hold_uid x ..
    have first : bitsOf (gangSrc s g f.a) 63 6 = gangSrc s g f.a / 64 % 2 ^ 58 := by simp only [bitsOf, Nat.shiftRight_eq_div_pow]
    have regs : (g.hold s.cx.pc (.kick (bitsOf (gangSrc s g f.a) 63 6) n)).regs = g.regs := hold_regs g ..
    have holds := holdsEffect_of_onIssuer run (e := .kick (gangSrc s g f.a / 64 % 2 ^ 58) n) eq uid (by rw [← first])
      (by simp only [countsAtMost, regs, and_self])
    obtain ⟨here, -, -⟩ := run
    exact ⟨holds, _, _, eq, gang?_onIssuer here uid, by simp only [regs]⟩

/-- R220: CATI writes the catchment's 16 bytes in the scratchpad. -/
theorem cati_holds (f : EF) (n : Nat) :
    HoldsEffect (.cati f n) s g r (.loc (placed (scratchMod (s.blockOf g) (gangSrc s g f.a / 16 * 16))
      (leBytes 4 1 ++ leBytes 4 n ++ leBytes 8 (if f.b = .none then 0 else gangSrc s g f.b))) s.cx.pos) := by
  have eq := exec_of_onceForGang run (i := .cati f n) rfl
  exact holdsEffect_of_onIssuer run eq (fun x => hold_uid x ..) rfl (countsAtMost_of_eq (hold_regs g ..))

/-- R221: CATW waits for the catchment, whose status it leaves outstanding. -/
theorem catw_waits (f : EF) :
    ∃ t g' r' o, exec (.catw f) s = .next t ∧ t.gang? s.cx.gang = some g' ∧ g'.issue = some r' ∧
      r'.waits = r.waits ++ [.catw (gangSrc s g f.a / 16 * 16) f.d g.nextId g.run] ∧ r'.waiters = r.waiters ||| s.act ∧ g'.out = g.out ++ [o] ∧
      o.id = g.nextId ∧ o.dsts = resultOf f.d ∧ gangOnly s t g g' := by
  have eq := exec_of_onceForGang run (i := .catw f) rfl
  have keeps (x : Gang) : ((x.await s.cx.pc .unit (gangDsts f.d) [] false true).waitAfter s.act
      [.catw (catchOff (gangSrc s g f.a)) f.d x.nextId x.run]).uid = x.uid := uid_waitAfter ..
  obtain ⟨here, issue, -⟩ := run
  have waits := issue_waitAfter (g := g.await s.cx.pc .unit (gangDsts f.d) [] false true) issue s.act
    [.catw (catchOff (gangSrc s g f.a)) f.d g.nextId g.run]
  refine ⟨_, _, _, ⟨g.nextId, g.run, s.cx.pc, g.ord, .unit, gangDsts f.d, [], false, true, [], 0, [], false⟩, eq, gang?_onIssuer here keeps, waits,
    rfl, rfl, ?_, rfl, ?_, gangOnly_onIssuer s keeps (countsAtMost_of_eq (regs_waitAfter ..))⟩
  · rw [Gang.waitAfter, modIssue_out]
    rfl
  · cases f.d <;> rfl

/-- R226: WAITC waits for the counter of its class. -/
theorem waitc_waits (f : EF) (cls : OpClass) (n : Nat) :
    ∃ t g' r', exec (.waitc f cls n) s = .next t ∧ t.gang? s.cx.gang = some g' ∧ g'.issue = some r' ∧
      r'.waits = r.waits ++ [.waitc (match cls with | .copy => 0 | .matrix => 1 | .gather => 2 | .join => 3)
        (if f.a = .none then n else gangSrc s g f.a % 4096) g.run] ∧ r'.waiters = r.waiters ||| s.act ∧ gangOnly s t g g' := by
  have eq := exec_of_onceForGang run (i := .waitc f cls n) rfl
  have keeps (x : Gang) : (x.waitAfter s.act [.waitc (classNum cls)
      (if f.a = .none then n else bitsOf (gangSrc s g f.a) 11 0) x.run]).uid = x.uid := uid_waitAfter ..
  obtain ⟨here, issue, -⟩ := run
  refine ⟨_, _, _, eq, gang?_onIssuer here keeps, issue_waitAfter issue _ _, ?_, rfl,
    gangOnly_onIssuer s keeps (countsAtMost_of_eq (regs_waitAfter ..))⟩
  simp only [bitsOf, Nat.shiftRight_zero]
  cases cls <;> rfl

/-- R246, R248 to R250: a boundary word is held, and a park seam waits for it. -/
theorem holdBoundary_holds {i : Instr} {e : Nat → Held} (eq : exec i s = .next (onceForGang s (fun _ s => holdBoundary s e))) :
    HoldsWithResult i s g r e [] := by
  have act : exec i s = .next (holdBoundary s e) := exec_of_onceForGang run eq
  have keeps (x : Gang) : ((x.await s.cx.pc .unit [] [] false true).hold s.cx.pc (e x.nextId)).uid = x.uid := hold_uid ..
  obtain ⟨here, issue, -⟩ := run
  exact ⟨_, _, _, _, _, act, gang?_onIssuer here keeps, by rw [hold_frame, await_issue, issue, Option.map_some], rfl, rfl, rfl, rfl,
    by rw [hold_out]; rfl, rfl, rfl, rfl, rfl, gangOnly_onIssuer s keeps (countsAtMost_of_eq (hold_regs ..))⟩

/-! ### Clean lines and records (R232, R233, R247) -/

/-- R247: ACQ drops the clean lines of pages shared beyond the core. -/
theorem acq_drops (f : EF) : ∃ t, exec (.acq f) s = .next t ∧ (t.core g.core).l1 = (s.core g.core).l1.filter (fun e => !e.drop) ∧
    t.mem = s.mem ∧ t.blocks = s.blocks ∧ ∀ c, c ≠ g.core → t.core c = s.core c := by
  let drop (k : CoreSt) : CoreSt := { k with l1 := k.l1.filter (fun e => !e.drop) }
  exact ⟨_, exec_of_onceForGang run rfl, congrArg CoreSt.l1 (core_modCore_self s g.core drop), rfl, rfl,
    fun c other => core_modCore_ne s g.core c drop other⟩

/-- R233: RECF drops the named record, or all of its context. -/
theorem recf_drops (f : EF) : ∃ t, exec (.recf f) s = .next t ∧ t.mem = s.mem ∧ t.gangs = s.gangs ∧ (∀ c, c ≠ g.core → t.core c = s.core c) ∧
    ∀ e, e ∈ (t.core g.core).recs ↔ e ∈ (s.core g.core).recs ∧
      (e.asid ≠ gangAsid (s.blockOf g) ∨ (f.a ≠ .none ∧ e.addr ≠ gangSrc s g f.a / 64 * 64)) := by
  refine ⟨_, exec_of_onceForGang run rfl, rfl, rfl, fun c other => core_modCore_ne s g.core c _ other, fun e => ?_⟩
  rw [recDrop, core_modCore_self, List.mem_filter]
  refine and_congr_right fun _ => ?_
  by_cases all : f.a = .none <;> simp [all]

end word

/-- R232: a record that enters the cache is there. -/
theorem recFind_recKeep {s : State} {core asid va : Nat} {bs : List Byte} (none : ∀ x, recFind (s.core core) asid va = some x → x = bs) :
    recFind ((recKeep s core asid va bs).core core) asid va = some bs := by
  rw [recKeep, core_modCore_self]
  cases found : recFind (s.core core) asid va with
  | some x => rw [← none x found]; exact found
  | none => simp [recFind, recEntries]

/-- R233: RECP keeps the record that it reads. -/
theorem recp_keeps {s : State} {g : Gang} {r : RunIssue} (run : issues s g r) (f : EF) {bs : List Byte}
    (read : recRead s g.core (gangAsid (s.blockOf g)) (gangSrc s g f.a) (fun a => xlate s g.core (gangAsid (s.blockOf g)) a .read false) = .ok bs) :
    ∃ t, exec (.recp f) s = .next t ∧ recFind (t.core g.core) (gangAsid (s.blockOf g)) (gangSrc s g f.a) = some bs ∧ t.mem = s.mem ∧
      t.gangs = s.gangs := by
  obtain ⟨m, q, n, asks⟩ := recAsk_eq s g.core (gangAsid (s.blockOf g)) (gangSrc s g f.a) (fun a => xlate s g.core (gangAsid (s.blockOf g)) a .read false)
  have keeps : keepRecord s s g (gangSrc s g f.a) = recKeep { s with motions := m, chanQ := q, free := n } g.core (gangAsid (s.blockOf g))
      (gangSrc s g f.a) bs := by
    simp only [keepRecord, asks, read]
  refine ⟨_, exec_of_onceForGang run rfl, ?_, ?_, ?_⟩ <;> rw [keeps]
  · refine recFind_recKeep fun x found => ?_
    have cached : recFind (s.core g.core) (gangAsid (s.blockOf g)) (gangSrc s g f.a) = some x := found
    simpa only [recRead, cached, Except.ok.injEq] using read
  · rfl
  · rfl

theorem coreWordsComplete : Claim.coreWordsComplete := fun _ _ _ f run =>
  ⟨fun _ => ⟨donateWord_holds run rfl, donateWord_holds run rfl⟩, fun _ _ _ block is => rdsp_gives run f block is, fun count => kick_counts run f count,
    fun n => cati_holds run f n, catw_waits run f, fun cls n => waitc_waits run f cls n⟩

theorem recordAndBoundaryWords : Claim.recordAndBoundaryWords := fun _ _ _ f run =>
  ⟨holdBoundary_holds run rfl, holdBoundary_holds run rfl, holdBoundary_holds run rfl, acq_drops run f, recf_drops run f,
    fun _ read => recp_keeps run f read⟩

/-- Settles O32, by its two parts: the words that a gang issues to its core's units, and those of records and boundaries. -/
theorem coreRecordAndBoundaryWords : Obligations.CoreRecordAndBoundaryWords := ⟨coreWordsComplete, recordAndBoundaryWords⟩

end Sys2Proof.Machine
end

section
/-! PROOFS. Blocks that are evicted (R206, R209, R330, R335): what an eviction leaves alone, and where it leaves the blocks. O38 and O52. -/
namespace Sys2Proof.Machine
open Sys2Proof.Laws Sys2Proof.Claim

/-! ### What an eviction leaves alone -/

/-- What no eviction touches: the management command, the paused contexts, and what of each core is fenced, configured off and disabled. -/
def spared (s : State) : W64 × List (Nat × Bool) × (Nat → BitVec 16 × BitVec 16 × Bool) :=
  (s.mcmd, s.paused, fun c => ((s.core c).fenced, (s.core c).off, (s.core c).disabled))

theorem spared_modCore (s : State) (c : Nat) {f : CoreSt → CoreSt}
    (keeps : ∀ k, ((f k).fenced, (f k).off, (f k).disabled) = (k.fenced, k.off, k.disabled)) : spared (s.modCore c f) = spared s := by
  refine congrArg (fun x => (s.mcmd, s.paused, x)) (funext fun d => ?_)
  by_cases same : d = c
  · rw [same, core_modCore_self, keeps]
  · rw [core_modCore_ne s c d f same]

theorem spared_foldl_modCore (cs : List Nat) {f : CoreSt → CoreSt}
    (keeps : ∀ k, ((f k).fenced, (f k).off, (f k).disabled) = (k.fenced, k.off, k.disabled)) (s : State) :
    spared (cs.foldl (fun s c => s.modCore c f) s) = spared s :=
  foldl_keeps spared _ (fun s c => spared_modCore s c keeps) cs s

theorem spared_writeBits (j : Join) (s : State) (va : Nat) (bs masks : List Byte) : spared (j.writeBits s va bs masks) = spared s := by
  obtain ⟨q, asked⟩ := ownAsk_eq s ownUnit (some j.asid)
    ((((j.cells va bs.length).zip (bs.zip masks)).map (fun p => (⟨p.1, p.2.1, p.2.2⟩ : StCell))).map (·.cell))
  rw [Join.writeBits, ownWrite, asked]
  exact writeHome_keeps spared (fun _ _ _ _ _ _ _ _ => rfl) ..

theorem spared_joinKill (s : State) (b : Block) (addr pc : W64) : spared (joinKill s b addr pc) = spared s := by
  have marks (s : State) (launch : Nat) (short : Bool) : spared (markStragglers s launch short) = spared s := by
    unfold markStragglers
    split <;> rfl
  have checks (s : State) (launch : Nat) : spared (checkQuorum s launch) = spared s := by
    unfold checkQuorum
    split
    · rfl
    · split
      · exact marks ..
      · rfl
  unfold joinKill
  split
  · rfl
  · split
    · exact checks ..
    · rfl
    · rfl

theorem spared_withdrawLaunches (s : State) (b : Block) : spared (withdrawLaunches s b) = spared s := by
  have kept (image masks : Join → List Byte) (js : List Join) (s : State) :
      spared (js.foldl (fun s j => unpin (j.writeBits s j.va (image j) (masks j)) j.pins) s) = spared s := by
    refine foldl_keeps spared _ (fun s j => ?_) js s
    exact spared_writeBits j s j.va (image j) (masks j)
  exact kept (fun j => leBytes 128 (j.image.toNat - joinBits j.image 389 388 * 2 ^ 388)) (fun _ => leBytes 128 joinRoBits) _ s

theorem spared_stripBlock (s : State) (b : Block) : spared (stripBlock s b) = spared s := by
  have engines : spared (cancelEngines s b) = spared s := by
    refine spared_foldl_modCore b.cores ?_ (unpin s _)
    exact fun _ => rfl
  have barriers (s : State) : spared (withdrawBarriers s b) = spared s := by
    unfold withdrawBarriers
    refine foldl_keeps spared _ (fun s o => ?_) _ _
    rfl
  have stripped : spared (freeSave (withdrawBarriers (cancelEngines s b) b) b) = spared s := (barriers _).trans engines
  unfold stripBlock
  dsimp only
  split
  · exact (spared_withdrawLaunches ..).trans stripped
  · exact stripped

theorem spared_dropOwned (s : State) (u : Nat) (cs : List Nat) : spared (dropOwned s u cs) = spared s :=
  spared_foldl_modCore cs (f := fun k => { k with l1 := k.l1.filter (fun e => e.owner != u) }) (fun _ => rfl) s

theorem spared_freeCores (s : State) (cs : List Nat) : spared (freeCores s cs) = spared s := by
  refine foldl_keeps spared _ (fun s c => ?_) cs s
  split
  · rfl
  · exact spared_modCore s c fun _ => rfl

theorem spared_leaveCores (s : State) (u : Nat) (cs : List Nat) (launch : Nat) :
    spared (markSaved (freeCores (dropOwned s u cs) cs) launch) = spared s :=
  (spared_freeCores ..).trans (spared_dropOwned ..)

theorem spared_killOne (s : State) (u : Nat) (addr pc : W64) : spared (killOne s u addr pc) = spared s := by
  have ended (s : State) : spared (dropEnded s u) = spared s := by
    unfold dropEnded
    split <;> rfl
  unfold killOne
  split
  · rfl
  · split
    · rfl
    · refine (spared_leaveCores ..).trans ((ended _).trans ?_)
      exact (spared_stripBlock ..).trans (spared_joinKill ..)

theorem spared_killPlain (s : State) (u : Nat) : spared (killPlain s u) = spared s := by
  unfold killPlain killBlock
  split
  · rfl
  · exact (foldl_keeps spared _ (fun s x => spared_killOne s x 3 0) _ _).trans (spared_killOne ..)

theorem spared_relaunchBlock (s : State) (u : Nat) (avoid : Option Nat) : spared (relaunchBlock s u avoid) = spared s := by
  unfold relaunchBlock
  split
  · rfl
  · split
    · rfl
    · split
      · exact spared_killPlain ..
      · exact (spared_leaveCores ..).trans (spared_stripBlock ..)

theorem spared_evictBlocks (s : State) (bs : List Block) (cause detail : Nat) : spared (evictBlocks s bs cause detail) = spared s := by
  refine (foldl_keeps spared _ (fun s b => ?evict) _ _).trans (foldl_keeps spared _ (fun s b => ?record) _ _)
  case record => rfl
  case evict =>
    split
    · exact spared_relaunchBlock ..
    · exact spared_killPlain ..

/-- R330: neither does a pre-emption. -/
theorem spared_preempt (s : State) (victims : List Block) (bound : Nat) : spared (preempt s victims bound).s = spared s := by
  have acts (o : PreOpt) (s : State) (b : Block) : spared (actOption s o b) = spared s := by
    cases o with
    | flush => exact spared_relaunchBlock ..
    | drain | save => rfl
  refine foldl_keeps (fun a : PreAcc => spared a.s) (preemptOne bound) (fun a v => ?_) (byLowCore victims) _
  unfold preemptOne
  split
  · rfl
  · split
    · rfl
    · dsimp only
      split
      · rfl
      · next o _ => exact foldl_keeps spared _ (acts o) _ a.s

/-! ### A block that is relaunched (R11, R330) -/

/-- R330: a block that is to start again from its beginning. -/
def Block.anew (avoid : Option Nat) (b : Block) : Block :=
  { b with
    phase := .unplaced, cores := [], span := 0, sb := [], sbTiles := [], scads := [], progress := 0
    avoidQuad := avoid, lastExit := none, scratch := [], upset := [], commons := [], tiles := [], savedGangs := [], savedBytes := 0
    consumption := [], drain := false, replies := [] }

theorem relaunchBlock_of_block? {s : State} {u : Nat} {b : Block} (here : s.block? u = some b) (lives : b.over = false)
    (unmarked : isMarked s b = false) (avoid : Option Nat) :
    relaunchBlock s u avoid = markSaved (freeCores (dropOwned (muteRecords ((stripBlock s b).modBlock u (Block.anew avoid)) u) u b.cores) b.cores)
      b.launch := by
  simp only [relaunchBlock, here, lives, unmarked, Bool.false_eq_true, if_false]
  rfl

theorem stripBlock_blocks (s : State) (b : Block) : (stripBlock s b).blocks = s.blocks := congrArg (·.2.2) (residents_stripBlock s b)

theorem stripBlock_gangs (s : State) (b : Block) : (stripBlock s b).gangs = s.gangs.filter (fun g => g.block != b.uid) :=
  congrArg (·.2.1) (residents_stripBlock s b)

/-- R210: a block that leaves its cores changes no other resident. -/
theorem residents_leaveCores (s : State) (u : Nat) (cs : List Nat) (launch : Nat) :
    residents (markSaved (freeCores (dropOwned s u cs) cs) launch) = residents s :=
  (residents_freeCores ..).trans (residents_foldl_modCore cs _ _)

section relaunch
variable {s : State} {u : Nat} {b : Block} (here : s.block? u = some b) (lives : b.over = false) (unmarked : isMarked s b = false)
include here lives unmarked

theorem relaunchBlock_blocks (avoid : Option Nat) :
    (relaunchBlock s u avoid).blocks = s.blocks.map (fun x => if x.uid = u then x.anew avoid else x) := by
  rw [relaunchBlock_of_block? here lives unmarked avoid, ← stripBlock_blocks s b]
  exact congrArg (·.2.2) (residents_leaveCores _ u b.cores b.launch)

theorem relaunchBlock_gangs (avoid : Option Nat) : (relaunchBlock s u avoid).gangs = s.gangs.filter (fun g => g.block != u) := by
  have uid : b.uid = u := by simpa using List.find?_some here
  rw [relaunchBlock_of_block? here lives unmarked avoid, ← uid, ← stripBlock_gangs s b]
  exact congrArg (·.2.1) (residents_leaveCores _ b.uid b.cores b.launch)

end relaunch

/-! ### Blocks that leave their cores (R209) -/

/-- Blocks leave their cores, and none is placed on any. -/
structure Vacates (s t : State) : Prop where
  uids : (t.blocks.map (·.uid)).Sublist (s.blocks.map (·.uid))
  blocks : ∀ b ∈ t.blocks, b ∈ s.blocks ∨ b.resident = false

theorem Vacates.of_sublist {s t : State} (fewer : t.blocks.Sublist s.blocks) : Vacates s t :=
  ⟨fewer.map _, fun _ mem => .inl (fewer.subset mem)⟩

theorem Vacates.of_eq {s t : State} (same : t.blocks = s.blocks) : Vacates s t := .of_sublist (same ▸ .refl _)

theorem Vacates.trans {s t u : State} (h : Vacates s t) (h' : Vacates t u) : Vacates s u :=
  ⟨h'.uids.trans h.uids, fun b mem => (h'.blocks b mem).elim (h.blocks b) .inr⟩

theorem Vacates.foldl {B : Type} {f : State → B → State} (h : ∀ s x, Vacates s (f s x)) (xs : List B) (s : State) :
    Vacates s (xs.foldl f s) := by
  induction xs generalizing s with
  | nil => exact .of_sublist (List.Sublist.refl _)
  | cons x xs ih => exact (h s x).trans (ih _)

/-- A change of one block that takes it off its cores. -/
theorem Vacates.of_map {s t : State} {u : Nat} {f : Block → Block} (blocks : t.blocks = s.blocks.map (fun b => if b.uid = u then f b else b))
    (uid : ∀ b, (f b).uid = b.uid) (leaves : ∀ b, (f b).resident = false) : Vacates s t := by
  refine ⟨?_, fun b mem => ?_⟩
  · rw [blocks, List.map_map]
    refine (List.map_congr_left fun b _ => ?_) ▸ List.Sublist.refl _
    dsimp only [Function.comp]
    split <;> simp only [uid]
  · obtain ⟨x, old, rfl⟩ := List.mem_map.mp (blocks ▸ mem)
    split
    · exact .inr (leaves x)
    · exact .inl old

theorem vacates_joinKill (s : State) (b : Block) (addr pc : W64) : Vacates s (joinKill s b addr pc) := by
  have marks (s : State) (launch : Nat) (short : Bool) : (markStragglers s launch short).blocks.Sublist s.blocks := by
    unfold markStragglers
    split
    · exact List.filter_sublist
    · exact .refl _
  have checks (s : State) (launch : Nat) : (checkQuorum s launch).blocks.Sublist s.blocks := by
    unfold checkQuorum
    split
    · exact .refl _
    · split
      · exact marks ..
      · exact .refl _
  unfold joinKill
  split
  · exact .of_eq rfl
  · split
    · exact .of_sublist (checks ..)
    · exact .of_eq rfl
    · exact .of_eq rfl

theorem vacates_struck (s : State) (b : Block) (u : Nat) (addr pc : W64) : Vacates s (struck s b u addr pc) := by
  refine (vacates_joinKill s b addr pc).trans (Vacates.of_map (u := u)
    (f := fun b => { b with phase := .ended, sb := [], sbTiles := [], scads := [], savedGangs := [], replies := [] }) ?_ (fun _ => rfl) (fun _ => rfl))
  rw [← stripBlock_blocks (joinKill s b addr pc) b]
  rfl

theorem vacates_killOne (s : State) (u : Nat) (addr pc : W64) : Vacates s (killOne s u addr pc) := by
  have dropped (s : State) : Vacates s (dropEnded s u) := by
    unfold dropEnded
    split
    · exact .of_eq rfl
    · exact .of_sublist List.filter_sublist
  cases here : s.block? u with
  | none => rw [killOne, here]; exact .of_eq rfl
  | some b =>
    cases lives : b.over with
    | true => simp only [killOne, here, lives, if_true]; exact .of_eq rfl
    | false =>
      rw [killOne_of_block? here lives]
      have counted : Vacates (struck s b u addr pc) ((struck s b u addr pc).modLaunch b.launch (fun l => { l with killed := l.killed + 1 })) := .of_eq rfl
      exact ((vacates_struck ..).trans counted).trans ((dropped _).trans (.of_eq (congrArg (·.2.2) (residents_leaveCores _ u b.cores b.launch))))

theorem vacates_killPlain (s : State) (u : Nat) : Vacates s (killPlain s u) := by
  unfold killPlain killBlock
  split
  · exact .of_eq rfl
  · exact (vacates_killOne ..).trans (.foldl (fun s x => vacates_killOne s x 3 0) _ _)

/-- The block of a number, where each number names one. -/
theorem eq_of_block? {s : State} (alone : (s.blocks.map (·.uid)).Nodup) {u : Nat} {b x : Block} (here : s.block? u = some b) (mem : x ∈ s.blocks)
    (uid : x.uid = u) : x = b := by
  have named : b.uid = u := by simpa using List.find?_some here
  exact List.inj_on_of_nodup_map alone mem (List.mem_of_find?_eq_some here) (uid.trans named.symm)

/-- A block that is on no core any more. -/
def Vacated (t : State) (u : Nat) : Prop := ∀ b ∈ t.blocks, b.uid = u → b.resident = false

theorem Vacated.vacates {s t : State} {u : Nat} (h : Vacated s u) (goes : Vacates s t) : Vacated t u :=
  fun b mem uid => (goes.blocks b mem).elim (fun old => h b old uid) id

theorem vacated_of_none {s : State} {u : Nat} (none : s.block? u = none) : Vacated s u :=
  fun b mem uid => absurd (beq_iff_eq.mpr uid) (List.find?_eq_none.mp none b mem)

theorem vacated_of_over {s : State} (alone : (s.blocks.map (·.uid)).Nodup) {u : Nat} {b : Block} (here : s.block? u = some b)
    (past : b.over = true) : Vacated s u := by
  intro x mem uid
  rw [eq_of_block? alone here mem uid]
  revert past
  simp only [Block.over, Block.resident]
  cases b.phase <;> decide

theorem Ended.vacated {t : State} {u : Nat} (h : Ended t u) : Vacated t u := fun b mem uid => by
  rw [Block.resident, h.1 b mem uid]
  rfl

/-- R335: a block that is killed is on no core any more. -/
theorem vacated_killPlain {s : State} (alone : (s.blocks.map (·.uid)).Nodup) (u : Nat) : Vacated (killPlain s u) u := by
  cases here : s.block? u with
  | none =>
    simp only [killPlain, killBlock, here]
    exact vacated_of_none here
  | some b =>
    cases lives : b.over with
    | true => exact (vacated_of_over alone here lives).vacates (vacates_killPlain s u)
    | false => exact (killPlain_ends here lives).2.vacated

/-- R330: so is one that is relaunched. -/
theorem relaunchBlock_vacates {s : State} (alone : (s.blocks.map (·.uid)).Nodup) (u : Nat) (avoid : Option Nat) :
    Vacates s (relaunchBlock s u avoid) ∧ Vacated (relaunchBlock s u avoid) u := by
  cases here : s.block? u with
  | none =>
    simp only [relaunchBlock, here]
    exact ⟨.of_eq rfl, vacated_of_none here⟩
  | some b =>
    cases lives : b.over with
    | true =>
      simp only [relaunchBlock, here, lives, if_true]
      exact ⟨.of_eq rfl, vacated_of_over alone here lives⟩
    | false =>
      cases marked : isMarked s b with
      | true =>
        simp only [relaunchBlock, here, lives, marked, Bool.false_eq_true, if_false, if_true]
        exact ⟨vacates_killPlain s u, vacated_killPlain alone u⟩
      | false =>
        have blocks := relaunchBlock_blocks here lives marked avoid
        refine ⟨.of_map blocks (fun _ => rfl) (fun _ => rfl), fun x mem uid => ?_⟩
        obtain ⟨y, -, rfl⟩ := List.mem_map.mp (blocks ▸ mem)
        split at uid <;> rename_i eq
        · rw [if_pos eq]
          rfl
        · exact absurd uid eq

/-- R209: evicted blocks are on no core any more, and no block is placed. -/
theorem evictBlocks_vacates {s : State} (alone : (s.blocks.map (·.uid)).Nodup) (bs : List Block) (cause detail : Nat) :
    Vacates s (evictBlocks s bs cause detail) ∧ ∀ b ∈ bs, b.over = false → Vacated (evictBlocks s bs cause detail) b.uid := by
  have one (s : State) (alone : (s.blocks.map (·.uid)).Nodup) (b : Block) (quad : Option Nat) :
      let t := if b.replayable then relaunchBlock s b.uid quad else killPlain s b.uid
      Vacates s t ∧ Vacated t b.uid := by
    dsimp only
    split
    · exact relaunchBlock_vacates alone b.uid quad
    · exact ⟨vacates_killPlain s b.uid, vacated_killPlain alone b.uid⟩
  have all (live : List Block) (s : State) (alone : (s.blocks.map (·.uid)).Nodup) :
      let t := live.foldl (fun s b => if b.replayable then relaunchBlock s b.uid ((b.cores.head?).map quadOf) else killPlain s b.uid) s
      Vacates s t ∧ ∀ b ∈ live, Vacated t b.uid := by
    induction live generalizing s with
    | nil => exact ⟨.of_eq rfl, nofun⟩
    | cons b live ih =>
      obtain ⟨goes, gone⟩ := one s alone b ((b.cores.head?).map quadOf)
      obtain ⟨on, later⟩ := ih _ (alone.sublist goes.uids)
      refine ⟨goes.trans on, fun x mem => ?_⟩
      rcases List.mem_cons.mp mem with rfl | rest
      · exact gone.vacates on
      · exact later x rest
  have recorded (live : List Block) : (live.foldl (fun s b => raiseFault s { blockFault s b cause detail 0 0 with inert := b.replayable }) s).blocks =
      s.blocks := by
    refine foldl_keeps State.blocks _ ?_ live s
    exact fun _ _ => rfl
  obtain ⟨goes, gone⟩ := all (bs.filter (fun b => !b.over)) _ ((recorded (bs.filter (fun b => !b.over))).symm ▸ alone)
  exact ⟨(Vacates.of_eq (recorded _)).trans goes, fun b mem lives => gone b (List.mem_filter.mpr ⟨mem, by simp [lives]⟩)⟩

end Sys2Proof.Machine
end

section
/-! PROOFS. Attestation (R393, R394): what a leaf's key signs verifies under the public key, whatever the hash is (log 5). O52. -/
namespace Sys2Proof.Machine
open Sys2Proof.Laws Sys2Proof.Claim

/-! ### Strings of a fixed length -/

@[simp] theorem beBytes_length (n x : Nat) : (beBytes n x).length = n := by rw [beBytes, List.length_reverse, leBytes_length]

@[simp] theorem keyedHash_length (which : Nat) (key m : List Byte) : (keyedHash which key m).length = 32 := leBytes_length ..

@[simp] theorem wotsSecret_length (seed : BitVec 768) (leaf i : Nat) : (wotsSecret seed leaf i).length = 32 := leBytes_length ..

@[simp] theorem xmssPubSeed_length (seed : BitVec 768) : (xmssPubSeed seed).length = 32 := leBytes_length ..

@[simp] theorem randHash_length (pub : List Byte) (addr : Nat → List Byte) (l r : List Byte) : (randHash pub addr l r).length = 32 := keyedHash_length ..

/-- Nodes laid one after another are read back. -/
theorem nodesOf_flatten_append {ns : List (List Byte)} (size : ∀ n ∈ ns, n.length = 32) (rest : List Byte) :
    nodesOf (ns.flatten ++ rest) ns.length = ns := by
  induction ns with
  | nil => rfl
  | cons n ns ih =>
    have first : n.length = 32 := size n List.mem_cons_self
    have tail := ih fun m mem => size m (List.mem_cons_of_mem n mem)
    have behind (i : Nat) : (n ++ (ns.flatten ++ rest)).drop (32 * (i + 1)) = (ns.flatten ++ rest).drop (32 * i) := by
      rw [Nat.mul_succ, Nat.add_comm, ← first, List.drop_append]
      simp
    unfold nodesOf at tail ⊢
    rw [List.length_cons, List.range_succ_eq_map, List.map_cons, List.map_map, List.flatten_cons, List.append_assoc]
    congr 1
    · rw [Nat.mul_zero, List.drop_zero, ← first, List.take_left]
    · refine Eq.trans (List.map_congr_left fun i _ => ?_) tail
      simp only [Function.comp, Nat.succ_eq_add_one, behind]

/-! ### Chains (R393) -/

theorem wotsChain_length (pub : List Byte) (leaf i : Nat) {x : List Byte} (size : x.length = 32) (start n : Nat) :
    (wotsChain pub leaf i x start n).length = 32 := by
  cases n with
  | zero => exact size
  | succ n => exact keyedHash_length ..

/-- The steps of a chain add up. -/
theorem wotsChain_add (pub : List Byte) (leaf i : Nat) (x : List Byte) (start m n : Nat) :
    wotsChain pub leaf i x start (m + n) = wotsChain pub leaf i (wotsChain pub leaf i x start m) (start + m) n := by
  induction n with
  | zero => rfl
  | succ n ih => rw [Nat.add_succ, wotsChain, wotsChain, ih, Nat.add_assoc]

theorem nibbles_length (m : List Byte) : (nibbles m).length = 2 * m.length := by
  simp only [nibbles, List.length_flatMap, List.length_cons, List.length_nil, List.map_const', List.sum_replicate, smul_eq_mul]
  omega

theorem nibbles_lt {m : List Byte} {d : Nat} (mem : d ∈ nibbles m) : d < 16 := by
  obtain ⟨b, -, digit⟩ := List.mem_flatMap.mp mem
  have := b.isLt
  simp only [List.mem_cons, List.not_mem_nil, or_false] at digit
  omega

theorem wotsDigits_length {m : List Byte} (size : m.length = 32) : (wotsDigits m).length = wotsLen := by
  simp [wotsDigits, nibbles_length, size, wotsLen]

theorem wotsDigits_lt {m : List Byte} {d : Nat} (mem : d ∈ wotsDigits m) : d < 16 := by
  rcases List.mem_append.mp mem with own | sum
  · exact nibbles_lt (List.mem_of_mem_take own)
  · exact nibbles_lt (List.mem_of_mem_take sum)

/-- What a one-time signature shows of each chain. -/
def wotsShown (seed : BitVec 768) (leaf : Nat) (ds : List Nat) : List (List Byte) :=
  ds.zipIdx.map (fun d => wotsChain (xmssPubSeed seed) leaf d.2 (wotsSecret seed leaf d.2) 0 d.1)

theorem wotsShown_size {seed : BitVec 768} {leaf : Nat} {ds : List Nat} {x : List Byte} (mem : x ∈ wotsShown seed leaf ds) : x.length = 32 := by
  obtain ⟨d, -, rfl⟩ := List.mem_map.mp mem
  exact wotsChain_length _ _ _ (wotsSecret_length ..) _ _

/-- The chains carried on from what the signature shows end where the leaf's chains end. -/
theorem wotsShown_ends {seed : BitVec 768} {leaf : Nat} {ds : List Nat} (count : ds.length = wotsLen) (digits : ∀ d ∈ ds, d < 16) :
    (((wotsShown seed leaf ds).zip ds).zipIdx.map (fun p => wotsChain (xmssPubSeed seed) leaf p.2 p.1.1 p.1.2 (15 - p.1.2))) =
      (List.range wotsLen).map (fun k => wotsChain (xmssPubSeed seed) leaf k (wotsSecret seed leaf k) 0 15) := by
  refine List.ext_getElem (by simp [wotsShown, count]) fun k _ low => ?_
  have inside : k < ds.length := by simpa [count] using low
  have digit : ds[k] + (15 - ds[k]) = 15 := by have := digits ds[k] (List.getElem_mem inside); omega
  have whole := wotsChain_add (xmssPubSeed seed) leaf k (wotsSecret seed leaf k) 0 ds[k] (15 - ds[k])
  rw [digit, Nat.zero_add] at whole
  simp [wotsShown, whole]

/-! ### The tree (R393) -/

/-- Some nodes, at least one. -/
def areNodes (l : List (List Byte)) : Prop := l ≠ [] ∧ ∀ x ∈ l, x.length = 32

theorem lTreeLevel_size (pub : List Byte) (leaf height : Nat) : ∀ (k : Nat) (l : List (List Byte)), (∀ x ∈ l, x.length = 32) →
    ∀ x ∈ lTreeLevel pub leaf height k l, x.length = 32
  | k, a :: b :: rest, size, x, mem => by
    rcases List.mem_cons.mp mem with rfl | later
    · exact randHash_length ..
    · exact lTreeLevel_size pub leaf height (k + 1) rest (fun y h => size y (List.mem_cons_of_mem a (List.mem_cons_of_mem b h))) x later
  | _, [a], size, x, mem => size x mem
  | _, [], size, x, mem => size x mem

theorem lTreeLevel_areNodes (pub : List Byte) (leaf height : Nat) {l : List (List Byte)} (nodes : areNodes l) :
    areNodes (lTreeLevel pub leaf height 0 l) := by
  refine ⟨?_, lTreeLevel_size pub leaf height 0 l nodes.2⟩
  match l, nodes.1 with
  | _ :: _ :: _, _ => exact List.cons_ne_nil _ _
  | [_], _ => exact List.cons_ne_nil _ _

theorem lTree_length (pub : List Byte) (leaf : Nat) {ends : List (List Byte)} (nodes : areNodes ends) : (lTree pub leaf ends).length = 32 := by
  have levels (hs : List Nat) : areNodes (hs.foldl (fun l h => lTreeLevel pub leaf h 0 l) ends) := by
    induction hs generalizing ends with
    | nil => exact nodes
    | cons h hs ih => exact ih (lTreeLevel_areNodes pub leaf h nodes)
  obtain ⟨some, size⟩ := levels (List.range 7)
  obtain ⟨x, rest, eq⟩ := List.exists_cons_of_ne_nil some
  rw [eq] at size
  rw [lTree, eq]
  exact size x List.mem_cons_self

theorem xmssNode_length (seed : BitVec 768) (h i : Nat) : (xmssNode seed h i).length = 32 := by
  cases h with
  | zero =>
    refine lTree_length _ _ ⟨by simp [wotsLen], fun x mem => ?_⟩
    obtain ⟨k, -, rfl⟩ := List.mem_map.mp mem
    exact wotsChain_length _ _ _ (wotsSecret_length ..) _ _
  | succ h => exact randHash_length ..

/-- The authentication path of a leaf, up to a height. -/
def xmssPath (seed : BitVec 768) (leaf n : Nat) : List (List Byte) := (List.range n).map (fun h => xmssNode seed h (Nat.xor (leaf / 2 ^ h) 1))

theorem xmssPath_size {seed : BitVec 768} {leaf n : Nat} {x : List Byte} (mem : x ∈ xmssPath seed leaf n) : x.length = 32 := by
  obtain ⟨h, -, rfl⟩ := List.mem_map.mp mem
  exact xmssNode_length ..

/-- R394: a leaf and its path lead to the node above the leaf. -/
theorem pathRoot_xmssPath (seed : BitVec 768) (leaf n : Nat) :
    pathRoot (xmssPubSeed seed) leaf (xmssNode seed 0 leaf) (xmssPath seed leaf n) = xmssNode seed n (leaf / 2 ^ n) := by
  induction n with
  | zero => simp [xmssPath, pathRoot]
  | succ n ih =>
    have longer : xmssPath seed leaf (n + 1) = xmssPath seed leaf n ++ [xmssNode seed n (Nat.xor (leaf / 2 ^ n) 1)] := by
      simp only [xmssPath, List.range_succ, List.map_append, List.map_cons, List.map_nil]
    have up : leaf / 2 ^ (n + 1) = leaf / 2 ^ n / 2 := by rw [Nat.pow_succ, Nat.div_div_eq_div_mul]
    have level : (xmssPath seed leaf n).length = n := by simp [xmssPath]
    unfold pathRoot at ih ⊢
    rw [longer, List.zipIdx_append, List.foldl_append, ih]
    simp only [level, Nat.zero_add, List.zipIdx_cons, List.zipIdx_nil, List.foldl_cons, List.foldl_nil, up, xmssNode]
    split
    case isTrue even =>
      have here : 2 * (leaf / 2 ^ n / 2) = leaf / 2 ^ n := by omega
      have sibling : Nat.xor (leaf / 2 ^ n) 1 = leaf / 2 ^ n + 1 := Nat.xor_one_of_even (Nat.even_iff.mpr even)
      rw [here, sibling]
    case isFalse odd =>
      have here : 2 * (leaf / 2 ^ n / 2) + 1 = leaf / 2 ^ n := by omega
      have sibling : Nat.xor (leaf / 2 ^ n) 1 = 2 * (leaf / 2 ^ n / 2) :=
        (Nat.xor_one_of_odd (Nat.odd_iff.mpr (by omega))).trans (by omega)
      rw [here, sibling]

/-! ### Signatures (R394) -/

/-- The randomizer of a leaf's signature. -/
def xmssRandom (seed : BitVec 768) (leaf : Nat) : List Byte := keyedHash 3 (leBytes 32 (Config.xmssPrfKey seed).toNat) (beBytes 32 leaf)

/-- The digits that a leaf's signature shows of a message. -/
def xmssDigits (seed : BitVec 768) (leaf : Nat) (msg : List Byte) : List Nat :=
  wotsDigits (xmssDigest (xmssRoot seed) (xmssRandom seed leaf) leaf msg)

theorem xmssDigits_length (seed : BitVec 768) (leaf : Nat) (msg : List Byte) : (xmssDigits seed leaf msg).length = wotsLen :=
  wotsDigits_length (keyedHash_length ..)

/-- R394: the parts of a signature. -/
theorem xmssSigOf_eq (seed : BitVec 768) (leaf : Nat) (msg : List Byte) : xmssSigOf seed leaf msg =
    beBytes 4 leaf ++ xmssRandom seed leaf ++ (wotsShown seed leaf (xmssDigits seed leaf msg)).flatten ++ (xmssPath seed leaf xmssHeight).flatten := by
  simp only [wotsShown, xmssPath, ← List.flatMap_def]
  rfl

theorem flatten_length {ns : List (List Byte)} (size : ∀ n ∈ ns, n.length = 32) : ns.flatten.length = 32 * ns.length := by
  induction ns with
  | nil => rfl
  | cons n ns ih =>
    rw [List.flatten_cons, List.length_append, ih fun m mem => size m (List.mem_cons_of_mem n mem), size n List.mem_cons_self, List.length_cons]
    omega

theorem wotsShown_flatten_length (seed : BitVec 768) (leaf : Nat) (msg : List Byte) :
    (wotsShown seed leaf (xmssDigits seed leaf msg)).flatten.length = 32 * wotsLen := by
  rw [flatten_length fun _ => wotsShown_size, wotsShown, List.length_map, List.length_zipIdx, xmssDigits_length]

/-- R394: a signature is 2,820 bytes long. -/
theorem xmssSigOf_length (seed : BitVec 768) (leaf : Nat) (msg : List Byte) : (xmssSigOf seed leaf msg).length = 2820 := by
  have path : (xmssPath seed leaf xmssHeight).flatten.length = 32 * xmssHeight := by
    rw [flatten_length fun _ => xmssPath_size, xmssPath, List.length_map, List.length_range]
  rw [xmssSigOf_eq, List.length_append, List.length_append, List.length_append, wotsShown_flatten_length, path, beBytes_length, xmssRandom,
    keyedHash_length]
  rfl

/-- R394: A LEAF'S SIGNATURE VERIFIES. The chains are carried on to their ends, and the leaf over them leads to the root. -/
theorem xmssVerify_xmssSigOf (seed : BitVec 768) {leaf : Nat} (low : leaf < 2 ^ 20) (msg : List Byte) :
    xmssVerify (xmssPublicOf seed) msg (xmssSigOf seed leaf msg) = true := by
  have rootSize : (xmssRoot seed).length = 32 := xmssNode_length ..
  have randSize : (xmssRandom seed leaf).length = 32 := keyedHash_length ..
  have sig := xmssSigOf_eq seed leaf msg
  have keyRoot : ((xmssPublicOf seed).drop 4).take 32 = xmssRoot seed := by simp [xmssPublicOf, rootSize]
  have keySeed : (xmssPublicOf seed).drop 36 = xmssPubSeed seed := by simp [xmssPublicOf, List.drop_append, rootSize]
  have index : leValue ((xmssSigOf seed leaf msg).take 4).reverse = leaf := by
    have first : (xmssSigOf seed leaf msg).take 4 = beBytes 4 leaf := by simp [sig]
    rw [first, beBytes, List.reverse_reverse, leValue_leBytes 4 leaf (by omega)]
  have random : ((xmssSigOf seed leaf msg).drop 4).take 32 = xmssRandom seed leaf := by
    simp [sig, randSize]
  have behind : (xmssSigOf seed leaf msg).drop 36 =
      (wotsShown seed leaf (xmssDigits seed leaf msg)).flatten ++ (xmssPath seed leaf xmssHeight).flatten := by
    rw [sig]; simp [List.drop_append, randSize]
  have shown : nodesOf ((xmssSigOf seed leaf msg).drop 36) wotsLen = wotsShown seed leaf (xmssDigits seed leaf msg) := by
    have count : (wotsShown seed leaf (xmssDigits seed leaf msg)).length = wotsLen := by
      rw [wotsShown, List.length_map, List.length_zipIdx, xmssDigits_length]
    rw [behind, ← count]
    exact nodesOf_flatten_append (fun _ => wotsShown_size) _
  have path : nodesOf ((xmssSigOf seed leaf msg).drop (36 + 32 * wotsLen)) xmssHeight = xmssPath seed leaf xmssHeight := by
    have count : (xmssPath seed leaf xmssHeight).length = xmssHeight := by rw [xmssPath, List.length_map, List.length_range]
    rw [← List.drop_drop, behind, ← wotsShown_flatten_length seed leaf msg, List.drop_left]
    have all := nodesOf_flatten_append (fun _ => xmssPath_size (seed := seed) (leaf := leaf) (n := xmssHeight)) []
    rwa [count, List.append_nil] at all
  have digits : wotsDigits (xmssDigest (xmssRoot seed) (xmssRandom seed leaf) leaf msg) = xmssDigits seed leaf msg := rfl
  have top : leaf / 2 ^ xmssHeight = 0 := Nat.div_eq_of_lt low
  have ends := wotsShown_ends (seed := seed) (leaf := leaf) (xmssDigits_length seed leaf msg) (fun d => wotsDigits_lt)
  have leads := pathRoot_xmssPath seed leaf xmssHeight
  rw [top] at leads
  unfold xmssVerify
  simp only [keyRoot, keySeed, index, random, shown, path, digits, ends]
  exact beq_iff_eq.mpr leads

end Sys2Proof.Machine
end

section
/-! PROOFS. Management (R209, R385 to R397): commands, boot, power and temperature, host access, the links, FABID. O52. -/
namespace Sys2Proof.Machine
open Sys2Proof.Laws Sys2Proof.Claim

/-! ### Notices and the error log (R389, R391) -/

theorem setNotice_sets (s : State) {bit : Nat} (low : bit < 5) : (setNotice s bit).notice.getLsbD bit = true := by
  unfold setNotice
  split
  case isTrue set => exact set
  case isFalse => simp [low]

/-- R389: a notice changes NOTICE and the vectors raised alone. -/
theorem setNotice_frame (s : State) (bit : Nat) : ∃ n x, setNotice s bit = { s with notice := n, msix := x } := by
  unfold setNotice
  split
  · exact ⟨s.notice, s.msix, rfl⟩
  · exact ⟨_, _, rfl⟩

/-- R391: what an entry of the error log keeps: all but the log's counters, its bytes at home, and a notice. -/
theorem elogWrite_keeps {C : Type} (p : State → C)
    (apart : ∀ s m k pt sc mo rq d, p { s with mem := m, lineKey := k, patrols := pt, scrubs := sc, motions := mo, regQ := rq, dirty := d } = p s)
    (told : ∀ s q e n x, p { s with chanQ := q, elog := e, notice := n, msix := x } = p s) (s : State) (kind place detail : Nat) :
    p (elogWrite s kind place detail) = p s := by
  have counted (t : State) (e : ElogSt) : p { t with elog := e } = p t := told t t.chanQ e t.notice t.msix
  have written (pa : Nat) (bs : List Byte) : p (writePhys s ownUnit none pa bs) = p s := by
    obtain ⟨q, asked⟩ := ownAsk_eq s ownUnit none (physLines pa bs.length)
    rw [writePhys, asked]
    exact (writeHome_keeps p apart _ _ _).trans (told s q s.elog s.notice s.msix)
  have noticed (t : State) : p (setNotice t 1) = p t := by
    obtain ⟨n, x, frame⟩ := setNotice_frame t 1
    rw [frame]
    exact told t t.chanQ t.elog n x
  unfold elogWrite
  dsimp only
  split
  · exact counted ..
  · split
    · exact counted ..
    · exact (noticed _).trans ((counted ..).trans (written ..))

/-! ### The Chorus pass of a core (R209) -/

/-- R209: the outcomes of a pass are free choices, and nothing else moves. -/
theorem chorusPass_frame (s : State) : ∃ f, (chorusPass s).2 = { s with free := f } := by
  unfold chorusPass
  generalize List.range 16 = ps
  generalize (0 : BitVec 16) = bad
  induction ps generalizing s bad with
  | nil => exact ⟨s.free, rfl⟩
  | cons p ps ih =>
    obtain ⟨f, rest⟩ := ih s.choose.2 (if s.choose.1 then bad ||| (1#16 <<< p) else bad)
    exact ⟨f, rest⟩

/-- The blocks that a core's reset takes off it. -/
def coreResidents (s : State) (core : Nat) : List Block := s.blocks.filter (fun b => b.resident && b.cores.contains core)

theorem over_of_resident {b : Block} (stays : b.resident = true) : b.over = false := by
  revert stays
  simp only [Block.over, Block.resident]
  cases b.phase <;> decide

/-- R209: what a core's reset does once its blocks have been evicted. -/
theorem mcmdReset_spec (s : State) (core : Nat) :
    let e := evictBlocks s (coreResidents s core) 0x26 16
    ∃ bad, (mcmdReset s core).blocks = e.blocks ∧ (mcmdReset s core).mcmd = e.mcmd ∧ (mcmdReset s core).core core = { CoreSt.reset with
      fenced := (e.core core).off ||| bad, off := (e.core core).off, disabled := (e.core core).disabled
      parts := List.replicate 16 { Part.reset with chorus := List.replicate 8 s.cycle } } := by
  intro e
  obtain ⟨f, passes⟩ := chorusPass_frame e
  have blocks : (chorusPass e).2.blocks = e.blocks := by rw [passes]
  have mcmd : (chorusPass e).2.mcmd = e.mcmd := by rw [passes]
  refine ⟨(chorusPass e).1, blocks, mcmd, (core_modCore_self ..).trans ?_⟩
  have same : (chorusPass e).2.core core = e.core core := by rw [passes]; rfl
  rw [← same]
  rfl

theorem or_and_self_left (a b : BitVec n) : (a ||| b) &&& a = a := by
  ext i
  simp
  tauto

/-! ### Commands (R390, R209) -/

/-- A field of a word under a mask that covers it. -/
theorem bitsOf_and {m hi lo : Nat} (covers : bitsOf m hi lo = 2 ^ (hi + 1 - lo) - 1) (v : Nat) : bitsOf (v &&& m) hi lo = bitsOf v hi lo := by
  unfold bitsOf at covers ⊢
  rw [Nat.shiftRight_and_distrib, Nat.and_mod_two_pow, covers, Nat.and_two_pow_sub_one_eq_mod, Nat.mod_mod]

/-- R390: a command as MCMD holds it. -/
def mcmdWord (bound asid core op : Nat) : W64 :=
  BitVec.ofNat 64 (bound * 2 ^ 48 + asid * 2 ^ 37 + core * 2 ^ 31 + 2 * op + 1) &&& 0xFFFFFFFF80000007

theorem mcmdWord_fields {bound asid core op : Nat} (bound16 : bound < 2 ^ 16) (asid11 : asid < 2 ^ 11) (core6 : core < 2 ^ 6) (op2 : op < 4) :
    (mcmdWord bound asid core op).getLsbD 0 = true ∧ bitsOf (mcmdWord bound asid core op).toNat 2 1 = op ∧
      bitsOf (mcmdWord bound asid core op).toNat 36 31 = core ∧ bitsOf (mcmdWord bound asid core op).toNat 47 37 = asid := by
  have word : (mcmdWord bound asid core op).toNat =
      (bound * 2 ^ 48 + asid * 2 ^ 37 + core * 2 ^ 31 + 2 * op + 1) &&& 0xFFFFFFFF80000007 := by
    rw [mcmdWord, BitVec.toNat_and, BitVec.toNat_ofNat, Nat.mod_eq_of_lt (by omega)]
    rfl
  have go : bitsOf (mcmdWord bound asid core op).toNat 0 0 = 1 := by
    rw [word, bitsOf_and (by decide)]
    simp only [bitsOf, Nat.shiftRight_zero]
    omega
  refine ⟨?_, ?_, ?_, ?_⟩
  · rw [BitVec.getLsbD, Nat.testBit_zero]
    simpa [bitsOf] using go
  all_goals
    rw [word, bitsOf_and (by decide)]
    simp only [bitsOf, Nat.shiftRight_eq_div_pow]
    omega

/-- R314: whether a context is live does not depend on the command under way. -/
theorem ctxLive_mcmd (s : State) (v : W64) (asid : Nat) : ctxLive { s with mcmd := v } asid = ctxLive s asid := by
  have place (pa : Nat) : placeOf { s with mcmd := v } pa = placeOf s pa := rfl
  have range (pa n tier : Nat) : rangeIn { s with mcmd := v } pa n tier = rangeIn s pa n tier := by simp only [rangeIn, place]
  have record : ctxRec { s with mcmd := v } asid = ctxRec s asid := rfl
  simp only [ctxLive, ctxValid, range, record]

section command
variable {s : State} (idle : mcmdBusy s = false) {asid core : Nat}
include idle

/-- R390: a command that is written starts, and its word names what it acts on. -/
theorem mcmdWrite_starts {bound asid core op : Nat} (bound16 : bound < 2 ^ 16) (asid11 : asid < 2 ^ 11) (core6 : core < 2 ^ 6) (op2 : op < 4) :
    ∃ w : W64, w.getLsbD 0 = true ∧ bitsOf w.toNat 2 1 = op ∧ bitsOf w.toNat 36 31 = core ∧ bitsOf w.toNat 47 37 = asid ∧
      ∀ n, n = bound * 2 ^ 48 + asid * 2 ^ 37 + core * 2 ^ 31 + 2 * op + 1 → mcmdWrite s (BitVec.ofNat 64 n) = mcmdStart s w := by
  obtain ⟨go, code, unit, context⟩ := mcmdWord_fields bound16 asid11 core6 op2
  refine ⟨mcmdWord bound asid core op, go, code, unit, context, fun n word => ?_⟩
  rw [mcmdWrite, word, ← mcmdWord]
  simp only [idle, go, Bool.false_eq_true, if_false, if_true]

/-- R390: the context is paused and its placed blocks are pre-empted, while the command goes on. -/
theorem contextIsPreempted (low : asid < 2048) (live : ctxLive s asid = true) (runs : tabGet false s.paused asid = false) (bound : Nat) :
    After (.mcmdPreemptContext asid bound) s (fun t => tabGet false t.paused asid = true ∧ mcmdBusy t = true) := by
  obtain ⟨w, go, op, -, named, starts⟩ := mcmdWrite_starts idle (Nat.mod_lt bound (by decide)) low (core := 0) (by decide) (op := 1) (by decide)
  have pauses (v : W64) (n : Nat) : ∃ victims ns, mcmdPreempt { s with mcmd := v } asid n =
      (preempt { s with mcmd := v, paused := tabPut false s.paused asid true } victims ns).s := by
    simp only [mcmdPreempt, ctxLive_mcmd, live, runs, Bool.not_true, Bool.or_self, Bool.false_eq_true, if_false]
    exact ⟨_, _, rfl⟩
  obtain ⟨victims, ns, preempts⟩ := pauses w (bitsOf w.toNat 63 48)
  simp only [mcmdStart, op, named, preempts] at starts
  have spares := spared_preempt { s with mcmd := w, paused := tabPut false s.paused asid true } victims ns
  simp only [spared, Prod.mk.injEq] at spares
  obtain ⟨mcmd, paused, -⟩ := spares
  exact ⟨_, congrArg Host.Outcome.next (starts _ (by omega)), by rw [paused, tabGet_tabPut_self], by rw [mcmdBusy, mcmd]; exact go⟩

/-- R390: the context is paused no more. -/
theorem contextIsResumed (low : asid < 2048) : After (.mcmdResumeContext asid) s (fun t =>
    t = { s with mcmd := t.mcmd, paused := t.paused } ∧ tabGet false t.paused asid = false ∧ mcmdBusy t = true) := by
  obtain ⟨w, go, op, -, named, starts⟩ := mcmdWrite_starts idle (bound := 0) (by decide) low (core := 0) (by decide) (op := 2) (by decide)
  simp only [mcmdStart, op, named, mcmdResume] at starts
  exact ⟨_, congrArg Host.Outcome.next (starts _ (by omega)), rfl, tabGet_tabPut_self false s.paused asid false, go⟩

/-- R209: the core's blocks are on it no more, and it begins anew, with what the configuration disables fenced. -/
theorem coreIsReset (low : core < 64) (alone : (s.blocks.map (·.uid)).Nodup) : After (.mcmdResetCore core) s (fun t =>
    (∀ b ∈ t.blocks, b.resident = true → core ∉ b.cores) ∧ (t.core core).l1 = [] ∧ (t.core core).tlb = [] ∧
    (t.core core).recs = [] ∧ (t.core core).kickQ = [] ∧ (t.core core).l1size = 0 ∧ (t.core core).disabled = (s.core core).disabled ∧
    (t.core core).fenced &&& (s.core core).off = (s.core core).off ∧ mcmdBusy t = true) := by
  obtain ⟨w, go, op, named, -, starts⟩ := mcmdWrite_starts idle (bound := 0) (by decide) (asid := 0) (by decide) low (op := 3) (by decide)
  simp only [mcmdStart, op, named] at starts
  let s0 : State := { s with mcmd := w }
  have spares := spared_evictBlocks s0 (coreResidents s0 core) 0x26 16
  obtain ⟨goes, gone⟩ := evictBlocks_vacates (s := s0) alone (coreResidents s0 core) 0x26 16
  obtain ⟨bad, blocks, mcmd, anew⟩ := mcmdReset_spec s0 core
  simp only [spared, Prod.mk.injEq, funext_iff] at spares
  obtain ⟨same, -, units⟩ := spares
  obtain ⟨-, off, disabled⟩ := units core
  refine ⟨_, congrArg Host.Outcome.next (starts _ (by omega)), fun b mem stays on => ?_, ?_⟩
  · rcases goes.blocks b (blocks ▸ mem) with old | left
    · have listed : b ∈ coreResidents s0 core := List.mem_filter.mpr ⟨old, by simp [stays, on]⟩
      have left := gone b listed (over_of_resident stays) b (blocks ▸ mem) rfl
      exact absurd (stays.symm.trans left) (by decide)
    · exact absurd (stays.symm.trans left) (by decide)
  · rw [anew, mcmdBusy, mcmd, same]
    refine ⟨rfl, rfl, rfl, rfl, rfl, disabled, ?_, go⟩
    have off' : (s.core core).off = _ := off.symm
    rw [off']
    exact or_and_self_left _ _

end command

/-- R390: with no victim left the command is over. -/
theorem commandIsOver {s : State} (busy : mcmdBusy s = true) (none : ∀ b ∈ s.blocks, b.phase ≠ .preempting ∧ b.drain = false) :
    After .mcmdDone s (fun t => mcmdBusy t = false ∧ t.notice.getLsbD 4 = true ∧ t.blocks = s.blocks) := by
  have quiet : s.blocks.any (fun b => b.asid == bitsOf s.mcmd.toNat 47 37 && stillVictim b) = false := by
    refine List.any_eq_false.mpr fun b mem => ?_
    obtain ⟨save, drain⟩ := none b mem
    simp [stillVictim, save, drain]
  have eq : exec .mcmdDone s = .next (mcmdOver s) := by
    change execMcmdDone s = _
    simp only [execMcmdDone, busy, finishSaves_of_none fun b mem => (none b mem).1, quiet, Bool.not_true, Bool.false_eq_true, and_false, if_false]
  obtain ⟨n, x, frame⟩ := setNotice_frame { s with mcmd := s.mcmd &&& ~~~1#64 } 4
  refine ⟨_, eq, ?_, setNotice_sets _ (by decide), ?_⟩ <;> rw [mcmdOver, frame]
  simp [mcmdBusy]

end Sys2Proof.Machine
end

section
/-! PROOFS. Attestation, boot, power and temperature, host access, the links and FABID (R385, R391 to R397). O52. -/
namespace Sys2Proof.Machine
open Sys2Proof.Laws Sys2Proof.Claim

/-! ### Attestation (R394) -/

/-- R394: a request captures the nonce, and takes a leaf where one is left and the write of it succeeds (log 50). -/
theorem attestationIsRequested {s : State} (idle : s.att.go = false) : After .attestationRequest s (fun t => t.att.go = true ∧
    t.att.captured = s.att.nonce ∧
    ((s.att.leaf < 2 ^ 20 ∧ ((t.att.pend = 0 ∧ t.att.leaf = s.att.leaf + 1) ∨ (t.att.pend = 1 ∧ t.att.leaf = s.att.leaf))) ∨
      (2 ^ 20 ≤ s.att.leaf ∧ t.att.pend = 2 ∧ t.att.leaf = s.att.leaf))) := by
  refine ⟨_, rfl, ?_⟩
  simp only [idle, Bool.false_eq_true, if_false]
  refine ⟨trivial, trivial, ?_⟩
  rcases Nat.lt_or_ge s.att.leaf (2 ^ 20) with left | spent
  · rw [if_neg (show ¬ leafLimit ≤ s.att.leaf from Nat.not_le.mpr left)]
    cases s.choose.1
    · exact .inl ⟨left, .inl ⟨rfl, rfl⟩⟩
    · exact .inl ⟨left, .inr ⟨rfl, rfl⟩⟩
  · rw [if_pos (show leafLimit ≤ s.att.leaf from spent)]
    exact .inr ⟨spent, rfl, rfl⟩

theorem reportHead_length {s : State} (nonce : s.att.captured.length = 32) : (reportHead s).length = 128 := by
  simp [reportHead, leBytes_length, nonce]

/-- R394: the report begins with its first bytes, and what follows them is as long as a signature. -/
theorem attestationIsReported {s : State} (busy : s.att.go = true) (nonce : s.att.captured.length = 32) :
    After .attestationReportDone s (fun t => t.att.go = false ∧ t.att.status = s.att.pend ∧ t.att.leaf = s.att.leaf ∧
      t.att.report.length = 2948 ∧ t.att.report.take 32 = s.att.captured ∧
      (s.att.pend = 0 → 0 < s.att.leaf → s.att.leaf ≤ 2 ^ 20 →
        xmssVerify attPublic (t.att.report.take 128) (t.att.report.drop 128) = true)) := by
  have head := reportHead_length nonce
  have eq : exec .attestationReportDone s = .next { s with att := { s.att with
      report := reportHead s ++ (if s.att.pend = 0 then xmssSig (s.att.leaf - 1) (reportHead s) else leBytes 2820 0)
      status := s.att.pend, go := false } } := by
    change execAttestationReportDone s = _
    simp only [execAttestationReportDone, busy, Bool.not_true, Bool.false_eq_true, if_false]
  refine ⟨_, eq, rfl, rfl, rfl, ?_, ?_, fun taken some low => ?_⟩
  · rw [List.length_append, head]
    split
    · rw [xmssSig, xmssSigOf_length]
    · rw [leBytes_length]
  · have first : reportHead s = s.att.captured ++ (reportHead s).drop 32 := by
      conv_lhs => rw [← List.take_append_drop 32 (reportHead s)]
      simp [reportHead, nonce]
    dsimp only
    rw [first, List.append_assoc, ← nonce, List.take_left]
  · dsimp only
    rw [if_pos taken, ← head, List.take_left, List.drop_left]
    exact xmssVerify_xmssSigOf Config.deviceSeed (by omega) _

/-! ### Boot (R392) -/

/-- R392: cores are disabled and partitions fenced, by the configuration and by free choices; no core is enabled. -/
structure UnitsGo (s t : State) : Prop where
  frame : ∃ cs f, t = { s with cores := cs, free := f }
  disabled : ∀ c, (s.core c).disabled = true → (t.core c).disabled = true

theorem UnitsGo.refl (s : State) : UnitsGo s s := ⟨⟨s.cores, s.free, rfl⟩, fun _ off => off⟩

theorem UnitsGo.trans {s t u : State} (h : UnitsGo s t) (h' : UnitsGo t u) : UnitsGo s u := by
  obtain ⟨cs, f, rfl⟩ := h.frame
  obtain ⟨cs', f', rfl⟩ := h'.frame
  exact ⟨⟨cs', f', rfl⟩, fun c off => h'.disabled c (h.disabled c off)⟩

theorem UnitsGo.foldl {B : Type} {f : State → B → State} (h : ∀ s x, UnitsGo s (f s x)) (xs : List B) (s : State) : UnitsGo s (xs.foldl f s) := by
  induction xs generalizing s with
  | nil => exact .refl s
  | cons x xs ih => exact (h s x).trans (ih _)

theorem unitsGo_modCore (s : State) (c : Nat) {f : CoreSt → CoreSt} (keeps : ∀ k, k.disabled = true → (f k).disabled = true) :
    UnitsGo s (s.modCore c f) := by
  refine ⟨⟨_, s.free, rfl⟩, fun d off => ?_⟩
  by_cases same : d = c
  · rw [same, core_modCore_self]
    exact keeps _ (same ▸ off)
  · rw [core_modCore_ne s c d f same]
    exact off

/-- R209, R392: the pass of every core. -/
theorem unitsGo_chorusAll (s : State) : UnitsGo s (chorusAll s) := by
  refine .foldl (fun s c => ?_) _ s
  obtain ⟨f, passes⟩ := chorusPass_frame s
  have passed : UnitsGo s (chorusPass s).2 := by
    rw [passes]
    exact ⟨⟨s.cores, f, rfl⟩, fun _ off => off⟩
  exact passed.trans (unitsGo_modCore _ c fun _ off => off)

/-- R392 step 4: a core that the configuration disables. -/
def turnOff (s : State) (c : Nat) : State := if c < 64 then s.modCore c (fun k => { k with disabled := true }) else s

/-- R392 step 4: a partition that the configuration disables. -/
def partOff (s : State) (p : Nat × Nat) : State :=
  if p.1 < 64 then s.modCore p.1 (fun k => { k with fenced := k.fenced ||| (1#16 <<< p.2), off := k.off ||| (1#16 <<< p.2) }) else s

theorem applyUnits_eq (cfg : BootConfig) (s : State) : applyUnits cfg s = cfg.disabledParts.foldl partOff (cfg.disabledCores.foldl turnOff s) := rfl

theorem unitsGo_turnOff (s : State) (c : Nat) : UnitsGo s (turnOff s c) := by
  unfold turnOff
  split
  · exact unitsGo_modCore s c fun _ _ => rfl
  · exact .refl s

theorem unitsGo_partOff (s : State) (p : Nat × Nat) : UnitsGo s (partOff s p) := by
  unfold partOff
  split
  · exact unitsGo_modCore s p.1 fun _ off => off
  · exact .refl s

theorem unitsGo_applyUnits (cfg : BootConfig) (s : State) : UnitsGo s (applyUnits cfg s) :=
  (UnitsGo.foldl unitsGo_turnOff _ s).trans (.foldl unitsGo_partOff _ _)

/-- R392 step 4: the cores that the configuration disables are. -/
theorem applyUnits_disabled {cfg : BootConfig} {c : Nat} (listed : c ∈ cfg.disabledCores) (low : c < 64) (s : State) :
    ((applyUnits cfg s).core c).disabled = true := by
  obtain ⟨before, after, split⟩ := List.append_of_mem listed
  have off : ((turnOff (before.foldl turnOff s) c).core c).disabled = true := by rw [turnOff, if_pos low, core_modCore_self]
  rw [applyUnits_eq, split, List.foldl_append, List.foldl_cons]
  exact ((UnitsGo.foldl unitsGo_turnOff after _).trans (.foldl unitsGo_partOff _ _)).disabled c off

/-- R392 step 4: the stations that the configuration turns off. -/
theorem getLsbD_foldl_off (js : List Nat) (m : BitVec 16) {i : Nat} (low : i < 16) :
    (js.foldl (fun m j => m &&& ~~~(1#16 <<< j)) m).getLsbD i = true ↔ m.getLsbD i = true ∧ i ∉ js := by
  induction js generalizing m with
  | nil => simp
  | cons j js ih =>
    rw [List.foldl_cons, ih]
    have bit : (m &&& ~~~(1#16 <<< j)).getLsbD i = (m.getLsbD i && decide (i ≠ j)) := by
      rw [BitVec.getLsbD_and, BitVec.getLsbD_not, BitVec.getLsbD_shiftLeft, BitVec.getLsbD_one]
      grind
    rw [bit, Bool.and_eq_true, decide_eq_true_eq, List.mem_cons, not_or, and_assoc]

theorem failingStep_eq (cfg : BootConfig) (s : State) :
    (cfg.failStep = 0 → ¬ cfg.version < s.att.rollback → failingStep cfg s = 0) ∧
    (cfg.failStep ≠ 0 ∨ cfg.version < s.att.rollback → failingStep cfg s ≠ 0 ∧ failingStep cfg s < 6) := by
  have low := cfg.failStep.isLt
  have zero : cfg.failStep = 0 ↔ cfg.failStep.val = 0 := Fin.ext_iff
  unfold failingStep
  dsimp only
  rw [Ne, zero]
  refine ⟨fun goes young => ?_, fun fails => ?_⟩
  · rw [if_neg fun h => young h.2, goes]
  · split
    · decide
    · next h => exact ⟨fun ok => fails.elim (fun f => f ok) (fun old => h ⟨.inl ok, old⟩), low⟩

/-- R392: the boot sequence after the step that fails, or after its last. -/
def bootSteps (cfg : BootConfig) (s : State) (f : Nat) : State :=
  let s0 := powerOn cfg s
  let s1 := if f = 1 then s0 else { s0 with att := { s0.att with pub := attPublic } }
  let s2 := if f = 0 ∨ f = 5 then applyConfig cfg s1 else s1
  if f = 0 then chorusAll (trainMemory cfg s2) else s2

/-- R392: BOOTSTAT as a boot that ends at a step leaves it. -/
def bootWord (cfg : BootConfig) (f : Nat) : W64 :=
  BitVec.ofNat 64 ((if f = 0 ∨ f = 5 then cfg.version.toNat * 2 ^ 32 else 0) + f * 16 + (if f = 0 then 1 else 0))

theorem exec_bootSequence {cfg : BootConfig} {s : State} {f : Nat} (ends : failingStep cfg (powerOn cfg s) = f) :
    exec (.bootSequence cfg) s = .next { bootSteps cfg s f with bootstat := bootWord cfg f } := by
  subst ends
  rfl

/-- R393: what flash holds never goes back. -/
theorem powerOn_keeps (cfg : BootConfig) (s : State) :
    s.att.leaf ≤ (powerOn cfg s).att.leaf ∧ s.att.rollback ≤ (powerOn cfg s).att.rollback := by
  refine ⟨Nat.le_max_left .., ?_⟩
  simp only [powerOn]
  split
  · assumption
  · exact BitVec.le_refl _

theorem bootWord_of_ok (cfg : BootConfig) : (bootWord cfg 0).getLsbD 0 = true ∧ (bootWord cfg 0).extractLsb' 32 32 = cfg.version := by
  have low := cfg.version.isLt
  have word : (bootWord cfg 0).toNat = cfg.version.toNat * 2 ^ 32 + 1 := by
    simp only [bootWord, true_or, if_true, BitVec.toNat_ofNat]
    omega
  refine ⟨?_, BitVec.eq_of_toNat_eq ?_⟩
  · rw [BitVec.getLsbD, word, Nat.testBit_zero, decide_eq_true_eq]
    omega
  · rw [BitVec.extractLsb'_toNat, word, Nat.shiftRight_eq_div_pow]
    omega

theorem bootWord_of_fail (cfg : BootConfig) {f : Nat} (fails : f ≠ 0) (low : f < 6) :
    (bootWord cfg f).getLsbD 0 = false ∧ (bootWord cfg f).extractLsb' 4 4 ≠ 0 := by
  have version := cfg.version.isLt
  have word : ∃ v, (bootWord cfg f).toNat = v * 2 ^ 32 + f * 16 := by
    simp only [bootWord, fails, if_false, BitVec.toNat_ofNat]
    split
    · exact ⟨cfg.version.toNat, by omega⟩
    · exact ⟨0, by omega⟩
  obtain ⟨v, word⟩ := word
  refine ⟨?_, fun none => ?_⟩
  · rw [BitVec.getLsbD, word, Nat.testBit_zero, decide_eq_false_iff_not]
    omega
  · have field := congrArg BitVec.toNat none
    rw [BitVec.extractLsb'_toNat, word, Nat.shiftRight_eq_div_pow] at field
    simp only [BitVec.ofNat_eq_ofNat, BitVec.toNat_ofNat] at field
    omega

/-- R392: what a boot whose every step is done leaves beside the cores. -/
theorem bootSteps_frame (cfg : BootConfig) (s : State) : ∃ cs f, bootSteps cfg s 0 = { powerOn cfg s with
    cores := cs, free := f
    chans := min 256 cfg.channels - cfg.badChannels
    cxlBytes := [0, 1].map (fun i => min cxlLimit (cfg.cxlBytes.getD i 0))
    stations := cfg.offStations.foldl (fun m i => m &&& ~~~(1#16 <<< i)) 0xFFFF
    chorusSigs := (List.range 8).map (fun i => cfg.signatures.getD i 0)
    therm := { (powerOn cfg s).therm with limit := cfg.powerLimit }
    att := { (powerOn cfg s).att with pub := attPublic, digest := cfg.digest } } := by
  let s1 : State := { powerOn cfg s with att := { (powerOn cfg s).att with pub := attPublic } }
  obtain ⟨cs, f, applied⟩ := (unitsGo_applyUnits cfg s1).frame
  obtain ⟨cs', f', checked⟩ := (unitsGo_chorusAll (trainMemory cfg (applyConfig cfg s1))).frame
  have steps : bootSteps cfg s 0 = chorusAll (trainMemory cfg (applyConfig cfg s1)) := rfl
  refine ⟨cs', f', ?_⟩
  rw [steps, checked, trainMemory, applyConfig, applied]
  rfl

theorem bootSteps_disabled {cfg : BootConfig} {c : Nat} (listed : c ∈ cfg.disabledCores) (low : c < 64) (s : State) (w : W64) :
    (({ bootSteps cfg s 0 with bootstat := w } : State).core c).disabled = true := by
  let s1 : State := { powerOn cfg s with att := { (powerOn cfg s).att with pub := attPublic } }
  have steps : bootSteps cfg s 0 = chorusAll (trainMemory cfg (applyConfig cfg s1)) := rfl
  have same : (trainMemory cfg (applyConfig cfg s1)).core c = (applyUnits cfg s1).core c := rfl
  have told (t : State) : ({ t with bootstat := w } : State).core c = t.core c := rfl
  rw [told, steps]
  refine (unitsGo_chorusAll _).disabled c ?_
  rw [same]
  exact applyUnits_disabled listed low s1

/-- R392: a boot whose every step is done applies the configuration. -/
theorem bootCompletes (s : State) (cfg : BootConfig) (goes : cfg.failStep = 0) (newer : cfg.rollback ≤ cfg.version)
    (young : s.att.rollback ≤ cfg.version) : After (.bootSequence cfg) s (fun t => t.bootstat.getLsbD 0 = true ∧
      t.bootstat.extractLsb' 32 32 = cfg.version ∧ t.mem = [] ∧ t.gangs = [] ∧ t.blocks = [] ∧ t.att.digest = cfg.digest ∧
      s.att.leaf ≤ t.att.leaf ∧ s.att.rollback ≤ t.att.rollback ∧ t.chans = min 256 cfg.channels - cfg.badChannels ∧ t.att.pub = attPublic ∧
      (∀ i, i < 16 → (t.stations.getLsbD i = true ↔ i ∉ cfg.offStations)) ∧ ∀ c ∈ cfg.disabledCores, c < 64 → (t.core c).disabled = true) := by
  have still : ¬ cfg.version < (powerOn cfg s).att.rollback := by
    simp only [powerOn]
    split
    · exact BitVec.not_lt.mpr newer
    · exact BitVec.not_lt.mpr young
  have eq := exec_bootSequence ((failingStep_eq cfg (powerOn cfg s)).1 goes still)
  obtain ⟨leaf, rollback⟩ := powerOn_keeps cfg s
  obtain ⟨done, version⟩ := bootWord_of_ok cfg
  have disabled := fun c listed low => bootSteps_disabled (cfg := cfg) (c := c) listed low s (bootWord cfg 0)
  obtain ⟨cs, f, booted⟩ := bootSteps_frame cfg s
  rw [booted] at eq disabled
  refine ⟨_, eq, done, version, rfl, rfl, rfl, rfl, leaf, rollback, rfl, rfl, fun i low => ?_, disabled⟩
  have all : (0xFFFF : BitVec 16) = BitVec.allOnes 16 := by decide
  refine (getLsbD_foldl_off cfg.offStations 0xFFFF low).trans (and_iff_right ?_)
  rw [all, BitVec.getLsbD_allOnes, decide_eq_true low]

/-- R392: a step that fails is reported, and what flash holds stands. -/
theorem bootStops (s : State) (cfg : BootConfig) (fails : cfg.failStep ≠ 0 ∨ cfg.version < s.att.rollback) :
    After (.bootSequence cfg) s (fun t => t.bootstat.getLsbD 0 = false ∧ t.bootstat.extractLsb' 4 4 ≠ 0 ∧ s.att.leaf ≤ t.att.leaf ∧
      s.att.rollback ≤ t.att.rollback) := by
  obtain ⟨leaf, rollback⟩ := powerOn_keeps cfg s
  obtain ⟨fails, low⟩ := (failingStep_eq cfg (powerOn cfg s)).2 (fails.imp_right fun old => Nat.lt_of_lt_of_le old rollback)
  obtain ⟨notDone, step⟩ := bootWord_of_fail cfg fails low
  have flash : (bootSteps cfg s (failingStep cfg (powerOn cfg s))).att.leaf = (powerOn cfg s).att.leaf ∧
      (bootSteps cfg s (failingStep cfg (powerOn cfg s))).att.rollback = (powerOn cfg s).att.rollback := by
    unfold bootSteps
    dsimp only
    rw [if_neg fails]
    split <;> split <;> exact ⟨rfl, rfl⟩
  exact ⟨_, exec_bootSequence rfl, notDone, step, flash.1 ▸ leaf, flash.2 ▸ rollback⟩

/-! ### Power and temperature (R395) -/

/-- R395: a thermal limit crossed is noticed, and changes neither what was sampled nor a gang. -/
theorem thermalNotice_spec (s : State) (t : Nat) : (thermalNotice s t).therm = s.therm ∧ (thermalNotice s t).gangs = s.gangs ∧
    (thermalNotice s t).notice.getLsbD 2 = true := by
  have logged := elogWrite_keeps (fun s => (s.therm, s.gangs)) (fun _ _ _ _ _ _ _ _ => rfl) (fun _ _ _ _ _ => rfl) s 7 0 t
  obtain ⟨n, x, frame⟩ := setNotice_frame (elogWrite s 7 0 t) 2
  obtain ⟨therm, gangs⟩ := Prod.mk.injEq .. ▸ logged
  refine ⟨?_, ?_, setNotice_sets _ (by decide)⟩ <;> rw [thermalNotice, frame] <;> assumption

/-- R395: at 115 °C the package stops, which changes neither what was sampled, nor a notice, nor a gang. -/
theorem shutDown_spec (s : State) : (shutDown s).therm = { s.therm with shutdown := (shutDown s).therm.shutdown } ∧
    (shutDown s).notice = s.notice ∧ (shutDown s).gangs = s.gangs ∧ (115 ≤ s.therm.tdie → (shutDown s).therm.shutdown = true) := by
  unfold shutDown
  split
  case isTrue cool => exact ⟨rfl, rfl, rfl, fun hot => absurd hot (Nat.not_le.mpr cool)⟩
  case isFalse => exact ⟨rfl, rfl, rfl, fun _ => rfl⟩

theorem clockFollows (s : State) (power tdie thbm : Nat) : After (.clockStep power tdie thbm) s (fun t => t.therm.power = power ∧ t.therm.tdie = tdie ∧
    t.therm.thbm = thbm ∧ t.therm.limit = s.therm.limit ∧
    t.therm.clockMHz = (if s.therm.limit < power ∨ 105 ≤ tdie then max 1000 (s.therm.clockMHz - 100)
      else if power < s.therm.limit then min 2000 (s.therm.clockMHz + 100) else s.therm.clockMHz) ∧
    (s.therm.tdie < 105 → 105 ≤ tdie → t.notice.getLsbD 2 = true) ∧ (115 ≤ tdie → t.therm.shutdown = true)) := by
  let clock := if s.therm.limit < power ∨ 105 ≤ tdie then max 1000 (s.therm.clockMHz - 100)
    else if power < s.therm.limit then min 2000 (s.therm.clockMHz + 100) else s.therm.clockMHz
  let s1 : State := { s with therm := { s.therm with power := power, tdie := tdie, thbm := thbm, clockMHz := clock } }
  let s2 := if (s.therm.tdie < 105 ∧ 105 ≤ tdie) ∨ (s.therm.tdie < 115 ∧ 115 ≤ tdie) then thermalNotice s1 tdie else s1
  have eq : exec (.clockStep power tdie thbm) s = .next (shutDown s2) := rfl
  have sampled : s2.therm = s1.therm := by
    dsimp only [s2]
    split
    · exact (thermalNotice_spec s1 tdie).1
    · rfl
  obtain ⟨therm, notice, -, stops⟩ := shutDown_spec s2
  rw [sampled] at therm stops
  refine ⟨_, eq, ?_, ?_, ?_, ?_, ?_, fun cool hot => ?_, stops⟩
  case refine_6 =>
    rw [notice]
    dsimp only [s2]
    rw [if_pos (.inl ⟨cool, hot⟩)]
    exact (thermalNotice_spec s1 tdie).2.2
  all_goals rw [therm]

theorem packageStops (s : State) (tdie : Nat) (hot : 115 ≤ tdie) : After (.thermalShutdown tdie) s (fun t => t.therm.shutdown = true ∧
    t.notice.getLsbD 2 = true ∧ t.gangs = s.gangs) := by
  let s1 := thermalNotice { s with therm := { s.therm with tdie := tdie } } tdie
  have eq : exec (.thermalShutdown tdie) s = .next (shutDown s1) := by
    change execThermalShutdown tdie s = _
    rw [execThermalShutdown, if_neg (Nat.not_lt.mpr hot)]
  obtain ⟨therm, gangs, noticed⟩ := thermalNotice_spec { s with therm := { s.therm with tdie := tdie } } tdie
  obtain ⟨-, notice, gangs', stops⟩ := shutDown_spec s1
  exact ⟨_, eq, stops (by rw [therm]; exact hot), by rw [notice]; exact noticed, gangs'.trans gangs⟩

theorem coolPackageGoesOn (s : State) (tdie : Nat) (cool : tdie < 115) : exec (.thermalShutdown tdie) s = .next s := by
  change execThermalShutdown tdie s = _
  rw [execThermalShutdown, if_pos cool]

/-! ### The host, the links and FABID (R385, R397) -/

/-- R385: a write of the host stands at home (R342; log 109). -/
theorem hostWrites (s : State) (pa : Nat) (bytes : List (BitVec 8)) (ready : bootReady s = true) : After (.hostMemoryWrite pa bytes) s (fun t =>
    t.mem = (writeHome s false ((stCells ((List.range bytes.length).map (fun i => physCell (pa + i))) bytes).filter
      (fun x => (placeOf s x.cell.pa).isSome))).mem ∧ t.gangs = s.gangs ∧ t.blocks = s.blocks) := by
  let xs := (stCells ((List.range bytes.length).map (fun i => physCell (pa + i))) bytes).filter (fun x => (placeOf s x.cell.pa).isSome)
  have eq : exec (.hostMemoryWrite pa bytes) s = .next (writeHome (hostTouch s (hostCells s pa bytes.length)) false xs) := by
    change execHostMemoryWrite pa bytes s = _
    simp only [execHostMemoryWrite, ready, Bool.not_true, Bool.false_eq_true, if_false]
    rfl
  obtain ⟨q, asked⟩ := ownAsk_eq s 66 none (hostCells s pa bytes.length)
  rw [hostTouch, asked] at eq
  have stand := residents_writeHome { s with chanQ := q } false xs
  simp only [residents, Prod.mk.injEq] at stand
  obtain ⟨-, gangs, blocks⟩ := stand
  exact ⟨_, eq, writeHome_beside_mem s s.codeLog s.faultQ q false xs, gangs, blocks⟩

/-- R385: a read of the host returns the bytes, and leaves memory. -/
theorem hostReads (s : State) (pa n : Nat) (ready : bootReady s = true) (awake : ∀ i, i < n → readAsleep s (pa + i) = false) :
    After (.hostMemoryRead pa n) s (fun t => t.mem = s.mem ∧ t.hostRead = (List.range n).map (fun i => hostByte s (pa + i))) := by
  have wakes : (hostCells s pa n).any (fun c => readAsleep s c.pa) = false := by
    refine List.any_eq_false.mpr fun c mem => ?_
    obtain ⟨i, low, rfl⟩ := List.mem_map.mp (List.mem_of_mem_filter mem)
    rw [Bool.not_eq_true]
    exact awake i (List.mem_range.mp low)
  let s1 := checkpointRead (hostTouch (meetDest s (hostCells s pa n)) (hostCells s pa n)) (hostCells s pa n)
  have eq : exec (.hostMemoryRead pa n) s = .next { s1 with
      hostRead := (List.range n).map (fun i => hostByte s (pa + i)), free := s.free + 1 } := by
    change execHostMemoryRead pa n s = _
    simp only [execHostMemoryRead, ready, wakes, Bool.not_true, Bool.or_self, Bool.false_eq_true, if_false]
    rfl
  obtain ⟨q, asked⟩ := ownAsk_eq (meetDest s (hostCells s pa n)) 66 none (hostCells s pa n)
  have patrolled (s : State) (cs : List Cell) : (checkpointRead s cs).mem = s.mem := by
    refine foldl_keeps State.mem _ ?_ _ s
    exact fun _ _ => rfl
  refine ⟨_, eq, (patrolled ..).trans ?_, rfl⟩
  rw [hostTouch, asked]
  rfl

/-- R385, R391: a link that is down stays so. -/
theorem linkGoesDown (s : State) (port : Nat) (low : port < 2) (up : port ∉ s.cxlDown) :
    After (.cxlLinkDown port) s (fun t => t.cxlDown = s.cxlDown ++ [port]) := by
  have eq : exec (.cxlLinkDown port) s = .next (elogWrite { s with cxlDown := s.cxlDown ++ [port] } 8 0 0) := by
    change execCxlLinkDown port s = _
    rw [execCxlLinkDown, if_neg fun h => h.elim (Nat.not_le.mpr low) fun down => up (List.contains_iff_mem.mp down)]
  exact ⟨_, eq, elogWrite_keeps State.cxlDown (fun _ _ _ _ _ _ _ _ => rfl) (fun _ _ _ _ _ => rfl) { s with cxlDown := s.cxlDown ++ [port] } 8 0 0⟩

/-- R397: FABID takes EN and the bits above it; the identifier stays while EN is 1. -/
theorem fabidIsWritten (s : State) (v : W64) : After (.fabidWrite v) s (fun t => t = { s with fabid := t.fabid } ∧
    t.fabid.extractLsb' 20 4 = v.extractLsb' 20 4 ∧ t.fabid.getLsbD 10 = v.getLsbD 10 ∧
    t.fabid.extractLsb' 0 10 = if s.fabid.getLsbD 10 then s.fabid.extractLsb' 0 10 else v.extractLsb' 0 10) := by
  let id : W64 := if s.fabid.getLsbD 10 then s.fabid else v
  have word : (fabidSet s v).fabid = (v &&& 0xF00400) ||| (id &&& 0x3FF) := by
    simp only [fabidSet, id]
    split <;> rfl
  have kept (w : W64) : w.extractLsb' 0 10 &&& (0x3FF : W64).extractLsb' 0 10 = w.extractLsb' 0 10 := BitVec.and_allOnes
  refine ⟨_, rfl, rfl, ?_, ?_, ?_⟩ <;> rw [word]
  · rw [BitVec.extractLsb'_or, BitVec.extractLsb'_and, BitVec.extractLsb'_and]
    exact (congrArg₂ (· ||| ·) BitVec.and_allOnes BitVec.and_zero).trans BitVec.or_zero
  · rw [BitVec.getLsbD_or, BitVec.getLsbD_and, BitVec.getLsbD_and]
    exact (congrArg₂ (· || ·) (Bool.and_true _) (Bool.and_false _)).trans (Bool.or_false _)
  · rw [BitVec.extractLsb'_or, BitVec.extractLsb'_and, BitVec.extractLsb'_and, kept]
    refine (congrArg (· ||| _) BitVec.and_zero).trans (BitVec.zero_or.trans ?_)
    simp only [id]
    split <;> rfl

/-- Settles O52, by its parts: commands, attestation, boot, power and temperature, the host, the links and FABID. -/
theorem managementEvents : Obligations.ManagementEvents := by
  unfold Obligations.ManagementEvents
  intro s
  exact ⟨fun _ => rfl, fun _ bound low idle live runs => contextIsPreempted idle low live runs bound, fun _ low idle => contextIsResumed idle low,
    fun _ low idle alone => coreIsReset idle low alone, commandIsOver, attestationIsRequested, attestationIsReported, bootCompletes s, bootStops s,
    clockFollows s, packageStops s, coolPackageGoesOn s, hostWrites s, hostReads s, linkGoesDown s, fabidIsWritten s⟩

end Sys2Proof.Machine
end

section
/-! PROOFS. Strike reports and Chorus (R203 to R206): what a report leaves alone, how it puts gangs back, what a fence evicts. O38. -/
namespace Sys2Proof.Machine
open Sys2Proof.Laws Sys2Proof.Claim

/-! ### What a strike report leaves alone -/

/-- What no strike report touches: the clock, the error log, and of each core its partitions and which of them are fenced. -/
def undisturbed (s : State) : Nat × ElogSt × (Nat → BitVec 16 × List Part) :=
  (s.cycle, s.elog, fun c => ((s.core c).fenced, (s.core c).parts))

theorem undisturbed_modCore (s : State) (c : Nat) {f : CoreSt → CoreSt} (keeps : ∀ k, ((f k).fenced, (f k).parts) = (k.fenced, k.parts)) :
    undisturbed (s.modCore c f) = undisturbed s := by
  refine congrArg (fun x => (s.cycle, s.elog, x)) (funext fun d => ?_)
  by_cases same : d = c
  · rw [same, core_modCore_self, keeps]
  · rw [core_modCore_ne s c d f same]

theorem undisturbed_donateFault (s : State) (u : Nat) : undisturbed (donateFault s u) = undisturbed s := by
  unfold donateFault
  split
  · rfl
  · split <;> rfl

theorem undisturbed_donatePlace (s : State) (u : Nat) : undisturbed (donatePlace s u) = undisturbed s := by
  unfold donatePlace
  dsimp only
  repeat' split
  · rfl
  · rfl
  · exact undisturbed_donateFault ..
  · rfl
  · exact (undisturbed_donateFault ..).trans (undisturbed_donateFault ..)
  · rfl

theorem undisturbed_releaseOne (u : Nat) (a : State × List HeldItem) (h : HeldItem) :
    undisturbed (releaseOne u a h).1 = undisturbed a.1 := by
  unfold releaseOne
  dsimp only
  split
  · rfl
  · next g _ =>
    split
    · rfl
    · cases h.eff with
      | kick =>
        dsimp only
        split
        · rfl
        · exact undisturbed_modCore a.1 g.core fun _ => rfl
      | cmd | gath => exact undisturbed_modCore a.1 g.core fun _ => rfl
      | fence =>
        dsimp only
        split <;> rfl
      | donate => exact undisturbed_donatePlace ..
      | _ => rfl

theorem undisturbed_releaseGang (s : State) (u : Nat) : undisturbed (releaseGang s u) = undisturbed s := by
  unfold releaseGang
  split
  · rfl
  · next g _ =>
    refine Eq.trans ?_ (foldl_keeps (fun a : State × List HeldItem => undisturbed a.1) (releaseOne u) (undisturbed_releaseOne u) g.relq (s, []))
    rfl

theorem undisturbed_leaveQuarantine (s : State) (u : Nat) : undisturbed (leaveQuarantine s u) = undisturbed s := by
  unfold leaveQuarantine
  repeat' split
  · rfl
  · rfl
  · rfl
  · refine (undisturbed_releaseGang ..).trans ?_
    rfl

theorem undisturbed_settleQuarantine (s : State) (u n : Nat) : undisturbed (settleQuarantine s u n) = undisturbed s := by
  induction n generalizing s with
  | zero => rfl
  | succ n ih => exact (ih _).trans (undisturbed_leaveQuarantine s u)

theorem undisturbed_strikeGangs (s : State) (us : List Nat) : undisturbed (strikeGangs s us) = undisturbed s := by
  have discards (s : State) (u : Nat) : undisturbed (discardRuns s u) = undisturbed s := by
    unfold discardRuns
    split <;> rfl
  refine foldl_keeps undisturbed _ (fun s u => ?_) us s
  exact (discards ..).trans (undisturbed_settleQuarantine ..)

/-! ### A gang put back (R203) -/

/-- What tells a gang apart: its number, its core and partition, its block. -/
def Gang.seat (g : Gang) : Nat × Nat × Nat × Nat := (g.uid, g.core, g.part, g.block)

@[simp] theorem replay_seat (g : Gang) (cycle : Nat) : (g.replay cycle).seat = g.seat := by
  unfold Gang.replay
  dsimp only
  split <;> rfl

@[simp] theorem replay_uid (g : Gang) (cycle : Nat) : (g.replay cycle).uid = g.uid := congrArg (·.1) (replay_seat g cycle)

theorem replay_of_noRuns {g : Gang} {cycle : Nat} (none : g.liveRuns cycle = []) : g.replay cycle = g := by
  unfold Gang.replay
  simp only [none]

theorem sameRegs_replayLane (g : Gang) (rs : List RunRec) (old : GangRegs) (i : Nat) : sameRegs (old.lane i) (replayLane g rs old i) := by
  unfold replayLane
  dsimp only
  split
  · exact ⟨rfl, rfl, rfl, rfl, rfl, rfl, rfl, rfl⟩
  · exact sameRegs_refl _

theorem sameRegs_wakeLanes (g : Gang) {j : Nat} (lane : j < 32) : sameRegs (g.regs.lane j) ((wakeLanes g).regs.lane j) := by
  simp only [wakeLanes, GangRegs.lane, List.getD_eq_getElem?_getD, List.getElem?_map, List.getElem?_range lane, Option.map_some, Option.getD_some]
  split <;> exact ⟨rfl, rfl, rfl, rfl, rfl, rfl, rfl, rfl⟩

/-- R203: a gang with runs in quarantine or in issue is put back. -/
theorem replay_putBack {g : Gang} {cycle : Nat} {r : RunRec} {rest : List RunRec} (runs : g.liveRuns cycle = r :: rest) :
    putBack g r rest (g.replay cycle) := by
  have lanes (j : Nat) (lane : j < 32) : sameRegs (r.snapshot.lane j) ((g.replay cycle).regs.lane j) := by
    refine sameRegs_trans (sameRegs_replayLane g (r :: rest) r.snapshot j) ?_
    have woken (g1 : Gang) (eq : g1.regs.lane j = replayLane g (r :: rest) r.snapshot j) :
        sameRegs (replayLane g (r :: rest) r.snapshot j) ((wakeLanes g1).regs.lane j) := eq ▸ sameRegs_wakeLanes g1 lane
    unfold Gang.replay
    simp only [runs]
    refine woken _ ?_
    simp [Gang.reopenGatherings, GangRegs.lane, List.getD_eq_getElem?_getD, lane]
  unfold putBack
  refine ⟨?_, ?_, ?_, lanes, ?_⟩ <;> unfold Gang.replay <;> simp only [runs]
  · rfl
  · rfl
  · rfl
  · exact ⟨rfl, rfl, rfl, rfl, rfl⟩

/-- R203: a gang that has been put back has no run left to discard. -/
theorem liveRuns_replay (g : Gang) (cycle : Nat) : (g.replay cycle).liveRuns cycle = [] := by
  cases runs : g.liveRuns cycle with
  | nil => rw [replay_of_noRuns runs, runs]
  | cons r rest =>
    obtain ⟨-, -, -, -, -, none, idle, -⟩ := replay_putBack runs
    rw [Gang.liveRuns, none, idle]
    rfl

/-! ### A report on some gangs (R203) -/

/-- R203: a block that has not met what the discarded runs of some gangs have met. -/
def Block.unmeetAll (gs : List Gang) (b : Block) : Block :=
  { b with consumption := b.consumption.filter (fun c => !(gs.any (fun g => g.block == b.uid && c.guid == g.uid && g.runLive c.run))) }

theorem unmeetAll_nil (b : Block) : b.unmeetAll [] = b := by
  simp only [Block.unmeetAll, List.any_nil, Bool.not_false, List.filter_true]

theorem unmeetAll_cons (g : Gang) (gs : List Gang) (b : Block) :
    (if b.uid = g.block then b.unmeet g else b).unmeetAll gs = b.unmeetAll (g :: gs) := by
  split <;> rename_i same
  · simp only [Block.unmeetAll, Block.unmeet, List.filter_filter, List.any_cons, same, beq_self_eq_true, Bool.true_and, Bool.not_or,
      Bool.and_comm]
  · simp only [Block.unmeetAll, List.any_cons, beq_false_of_ne (Ne.symm same), Bool.false_and, Bool.false_or]

/-- R203: some gangs put back, and their discarded runs have met nothing. -/
def putAllBack (s : State) (gs : List Gang) : State :=
  { s with
    gangs := s.gangs.map (fun x => if x.uid ∈ gs.map (·.uid) then x.replay s.cycle else x)
    blocks := s.blocks.map (Block.unmeetAll gs) }

theorem settleQuarantine_of_live {s : State} {g : Gang} (here : s.gang? g.uid = some g) (live : ∀ r ∈ g.runs, s.cycle ≤ r.endCycle + 40)
    (n : Nat) : settleQuarantine s g.uid n = s := by
  have stays : leaveQuarantine s g.uid = s := by
    unfold leaveQuarantine
    simp only [here]
    split
    · rfl
    · next r first => exact if_pos (live r (List.mem_of_mem_head? first))
  induction n with
  | zero => rfl
  | succ n ih => rw [settleQuarantine, stays, ih]

theorem strikeGangs_of_live {gs : List Gang} {s : State} (found : ∀ g ∈ gs, s.gang? g.uid = some g) (alone : (gs.map (·.uid)).Nodup)
    (live : ∀ g ∈ gs, ∀ r ∈ g.runs, s.cycle ≤ r.endCycle + 40) : strikeGangs s (gs.map (·.uid)) = putAllBack s gs := by
  induction gs generalizing s with
  | nil =>
    simp only [putAllBack, List.map_nil, List.not_mem_nil, if_false, List.map_id', funext unmeetAll_nil]
    rfl
  | cons g gs ih =>
    obtain ⟨new, alone⟩ := List.nodup_cons.mp alone
    have here := found g List.mem_cons_self
    have settled := settleQuarantine_of_live here (live g List.mem_cons_self)
    have first : strikeGangs s ((g :: gs).map (·.uid)) =
        strikeGangs ((s.modBlock g.block (fun b => b.unmeet g)).modGang g.uid (fun x => x.replay s.cycle)) (gs.map (·.uid)) := by
      rw [strikeGangs, List.map_cons, List.foldl_cons]
      dsimp only
      rw [settled, discardRuns, here]
      rfl
    rw [first, ih]
    case found =>
      intro x mem
      have other : x.uid ≠ g.uid := fun eq => new (List.mem_map.mpr ⟨x, mem, eq⟩)
      rw [gang?_modGang_ne _ _ _ _ (fun y => replay_uid y s.cycle) other]
      exact found x (List.mem_cons_of_mem g mem)
    case alone => exact alone
    case live => exact fun x mem => live x (List.mem_cons_of_mem g mem)
    have gangs (x : Gang) : (if (if x.uid = g.uid then x.replay s.cycle else x).uid ∈ gs.map (·.uid)
          then (if x.uid = g.uid then x.replay s.cycle else x).replay s.cycle else (if x.uid = g.uid then x.replay s.cycle else x)) =
        if x.uid ∈ (g :: gs).map (·.uid) then x.replay s.cycle else x := by
      by_cases same : x.uid = g.uid
      · simp [same, new]
      · simp [same]
    simp only [putAllBack, State.modGang, State.modBlock, List.map_map, Function.comp_def, gangs, unmeetAll_cons]

section report
variable {s : State} {p : Gang → Bool} (alone : (s.gangs.map (·.uid)).Nodup)
  (live : ∀ g ∈ s.gangs, p g = true → ∀ r ∈ g.runs, s.cycle ≤ r.endCycle + 40)
include alone live

/-- R203: a report on the gangs with a property. -/
theorem strikeGangs_filter : strikeGangs s ((s.gangs.filter p).map (·.uid)) =
    { s with gangs := s.gangs.map (fun x => if p x then x.replay s.cycle else x), blocks := s.blocks.map (Block.unmeetAll (s.gangs.filter p)) } := by
  rw [strikeGangs_of_live (fun g mem => gang?_of_mem alone (List.mem_of_mem_filter mem)) (alone.sublist (List.filter_sublist.map _))
    (fun g mem => live g (List.mem_of_mem_filter mem) (List.mem_filter.mp mem).2), putAllBack]
  have picked : s.gangs.map (fun x => if x.uid ∈ (s.gangs.filter p).map (·.uid) then x.replay s.cycle else x) =
      s.gangs.map (fun x => if p x then x.replay s.cycle else x) := by
    refine List.map_congr_left fun x mem => if_congr ⟨fun named => ?_, fun holds => ?_⟩ rfl rfl
    · obtain ⟨y, hit, eq⟩ := List.mem_map.mp named
      obtain ⟨there, holds⟩ := List.mem_filter.mp hit
      exact List.inj_on_of_nodup_map alone there mem eq ▸ holds
    · exact List.mem_map_of_mem (List.mem_filter.mpr ⟨mem, holds⟩)
  rw [picked]

theorem strikeGangs_residents :
    let t := strikeGangs s ((s.gangs.filter p).map (·.uid))
    t.gangs = s.gangs.map (fun x => if p x then x.replay s.cycle else x) ∧ t.blocks = s.blocks.map (Block.unmeetAll (s.gangs.filter p)) ∧
      t.joins = s.joins ∧ t.launches = s.launches := by
  rw [strikeGangs_filter alone live]
  exact ⟨rfl, rfl, rfl, rfl⟩

theorem gang?_strikeGangs {g : Gang} (mem : g ∈ s.gangs) :
    (strikeGangs s ((s.gangs.filter p).map (·.uid))).gang? g.uid = some (if p g then g.replay s.cycle else g) := by
  rw [strikeGangs_filter alone live, gang?_mapGangs (s := s) (f := fun x => if p x then x.replay s.cycle else x) rfl, gang?_of_mem alone mem]
  · rfl
  · intro x
    split
    · exact replay_uid x s.cycle
    · rfl

end report

/-! ### Strike reports (R203) -/

theorem strikeReportsReplay : Claim.strikeReportsReplay := by
  intro s core alone live
  have live' : ∀ g ∈ s.gangs, (g.core == core) = true → ∀ r ∈ g.runs, s.cycle ≤ r.endCycle + 40 :=
    fun g mem on => live g mem (beq_iff_eq.mp on)
  refine ⟨_, rfl, ?_⟩
  have gang? {g : Gang} (mem : g ∈ s.gangs) := gang?_strikeGangs alone live' mem
  have struck := strikeGangs_filter alone live'
  have parts := congrArg (fun x => (x.2.2 core).2) (undisturbed_strikeGangs s ((s.gangs.filter (fun g => g.core == core)).map (·.uid)))
  refine ⟨(congrArg State.mem struck :), (congrArg State.faultQ struck :), (congrArg State.blocks struck :).trans ?blocks, fun g mem off => ?others,
    fun part here => ?busy, fun g mem on r rest runs => ?back⟩
  case blocks =>
    refine List.map_congr_left fun b _ => ?_
    simp only [Block.unmeetAll, List.any_filter, Bool.and_assoc]
  case others =>
    rw [modCore_gang?, gang? mem, if_neg (by simpa using off)]
  case busy =>
    have here' : part < ((strikeGangs s ((s.gangs.filter (fun g => g.core == core)).map (·.uid))).core core).parts.length := by
      exact (congrArg List.length parts).symm ▸ here
    simp [core_modCore_self, CoreSt.part, List.getD_eq_getElem?_getD, here']
  case back =>
    refine ⟨g.replay s.cycle, ?_, replay_putBack runs⟩
    rw [modCore_gang?, gang? mem, if_pos (by simpa using on)]

end Sys2Proof.Machine
end

section
/-! PROOFS. What an eviction does to each of its blocks and leaves of the others (R206, R330, R335). O38. -/
namespace Sys2Proof.Machine
open Sys2Proof.Laws Sys2Proof.Claim

/-! ### Joins, launches and records -/

/-- What an eviction keeps beside the residents: no join is armed, launches keep their kind, and no record is lost. -/
structure Keeps (s t : State) : Prop where
  joins : s.joins = [] → t.joins = []
  launches : ∀ l ∈ t.launches, ∃ l' ∈ s.launches, l.coop = l'.coop
  records : ∀ r ∈ s.faultQ, ∃ i, { r with inert := i } ∈ t.faultQ

/-- The joins, the launches and the records that are asked for. -/
def ledger (s : State) : List Join × List Launch × List FaultReq := (s.joins, s.launches, s.faultQ)

theorem Keeps.of_eq {s t : State} (same : ledger t = ledger s) : Keeps s t := by
  simp only [ledger, Prod.mk.injEq] at same
  obtain ⟨joins, launches, records⟩ := same
  exact ⟨fun none => joins.trans none, fun l mem => ⟨l, launches ▸ mem, rfl⟩, fun r mem => ⟨r.inert, records ▸ mem⟩⟩

theorem Keeps.trans {s t u : State} (h : Keeps s t) (h' : Keeps t u) : Keeps s u := by
  refine ⟨fun none => h'.joins (h.joins none), fun l mem => ?_, fun r mem => ?_⟩
  · obtain ⟨l1, mem1, eq1⟩ := h'.launches l mem
    obtain ⟨l2, mem2, eq2⟩ := h.launches l1 mem1
    exact ⟨l2, mem2, eq1.trans eq2⟩
  · obtain ⟨i, mem1⟩ := h.records r mem
    obtain ⟨j, mem2⟩ := h'.records _ mem1
    exact ⟨j, mem2⟩

theorem keeps_modLaunch (s : State) (launch : Nat) {f : Launch → Launch} (coop : ∀ l, (f l).coop = l.coop) : Keeps s (s.modLaunch launch f) := by
  refine ⟨id, fun l mem => ?_, fun r mem => ⟨r.inert, mem⟩⟩
  obtain ⟨l', old, rfl⟩ := List.mem_map.mp mem
  refine ⟨l', old, ?_⟩
  split
  · exact coop l'
  · rfl

theorem keeps_markSaved (s : State) (launch : Nat) : Keeps s (markSaved s launch) := by
  refine keeps_modLaunch s launch fun l => ?_
  split <;> rfl

theorem keeps_leaveCores (s : State) (u : Nat) (cs : List Nat) (launch : Nat) : Keeps s (markSaved (freeCores (dropOwned s u cs) cs) launch) := by
  refine Keeps.trans (.of_eq ?_) (keeps_markSaved ..)
  refine (foldl_keeps ledger _ (fun s c => ?_) cs _).trans (foldl_keeps ledger _ (fun s c => ?_) cs s)
  · split <;> rfl
  · rfl

theorem ledger_writeBits (j : Join) (s : State) (va : Nat) (bs masks : List Byte) : ledger (j.writeBits s va bs masks) = ledger s := by
  obtain ⟨q, asked⟩ := ownAsk_eq s ownUnit (some j.asid)
    ((((j.cells va bs.length).zip (bs.zip masks)).map (fun p => (⟨p.1, p.2.1, p.2.2⟩ : StCell))).map (·.cell))
  rw [Join.writeBits, ownWrite, asked]
  exact writeHome_keeps ledger (fun _ _ _ _ _ _ _ _ => rfl) ..

theorem keeps_withdrawLaunches (s : State) (b : Block) : Keeps s (withdrawLaunches s b) := by
  have wrote (image masks : Join → List Byte) (js : List Join) (s : State) :
      ledger (js.foldl (fun s j => unpin (j.writeBits s j.va (image j) (masks j)) j.pins) s) = ledger s := by
    refine foldl_keeps ledger _ (fun s j => ?_) js s
    exact ledger_writeBits j s j.va (image j) (masks j)
  refine (Keeps.of_eq (wrote (fun j => leBytes 128 (j.image.toNat - joinBits j.image 389 388 * 2 ^ 388)) (fun _ => leBytes 128 joinRoBits) _ s)).trans
    ⟨fun none => ?_, fun l mem => ⟨l, List.mem_of_mem_filter mem, rfl⟩, fun r mem => ⟨r.inert, mem⟩⟩
  exact (congrArg (List.filter _) none).trans rfl

theorem keeps_stripBlock (s : State) (b : Block) : Keeps s (stripBlock s b) := by
  have engines : ledger (cancelEngines s b) = ledger s := by
    refine foldl_keeps ledger _ (fun s c => ?_) b.cores (unpin s _)
    rfl
  have barriers (s : State) : ledger (withdrawBarriers s b) = ledger s := by
    unfold withdrawBarriers
    refine foldl_keeps ledger _ (fun s o => ?_) _ _
    rfl
  have stripped : Keeps s (freeSave (withdrawBarriers (cancelEngines s b) b) b) := .of_eq ((barriers _).trans engines)
  have removed (s : State) : Keeps s (removeGangs s b) := .of_eq rfl
  unfold stripBlock
  dsimp only
  refine Keeps.trans ?_ (removed _)
  split
  · exact stripped.trans (keeps_withdrawLaunches ..)
  · exact stripped

theorem keeps_muteRecords (s : State) (u : Nat) : Keeps s (muteRecords s u) := by
  refine ⟨id, fun l mem => ⟨l, mem, rfl⟩, fun r mem => ?_⟩
  by_cases own : r.buid = some u
  · exact ⟨true, List.mem_map.mpr ⟨r, mem, if_pos own⟩⟩
  · exact ⟨r.inert, List.mem_map.mpr ⟨r, mem, if_neg own⟩⟩

/-! ### Where neither a join is armed nor a grid co-operates -/

/-- No join is armed and no launch is of a co-operative grid. -/
def Plain (s : State) : Prop := s.joins = [] ∧ ∀ l ∈ s.launches, l.coop = false

theorem Plain.keeps {s t : State} (h : Plain s) (keeps : Keeps s t) : Plain t := by
  refine ⟨keeps.joins h.1, fun l mem => ?_⟩
  obtain ⟨l', old, eq⟩ := keeps.launches l mem
  exact eq.trans (h.2 l' old)

theorem Plain.join? {s : State} (h : Plain s) (launch : Nat) : s.join? launch = none := by
  rw [State.join?, h.1]
  rfl

theorem Plain.isMarked {s : State} (h : Plain s) (b : Block) : isMarked s b = false := by
  rw [Machine.isMarked, h.join?]
  rfl

theorem Plain.joinKill {s : State} (h : Plain s) (b : Block) (addr pc : W64) : joinKill s b addr pc = s := by
  simp only [Machine.joinKill, h.join?]

/-- R335: a kill outside a co-operative grid is of one block alone. -/
theorem Plain.killPlain {s : State} (h : Plain s) {u : Nat} {b : Block} (here : s.block? u = some b) :
    killPlain s u = killOne s u 3 0 := by
  have alone : ((s.launch? b.launch).map (·.coop)).getD false = false := by
    cases found : s.launch? b.launch with
    | none => rfl
    | some l => exact h.2 l (List.mem_of_find?_eq_some found)
  simp [Machine.killPlain, killBlock, here, alone]

/-- The residents but for some blocks: what an eviction of these leaves of them. -/
structure Evicts (us : List Nat) (s t : State) : Prop where
  others : ∀ v, v ∉ us → t.block? v = s.block? v
  blocks : ∀ x ∈ t.blocks, x.uid ∉ us → x ∈ s.blocks
  gangs : ∀ g ∈ t.gangs, g ∈ s.gangs
  keeps : Keeps s t

theorem Evicts.cons {u : Nat} {us : List Nat} {s t w : State} (h : Evicts [u] s t) (h' : Evicts us t w) : Evicts (u :: us) s w := by
  refine ⟨fun v out => ?_, fun x mem out => ?_, fun g mem => h.gangs g (h'.gangs g mem), h.keeps.trans h'.keeps⟩
  · obtain ⟨ne, out⟩ := List.ne_and_not_mem_of_not_mem_cons out
    exact (h'.others v out).trans (h.others v (by simpa using ne))
  · obtain ⟨ne, out⟩ := List.ne_and_not_mem_of_not_mem_cons out
    exact h.blocks x (h'.blocks x mem out) (by simpa using ne)

/-- A change of one block, some gangs gone. -/
theorem Evicts.of_map {u : Nat} {s t : State} {f : Block → Block} (blocks : t.blocks = s.blocks.map (fun b => if b.uid = u then f b else b))
    (uid : ∀ b, (f b).uid = b.uid) (gangs : ∀ g ∈ t.gangs, g ∈ s.gangs) (keeps : Keeps s t) : Evicts [u] s t := by
  have found (v : Nat) : t.block? v = (s.modBlock u f).block? v := congrArg (List.find? _) blocks
  refine ⟨fun v out => ?_, fun x mem out => ?_, gangs, keeps⟩
  · rw [found, block?_modBlock_ne s u v f uid (by simpa using out)]
  · obtain ⟨y, old, rfl⟩ := List.mem_map.mp (blocks ▸ mem)
    split at out <;> rename_i eq
    · exact absurd (List.mem_singleton.mpr ((uid y).trans eq)) out
    · rw [if_neg eq]
      exact old

theorem Evicts.of_residents {us : List Nat} {s t : State} (same : residents t = residents s) (keeps : Keeps s t) : Evicts us s t := by
  simp only [residents, Prod.mk.injEq] at same
  obtain ⟨-, gangs, blocks⟩ := same
  exact ⟨fun v _ => by rw [State.block?, State.block?, blocks], fun x mem _ => blocks ▸ mem, fun g mem => gangs ▸ mem, keeps⟩

theorem Evicts.trans {us : List Nat} {s t w : State} (h : Evicts us s t) (h' : Evicts us t w) : Evicts us s w :=
  ⟨fun v out => (h'.others v out).trans (h.others v out), fun x mem out => h.blocks x (h'.blocks x mem out) out,
    fun g mem => h.gangs g (h'.gangs g mem), h.keeps.trans h'.keeps⟩

/-- R242: no other block is forgotten. -/
theorem evicts_dropEnded (s : State) (u : Nat) : Evicts [u] s (dropEnded s u) := by
  unfold dropEnded
  split
  · exact .of_residents rfl (.of_eq rfl)
  · refine ⟨fun v out => ?_, fun x mem _ => List.mem_of_mem_filter mem, fun g mem => mem, .of_eq rfl⟩
    refine List.find?_filter.trans (congrArg (List.find? · s.blocks) (funext fun x => ?_))
    by_cases same : x.uid = v
    · simp [same, List.mem_singleton.not.mp out]
    · simp [same]

/-- R206: what is left of an evicted block: it is to start again where it has not committed, else it has ended; its gangs are gone. -/
structure Evicted (b : Block) (t : State) : Prop where
  again : b.replayable = true → ∃ quad, t.block? b.uid = some (b.anew quad)
  ended : b.replayable = false → ∀ x ∈ t.blocks, x.uid = b.uid → x.phase = .ended
  gangs : ∀ g ∈ t.gangs, g.block ≠ b.uid

theorem Evicted.evicts {b : Block} {us : List Nat} {s t : State} (h : Evicted b s) (out : b.uid ∉ us) (goes : Evicts us s t) : Evicted b t := by
  refine ⟨fun fresh => ?_, fun spent x mem uid => h.ended spent x (goes.blocks x mem (uid ▸ out)) uid,
    fun g mem => h.gangs g (goes.gangs g mem)⟩
  obtain ⟨quad, there⟩ := h.again fresh
  exact ⟨quad, (goes.others b.uid out).trans there⟩

section one
variable {s : State} {b : Block} (plain : Plain s) (here : s.block? b.uid = some b) (lives : b.over = false)
include plain here lives

/-- R330: a block that has not committed starts again from its beginning. -/
theorem relaunchBlock_evicts (fresh : b.replayable = true) (quad : Option Nat) :
    Evicts [b.uid] s (relaunchBlock s b.uid quad) ∧ Evicted b (relaunchBlock s b.uid quad) := by
  have unmarked := plain.isMarked b
  have blocks := relaunchBlock_blocks here lives unmarked quad
  have gangs := relaunchBlock_gangs here lives unmarked quad
  have keeps : Keeps s (relaunchBlock s b.uid quad) := by
    rw [relaunchBlock_of_block? here lives unmarked quad]
    have changed (s : State) : Keeps s (s.modBlock b.uid (Block.anew quad)) := .of_eq rfl
    exact (keeps_stripBlock s b).trans ((changed _).trans ((keeps_muteRecords _ b.uid).trans (keeps_leaveCores ..)))
  refine ⟨.of_map blocks (fun _ => rfl) (fun g mem => List.mem_of_mem_filter (gangs ▸ mem)) keeps, fun _ => ⟨quad, ?_⟩,
    fun spent => absurd (fresh.symm.trans spent) (by decide), fun g mem => ?_⟩
  · have found : (relaunchBlock s b.uid quad).block? b.uid = (s.modBlock b.uid (Block.anew quad)).block? b.uid := congrArg (List.find? _) blocks
    rw [found, block?_modBlock_self s b.uid (Block.anew quad) fun _ => rfl, here, Option.map_some]
  · have left := (List.mem_filter.mp (gangs ▸ mem)).2
    simpa using left

/-- R335: one that has committed is killed. -/
theorem killPlain_evicts (spent : b.replayable = false) : Evicts [b.uid] s (killPlain s b.uid) ∧ Evicted b (killPlain s b.uid) := by
  have ended := (killPlain_ends here lives).2
  refine ⟨?_, fun fresh => absurd (fresh.symm.trans spent) (by decide), fun _ => ended.1, ended.2⟩
  have strikes : Evicts [b.uid] s (struck s b b.uid 3 0) := by
    rw [struck, plain.joinKill]
    refine .of_map (congrArg _ (stripBlock_blocks s b)) (fun _ => rfl) (fun g mem => ?_) ((keeps_stripBlock s b).trans (.of_eq rfl))
    exact List.mem_of_mem_filter (stripBlock_gangs s b ▸ (mem : g ∈ (stripBlock s b).gangs))
  have counts (s : State) : Evicts [b.uid] s (s.modLaunch b.launch (fun l => { l with killed := l.killed + 1 })) :=
    .of_residents rfl (keeps_modLaunch s b.launch fun _ => rfl)
  rw [plain.killPlain here, killOne_of_block? here lives]
  exact ((strikes.trans (counts _)).trans (evicts_dropEnded _ b.uid)).trans (.of_residents (residents_leaveCores ..) (keeps_leaveCores ..))

end one

/-! ### Blocks that lose their core (R206) -/

/-- R206: whether a record is that of an eviction of a block. -/
def tellsOf (b : Block) (cause detail : Nat) (r : FaultReq) : Prop :=
  r.cause = cause ∧ r.detail = detail ∧ r.asid = b.asid ∧ r.lanes = 0 ∧ r.commits = b.commits ∧ r.replayable = b.replayable

/-- R206: each of some blocks is evicted. -/
theorem evicted_foldl (live : List Block) {s : State} (plain : Plain s) (here : ∀ b ∈ live, s.block? b.uid = some b ∧ b.over = false)
    (alone : (live.map (·.uid)).Nodup) :
    let t := live.foldl (fun s b => if b.replayable then relaunchBlock s b.uid ((b.cores.head?).map quadOf) else killPlain s b.uid) s
    Evicts (live.map (·.uid)) s t ∧ ∀ b ∈ live, Evicted b t := by
  induction live generalizing s with
  | nil => exact ⟨.of_residents rfl (.of_eq rfl), nofun⟩
  | cons b live ih =>
    obtain ⟨new, alone⟩ := List.nodup_cons.mp alone
    obtain ⟨found, lives⟩ := here b List.mem_cons_self
    have first : Evicts [b.uid] s (if b.replayable then relaunchBlock s b.uid ((b.cores.head?).map quadOf) else killPlain s b.uid) ∧
        Evicted b (if b.replayable then relaunchBlock s b.uid ((b.cores.head?).map quadOf) else killPlain s b.uid) := by
      cases fresh : b.replayable with
      | true => exact relaunchBlock_evicts plain found lives fresh _
      | false => exact killPlain_evicts plain found lives fresh
    obtain ⟨goes, gone⟩ := first
    obtain ⟨on, later⟩ := ih (plain.keeps goes.keeps) (fun x mem => by
      obtain ⟨there, lives⟩ := here x (List.mem_cons_of_mem b mem)
      have other : x.uid ≠ b.uid := fun eq => new (List.mem_map.mpr ⟨x, mem, eq⟩)
      exact ⟨(goes.others x.uid (by simpa using other)).trans there, lives⟩) alone
    refine ⟨goes.cons on, fun x mem => ?_⟩
    rcases List.mem_cons.mp mem with rfl | rest
    · exact gone.evicts new on
    · exact later x rest

/-- R206: of each block that lives a record is asked for. -/
theorem recorded_foldl (cause detail : Nat) (live : List Block) (s : State) :
    let t := live.foldl (fun s b => raiseFault s { blockFault s b cause detail 0 0 with inert := b.replayable }) s
    (∃ q, t = { s with faultQ := s.faultQ ++ q }) ∧ ∀ b ∈ live, ∃ r ∈ t.faultQ, tellsOf b cause detail r := by
  induction live using List.reverseRecOn with
  | nil => exact ⟨⟨[], by simp⟩, nofun⟩
  | append_singleton live b ih =>
    obtain ⟨⟨q, eq⟩, told⟩ := ih
    rw [List.foldl_append, List.foldl_cons, List.foldl_nil]
    refine ⟨⟨q ++ [{ blockFault s b cause detail 0 0 with inert := b.replayable }], ?_⟩, fun x mem => ?_⟩
    · rw [eq, ← List.append_assoc]
      rfl
    · rcases List.mem_append.mp mem with old | new
      · obtain ⟨r, there, tells⟩ := told x old
        exact ⟨r, List.mem_append_left _ there, tells⟩
      · rw [List.mem_singleton.mp new]
        exact ⟨_, List.mem_append_right _ (List.mem_singleton_self _), rfl, rfl, rfl, rfl, rfl, rfl⟩

/-- R206: blocks that lose their core are each relaunched or killed, with a record. -/
theorem evictBlocks_evicted {s : State} (plain : Plain s) {bs : List Block} (here : ∀ b ∈ bs, s.block? b.uid = some b)
    (alone : (bs.map (·.uid)).Nodup) (cause detail : Nat) {b : Block} (mem : b ∈ bs) (lives : b.over = false) :
    Evicted b (evictBlocks s bs cause detail) ∧ ∃ r ∈ (evictBlocks s bs cause detail).faultQ, tellsOf b cause detail r := by
  have picked : b ∈ bs.filter (fun b => !b.over) := List.mem_filter.mpr ⟨mem, by simp [lives]⟩
  obtain ⟨⟨q, eq⟩, told⟩ := recorded_foldl cause detail (bs.filter (fun b => !b.over)) s
  obtain ⟨r, there, tells⟩ := told b picked
  have living : ∀ x ∈ bs.filter (fun b => !b.over), s.block? x.uid = some x ∧ x.over = false := fun x mem => by
    obtain ⟨old, lives⟩ := List.mem_filter.mp mem
    exact ⟨here x old, by simpa using lives⟩
  obtain ⟨goes, gone⟩ := evicted_foldl (bs.filter (fun b => !b.over)) (s := { s with faultQ := s.faultQ ++ q }) plain living
    (alone.sublist (List.filter_sublist.map _))
  rw [eq] at there
  obtain ⟨i, kept⟩ := goes.keeps.records r there
  unfold evictBlocks
  dsimp only at eq ⊢
  rw [eq]
  exact ⟨gone b picked, _, kept, tells⟩

end Sys2Proof.Machine
end

section
/-! PROOFS. Chorus (R204 to R206): checks, a first mismatch, and the fence that a second one brings. O38. -/
namespace Sys2Proof.Machine
open Sys2Proof.Laws Sys2Proof.Claim

/-! ### The error log and the partitions -/

/-- The clock, the cores, the residents, the joins, the launches and the records. -/
def unlogged (s : State) : Nat × List (Nat × CoreSt) × List Gang × List Block × List Join × List Launch × List FaultReq :=
  (s.cycle, s.cores, s.gangs, s.blocks, s.joins, s.launches, s.faultQ)

theorem unlogged_elogWrite (s : State) (kind place detail : Nat) : unlogged (elogWrite s kind place detail) = unlogged s :=
  elogWrite_keeps unlogged (fun _ _ _ _ _ _ _ _ => rfl) (fun _ _ _ _ _ => rfl) s kind place detail

theorem elogWrite_core (s : State) (kind place detail c : Nat) : (elogWrite s kind place detail).core c = s.core c :=
  congrArg (fun x : Nat × List (Nat × CoreSt) × _ => tabGet CoreSt.reset x.2.1 c) (unlogged_elogWrite s kind place detail)

/-- R391: an entry is written, or counted. -/
theorem elog_elogWrite (s : State) (kind place detail : Nat) :
    (elogWrite s kind place detail).elog.tail = s.elog.tail + 1 ∨ (elogWrite s kind place detail).elog.ovf = s.elog.ovf + 1 := by
  have noticed (t : State) : (setNotice t 1).elog = t.elog := by
    obtain ⟨n, x, frame⟩ := setNotice_frame t 1
    rw [frame]
  unfold elogWrite
  dsimp only
  split
  · exact .inr rfl
  · split
    · exact .inr rfl
    · rw [noticed]
      exact .inl rfl

/-! ### What a check does (R204) -/

/-- R204: a check of a class has used the partition's cycle. -/
def chorusSeen (s : State) (core part cls : Nat) : State :=
  (useCycle (partTurn s core part) core part).modCore core (fun c =>
    c.modPart part (fun p => { p with chorus := p.chorus.set cls (partTurn s core part).cycle }))

theorem modCore_modCore_frame (s : State) (c d : Nat) (f f' : CoreSt → CoreSt) :
    (s.modCore c f).modCore d f' = { s with cores := ((s.modCore c f).modCore d f').cores } := rfl

theorem chorusSeen_frame (s : State) (core part cls : Nat) :
    chorusSeen s core part cls = { partTurn s core part with cores := (chorusSeen s core part cls).cores } :=
  modCore_modCore_frame (partTurn s core part) ..

/-- R204: beside the clock and its partitions, a check changes nothing. -/
theorem chorusSeen_rest (s : State) (core part cls : Nat) :
    let t := chorusSeen s core part cls
    t.gangs = s.gangs ∧ t.blocks = s.blocks ∧ t.joins = s.joins ∧ t.launches = s.launches ∧ t.elog = s.elog ∧
      t.cycle = (partTurn s core part).cycle := by
  obtain ⟨n, frame⟩ := partTurn_frame s core part
  rw [chorusSeen_frame, frame]
  exact ⟨rfl, rfl, rfl, rfl, rfl, rfl⟩

theorem chorusSeen_part (s : State) {core part : Nat} (here : part < (s.core core).parts.length) (cls : Nat) :
    part < ((chorusSeen s core part cls).core core).parts.length ∧
    ((chorusSeen s core part cls).core core).part part =
      { (s.core core).part part with busy := (partTurn s core part).cycle
                                     chorus := ((s.core core).part part).chorus.set cls (partTurn s core part).cycle } := by
  have here1 : part < ((partTurn s core part).core core).parts.length := by rwa [partTurn_core]
  have here2 : part < ((useCycle (partTurn s core part) core part).core core).parts.length := by rwa [useCycle, modCore_modPart_length]
  refine ⟨by rwa [chorusSeen, modCore_modPart_length], ?_⟩
  rw [chorusSeen, part_modCore_modPart _ here2, useCycle_part _ here1, partTurn_core]

theorem chorusSeen_fenced (s : State) (core part cls : Nat) : ((chorusSeen s core part cls).core core).fenced = (s.core core).fenced := by
  rw [chorusSeen, core_modCore_self, useCycle, core_modCore_self, partTurn_core]
  rfl

theorem exec_chorusCheck {s : State} {core part cls : Nat} (low : cls < 8) (usable : partUsable s core part = true)
    (idle : issuingGang s core part = none) (results : List W64) :
    exec (.chorusCheck core part cls results) s = .next (if chorusOk s cls results then chorusSeen s core part cls
      else chorusMismatch (chorusSeen s core part cls) core part) := by
  have runs : exec (.chorusCheck core part cls results) s = execChorusCheck core part cls results s := rfl
  rw [runs, execChorusCheck]
  simp only [usable, idle, Nat.not_le.mpr low, decide_false, Option.isSome_none, Bool.not_true, Bool.or_self, Bool.false_eq_true, if_false]
  rfl

theorem chorusOk_iff {s : State} {cls : Nat} {results : List W64} :
    chorusOk s cls results = true ↔ ∀ l, l < 32 → results[l]? = s.chorusSigs[cls]? := by
  simp [chorusOk]

/-! ### A mismatch (R205) -/

/-- R205: a mismatch as it is noted: an entry in the error log, a report confined to the partition, the cycle kept. -/
def mismatchNoted (s : State) (core part : Nat) : State :=
  (strikeGangs (elogWrite s 3 0 (core * 256 + part)) ((partGangs (elogWrite s 3 0 (core * 256 + part)) core part).map (·.uid))).modCore core
    (fun c => c.modPart part (fun p => { p with mismatch := some s.cycle }))

theorem chorusMismatch_first {s : State} {core part : Nat} (first : ((s.core core).part part).mismatch = none) :
    chorusMismatch s core part = mismatchNoted s core part := by
  simp only [chorusMismatch, first]
  rfl

theorem chorusMismatch_again {s : State} {core part m : Nat} (before : ((s.core core).part part).mismatch = some m) (soon : s.cycle ≤ m + 2000000) :
    chorusMismatch s core part = fencePartition (mismatchNoted s core part) core part := by
  simp only [chorusMismatch, before, mismatchWindow, Option.map_some, Option.getD_some, soon, decide_true, if_true]
  rfl

theorem mismatchNoted_spec (s : State) (core part : Nat) :
    (part < (s.core core).parts.length →
      ((mismatchNoted s core part).core core).part part = { (s.core core).part part with mismatch := some s.cycle }) ∧
    ((mismatchNoted s core part).core core).fenced = (s.core core).fenced ∧
    ((mismatchNoted s core part).elog.tail = s.elog.tail + 1 ∨ (mismatchNoted s core part).elog.ovf = s.elog.ovf + 1) := by
  have struck := undisturbed_strikeGangs (elogWrite s 3 0 (core * 256 + part))
    ((partGangs (elogWrite s 3 0 (core * 256 + part)) core part).map (·.uid))
  simp only [undisturbed, Prod.mk.injEq] at struck
  obtain ⟨-, elog, cores⟩ := struck
  obtain ⟨fenced, parts⟩ := Prod.mk.inj (congrFun cores core)
  rw [elogWrite_core] at fenced parts
  refine ⟨fun here => ?_, ?_, ?_⟩
  · rw [mismatchNoted, part_modCore_modPart _ (parts.symm ▸ here)]
    simp only [CoreSt.part, parts]
  · rw [mismatchNoted, core_modCore_self]
    exact fenced
  · rw [mismatchNoted, modCore_elog, elog]
    exact elog_elogWrite ..

section noted
variable {s : State} {core part : Nat} (alone : (s.gangs.map (·.uid)).Nodup)
  (live : ∀ g ∈ s.gangs, g.core = core ∧ g.part = part → ∀ r ∈ g.runs, s.cycle ≤ r.endCycle + 40)
include alone live

/-- R205: the report of a mismatch puts back the gangs of the partition alone. -/
theorem mismatchNoted_residents :
    (mismatchNoted s core part).gangs = s.gangs.map (fun x => if x.core == core && x.part == part then x.replay s.cycle else x) ∧
    (mismatchNoted s core part).blocks = s.blocks.map (Block.unmeetAll (partGangs s core part)) ∧
    (mismatchNoted s core part).joins = s.joins ∧ (mismatchNoted s core part).launches = s.launches := by
  have logged := unlogged_elogWrite s 3 0 (core * 256 + part)
  simp only [unlogged, Prod.mk.injEq] at logged
  obtain ⟨cycle, -, gangs, blocks, joins, launches, -⟩ := logged
  obtain ⟨gangs1, blocks1, joins1, launches1⟩ := strikeGangs_residents (s := elogWrite s 3 0 (core * 256 + part))
    (p := fun g => g.core == core && g.part == part) (by rwa [gangs]) (fun g mem on => by
      rw [cycle]
      exact live g (gangs ▸ mem) (by simpa using on))
  rw [gangs, cycle] at gangs1
  rw [gangs, blocks] at blocks1
  rw [gangs] at joins1 launches1
  rw [mismatchNoted, modCore_gangs, modCore_blocks, modCore_joins, modCore_launches, partGangs, partGangs, gangs]
  exact ⟨gangs1, blocks1, joins1.trans joins, launches1.trans launches⟩

theorem gang?_mismatchNoted {g : Gang} (mem : g ∈ s.gangs) :
    (mismatchNoted s core part).gang? g.uid = some (if g.core == core && g.part == part then g.replay s.cycle else g) := by
  obtain ⟨gangs, -⟩ := mismatchNoted_residents alone live
  rw [gang?_mapGangs gangs, gang?_of_mem alone mem]
  · rfl
  · intro x
    split
    · exact replay_uid x s.cycle
    · rfl

end noted

/-! ### A fence (R206) -/

/-- Changing each block by what keeps its number and reading one gives the change, where each number names one. -/
theorem block?_of_map {s t : State} {f : Block → Block} (blocks : t.blocks = s.blocks.map f) (keeps : ∀ b, (f b).uid = b.uid)
    (named : (s.blocks.map (·.uid)).Nodup) {b : Block} (mem : b ∈ s.blocks) : t.block? b.uid = some (f b) := by
  have same : (fun x : Block => x.uid == b.uid) ∘ f = fun x => x.uid == b.uid := funext fun x => by rw [Function.comp_apply, keeps]
  rw [State.block?, blocks, List.find?_map, same]
  cases found : s.blocks.find? (fun x => x.uid == b.uid) with
  | none => exact absurd (beq_self_eq_true b.uid) (List.find?_eq_none.mp found b mem)
  | some x => rw [Option.map_some, ← eq_of_block? named found mem rfl]

/-- R206: a partition that is fenced, its gangs still there. -/
def fenceRaised (s : State) (core part : Nat) : State :=
  elogWrite ((strikeGangs s ((partGangs s core part).map (·.uid))).modCore core (fun c => { c with fenced := c.fenced ||| (1#16 <<< part) })) 4 0
    (core * 256 + part)

theorem fencePartition_eq (s : State) (core part : Nat) : fencePartition s core part = evictBlocks (fenceRaised s core part)
    ((s.blocks.filter (fun b => (partGangs s core part).any (fun g => g.block == b.uid))).filterMap (fun b => (fenceRaised s core part).block? b.uid))
    0x26 part := rfl

/-- R206: a fenced partition issues no more. -/
theorem fencePartition_fenced (s : State) (core part : Nat) :
    ((fencePartition s core part).core core).fenced = (s.core core).fenced ||| (1#16 <<< part) := by
  have kept (t : State) (bs : List Block) : ((evictBlocks t bs 0x26 part).core core).fenced = (t.core core).fenced :=
    congrArg (fun x => (x.2.2 core).1) (spared_evictBlocks t bs 0x26 part)
  have struck := congrArg (fun x => (x.2.2 core).1) (undisturbed_strikeGangs s ((partGangs s core part).map (·.uid)))
  rw [fencePartition_eq, kept, fenceRaised, elogWrite_core, core_modCore_self]
  exact congrArg (· ||| _) struck

/-- R206: of a partition with no run to discard, each block with a gang there is evicted. -/
theorem fencePartition_evicts {s : State} {core part : Nat} (alone : (s.gangs.map (·.uid)).Nodup) (named : (s.blocks.map (·.uid)).Nodup)
    (still : ∀ g ∈ s.gangs, (g.core == core && g.part == part) = true → g.runs = []) (plain : Plain s) {b : Block} (mem : b ∈ s.blocks)
    (lives : b.over = false) (held : ∃ g ∈ partGangs s core part, g.block = b.uid) :
    let b' := b.unmeetAll (partGangs s core part)
    Evicted b' (fencePartition s core part) ∧ ∃ r ∈ (fencePartition s core part).faultQ, tellsOf b' 0x26 part r := by
  obtain ⟨-, blocks1, joins1, launches1⟩ := strikeGangs_residents alone (p := fun g => g.core == core && g.part == part)
    (fun g mem on => by rw [still g mem on]; nofun)
  have logged := unlogged_elogWrite ((strikeGangs s ((partGangs s core part).map (·.uid))).modCore core
    (fun c => { c with fenced := c.fenced ||| (1#16 <<< part) })) 4 0 (core * 256 + part)
  simp only [unlogged, Prod.mk.injEq] at logged
  obtain ⟨-, -, -, blocks, joins, launches, -⟩ := logged
  have found (x : Block) (there : x ∈ s.blocks) :
      (fenceRaised s core part).block? x.uid = some (x.unmeetAll (partGangs s core part)) :=
    block?_of_map (blocks.trans blocks1) (fun _ => rfl) named there
  have plain' : Plain (fenceRaised s core part) :=
    ⟨(joins.trans joins1).trans plain.1, fun l there => plain.2 l ((launches.trans launches1) ▸ there)⟩
  have listed : ((s.blocks.filter (fun b => (partGangs s core part).any (fun g => g.block == b.uid))).filterMap
      (fun b => (fenceRaised s core part).block? b.uid)) =
      (s.blocks.filter (fun b => (partGangs s core part).any (fun g => g.block == b.uid))).map (Block.unmeetAll (partGangs s core part)) := by
    rw [← List.filterMap_eq_map]
    exact List.filterMap_congr fun x there => found x (List.mem_of_mem_filter there)
  rw [fencePartition_eq, listed]
  refine evictBlocks_evicted plain' ?here ?alone 0x26 part (List.mem_map_of_mem (List.mem_filter.mpr ⟨mem, by simpa using held⟩)) lives
  case here =>
    intro x there
    obtain ⟨y, old, rfl⟩ := List.mem_map.mp there
    exact found y (List.mem_of_mem_filter old)
  case alone =>
    rw [List.map_map]
    exact named.sublist (List.filter_sublist.map _)

/-- R206: a mismatch noted and the partition fenced: each block with a gang there is evicted. -/
theorem mismatchFenced_evicts {s : State} {core part : Nat} (alone : (s.gangs.map (·.uid)).Nodup) (named : (s.blocks.map (·.uid)).Nodup)
    (live : ∀ g ∈ s.gangs, g.core = core ∧ g.part = part → ∀ r ∈ g.runs, s.cycle ≤ r.endCycle + 40) (plain : Plain s) {b : Block}
    (mem : b ∈ s.blocks) (lives : b.over = false) (held : ∃ g ∈ s.gangs, (g.core = core ∧ g.part = part) ∧ g.block = b.uid) :
    let t := fencePartition (mismatchNoted s core part) core part
    ∃ met, Evicted { b with consumption := met } t ∧ ∃ r ∈ t.faultQ, tellsOf b 0x26 part r := by
  obtain ⟨gangs, blocks, joins, launches⟩ := mismatchNoted_residents alone live
  have seat (x : Gang) : (if x.core == core && x.part == part then x.replay s.cycle else x).seat = x.seat := by
    split
    · exact replay_seat x s.cycle
    · rfl
  have alone' : ((mismatchNoted s core part).gangs.map (·.uid)).Nodup := by
    rw [gangs, List.map_map]
    exact (List.map_congr_left (fun x _ => congrArg (·.1) (seat x))) ▸ alone
  have named' : ((mismatchNoted s core part).blocks.map (·.uid)).Nodup := by
    rw [blocks, List.map_map]
    exact named
  have still : ∀ g ∈ (mismatchNoted s core part).gangs, (g.core == core && g.part == part) = true → g.runs = [] := by
    intro g there on
    obtain ⟨x, -, rfl⟩ := List.mem_map.mp (gangs ▸ there)
    have on' : (x.core == core && x.part == part) = true := congrArg (fun y => y.2.1 == core && y.2.2.1 == part) (seat x) ▸ on
    rw [if_pos on']
    exact (List.append_eq_nil_iff.mp (liveRuns_replay x s.cycle)).1
  have held' : ∃ g ∈ partGangs (mismatchNoted s core part) core part, g.block = b.uid := by
    obtain ⟨g, there, on, block⟩ := held
    have on' : (g.core == core && g.part == part) = true := by simpa using on
    refine ⟨_, List.mem_filter.mpr ⟨gangs ▸ List.mem_map_of_mem there, ?_⟩, (congrArg (·.2.2.2) (seat g)).trans block⟩
    exact (congrArg (fun y => y.2.1 == core && y.2.2.1 == part) (seat g)).trans on'
  have plain' : Plain (mismatchNoted s core part) := ⟨joins.trans plain.1, launches ▸ plain.2⟩
  have mem' : b.unmeetAll (partGangs s core part) ∈ (mismatchNoted s core part).blocks := blocks ▸ List.mem_map_of_mem mem
  exact ⟨_, fencePartition_evicts alone' named' still plain' (b := b.unmeetAll (partGangs s core part)) mem' lives held'⟩

/-! ### Chorus (R204 to R206) -/

section check
variable {s : State} {core part cls : Nat} (here : part < (s.core core).parts.length) (low : cls < 8) (usable : partUsable s core part = true)
  (idle : issuingGang s core part = none) {results : List W64}
include low usable idle

theorem exec_chorusCheck_of_mismatch (wrong : ¬ ∀ l, l < 32 → results[l]? = s.chorusSigs[cls]?) :
    exec (.chorusCheck core part cls results) s = .next (chorusMismatch (chorusSeen s core part cls) core part) := by
  rw [exec_chorusCheck low usable idle, if_neg (fun ok => wrong (chorusOk_iff.mp ok))]

include here

theorem exec_chorusCheck_of_first (wrong : ¬ ∀ l, l < 32 → results[l]? = s.chorusSigs[cls]?)
    (first : ((s.core core).part part).mismatch = none) :
    exec (.chorusCheck core part cls results) s = .next (mismatchNoted (chorusSeen s core part cls) core part) := by
  rw [exec_chorusCheck_of_mismatch low usable idle wrong, chorusMismatch_first]
  rw [(chorusSeen_part s here cls).2]
  exact first

theorem exec_chorusCheck_of_again (wrong : ¬ ∀ l, l < 32 → results[l]? = s.chorusSigs[cls]?) {m : Nat}
    (before : ((s.core core).part part).mismatch = some m) (soon : (partTurn s core part).cycle ≤ m + 2000000) :
    exec (.chorusCheck core part cls results) s = .next (fencePartition (mismatchNoted (chorusSeen s core part cls) core part) core part) := by
  obtain ⟨-, -, -, -, -, cycle⟩ := chorusSeen_rest s core part cls
  have before' : (((chorusSeen s core part cls).core core).part part).mismatch = some m := by
    rw [(chorusSeen_part s here cls).2]
    exact before
  have soon' : (chorusSeen s core part cls).cycle ≤ m + 2000000 := by rwa [cycle]
  rw [exec_chorusCheck_of_mismatch low usable idle wrong, chorusMismatch_again before' soon']

end check

theorem chorusChecks : Claim.chorusChecks := by
  intro s core part cls here
  refine ⟨fun late => ?due, fun early => ?notDue, fun results low usable idle => ?check⟩
  case due =>
    obtain ⟨c, mem, late⟩ := late
    have due : ((s.core core).part part).chorus.any (fun c => decide (c + chorusDue ≤ s.cycle)) = true :=
      List.any_eq_true.mpr ⟨c, mem, decide_eq_true late⟩
    have runs : exec (.chorusCheckDue core part) s = .next (s.modCore core (fun c => c.modPart part (fun p => { p with leaveEmpty := true }))) :=
      congrArg Host.Outcome.next (if_pos due)
    exact ⟨_, runs, rfl, part_modCore_modPart s here _⟩
  case notDue =>
    have early' : ¬ ((s.core core).part part).chorus.any (fun c => decide (c + chorusDue ≤ s.cycle)) = true := by
      rw [List.any_eq_true]
      rintro ⟨c, mem, late⟩
      exact absurd (early c mem) (Nat.not_lt.mpr (of_decide_eq_true late))
    exact congrArg Host.Outcome.next (if_neg early')
  case check =>
    intro s1 seen ok
    obtain ⟨here1, part1⟩ := chorusSeen_part s here cls
    obtain ⟨gangs, blocks, joins, launches, elog, cycle⟩ := chorusSeen_rest s core part cls
    have live1 (live : ∀ g ∈ s.gangs, g.core = core ∧ g.part = part → ∀ r ∈ g.runs, s1.cycle ≤ r.endCycle + 40) :
        ∀ g ∈ (chorusSeen s core part cls).gangs, g.core = core ∧ g.part = part → ∀ r ∈ g.runs,
          (chorusSeen s core part cls).cycle ≤ r.endCycle + 40 := by
      rw [gangs, cycle]
      exact live
    refine ⟨fun agrees => ?passes, fun wrong first => ?noted, fun wrong first alone live => ?back, fun m wrong before soon => ?fenced⟩
    case passes =>
      have runs := exec_chorusCheck low usable idle results
      rw [if_pos (chorusOk_iff.mpr agrees)] at runs
      exact ⟨_, runs, chorusSeen_frame .., part1⟩
    case noted =>
      obtain ⟨part2, fenced, logged⟩ := mismatchNoted_spec (chorusSeen s core part cls) core part
      refine ⟨_, exec_chorusCheck_of_first here low usable idle wrong first, (part2 here1).trans ?_, fenced.trans (chorusSeen_fenced ..), ?_⟩
      · rw [part1, cycle]
      · rwa [elog] at logged
    case back =>
      have gang? {g : Gang} (mem : g ∈ s.gangs) := gang?_mismatchNoted (core := core) (part := part) (by rwa [gangs]) (live1 live)
        (gangs ▸ mem : g ∈ _)
      refine ⟨_, exec_chorusCheck_of_first here low usable idle wrong first, fun g mem off => ?_, fun g mem on r rest runs => ?_⟩
      · rw [gang? mem, if_neg (by simpa using off)]
      · exact ⟨g.replay s1.cycle, (gang? mem).trans (by rw [if_pos (by simpa using on), cycle]), replay_putBack runs⟩
    case fenced =>
      refine ⟨_, exec_chorusCheck_of_again here low usable idle wrong before soon, ?_, fun alone named live none apart b mem lives held => ?_⟩
      · obtain ⟨-, fenced, -⟩ := mismatchNoted_spec (chorusSeen s core part cls) core part
        rw [fencePartition_fenced, fenced, chorusSeen_fenced]
      · obtain ⟨met, ⟨again, ended, gone⟩, told⟩ := mismatchFenced_evicts (s := chorusSeen s core part cls) (by rwa [gangs])
          (by rwa [blocks]) (live1 live) ⟨joins.trans none, launches ▸ apart⟩ (blocks ▸ mem) lives (gangs ▸ held)
        refine ⟨fun fresh => ?_, ended, gone, told⟩
        obtain ⟨quad, there⟩ := again fresh
        have spent : b.commits = 0 := by simpa using (Bool.and_eq_true_iff.mp fresh).1
        exact ⟨_, there, rfl, rfl, rfl, spent⟩

/-- Settles O38, by its two parts: strike reports, and Chorus. -/
theorem replayAndChorus : Obligations.ReplayAndChorus := ⟨strikeReportsReplay, chorusChecks⟩

end Sys2Proof.Machine
end
